-- ==== Sys2Proof/Word.lean ====
section
/-! DEFINITION. The machine's words and numbers (R2, R34, R36): plain abbreviations of bit vectors, so that the bit-vector
lemmas of the library apply. -/

namespace Sys2Proof

/-- A byte. -/
abbrev Byte := BitVec 8
/-- A scalar word: a g register, a virtual address, a 64-bit memory value. -/
abbrev Word := BitVec 64
/-- A vector register or a 64-byte line. -/
abbrev Vec := BitVec 512
/-- A physical address (R11: 52 bits). -/
abbrev PAddr := BitVec 52
/-- A register field naming a g register, a v register or a queue port (R36, R37). -/
abbrev GReg := BitVec 5
/-- A predicate number (R36). -/
abbrev PReg := BitVec 3
/-- A guard code (R39) or guard-slot code (R40). -/
abbrev Guard := BitVec 4
/-- A CORENUM (R20): die × 256 + cluster × 16 + core. -/
abbrev CoreId := BitVec 10
/-- A desk of a core (R15). -/
abbrev DeskId := BitVec 2
/-- A partition number (R363). -/
abbrev PartId := BitVec 14
/-- A cause code (R11: 9 bits). -/
abbrev Cause := BitVec 9

end Sys2Proof
end

