-- ==== Sys2Proof/Machine/Float.lean ====
section
/-! DEFINITION. Floating-point numbers and their rounding (R51 to R60).  A finite value is held exactly as sign, magnitude
`m` and exponent `e`, meaning (-1)^neg * m * 2^e; a value that is not dyadic (a quotient, a root, a transcendental result) is
held as its magnitude cut below, with a mark that some part of the magnitude lies beyond the cut. -/

namespace Sys2Proof.Machine

/-- The floating-point formats of R51. -/
inductive Fmt where
  /-- IEEE binary32 -/
  | f32
  /-- the upper half of binary32 -/
  | bf16
  /-- IEEE binary16 -/
  | f16
  /-- OCP E4M3 -/
  | e4m3
  /-- OCP E5M2 -/
  | e5m2
  deriving DecidableEq, Repr

/-- Width in bits. -/
def Fmt.width : Fmt → Nat
  | .f32 => 32 | .bf16 => 16 | .f16 => 16 | .e4m3 => 8 | .e5m2 => 8
/-- Fraction bits. -/
def Fmt.frac : Fmt → Nat
  | .f32 => 23 | .bf16 => 7 | .f16 => 10 | .e4m3 => 3 | .e5m2 => 2
/-- Exponent bias. -/
def Fmt.bias : Fmt → Nat
  | .f32 => 127 | .bf16 => 127 | .f16 => 15 | .e4m3 => 7 | .e5m2 => 15
/-- The pattern of the largest finite value. -/
def Fmt.maxFin : Fmt → Nat
  | .f32 => 0x7F7FFFFF | .bf16 => 0x7F7F | .f16 => 0x7BFF | .e4m3 => 0x7E | .e5m2 => 0x7B
/-- The canonical NaN, sign 0 (R52). -/
def Fmt.nan : Fmt → Nat
  | .f32 => 0x7FC00000 | .bf16 => 0x7FC0 | .f16 => 0x7E00 | .e4m3 => 0x7F | .e5m2 => 0x7E
/-- The pattern of +infinity; E4M3 has none, and its entry is not used. -/
def Fmt.inf : Fmt → Nat
  | .f32 => 0x7F800000 | .bf16 => 0x7F80 | .f16 => 0x7C00 | .e4m3 => 0x7F | .e5m2 => 0x7C
/-- Exponent of the smallest subnormal. -/
def Fmt.qmin (f : Fmt) : Int := 1 - (f.bias : Int) - (f.frac : Int)
/-- An 8-bit format. -/
def Fmt.is8 : Fmt → Bool
  | .e4m3 | .e5m2 => true
  | _ => false

/-- A value of a floating-point format. -/
inductive FVal where
  /-- a NaN, signalling or quiet (R52) -/
  | nan (sig : Bool)
  /-- an infinity -/
  | inf (neg : Bool)
  /-- (-1)^neg * m * 2^e -/
  | num (neg : Bool) (m : Nat) (e : Int)
  deriving DecidableEq, Repr

/-- The bits of FFLAGS (R61). -/
abbrev FFlags := BitVec 6
/-- NV -/
def flNV : FFlags := 1
/-- DZ -/
def flDZ : FFlags := 2
/-- OF -/
def flOF : FFlags := 4
/-- UF -/
def flUF : FFlags := 8
/-- NX -/
def flNX : FFlags := 16
/-- NF -/
def flNF : FFlags := 32

/-- A rounded result: its pattern and the flags it raises. -/
structure FRes where
  /-- pattern -/
  bits : Nat
  /-- flags -/
  fl : FFlags
  deriving DecidableEq, Repr

/-- How one rounding is taken: FRM's MODE and SAT (R55) and the 16 generator bits `g` of a stochastic rounding (R57). -/
structure Rm where
  /-- 0 RNE, 1 RTZ, 2 RDN, 3 RUP, 4 stochastic -/
  mode : BitVec 3 := 0
  /-- FRM.SAT -/
  sat : Bool := false
  /-- bits [63:48] of the generator after its advance -/
  g : Nat := 0
  deriving DecidableEq, Repr

/-- Round to nearest, ties to even. -/
def rne : Rm := {}

/-- One advance of the stochastic generator (R57). -/
def srNext (x : Word) : Word :=
  let x := x ^^^ (x <<< 13)
  let x := x ^^^ (x >>> 7)
  x ^^^ (x <<< 17)

/-- Bits needed to write `m`. -/
def bitLen (m : Nat) : Nat := if m = 0 then 0 else m.log2 + 1

/-- The value that a pattern of a format stands for (R51, R52). -/
def Fmt.value (f : Fmt) (x : Nat) : FVal :=
  let neg := x / 2 ^ (f.width - 1) % 2 = 1
  let fr := x % 2 ^ f.frac
  let ex := x % 2 ^ (f.width - 1) / 2 ^ f.frac
  let top := ex = 2 ^ (f.width - 1 - f.frac) - 1
  let sig := !f.is8 && fr < 2 ^ (f.frac - 1)
  match f with
  | .e4m3 =>
    if top ∧ fr = 7 then .nan false
    else if ex = 0 then .num neg fr f.qmin else .num neg (fr + 8) (f.qmin + (ex - 1))
  | _ =>
    if top then (if fr = 0 then .inf neg else .nan sig)
    else if ex = 0 then .num neg fr f.qmin
    else .num neg (fr + 2 ^ f.frac) (f.qmin + ((ex : Int) - 1))

/-- The pattern of a signed magnitude pattern. -/
def Fmt.signed (f : Fmt) (neg : Bool) (x : Nat) : Nat := if neg then x + 2 ^ (f.width - 1) else x

/-- A magnitude cut at the quantum 2^q: the whole quanta, the top 16 bits below the quantum, and whether anything else lies
below. -/
def cutAt (m : Nat) (e : Int) (st : Bool) (q : Int) : Nat × Nat × Bool :=
  if q ≤ e then (m * 2 ^ (e - q).toNat, 0, st)
  else
    let s := (q - e).toNat
    let r := m % 2 ^ s * 65536
    (m / 2 ^ s, r / 2 ^ s, st || r % 2 ^ s != 0)

/-- Whether a rounding steps up from the whole quanta `n` (R56 step 1, R57 step 5). -/
def stepsUp (r : Rm) (neg : Bool) (n t : Nat) (rest : Bool) : Bool :=
  let inexact := t != 0 || rest
  if r.mode = 0#3 then t > 0x8000 || (t == 0x8000 && (rest || n % 2 == 1))
  else if r.mode = 1#3 then false
  else if r.mode = 2#3 then neg && inexact
  else if r.mode = 3#3 then !neg && inexact
  else decide (0x10000 ≤ t + r.g)

/-- The result of an overflow (R56 step 2, R60). -/
def Fmt.overflow (f : Fmt) (r : Rm) (neg : Bool) : Nat :=
  if f.is8 then
    if r.sat then f.signed neg f.maxFin
    else if f = .e4m3 then f.nan else f.signed neg f.inf
  else if r.mode = 1#3 ∨ (r.mode = 2#3 ∧ !neg) ∨ (r.mode = 3#3 ∧ neg) then f.signed neg f.maxFin
  else f.signed neg f.inf

/-- `Round` of R56 and R57: the magnitude m * 2^e, or, with `st`, a magnitude strictly between that and (m + 1) * 2^e. -/
def Fmt.round (f : Fmt) (r : Rm) (neg : Bool) (m : Nat) (e : Int) (st : Bool) : FRes :=
  if m = 0 ∧ !st then ⟨f.signed neg 0, 0⟩
  else
    let m := max m 1
    let lg : Int := (m.log2 : Int) + e
    let q0 := lg - f.frac
    let q := max q0 f.qmin
    let (n, t, rest) := cutAt m e st q
    let n' := if stepsUp r neg n t rest then n + 1 else n
    let bits := (q - f.qmin).toNat * 2 ^ f.frac + n'
    let inexact := t != 0 || rest
    if f.maxFin < bits then ⟨f.overflow r neg, flOF ||| flNX⟩
    else
      let (n0, t0, rest0) := cutAt m e st q0
      let tiny := q0 < f.qmin ∧
        ¬ (q0 + 1 = f.qmin ∧ (if stepsUp r neg n0 t0 rest0 then n0 + 1 else n0) = 2 ^ (f.frac + 1))
      ⟨f.signed neg bits, (if inexact then flNX else 0) ||| (if inexact ∧ tiny then flUF else 0)⟩

/-- The flag of a signalling NaN among the operands (R52). -/
def FVal.sigFlag : FVal → FFlags
  | .nan true => flNV
  | _ => 0
/-- A NaN of either kind. -/
def FVal.isNan : FVal → Bool
  | .nan _ => true
  | _ => false
/-- Sign changed; a NaN stays as it is. -/
def FVal.negate : FVal → FVal
  | .nan s => .nan s
  | .inf n => .inf (!n)
  | .num n m e => .num (!n) m e
/-- Signed integer value at exponent `e0`, at most the value's own exponent. -/
def scaledInt (neg : Bool) (m : Nat) (e e0 : Int) : Int :=
  let k : Int := (m : Int) * 2 ^ (e - e0).toNat
  if neg then -k else k

/-- An exact real or extended-real result, and whether it is an invalid operation (R52). -/
structure Exact where
  /-- value -/
  v : FVal
  /-- NV -/
  nv : FFlags := 0
  deriving DecidableEq, Repr

/-- Exact sum (R52, R56 step 4); `rdn` says that the rounding is towards minus infinity. -/
def exAdd (rdn : Bool) (a b : FVal) : Exact :=
  match a, b with
  | .nan _, _ => ⟨.nan false, a.sigFlag ||| b.sigFlag⟩
  | _, .nan _ => ⟨.nan false, a.sigFlag ||| b.sigFlag⟩
  | .inf n, .inf k => if n = k then ⟨.inf n, 0⟩ else ⟨.nan false, flNV⟩
  | .inf n, .num .. => ⟨.inf n, 0⟩
  | .num .., .inf n => ⟨.inf n, 0⟩
  | .num n m e, .num n' m' e' =>
    let e0 := min e e'
    let s := scaledInt n m e e0 + scaledInt n' m' e' e0
    if s = 0 then
      if m = 0 ∧ m' = 0 then ⟨.num (if n = n' then n else rdn) 0 e0, 0⟩
      else ⟨.num rdn 0 e0, 0⟩
    else ⟨.num (s < 0) s.natAbs e0, 0⟩

/-- Exact product (R52). -/
def exMul (a b : FVal) : Exact :=
  match a, b with
  | .nan _, _ => ⟨.nan false, a.sigFlag ||| b.sigFlag⟩
  | _, .nan _ => ⟨.nan false, a.sigFlag ||| b.sigFlag⟩
  | .inf n, .inf k => ⟨.inf (n != k), 0⟩
  | .inf n, .num k m _ => if m = 0 then ⟨.nan false, flNV⟩ else ⟨.inf (n != k), 0⟩
  | .num k m _, .inf n => if m = 0 then ⟨.nan false, flNV⟩ else ⟨.inf (n != k), 0⟩
  | .num n m e, .num n' m' e' => ⟨.num (n != n') (m * m') (e + e'), 0⟩

/-- An exact value rounded into a format; a NaN is canonical (R52), an infinity of an 8-bit format follows R60, also where source and
destination are one format (DEDUCED, log 138). -/
def Fmt.ofVal (f : Fmt) (r : Rm) : FVal → FRes
  | .nan _ => ⟨f.nan, 0⟩
  | .inf n => ⟨if f.is8 then f.overflow r n else f.signed n f.inf, 0⟩
  | .num n m e => f.round r n m e false

/-- An exact result rounded, with its own NV flag. -/
def Fmt.ofExact (f : Fmt) (r : Rm) (x : Exact) : FRes :=
  let y := f.ofVal r x.v
  ⟨y.bits, y.fl ||| x.nv⟩

/-- Towards minus infinity. -/
def Rm.rdn (r : Rm) : Bool := r.mode = 2#3

/-- a + b -/
def Fmt.add (f : Fmt) (r : Rm) (a b : Nat) : FRes := f.ofExact r (exAdd r.rdn (f.value a) (f.value b))
/-- a - b -/
def Fmt.sub (f : Fmt) (r : Rm) (a b : Nat) : FRes := f.ofExact r (exAdd r.rdn (f.value a) (f.value b).negate)
/-- a * b -/
def Fmt.mul (f : Fmt) (r : Rm) (a b : Nat) : FRes := f.ofExact r (exMul (f.value a) (f.value b))
/-- d + a * b, or d - a * b, with one rounding (R121).  A product of 0 and an infinity is invalid whatever `d` is (R52). -/
def Fmt.fma (f : Fmt) (r : Rm) (minus : Bool) (d a b : Nat) : FRes :=
  let p := exMul (f.value a) (f.value b)
  let s := exAdd r.rdn (f.value d) (if minus then p.v.negate else p.v)
  f.ofExact r ⟨s.v, s.nv ||| p.nv⟩

/-- a / b, cut 64 bits below the leading bit of the quotient (R121). -/
def Fmt.div (f : Fmt) (r : Rm) (a b : Nat) : FRes :=
  match f.value a, f.value b with
  | .nan s, y => ⟨f.nan, (FVal.nan s).sigFlag ||| y.sigFlag⟩
  | _, .nan s => ⟨f.nan, (FVal.nan s).sigFlag⟩
  | .inf _, .inf _ => ⟨f.nan, flNV⟩
  | .inf n, .num k _ _ => f.ofVal r (.inf (n != k))
  | .num n _ _, .inf k => f.ofVal r (.num (n != k) 0 0)
  | .num n m e, .num k m' e' =>
    if m' = 0 then if m = 0 then ⟨f.nan, flNV⟩ else ⟨(f.ofVal r (.inf (n != k))).bits, flDZ⟩
    else
      let sh := 64 + bitLen m'
      f.round r (n != k) (m * 2 ^ sh / m') (e - e' - sh) (m * 2 ^ sh % m' != 0)

/-- The whole part of the square root, by its bits from the highest. -/
def isqrtBits (m : Nat) : Nat → Nat → Nat
  | 0, r => r
  | k + 1, r => let r' := r + 2 ^ k; isqrtBits m k (if r' * r' ≤ m then r' else r)
/-- The whole part of the square root. -/
def isqrt (m : Nat) : Nat := isqrtBits m (bitLen m / 2 + 1) 0

/-- Square root (R123). -/
def Fmt.sqrt (f : Fmt) (r : Rm) (a : Nat) : FRes :=
  match f.value a with
  | .nan s => ⟨f.nan, (FVal.nan s).sigFlag⟩
  | .inf n => if n then ⟨f.nan, flNV⟩ else f.ofVal r (.inf false)
  | .num n m e =>
    if m = 0 then ⟨f.signed n 0, 0⟩
    else if n then ⟨f.nan, flNV⟩
    else
      let (m, e) := if e % 2 = 0 then (m, e) else (2 * m, e - 1)
      let x := m * 2 ^ 128
      let s := isqrt x
      f.round r false s (e / 2 - 64) (s * s != x)

/-- 1 / a (R123). -/
def Fmt.rcp (f : Fmt) (r : Rm) (a : Nat) : FRes :=
  match f.value a with
  | .nan s => ⟨f.nan, (FVal.nan s).sigFlag⟩
  | .inf n => ⟨f.signed n 0, 0⟩
  | .num n m e =>
    if m = 0 then ⟨f.signed n f.inf, flDZ⟩
    else
      let sh := 64 + bitLen m
      f.round r n (2 ^ sh / m) (-e - sh) (2 ^ sh % m != 0)

/-- 1 / √a (R123): an exact result sets no NX, under stochastic rounding too (log 117). -/
def Fmt.rsqrt (f : Fmt) (r : Rm) (a : Nat) : FRes :=
  match f.value a with
  | .nan s => ⟨f.nan, (FVal.nan s).sigFlag⟩
  | .inf n => if n then ⟨f.nan, flNV⟩ else ⟨0, 0⟩
  | .num n m e =>
    if m = 0 then ⟨f.signed n f.inf, flDZ⟩
    else if n then ⟨f.nan, flNV⟩
    else
      let (m, e) := if e % 2 = 0 then (m, e) else (2 * m, e - 1)
      let x := 2 ^ (2 * (64 + bitLen m))
      let s := isqrt (x / m)
      f.round r false s (-(e / 2) - (64 + bitLen m : Nat)) (s * s * m != x)

/-- Whether a < b in the order of R53's min and max: -0 below +0. -/
def FVal.below (a b : FVal) : Bool :=
  match a, b with
  | .nan _, _ => false
  | _, .nan _ => false
  | .inf n, .inf k => n && !k
  | .inf n, .num .. => n
  | .num .., .inf k => !k
  | .num n m e, .num k m' e' =>
    let e0 := min e e'
    let x := scaledInt n m e e0
    let y := scaledInt k m' e' e0
    x < y || (x == 0 && y == 0 && n && !k)

/-- Whether a = b as numbers: -0 equals +0, a NaN equals nothing (R53). -/
def FVal.equal (a b : FVal) : Bool :=
  match a, b with
  | .nan _, _ => false
  | _, .nan _ => false
  | .inf n, .inf k => n == k
  | .inf _, .num .. => false
  | .num .., .inf _ => false
  | .num n m e, .num k m' e' =>
    let e0 := min e e'
    scaledInt n m e e0 == scaledInt k m' e' e0

/-- The lesser of two values by R53; a NaN operand gives the canonical NaN. -/
def Fmt.fmin (f : Fmt) (a b : Nat) : FRes :=
  let x := f.value a
  let y := f.value b
  if x.isNan || y.isNan then ⟨f.nan, x.sigFlag ||| y.sigFlag⟩
  else ⟨if y.below x then b else a, 0⟩
/-- The greater of two values by R53. -/
def Fmt.fmax (f : Fmt) (a b : Nat) : FRes :=
  let x := f.value a
  let y := f.value b
  if x.isNan || y.isNan then ⟨f.nan, x.sigFlag ||| y.sigFlag⟩
  else ⟨if x.below y then b else a, 0⟩
/-- |a|; a NaN gives the canonical NaN (R122). -/
def Fmt.abs (f : Fmt) (a : Nat) : FRes :=
  if (f.value a).isNan then ⟨f.nan, (f.value a).sigFlag⟩ else ⟨a % 2 ^ (f.width - 1), 0⟩
/-- -a; a NaN gives the canonical NaN (R122). -/
def Fmt.neg (f : Fmt) (a : Nat) : FRes :=
  if (f.value a).isNan then ⟨f.nan, (f.value a).sigFlag⟩
  else ⟨(a + 2 ^ (f.width - 1)) % 2 ^ f.width, 0⟩

/-! ### Conversions (R60) -/

/-- An integer result: its value and flags. -/
structure IRes where
  /-- value, within the destination's range -/
  val : Int
  /-- flags -/
  fl : FFlags
  deriving DecidableEq, Repr

/-- Saturation to a signed width, with NV, and no other flag, when it bites (R60, R132; log 116). -/
def satInt (w : Nat) (x : Int) (fl : FFlags) : IRes :=
  let hi : Int := 2 ^ (w - 1) - 1
  let lo : Int := -(2 ^ (w - 1) : Int)
  if hi < x then ⟨hi, flNV⟩ else if x < lo then ⟨lo, flNV⟩ else ⟨x, fl⟩

/-- Rounding of an exact finite value to an integer, with NX. -/
def roundInt (r : Rm) (n : Bool) (m : Nat) (e : Int) : Int × FFlags :=
  let (k, t, rest) := cutAt m e false 0
  let k' : Int := if stepsUp r n k t rest then k + 1 else k
  (if n then -k' else k', if t != 0 || rest then flNX else 0)

/-- Float to integer of width `w` (R60). -/
def floatToInt (r : Rm) (w : Nat) : FVal → IRes
  | .nan _ => ⟨0, flNV⟩
  | .inf n => ⟨if n then -(2 ^ (w - 1) : Int) else 2 ^ (w - 1) - 1, flNV⟩
  | .num n m e => let (k, fl) := roundInt r n m e; satInt w k fl

/-- Integer to float (R60). -/
def intToFloat (f : Fmt) (r : Rm) (x : Int) : FRes := f.round r (x < 0) x.natAbs 0 false

/-- Float to float (R60): a zero keeps its sign in every format (DEDUCED, log 137). -/
def floatToFloat (src dst : Fmt) (r : Rm) (x : Nat) : FRes :=
  let v := src.value x
  let y := dst.ofVal r v
  ⟨y.bits, y.fl ||| v.sigFlag⟩

end Sys2Proof.Machine
end

