-- ==== Sys2Proof/Machine/Block.lean ====
section
/-! DEFINITION. SX blocks (R63 to R65), the Hadamard rotation (R66) and the pairwise tree (R68). -/

namespace Sys2Proof.Machine

/-- An SX format: SX7 or SX3. -/
structure Sx where
  /-- code byte -/
  code : Nat
  /-- magnitude bits m -/
  m : Nat
  /-- elements -/
  n : Nat
  /-- bit of element 0 -/
  base : Nat
  deriving DecidableEq, Repr
/-- SX7 -/
def sx7 : Sx := ⟨7, 6, 64, 48⟩
/-- SX3 -/
def sx3 : Sx := ⟨3, 2, 128, 80⟩

/-- Bits [lo+w-1 : lo] of a number. -/
def bitsAt (x lo w : Nat) : Nat := x / 2 ^ lo % 2 ^ w

/-- The elements that a block holds, or its foreign code (R64).  A NaN block gives quiet NaNs. -/
def Sx.read (f : Sx) (blk : Nat) : Except Nat (List FVal) :=
  let code := bitsAt blk 0 8
  if code = 0 then .ok (List.replicate f.n (.num false 0 0))
  else if code ≠ f.code then .error code
  else
    let e := bitsAt blk 8 8
    if e = 255 then .ok (List.replicate f.n (.nan false))
    else .ok ((List.range f.n).map (fun i =>
      let mag := bitsAt blk (f.base + (f.m + 1) * i) f.m
      let s := bitsAt blk (f.base + (f.m + 1) * i + f.m) 1 = 1
      let mu : Int := bitsAt blk (16 + i / 2) 1
      .num (s && mag != 0) mag ((e : Int) - 127 - mu - f.m)))

/-- Whether |m 2^e| is at most ((2^k - 1) / 2^k) 2^x. -/
def fitsMag (k m : Nat) (e x : Int) : Bool :=
  let e0 := min e (x - k)
  m * 2 ^ (e - e0).toNat ≤ (2 ^ k - 1) * 2 ^ (x - k - e0).toNat

/-- The least block exponent in 1..254 that holds the largest magnitude, else 254 (R65). -/
def leastExp (p : Nat → Bool) : Nat → Nat → Nat
  | 0, e => e
  | k + 1, e => if p e then e else leastExp p k (e + 1)

/-- Packs elements into a block, with its flags (R65). -/
def Sx.pack (f : Sx) (xs : List FVal) : Nat × FFlags :=
  let special := xs.any (fun x => match x with | .nan _ => true | .inf _ => true | .num .. => false)
  if special then (f.code + 255 * 256, 0)
  else if xs.all (fun x => match x with | .num _ m _ => m == 0 | _ => false) then (0, 0)
  else
    let holds (x : FVal) (e : Int) : Bool := match x with | .num _ m ex => fitsMag f.m m ex e | _ => false
    let e := leastExp (fun e => xs.all (fun x => holds x ((e : Int) - 127))) 253 1
    let mu (j : Nat) : Nat :=
      if holds (xs.getD (2 * j) (.num false 0 0)) ((e : Int) - 128) && holds (xs.getD (2 * j + 1) (.num false 0 0)) ((e : Int) - 128)
      then 1 else 0
    let one (i : Nat) (x : FVal) : Nat × FFlags :=
      match x with
      | .num n m ex =>
        let (k, t, rest) := cutAt m (ex + f.m + 127 - e + mu (i / 2)) false 0
        let k' := if stepsUp rne false k t rest then k + 1 else k
        let mag := min k' (2 ^ f.m - 1)
        let fl : FFlags := (if k' > 2 ^ f.m - 1 then flOF ||| flNX else 0) ||| (if t != 0 || rest then flNX else 0) |||
          (if m != 0 && mag == 0 then flUF ||| flNX else 0)
        (mag + (if n && mag != 0 then 2 ^ f.m else 0), fl)
      | _ => (0, 0)
    let els := xs.zipIdx.map (fun x => (one x.2 x.1, x.2))
    let mus := (List.range (f.n / 2)).foldl (fun a j => a + mu j * 2 ^ (16 + j)) 0
    (els.foldl (fun a x => a + x.1.1 * 2 ^ (f.base + (f.m + 1) * x.2)) (f.code + e * 256 + mus),
     els.foldl (fun a x => a ||| x.1.2) 0)

/-- One butterfly stage of a Walsh-Hadamard transform with span h over a list (R66). -/
def hadStage (h : Nat) (xs : List Nat) : List Nat × FFlags :=
  let r := (List.range xs.length).map (fun i =>
    if i / h % 2 = 0 then Fmt.f32.add rne (xs.getD i 0) (xs.getD (i + h) 0)
    else Fmt.f32.sub rne (xs.getD (i - h) 0) (xs.getD i 0))
  (r.map (·.bits), r.foldl (fun a x => a ||| x.fl) 0)
/-- The stages from span h up. -/
def hadStages : Nat → Nat → List Nat × FFlags → List Nat × FFlags
  | 0, _, x => x
  | k + 1, h, (xs, fl) => let (ys, f2) := hadStage h xs; hadStages k (2 * h) (ys, fl ||| f2)
/-- The transform of size 2^k on FP32 patterns, scaled by c_n (R66); every aligned group of 2^k elements is one transform. -/
def hadamard (k : Nat) (xs : List Nat) : List Nat × FFlags :=
  let c := if k = 4 then 0x3E800000 else if k = 5 then 0x3E3504F3 else 0x3E000000
  let (ys, fl) := hadStages k 1 (xs, 0)
  let r := ys.map (fun y => Fmt.f32.mul rne y c)
  (r.map (·.bits), r.foldl (fun a x => a ||| x.fl) fl)

/-- One level of a pairwise tree; the count is made even by the identity (R68). -/
def treeLevel {α : Type} (f : α → α → α) (z : α) : List α → List α
  | x :: y :: t => f x y :: treeLevel f z t
  | [x] => [f x z]
  | [] => []
/-- A pairwise tree over a list whose length is at most 2^k. -/
def tree {α : Type} (f : α → α → α) (z : α) : Nat → List α → List α
  | 0, xs => xs
  | k + 1, xs => match xs with
    | [] => []
    | [x] => [x]
    | _ => tree f z k (treeLevel f z xs)

/-- A value and the flags met on the way to it. -/
structure VF where
  /-- value -/
  v : FVal
  /-- flags -/
  fl : FFlags
/-- A node of an FP32 sum tree: one RNE rounding of the exact sum (R68). -/
def sumNode (a b : VF) : VF :=
  let r := Fmt.f32.ofExact rne (exAdd false a.v b.v)
  ⟨Fmt.f32.value r.bits, a.fl ||| b.fl ||| r.fl⟩
/-- The FP32 pattern of a value that is one. -/
def f32Bits (x : FVal) : Nat := (Fmt.f32.ofVal rne x).bits

end Sys2Proof.Machine
end

