-- ==== Sys2Proof/Machine/Inputs.lean ====
section
/-! DEFINITION. The data that an event brings with it: what the device run-time, the host, a physical fault or the management
port supplies from outside the cores (R22, R329, R371, R396, R404). -/

namespace Sys2Proof

/-- An engine of the package (R304). -/
inductive EngineId where
  /-- Copy engine `k` (0 or 1) of cluster `cl` (die × 16 + cluster). -/
  | copy (cl : BitVec 6) (k : BitVec 1)
  /-- The collective engine of a die. -/
  | coll (die : BitVec 2)
  /-- The package gateway on the I/O die. -/
  | gateway
  deriving DecidableEq, Repr

/-- The four context ids that the run-time assigns to a share's desks (R363: its choice). -/
structure CtxIds where
  /-- desk 0 -/
  d0 : BitVec 16
  /-- desk 1 -/
  d1 : BitVec 16
  /-- desk 2 -/
  d2 : BitVec 16
  /-- desk 3 -/
  d3 : BitVec 16
  deriving DecidableEq, Repr

/-- What the run-time's loader fixed when it started a launch and the manual leaves to it: where each kernel's `.text` stands
(R75), the scratchpad region base (R17), the counter segment (R243), the `.scratch` contents (R75) and the area for input
snapshots (R340), on pages of the run-time's own translation. -/
structure LoadInfo where
  /-- Virtual address of the image's `.text`. -/
  text : Word
  /-- Region base: a multiple of 64, the same on every core (R17). -/
  base : BitVec 19
  /-- Counter segment base (R243). -/
  cntbase : Word
  /-- `.scratch` contents: offset within the region and byte (R75). -/
  scratch : List (Nat × Byte)
  /-- Extent of the argument block (R348): the manual gives its layout to the program alone. -/
  argsLen : Nat
  /-- Where the image's sections stand: base and length (R75, R348). -/
  ranges : List (Nat × Nat)
  /-- Whether the snapshot area could be allocated (R340). -/
  snapOk : Bool
  /-- Where it stands: a multiple of 64 (R340). -/
  snap : Word := 0
  deriving DecidableEq, Repr

/-- A place an ECC or residue event befalls, and whether it could be corrected (R371). -/
inductive ErrUnit where
  /-- A 64-byte unit of a core's scratchpad. -/
  | scratchpad (c : CoreId) (off : BitVec 19) (bad : Bool)
  /-- A line in L2 data, HBM4E or the second tier. -/
  | line (pa : PAddr) (bad : Bool)
  /-- An L1 or TLB entry of a core. -/
  | l1 (c : CoreId) (bad : Bool)
  /-- A set of L2 tags, by one of its lines. -/
  | l2tag (pa : PAddr) (bad : Bool)
  /-- Core state or arithmetic of a desk; `unit` is the code of R372. -/
  | desk (c : CoreId) (d : DeskId) (unit : BitVec 3) (bad : Bool)
  /-- The matrix array under a slot. -/
  | matrix (c : CoreId) (n : BitVec 2) (bad : Bool)
  /-- A card at place `i` of an engine. -/
  | engine (e : EngineId) (i : Nat) (bad : Bool)
  /-- Near-memory command `i` of a desk. -/
  | nearMem (c : CoreId) (d : DeskId) (i : Nat) (bad : Bool)
  deriving DecidableEq, Repr

/-- A unit that the dependability logic counts and retires (R373, R374). -/
inductive RasUnit where
  /-- One core, with all its arrays and units. -/
  | core (c : CoreId)
  /-- One L2 data entry: die, bank and entry. -/
  | entry (die : BitVec 2) (bank : BitVec 6) (e : BitVec 14)
  /-- One L2 tag way of a set: die, bank, set and way. -/
  | way (die : BitVec 2) (bank : BitVec 6) (set : BitVec 11) (w : BitVec 4)
  /-- One HBM4E row: stack and row. -/
  | row (stack : BitVec 4) (row : BitVec 32)
  /-- One engine. -/
  | engine (e : EngineId)
  deriving DecidableEq, Repr

end Sys2Proof
end

