-- ==== Sys2Proof/Syntax.lean ====
section
/-! DEFINITION. The abstract syntax: ONE constructor per row of the operation table (334 encoded instructions, 93 machine
events).  An instruction's arguments are its encoding's fields in the table's order and under its names (`g` guard, `a`, `b`,
`d` register fields, and so on); an event's arguments say which core, desk, queue or unit it befalls and, for an event that
comes from outside the cores, what comes in (R1, R6, spec/95_what_each_step_holds.md). -/

namespace Sys2Proof

/-- The steps of the KX8-768, each whole and indivisible. -/
inductive Instr where
  /-- `ADD` (R89). Writes gD with the 64-bit wrapping sum of gA and gB, under the guard. -/
  | add (g : BitVec 4) (b : BitVec 5) (a : BitVec 5) (d : BitVec 5)
  /-- `SUB` (R89). Writes gD with gA minus gB, wrapping. -/
  | sub (g : BitVec 4) (b : BitVec 5) (a : BitVec 5) (d : BitVec 5)
  /-- `MUL` (R89). Writes gD with the low 64 bits of gA times gB. -/
  | mul (g : BitVec 4) (b : BitVec 5) (a : BitVec 5) (d : BitVec 5)
  /-- `MULH` (R89). Writes gD with the high 64 bits of the signed 128-bit product. -/
  | mulh (g : BitVec 4) (b : BitVec 5) (a : BitVec 5) (d : BitVec 5)
  /-- `MULH.u` (R89). Writes gD with the high 64 bits of the unsigned 128-bit product. -/
  | mulhU (g : BitVec 4) (b : BitVec 5) (a : BitVec 5) (d : BitVec 5)
  /-- `DIV` (R89). Writes gD with the signed quotient truncated towards zero, with all ones for a zero divisor. -/
  | div (g : BitVec 4) (b : BitVec 5) (a : BitVec 5) (d : BitVec 5)
  /-- `DIV.u` (R89). Writes gD with the unsigned quotient, with all ones for a zero divisor. -/
  | divU (g : BitVec 4) (b : BitVec 5) (a : BitVec 5) (d : BitVec 5)
  /-- `REM` (R89). Writes gD with the signed remainder, which takes the sign of gA. -/
  | rem (g : BitVec 4) (b : BitVec 5) (a : BitVec 5) (d : BitVec 5)
  /-- `REM.u` (R89). Writes gD with the unsigned remainder. -/
  | remU (g : BitVec 4) (b : BitVec 5) (a : BitVec 5) (d : BitVec 5)
  /-- `AND` (R89). Writes gD with the bitwise AND of gA and gB. -/
  | and (g : BitVec 4) (b : BitVec 5) (a : BitVec 5) (d : BitVec 5)
  /-- `OR` (R89). Writes gD with the bitwise OR of gA and gB. -/
  | or (g : BitVec 4) (b : BitVec 5) (a : BitVec 5) (d : BitVec 5)
  /-- `XOR` (R89). Writes gD with the bitwise XOR of gA and gB. -/
  | xor (g : BitVec 4) (b : BitVec 5) (a : BitVec 5) (d : BitVec 5)
  /-- `SHL` (R89). Writes gD with gA shifted left by gB[5:0]. -/
  | shl (g : BitVec 4) (b : BitVec 5) (a : BitVec 5) (d : BitVec 5)
  /-- `SHR` (R89). Writes gD with gA shifted logically right by gB[5:0]. -/
  | shr (g : BitVec 4) (b : BitVec 5) (a : BitVec 5) (d : BitVec 5)
  /-- `SHA` (R89). Writes gD with gA shifted arithmetically right by gB[5:0]. -/
  | sha (g : BitVec 4) (b : BitVec 5) (a : BitVec 5) (d : BitVec 5)
  /-- `SLT` (R89). Writes gD with 1 when gA is below gB as signed values, else 0. -/
  | slt (g : BitVec 4) (b : BitVec 5) (a : BitVec 5) (d : BitVec 5)
  /-- `SLT.u` (R89). Writes gD with 1 when gA is below gB as unsigned values, else 0. -/
  | sltU (g : BitVec 4) (b : BitVec 5) (a : BitVec 5) (d : BitVec 5)
  /-- `MIN` (R89). Writes gD with the signed lesser of gA and gB. -/
  | min (g : BitVec 4) (b : BitVec 5) (a : BitVec 5) (d : BitVec 5)
  /-- `MIN.u` (R89). Writes gD with the unsigned lesser of gA and gB. -/
  | minU (g : BitVec 4) (b : BitVec 5) (a : BitVec 5) (d : BitVec 5)
  /-- `MAX` (R89). Writes gD with the signed greater of gA and gB. -/
  | max (g : BitVec 4) (b : BitVec 5) (a : BitVec 5) (d : BitVec 5)
  /-- `MAX.u` (R89). Writes gD with the unsigned greater of gA and gB. -/
  | maxU (g : BitVec 4) (b : BitVec 5) (a : BitVec 5) (d : BitVec 5)
  /-- `CLZ` (R89). Writes gD with the leading-zero count of gA, or 64 when gA is 0. -/
  | clz (g : BitVec 4) (a : BitVec 5) (d : BitVec 5)
  /-- `CTZ` (R89). Writes gD with the trailing-zero count of gA, or 64 when gA is 0. -/
  | ctz (g : BitVec 4) (a : BitVec 5) (d : BitVec 5)
  /-- `POPC` (R89). Writes gD with the number of set bits of gA. -/
  | popc (g : BitVec 4) (a : BitVec 5) (d : BitVec 5)
  /-- `EXT.b` (R89). Writes gD with gA[7:0] sign-extended. -/
  | extB (g : BitVec 4) (a : BitVec 5) (d : BitVec 5)
  /-- `EXT.h` (R89). Writes gD with gA[15:0] sign-extended. -/
  | extH (g : BitVec 4) (a : BitVec 5) (d : BitVec 5)
  /-- `EXT.w` (R89). Writes gD with gA[31:0] sign-extended. -/
  | extW (g : BitVec 4) (a : BitVec 5) (d : BitVec 5)
  /-- `EXT.bu` (R89). Writes gD with gA[7:0] zero-extended. -/
  | extBu (g : BitVec 4) (a : BitVec 5) (d : BitVec 5)
  /-- `EXT.hu` (R89). Writes gD with gA[15:0] zero-extended. -/
  | extHu (g : BitVec 4) (a : BitVec 5) (d : BitVec 5)
  /-- `EXT.wu` (R89). Writes gD with gA[31:0] zero-extended. -/
  | extWu (g : BitVec 4) (a : BitVec 5) (d : BitVec 5)
  /-- `SEL` (R89). Writes gD with gA when the nonzero condition code holds, else with gB. -/
  | sel (c : BitVec 4) (b : BitVec 5) (a : BitVec 5) (d : BitVec 5)
  /-- `ADD` (R90). Writes gD with gA plus the sign-extended imm15. -/
  | addImm (i : BitVec 15) (a : BitVec 5) (d : BitVec 5)
  /-- `AND` (R90). Writes gD with gA AND the sign-extended imm15. -/
  | andImm (i : BitVec 15) (a : BitVec 5) (d : BitVec 5)
  /-- `OR` (R90). Writes gD with gA OR the sign-extended imm15. -/
  | orImm (i : BitVec 15) (a : BitVec 5) (d : BitVec 5)
  /-- `XOR` (R90). Writes gD with gA XOR the sign-extended imm15. -/
  | xorImm (i : BitVec 15) (a : BitVec 5) (d : BitVec 5)
  /-- `SHL` (R90). Writes gD with gA shifted left by the immediate amount. -/
  | shlImm (s : BitVec 6) (a : BitVec 5) (d : BitVec 5)
  /-- `SHR` (R90). Writes gD with gA shifted logically right by the immediate amount. -/
  | shrImm (s : BitVec 6) (a : BitVec 5) (d : BitVec 5)
  /-- `SHA` (R90). Writes gD with gA shifted arithmetically right by the immediate amount. -/
  | shaImm (s : BitVec 6) (a : BitVec 5) (d : BitVec 5)
  /-- `SLT` (R90). Writes gD with 1 when gA is below the sign-extended imm15, signed. -/
  | sltImm (i : BitVec 15) (a : BitVec 5) (d : BitVec 5)
  /-- `LUI` (R90). Writes gD with sign-extend(imm20 << 12). -/
  | lui (i : BitVec 20) (d : BitVec 5)
  /-- `ADDPC` (R90). Writes gD with the instruction's address plus sign-extend(imm20 << 12). -/
  | addpc (i : BitVec 20) (d : BitVec 5)
  /-- `PCMP.eq` (R91). Sets every bit of pD to whether gA equals gB. -/
  | pcmpEq (g : BitVec 4) (b : BitVec 5) (a : BitVec 5) (d : BitVec 3)
  /-- `PCMP.ne` (R91). Sets every bit of pD to whether gA differs from gB. -/
  | pcmpNe (g : BitVec 4) (b : BitVec 5) (a : BitVec 5) (d : BitVec 3)
  /-- `PCMP.lt` (R91). Sets every bit of pD to whether gA is below gB, signed. -/
  | pcmpLt (g : BitVec 4) (b : BitVec 5) (a : BitVec 5) (d : BitVec 3)
  /-- `PCMP.ge` (R91). Sets every bit of pD to whether gA is at or above gB, signed. -/
  | pcmpGe (g : BitVec 4) (b : BitVec 5) (a : BitVec 5) (d : BitVec 3)
  /-- `PCMP.lt.u` (R91). Sets every bit of pD to whether gA is below gB, unsigned. -/
  | pcmpLtU (g : BitVec 4) (b : BitVec 5) (a : BitVec 5) (d : BitVec 3)
  /-- `PCMP.ge.u` (R91). Sets every bit of pD to whether gA is at or above gB, unsigned. -/
  | pcmpGeU (g : BitVec 4) (b : BitVec 5) (a : BitVec 5) (d : BitVec 3)
  /-- `PAND` (R91). Writes pD with pA AND pB. -/
  | pand (g : BitVec 4) (b : BitVec 3) (a : BitVec 3) (d : BitVec 3)
  /-- `POR` (R91). Writes pD with pA OR pB. -/
  | por (g : BitVec 4) (b : BitVec 3) (a : BitVec 3) (d : BitVec 3)
  /-- `PXOR` (R91). Writes pD with pA XOR pB. -/
  | pxor (g : BitVec 4) (b : BitVec 3) (a : BitVec 3) (d : BitVec 3)
  /-- `PANDN` (R91). Writes pD with pA AND NOT pB. -/
  | pandn (g : BitVec 4) (b : BitVec 3) (a : BitVec 3) (d : BitVec 3)
  /-- `PNOT` (R91). Writes pD with NOT pA. -/
  | pnot (g : BitVec 4) (a : BitVec 3) (d : BitVec 3)
  /-- `PMOV` (R91). Writes pD with pA. -/
  | pmov (g : BitVec 4) (a : BitVec 3) (d : BitVec 3)
  /-- `PCNT` (R91). Writes gD with the population count of pA. -/
  | pcnt (g : BitVec 4) (a : BitVec 3) (d : BitVec 5)
  /-- `PFIRST` (R91). Writes gD with the index of the lowest set bit of pA, or 64. -/
  | pfirst (g : BitVec 4) (a : BitVec 3) (d : BitVec 5)
  /-- `PALL` (R91). Writes gD with 1 when pA is all ones, else 0. -/
  | pall (g : BitVec 4) (a : BitVec 3) (d : BitVec 5)
  /-- `PNONE` (R91). Writes gD with 1 when pA is all zeros, else 0. -/
  | pnone (g : BitVec 4) (a : BitVec 3) (d : BitVec 5)
  /-- `B.cc` (R92). Transfers to the PC-relative target when gA compares with gB under the condition. -/
  | b (o : BitVec 11) (l : BitVec 1) (c : BitVec 3) (b : BitVec 5) (a : BitVec 5)
  /-- `BP.any` (R93). Transfers when any considered bit of the predicate is set. -/
  | bpAny (o : BitVec 11) (l : BitVec 1) (w : BitVec 2) (p : BitVec 3)
  /-- `BP.all` (R93). Transfers when every considered bit of the predicate is set. -/
  | bpAll (o : BitVec 11) (l : BitVec 1) (w : BitVec 2) (p : BitVec 3)
  /-- `BP.none` (R93). Transfers when no considered bit of the predicate is set. -/
  | bpNone (o : BitVec 11) (l : BitVec 1) (w : BitVec 2) (p : BitVec 3)
  /-- `JAL` (R94). Writes the next instruction's address to gD and transfers to the PC-relative target. -/
  | jal (o : BitVec 20) (d : BitVec 5)
  /-- `JR` (R94). Writes the next instruction's address to gD and transfers to gA. -/
  | jr (a : BitVec 5) (d : BitVec 5)
  /-- `REP` (R98). Records the next n vector instructions into the repetition buffer and executes them g[a] times with staggered fields. -/
  | rep (m : BitVec 3) (s : BitVec 5) (a : BitVec 5) (n : BitVec 4)
  /-- `SETK` (R106). Sets guard slot kN from bit 0 of pA, resolving commands bound to it. -/
  | setk (a : BitVec 3) (d : BitVec 3)
  /-- `PENDK` (R106). Makes guard slot kN pending. -/
  | pendk (d : BitVec 3)
  /-- `QFLUSH` (R101). Discards every entry of queue port qN after earlier pushes retire. -/
  | qflush (d : BitVec 3)
  /-- `QCNT` (R101). Writes gD with the number of confirmed entries of port qN. -/
  | qcnt (a : BitVec 3) (d : BitVec 5)
  /-- `GANG` (R109). Makes the core a gang leader of n cores, or offers it as a follower when g[a] is 0. -/
  | gang (a : BitVec 5)
  /-- `UNGANG` (R114). Ends the gang when every follower has reached UNGANG. -/
  | ungang
  /-- `LOOP` (R95). Opens a hardware loop whose count is read from a register. -/
  | loop (l : BitVec 14) (r : BitVec 5) (i : BitVec 1)
  /-- `LOOPI` (R95). Opens a hardware loop with an immediate count. -/
  | loopi (l : BitVec 14) (c : BitVec 10) (i : BitVec 1)
  /-- `BRD.cc` (R112). Branches on each gang member's own registers and detaches followers whose outcome differs from the leader's. -/
  | brd (o : BitVec 11) (l : BitVec 1) (c : BitVec 3) (b : BitVec 5) (a : BitVec 5)
  /-- `BRQ.cc` (R103). Branches on the head of a queue port, entering run-ahead on the likely path when the port is empty. -/
  | brq (o : BitVec 11) (l : BitVec 1) (c : BitVec 3) (b : BitVec 5) (q : BitVec 2)
  /-- `REJOIN` (R113). Reconverges detached gang followers at the label. -/
  | rejoin (o : BitVec 20)
  /-- `LD` (R189). Loads 1 to 8 bytes of global memory into gD, sign- or zero-extended. -/
  | ld (o : BitVec 10) (q : BitVec 2) (s : BitVec 3) (b : BitVec 5) (d : BitVec 5)
  /-- `ST` (R189). Stores the low bytes of gD to global memory through the store queue. -/
  | st (o : BitVec 10) (q : BitVec 2) (s : BitVec 3) (b : BitVec 5) (d : BitVec 5)
  /-- `LDL` (R146). Loads scratchpad bytes of the launch's region into gD. -/
  | ldl (o : BitVec 10) (s : BitVec 3) (b : BitVec 5) (d : BitVec 5)
  /-- `STL` (R146). Stores the low bytes of gD into the scratchpad. -/
  | stl (o : BitVec 10) (s : BitVec 2) (b : BitVec 5) (d : BitVec 5)
  /-- `VLD` (R189). Loads 64 bytes of global memory into vD. -/
  | vld (o : BitVec 10) (q : BitVec 2) (b : BitVec 5) (d : BitVec 5)
  /-- `VST` (R189). Stores vD to 64 bytes of global memory. -/
  | vst (o : BitVec 10) (q : BitVec 2) (b : BitVec 5) (d : BitVec 5)
  /-- `VLDL` (R146). Loads 64 scratchpad bytes into vD. -/
  | vldl (o : BitVec 10) (b : BitVec 5) (d : BitVec 5)
  /-- `VSTL` (R146). Stores vD to 64 scratchpad bytes. -/
  | vstl (o : BitVec 10) (b : BitVec 5) (d : BitVec 5)
  /-- `LDA` (R193). Acquire load of 8 bytes from its home at the scope in b. -/
  | lda (g : BitVec 4) (b : BitVec 5) (a : BitVec 5) (d : BitVec 5)
  /-- `STR` (R193). Release store of gB at the scope in d, after every earlier access is performed. -/
  | str (g : BitVec 4) (b : BitVec 5) (a : BitVec 5) (s : BitVec 5)
  /-- `VLDS` (R192). Loads 16 32-bit lanes at a strided address. -/
  | vlds (g : BitVec 4) (b : BitVec 5) (a : BitVec 5) (d : BitVec 5)
  /-- `VSTS` (R192). Stores 16 32-bit lanes at a strided address. -/
  | vsts (g : BitVec 4) (b : BitVec 5) (a : BitVec 5) (d : BitVec 5)
  /-- `VGATH.w` (R192). Gathers 16 32-bit lanes at base plus vector offsets. -/
  | vgathW (g : BitVec 4) (b : BitVec 5) (a : BitVec 5) (d : BitVec 5)
  /-- `VGATH.d` (R192). Gathers 8 64-bit lanes at base plus vector offsets. -/
  | vgathD (g : BitVec 4) (b : BitVec 5) (a : BitVec 5) (d : BitVec 5)
  /-- `VSCAT.w` (R192). Scatters 16 32-bit lanes in ascending lane order. -/
  | vscatW (g : BitVec 4) (b : BitVec 5) (a : BitVec 5) (d : BitVec 5)
  /-- `VSCAT.d` (R192). Scatters 8 64-bit lanes in ascending lane order. -/
  | vscatD (g : BitVec 4) (b : BitVec 5) (a : BitVec 5) (d : BitVec 5)
  /-- `PREF` (R196). Requests the lines of a range to be filled into their home L2 banks, without faults. -/
  | pref (g : BitVec 4) (b : BitVec 5) (a : BitVec 5)
  /-- `FENCE` (R194). Orders earlier accesses of the selected kinds before later ones at the scope. -/
  | fence (g : BitVec 4) (k : BitVec 4) (s : BitVec 5)
  /-- `L1GEN` (R195). Bumps the core's L1 generation after earlier acquires are performed. -/
  | l1gen
  /-- `LDV` (R222). Reads 8 bytes and the line's version at one moment at the home. -/
  | ldv (g : BitVec 4) (a : BitVec 5) (d : BitVec 5)
  /-- `LDVS` (R222). As LDV, and records the line and version in the snapshot set. -/
  | ldvs (g : BitVec 4) (a : BitVec 5) (d : BitVec 5)
  /-- `VALSET` (R223). Checks every snapshot slot's translation and version, writes 1 when all hold, and empties the set. -/
  | valset (g : BitVec 4) (d : BitVec 5)
  /-- `VCLR` (R223). Empties the snapshot set without checking. -/
  | vclr (g : BitVec 4)
  /-- `VCAS` (R222). Writes gB when the line's version equals the expected version, as one read-modify-write. -/
  | vcas (g : BitVec 4) (b : BitVec 5) (a : BitVec 5) (d : BitVec 5)
  /-- `LVER` (R222). Writes gD with the line's current version. -/
  | lver (g : BitVec 4) (a : BitVec 5) (d : BitVec 5)
  /-- `L2RET` (R224). Sets retention slot n to a virtual range. -/
  | l2ret (g : BitVec 4) (b : BitVec 5) (a : BitVec 5) (n : BitVec 3)
  /-- `UNPIN` (R224). Releases retention slot n. -/
  | unpin (g : BitVec 4) (n : BitVec 3)
  /-- `L2STAT` (R226). Writes gD with the partition's L2 statistic summed over every bank. -/
  | l2stat (g : BitVec 4) (b : BitVec 5) (d : BitVec 5)
  /-- `AMO.add` (R231). Atomically adds gB to the 8-byte location and returns the old value. -/
  | amoAdd (s : BitVec 2) (o : BitVec 2) (b : BitVec 5) (a : BitVec 5) (d : BitVec 5)
  /-- `AMO.and` (R231). Atomic 64-bit AND returning the old value. -/
  | amoAnd (s : BitVec 2) (o : BitVec 2) (b : BitVec 5) (a : BitVec 5) (d : BitVec 5)
  /-- `AMO.or` (R231). Atomic 64-bit OR returning the old value. -/
  | amoOr (s : BitVec 2) (o : BitVec 2) (b : BitVec 5) (a : BitVec 5) (d : BitVec 5)
  /-- `AMO.xor` (R231). Atomic 64-bit XOR returning the old value. -/
  | amoXor (s : BitVec 2) (o : BitVec 2) (b : BitVec 5) (a : BitVec 5) (d : BitVec 5)
  /-- `AMO.min` (R231). Atomic signed 64-bit minimum returning the old value. -/
  | amoMin (s : BitVec 2) (o : BitVec 2) (b : BitVec 5) (a : BitVec 5) (d : BitVec 5)
  /-- `AMO.max` (R231). Atomic signed 64-bit maximum returning the old value. -/
  | amoMax (s : BitVec 2) (o : BitVec 2) (b : BitVec 5) (a : BitVec 5) (d : BitVec 5)
  /-- `AMO.min.u` (R231). Atomic unsigned 64-bit minimum returning the old value. -/
  | amoMinU (s : BitVec 2) (o : BitVec 2) (b : BitVec 5) (a : BitVec 5) (d : BitVec 5)
  /-- `AMO.max.u` (R231). Atomic unsigned 64-bit maximum returning the old value. -/
  | amoMaxU (s : BitVec 2) (o : BitVec 2) (b : BitVec 5) (a : BitVec 5) (d : BitVec 5)
  /-- `AMO.swap` (R231). Atomic 64-bit swap returning the old value. -/
  | amoSwap (s : BitVec 2) (o : BitVec 2) (b : BitVec 5) (a : BitVec 5) (d : BitVec 5)
  /-- `AMO.fadd` (R232). Atomic FP32 add at the home, RNE, returning the old bits. -/
  | amoFadd (s : BitVec 2) (o : BitVec 2) (b : BitVec 5) (a : BitVec 5) (d : BitVec 5)
  /-- `AMO.fmin` (R232). Atomic FP32 minimum that passes over NaNs, returning the old bits. -/
  | amoFmin (s : BitVec 2) (o : BitVec 2) (b : BitVec 5) (a : BitVec 5) (d : BitVec 5)
  /-- `AMO.fmax` (R232). Atomic FP32 maximum that passes over NaNs, returning the old bits. -/
  | amoFmax (s : BitVec 2) (o : BitVec 2) (b : BitVec 5) (a : BitVec 5) (d : BitVec 5)
  /-- `AMO.add.w` (R231). Atomic 32-bit add returning the sign-extended old value. -/
  | amoAddW (s : BitVec 2) (o : BitVec 2) (b : BitVec 5) (a : BitVec 5) (d : BitVec 5)
  /-- `AMO.and.w` (R231). Atomic 32-bit AND. -/
  | amoAndW (s : BitVec 2) (o : BitVec 2) (b : BitVec 5) (a : BitVec 5) (d : BitVec 5)
  /-- `AMO.or.w` (R231). Atomic 32-bit OR. -/
  | amoOrW (s : BitVec 2) (o : BitVec 2) (b : BitVec 5) (a : BitVec 5) (d : BitVec 5)
  /-- `AMO.xor.w` (R231). Atomic 32-bit XOR. -/
  | amoXorW (s : BitVec 2) (o : BitVec 2) (b : BitVec 5) (a : BitVec 5) (d : BitVec 5)
  /-- `AMO.min.w` (R231). Atomic signed 32-bit minimum. -/
  | amoMinW (s : BitVec 2) (o : BitVec 2) (b : BitVec 5) (a : BitVec 5) (d : BitVec 5)
  /-- `AMO.max.w` (R231). Atomic signed 32-bit maximum. -/
  | amoMaxW (s : BitVec 2) (o : BitVec 2) (b : BitVec 5) (a : BitVec 5) (d : BitVec 5)
  /-- `AMO.min.u.w` (R231). Atomic unsigned 32-bit minimum, old value zero-extended. -/
  | amoMinUW (s : BitVec 2) (o : BitVec 2) (b : BitVec 5) (a : BitVec 5) (d : BitVec 5)
  /-- `AMO.max.u.w` (R231). Atomic unsigned 32-bit maximum, old value zero-extended. -/
  | amoMaxUW (s : BitVec 2) (o : BitVec 2) (b : BitVec 5) (a : BitVec 5) (d : BitVec 5)
  /-- `AMO.swap.w` (R231). Atomic 32-bit swap. -/
  | amoSwapW (s : BitVec 2) (o : BitVec 2) (b : BitVec 5) (a : BitVec 5) (d : BitVec 5)
  /-- `CAS` (R230). Writes gB to the 8-byte location when it equals gD, and returns the old value. -/
  | cas (s : BitVec 2) (o : BitVec 2) (b : BitVec 5) (a : BitVec 5) (d : BitVec 5)
  /-- `CAS.w` (R230). 32-bit compare-and-swap returning the sign-extended old value. -/
  | casW (s : BitVec 2) (o : BitVec 2) (b : BitVec 5) (a : BitVec 5) (d : BitVec 5)
  /-- `ARED.add` (R233). Non-returning atomic 64-bit add entering the store queue. -/
  | aredAdd (s : BitVec 2) (o : BitVec 2) (b : BitVec 5) (a : BitVec 5)
  /-- `ARED.and` (R233). Non-returning atomic 64-bit AND. -/
  | aredAnd (s : BitVec 2) (o : BitVec 2) (b : BitVec 5) (a : BitVec 5)
  /-- `ARED.or` (R233). Non-returning atomic 64-bit OR. -/
  | aredOr (s : BitVec 2) (o : BitVec 2) (b : BitVec 5) (a : BitVec 5)
  /-- `ARED.xor` (R233). Non-returning atomic 64-bit XOR. -/
  | aredXor (s : BitVec 2) (o : BitVec 2) (b : BitVec 5) (a : BitVec 5)
  /-- `ARED.min` (R233). Non-returning atomic signed 64-bit minimum. -/
  | aredMin (s : BitVec 2) (o : BitVec 2) (b : BitVec 5) (a : BitVec 5)
  /-- `ARED.max` (R233). Non-returning atomic signed 64-bit maximum. -/
  | aredMax (s : BitVec 2) (o : BitVec 2) (b : BitVec 5) (a : BitVec 5)
  /-- `ARED.min.u` (R233). Non-returning atomic unsigned 64-bit minimum. -/
  | aredMinU (s : BitVec 2) (o : BitVec 2) (b : BitVec 5) (a : BitVec 5)
  /-- `ARED.max.u` (R233). Non-returning atomic unsigned 64-bit maximum. -/
  | aredMaxU (s : BitVec 2) (o : BitVec 2) (b : BitVec 5) (a : BitVec 5)
  /-- `ARED.swap` (R233). Non-returning atomic 64-bit swap. -/
  | aredSwap (s : BitVec 2) (o : BitVec 2) (b : BitVec 5) (a : BitVec 5)
  /-- `ARED.fadd` (R233). Non-returning atomic FP32 add. -/
  | aredFadd (s : BitVec 2) (o : BitVec 2) (b : BitVec 5) (a : BitVec 5)
  /-- `ARED.fmin` (R233). Non-returning atomic FP32 minimum. -/
  | aredFmin (s : BitVec 2) (o : BitVec 2) (b : BitVec 5) (a : BitVec 5)
  /-- `ARED.fmax` (R233). Non-returning atomic FP32 maximum. -/
  | aredFmax (s : BitVec 2) (o : BitVec 2) (b : BitVec 5) (a : BitVec 5)
  /-- `ARED.add.w` (R233). Non-returning atomic 32-bit add. -/
  | aredAddW (s : BitVec 2) (o : BitVec 2) (b : BitVec 5) (a : BitVec 5)
  /-- `ARED.and.w` (R233). Non-returning atomic 32-bit AND. -/
  | aredAndW (s : BitVec 2) (o : BitVec 2) (b : BitVec 5) (a : BitVec 5)
  /-- `ARED.or.w` (R233). Non-returning atomic 32-bit OR. -/
  | aredOrW (s : BitVec 2) (o : BitVec 2) (b : BitVec 5) (a : BitVec 5)
  /-- `ARED.xor.w` (R233). Non-returning atomic 32-bit XOR. -/
  | aredXorW (s : BitVec 2) (o : BitVec 2) (b : BitVec 5) (a : BitVec 5)
  /-- `ARED.min.w` (R233). Non-returning atomic signed 32-bit minimum. -/
  | aredMinW (s : BitVec 2) (o : BitVec 2) (b : BitVec 5) (a : BitVec 5)
  /-- `ARED.max.w` (R233). Non-returning atomic signed 32-bit maximum. -/
  | aredMaxW (s : BitVec 2) (o : BitVec 2) (b : BitVec 5) (a : BitVec 5)
  /-- `ARED.min.u.w` (R233). Non-returning atomic unsigned 32-bit minimum. -/
  | aredMinUW (s : BitVec 2) (o : BitVec 2) (b : BitVec 5) (a : BitVec 5)
  /-- `ARED.max.u.w` (R233). Non-returning atomic unsigned 32-bit maximum. -/
  | aredMaxUW (s : BitVec 2) (o : BitVec 2) (b : BitVec 5) (a : BitVec 5)
  /-- `ARED.swap.w` (R233). Non-returning atomic 32-bit swap. -/
  | aredSwapW (s : BitVec 2) (o : BitVec 2) (b : BitVec 5) (a : BitVec 5)
  /-- `VAMO.add` (R234). Per-lane relaxed 32-bit atomic add at base plus offsets, returning old values. -/
  | vamoAdd (g : BitVec 4) (b : BitVec 5) (a : BitVec 5) (d : BitVec 5)
  /-- `VAMO.and` (R234). Per-lane atomic AND returning old values. -/
  | vamoAnd (g : BitVec 4) (b : BitVec 5) (a : BitVec 5) (d : BitVec 5)
  /-- `VAMO.or` (R234). Per-lane atomic OR returning old values. -/
  | vamoOr (g : BitVec 4) (b : BitVec 5) (a : BitVec 5) (d : BitVec 5)
  /-- `VAMO.xor` (R234). Per-lane atomic XOR returning old values. -/
  | vamoXor (g : BitVec 4) (b : BitVec 5) (a : BitVec 5) (d : BitVec 5)
  /-- `VAMO.min` (R234). Per-lane atomic signed minimum. -/
  | vamoMin (g : BitVec 4) (b : BitVec 5) (a : BitVec 5) (d : BitVec 5)
  /-- `VAMO.max` (R234). Per-lane atomic signed maximum. -/
  | vamoMax (g : BitVec 4) (b : BitVec 5) (a : BitVec 5) (d : BitVec 5)
  /-- `VAMO.min.u` (R234). Per-lane atomic unsigned minimum. -/
  | vamoMinU (g : BitVec 4) (b : BitVec 5) (a : BitVec 5) (d : BitVec 5)
  /-- `VAMO.max.u` (R234). Per-lane atomic unsigned maximum. -/
  | vamoMaxU (g : BitVec 4) (b : BitVec 5) (a : BitVec 5) (d : BitVec 5)
  /-- `VAMO.swap` (R234). Per-lane atomic swap. -/
  | vamoSwap (g : BitVec 4) (b : BitVec 5) (a : BitVec 5) (d : BitVec 5)
  /-- `VAMO.fadd` (R234). Per-lane atomic FP32 add. -/
  | vamoFadd (g : BitVec 4) (b : BitVec 5) (a : BitVec 5) (d : BitVec 5)
  /-- `VAMO.fmin` (R234). Per-lane atomic FP32 minimum. -/
  | vamoFmin (g : BitVec 4) (b : BitVec 5) (a : BitVec 5) (d : BitVec 5)
  /-- `VAMO.fmax` (R234). Per-lane atomic FP32 maximum. -/
  | vamoFmax (g : BitVec 4) (b : BitVec 5) (a : BitVec 5) (d : BitVec 5)
  /-- `VARED.add` (R234). Per-lane non-returning atomic add entering the store queue. -/
  | varedAdd (g : BitVec 4) (b : BitVec 5) (a : BitVec 5) (d : BitVec 5)
  /-- `VARED.and` (R234). Per-lane non-returning atomic AND. -/
  | varedAnd (g : BitVec 4) (b : BitVec 5) (a : BitVec 5) (d : BitVec 5)
  /-- `VARED.or` (R234). Per-lane non-returning atomic OR. -/
  | varedOr (g : BitVec 4) (b : BitVec 5) (a : BitVec 5) (d : BitVec 5)
  /-- `VARED.xor` (R234). Per-lane non-returning atomic XOR. -/
  | varedXor (g : BitVec 4) (b : BitVec 5) (a : BitVec 5) (d : BitVec 5)
  /-- `VARED.min` (R234). Per-lane non-returning atomic signed minimum. -/
  | varedMin (g : BitVec 4) (b : BitVec 5) (a : BitVec 5) (d : BitVec 5)
  /-- `VARED.max` (R234). Per-lane non-returning atomic signed maximum. -/
  | varedMax (g : BitVec 4) (b : BitVec 5) (a : BitVec 5) (d : BitVec 5)
  /-- `VARED.min.u` (R234). Per-lane non-returning atomic unsigned minimum. -/
  | varedMinU (g : BitVec 4) (b : BitVec 5) (a : BitVec 5) (d : BitVec 5)
  /-- `VARED.max.u` (R234). Per-lane non-returning atomic unsigned maximum. -/
  | varedMaxU (g : BitVec 4) (b : BitVec 5) (a : BitVec 5) (d : BitVec 5)
  /-- `VARED.swap` (R234). Per-lane non-returning atomic swap. -/
  | varedSwap (g : BitVec 4) (b : BitVec 5) (a : BitVec 5) (d : BitVec 5)
  /-- `VARED.fadd` (R234). Per-lane non-returning atomic FP32 add. -/
  | varedFadd (g : BitVec 4) (b : BitVec 5) (a : BitVec 5) (d : BitVec 5)
  /-- `VARED.fmin` (R234). Per-lane non-returning atomic FP32 minimum. -/
  | varedFmin (g : BitVec 4) (b : BitVec 5) (a : BitVec 5) (d : BitVec 5)
  /-- `VARED.fmax` (R234). Per-lane non-returning atomic FP32 maximum. -/
  | varedFmax (g : BitVec 4) (b : BitVec 5) (a : BitVec 5) (d : BitVec 5)
  /-- `NMOP` (R235). Reads a near-memory command record, checks it and queues an element-wise optimizer or reduction command, optionally guarded. -/
  | nmop (a : BitVec 5) (k : BitVec 4)
  /-- `NMWAIT` (R238). Waits until every NMOP of the desk with the record address has completed or faulted, then reports a fault. -/
  | nmwait (a : BitVec 5)
  /-- `CADD` (R246). Adds gB to a counter at its home, saturating, optionally returning the old value. -/
  | cadd (s : BitVec 2) (o : BitVec 2) (b : BitVec 5) (a : BitVec 5) (d : BitVec 5)
  /-- `CWAIT` (R247). Waits until the counter reaches the target, as a system-scope acquire. -/
  | cwait (b : BitVec 5) (a : BitVec 5)
  /-- `CTEST` (R248). Reads the counter once and writes whether it has reached the target. -/
  | ctest (b : BitVec 5) (a : BitVec 5) (d : BitVec 5)
  /-- `BARV` (R251). Arrives at a barrier by a release add and returns the round's token. -/
  | barv (b : BitVec 5) (a : BitVec 5) (d : BitVec 5)
  /-- `BWAIT` (R252). Waits for the counter to reach a token this desk holds, then drops the token. -/
  | bwait (b : BitVec 5) (a : BitVec 5)
  /-- `BELL` (R253). Rings the bell from a desk of the core's last dealt share and continues as exchange code. -/
  | bell
  /-- `XDONE` (R256). Ends the desk's exchange after its XPUTs, XGETs and stores complete. -/
  | xdone
  /-- `XPUT` (R258). Copies local scratchpad bytes to a remote scratchpad named by a tuple, in exchange. -/
  | xput (b : BitVec 5) (a : BitVec 5) (d : BitVec 5)
  /-- `XGET` (R258). Copies bytes from a remote scratchpad into the local scratchpad, in exchange. -/
  | xget (b : BitVec 5) (a : BitVec 5) (d : BitVec 5)
  /-- `TDEF` (R148). Defines a tile's base and size while it is EMPTY. -/
  | tdef (g : BitVec 4) (b : BitVec 5) (a : BitVec 5)
  /-- `TFILL` (R148). Moves a defined EMPTY tile to FILLING with a producer. -/
  | tfill (g : BitVec 4) (b : BitVec 5) (a : BitVec 5)
  /-- `TREADY` (R148). Moves a self-filled tile to READY. -/
  | tready (g : BitVec 4) (a : BitVec 5)
  /-- `TDRAIN` (R148). Moves a READY tile to DRAINING, waiting while it is FILLING. -/
  | tdrain (g : BitVec 4) (a : BitVec 5)
  /-- `TFREE` (R148). Returns a READY or DRAINING tile to EMPTY. -/
  | tfree (g : BitVec 4) (a : BitVec 5)
  /-- `TSTAT` (R148). Writes gD with the tile's state, definition and producer. -/
  | tstat (g : BitVec 4) (a : BitVec 5) (d : BitVec 5)
  /-- `TWAIT` (R148). Waits until the tile's state equals g[b]. -/
  | twait (g : BitVec 4) (b : BitVec 5) (a : BitVec 5)
  /-- `TCAST` (R150). Multicasts scratchpad bytes into a tile of every masked core once all accept, all-or-nothing. -/
  | tcast (g : BitVec 4) (b : BitVec 5) (a : BitVec 5) (d : BitVec 5)
  /-- `BBINIT` (R140). Puts the bit buffer in read mode at a start byte and refills it. -/
  | bbinit (g : BitVec 4) (b : BitVec 5) (a : BitVec 5)
  /-- `BBINITW` (R140). Puts the bit buffer in write mode at a start byte. -/
  | bbinitw (g : BitVec 4) (b : BitVec 5) (a : BitVec 5)
  /-- `BBPEEK` (R140). Writes gD with the next n stream bits without consuming them. -/
  | bbpeek (g : BitVec 4) (b : BitVec 5) (d : BitVec 5)
  /-- `BBGET` (R140). Writes gD with the next n stream bits and advances P. -/
  | bbget (g : BitVec 4) (b : BitVec 5) (d : BitVec 5)
  /-- `BBSKIP` (R140). Advances the stream position by g[b]. -/
  | bbskip (g : BitVec 4) (b : BitVec 5)
  /-- `BBSEEK` (R140). Sets the stream position and refills from it. -/
  | bbseek (g : BitVec 4) (a : BitVec 5)
  /-- `BBPOS` (R140). Writes gD with the stream position P. -/
  | bbpos (g : BitVec 4) (d : BitVec 5)
  /-- `BBLUT` (R140). Writes gD with the 16-bit table entry indexed by the next n stream bits. -/
  | bblut (g : BitVec 4) (b : BitVec 5) (a : BitVec 5) (d : BitVec 5)
  /-- `BBPUT` (R140). Appends n bits of g[a] to the stream, storing completed bytes. -/
  | bbput (g : BitVec 4) (b : BitVec 5) (a : BitVec 5)
  /-- `BBFLUSH` (R140). Stores the partial byte and moves P to the next byte boundary. -/
  | bbflush (g : BitVec 4)
  /-- `BFX` (R143). Extracts a bit field of g[a] into gD. -/
  | bfx (g : BitVec 4) (b : BitVec 5) (a : BitVec 5) (d : BitVec 5)
  /-- `BFI` (R143). Inserts the low bits of g[a] into a field of gD. -/
  | bfi (g : BitVec 4) (b : BitVec 5) (a : BitVec 5) (d : BitVec 5)
  /-- `FSHL` (R143). Funnel-shifts gD:g[a] left and keeps the high 64 bits. -/
  | fshl (g : BitVec 4) (b : BitVec 5) (a : BitVec 5) (d : BitVec 5)
  /-- `FSHR` (R143). Funnel-shifts g[a]:gD right and keeps the low 64 bits. -/
  | fshr (g : BitVec 4) (b : BitVec 5) (a : BitVec 5) (d : BitVec 5)
  /-- `BREV` (R143). Writes gD with the bit reversal of g[a]. -/
  | brev (g : BitVec 4) (a : BitVec 5) (d : BitVec 5)
  /-- `VADD` (R121). Elementwise addition under the guard. -/
  | vadd (t : BitVec 3) (g : BitVec 4) (b : BitVec 5) (a : BitVec 5) (d : BitVec 5)
  /-- `VSUB` (R121). Elementwise subtraction. -/
  | vsub (t : BitVec 3) (g : BitVec 4) (b : BitVec 5) (a : BitVec 5) (d : BitVec 5)
  /-- `VMUL` (R121). Elementwise multiplication. -/
  | vmul (t : BitVec 3) (g : BitVec 4) (b : BitVec 5) (a : BitVec 5) (d : BitVec 5)
  /-- `VFMA` (R121). Elementwise fused multiply-add d + a × b. -/
  | vfma (t : BitVec 3) (g : BitVec 4) (b : BitVec 5) (a : BitVec 5) (d : BitVec 5)
  /-- `VFMS` (R121). Elementwise fused multiply-subtract d − a × b. -/
  | vfms (t : BitVec 3) (g : BitVec 4) (b : BitVec 5) (a : BitVec 5) (d : BitVec 5)
  /-- `VMIN` (R121). Elementwise minimum. -/
  | vmin (t : BitVec 3) (g : BitVec 4) (b : BitVec 5) (a : BitVec 5) (d : BitVec 5)
  /-- `VMAX` (R121). Elementwise maximum. -/
  | vmax (t : BitVec 3) (g : BitVec 4) (b : BitVec 5) (a : BitVec 5) (d : BitVec 5)
  /-- `VDIV` (R121). Elementwise correctly rounded division. -/
  | vdiv (t : BitVec 3) (g : BitVec 4) (b : BitVec 5) (a : BitVec 5) (d : BitVec 5)
  /-- `VABS` (R122). Elementwise absolute value. -/
  | vabs (t : BitVec 3) (g : BitVec 4) (a : BitVec 5) (d : BitVec 5)
  /-- `VNEG` (R122). Elementwise negation. -/
  | vneg (t : BitVec 3) (g : BitVec 4) (a : BitVec 5) (d : BitVec 5)
  /-- `VSQRT` (R123). Elementwise square root rounded once. -/
  | vsqrt (t : BitVec 3) (g : BitVec 4) (a : BitVec 5) (d : BitVec 5)
  /-- `VRCP` (R123). Elementwise reciprocal rounded once. -/
  | vrcp (t : BitVec 3) (g : BitVec 4) (a : BitVec 5) (d : BitVec 5)
  /-- `VRSQRT` (R123). Elementwise reciprocal square root rounded once. -/
  | vrsqrt (t : BitVec 3) (g : BitVec 4) (a : BitVec 5) (d : BitVec 5)
  /-- `VEXP2` (R123). Elementwise 2^a rounded once. -/
  | vexp2 (t : BitVec 3) (g : BitVec 4) (a : BitVec 5) (d : BitVec 5)
  /-- `VLOG2` (R123). Elementwise log2 a rounded once. -/
  | vlog2 (t : BitVec 3) (g : BitVec 4) (a : BitVec 5) (d : BitVec 5)
  /-- `VMOV` (R122). Elementwise bit-exact copy. -/
  | vmov (t : BitVec 3) (g : BitVec 4) (a : BitVec 5) (d : BitVec 5)
  /-- `VACT` (R124). Applies an activation function to each selected element. -/
  | vact (t : BitVec 3) (g : BitVec 4) (f : BitVec 5) (a : BitVec 5) (d : BitVec 5)
  /-- `VDACT` (R124). Writes the activation derivative expressed in the saved output. -/
  | vdact (t : BitVec 3) (g : BitVec 4) (f : BitVec 5) (a : BitVec 5) (d : BitVec 5)
  /-- `VCMP.eq` (R125). Writes pD with elementwise equality. -/
  | vcmpEq (t : BitVec 3) (g : BitVec 4) (b : BitVec 5) (a : BitVec 5) (p : BitVec 3)
  /-- `VCMP.ne` (R125). Writes pD with elementwise inequality. -/
  | vcmpNe (t : BitVec 3) (g : BitVec 4) (b : BitVec 5) (a : BitVec 5) (p : BitVec 3)
  /-- `VCMP.lt` (R125). Writes pD with elementwise less-than. -/
  | vcmpLt (t : BitVec 3) (g : BitVec 4) (b : BitVec 5) (a : BitVec 5) (p : BitVec 3)
  /-- `VCMP.le` (R125). Writes pD with elementwise less-or-equal. -/
  | vcmpLe (t : BitVec 3) (g : BitVec 4) (b : BitVec 5) (a : BitVec 5) (p : BitVec 3)
  /-- `VSEL` (R126). Writes each element from vA where the condition holds, else from vB. -/
  | vsel (t : BitVec 3) (c : BitVec 4) (b : BitVec 5) (a : BitVec 5) (d : BitVec 5)
  /-- `VNFIN` (R127). Writes pD with non-finite selected elements and sets FFLAGS.NF. -/
  | vnfin (t : BitVec 3) (g : BitVec 4) (a : BitVec 5) (p : BitVec 3)
  /-- `VAND` (R128). Elementwise bitwise AND. -/
  | vand (t : BitVec 3) (g : BitVec 4) (b : BitVec 5) (a : BitVec 5) (d : BitVec 5)
  /-- `VOR` (R128). Elementwise bitwise OR. -/
  | vor (t : BitVec 3) (g : BitVec 4) (b : BitVec 5) (a : BitVec 5) (d : BitVec 5)
  /-- `VXOR` (R128). Elementwise bitwise XOR. -/
  | vxor (t : BitVec 3) (g : BitVec 4) (b : BitVec 5) (a : BitVec 5) (d : BitVec 5)
  /-- `VNOT` (R128). Elementwise bitwise NOT. -/
  | vnot (t : BitVec 3) (g : BitVec 4) (a : BitVec 5) (d : BitVec 5)
  /-- `VSHL` (R128). Elementwise left shift. -/
  | vshl (t : BitVec 3) (g : BitVec 4) (b : BitVec 5) (a : BitVec 5) (d : BitVec 5)
  /-- `VSHR` (R128). Elementwise logical right shift. -/
  | vshr (t : BitVec 3) (g : BitVec 4) (b : BitVec 5) (a : BitVec 5) (d : BitVec 5)
  /-- `VSHA` (R128). Elementwise arithmetic right shift. -/
  | vsha (t : BitVec 3) (g : BitVec 4) (b : BitVec 5) (a : BitVec 5) (d : BitVec 5)
  /-- `VIOTA` (R128). Writes each selected element with its index. -/
  | viota (t : BitVec 3) (g : BitVec 4) (d : BitVec 5)
  /-- `VBCAST` (R129). Broadcasts the low bits of gA into each selected element. -/
  | vbcast (t : BitVec 3) (g : BitVec 4) (a : BitVec 5) (d : BitVec 5)
  /-- `VEXTR` (R129). Writes gD with one element of vA, extended. -/
  | vextr (t : BitVec 3) (g : BitVec 4) (b : BitVec 5) (a : BitVec 5) (d : BitVec 5)
  /-- `VINS` (R129). Inserts the low bits of gA into one element of vD. -/
  | vins (t : BitVec 3) (g : BitVec 4) (b : BitVec 5) (a : BitVec 5) (d : BitVec 5)
  /-- `VPERM` (R129). Permutes elements of vA by indices in vB. -/
  | vperm (t : BitVec 3) (g : BitVec 4) (b : BitVec 5) (a : BitVec 5) (d : BitVec 5)
  /-- `VRED` (R130). Reduces selected elements by a pairwise sum, max or min tree. -/
  | vred (t : BitVec 3) (g : BitVec 4) (o : BitVec 5) (a : BitVec 5) (d : BitVec 5)
  /-- `VSCAN` (R130). Writes the sequential prefix sum, max or min. -/
  | vscan (t : BitVec 3) (g : BitVec 4) (o : BitVec 5) (a : BitVec 5) (d : BitVec 5)
  /-- `VDOT` (R130). Writes the pairwise-tree dot product of vA and vB. -/
  | vdot (t : BitVec 3) (g : BitVec 4) (b : BitVec 5) (a : BitVec 5) (d : BitVec 5)
  /-- `VHAD` (R131). Applies the block Walsh–Hadamard rotation of size 16, 32 or 64. -/
  | vhad (n : BitVec 5) (a : BitVec 5) (d : BitVec 5)
  /-- `VCVT` (R132). Converts elements between types with the chosen rounding. -/
  | vcvt (t : BitVec 3) (g : BitVec 4) (r : BitVec 2) (s : BitVec 3) (a : BitVec 5) (d : BitVec 5)
  /-- `VPACK` (R133). Packs FP32 groups into one SX7 or SX3 block. -/
  | vpack (t : BitVec 3) (a : BitVec 5) (d : BitVec 5)
  /-- `VUNPK` (R133). Unpacks an SX7 or SX3 block into FP32 groups. -/
  | vunpk (t : BitVec 3) (a : BitVec 5) (d : BitVec 5)
  /-- `VADD.f32` (R31). Short form of VADD.f32 vd, vd, vs. -/
  | vaddF32S (s : BitVec 5) (d : BitVec 5)
  /-- `VSUB.f32` (R31). Short form of VSUB.f32 vd, vd, vs. -/
  | vsubF32S (s : BitVec 5) (d : BitVec 5)
  /-- `VMUL.f32` (R31). Short form of VMUL.f32 vd, vd, vs. -/
  | vmulF32S (s : BitVec 5) (d : BitVec 5)
  /-- `VMAX.f32` (R31). Short form of VMAX.f32 vd, vd, vs. -/
  | vmaxF32S (s : BitVec 5) (d : BitVec 5)
  /-- `VMIN.f32` (R31). Short form of VMIN.f32 vd, vd, vs. -/
  | vminF32S (s : BitVec 5) (d : BitVec 5)
  /-- `VADD.bf16` (R31). Short form of VADD.bf16 vd, vd, vs. -/
  | vaddBf16S (s : BitVec 5) (d : BitVec 5)
  /-- `VMUL.bf16` (R31). Short form of VMUL.bf16 vd, vd, vs. -/
  | vmulBf16S (s : BitVec 5) (d : BitVec 5)
  /-- `VADD.i32` (R31). Short form of VADD.i32 vd, vd, vs. -/
  | vaddI32S (s : BitVec 5) (d : BitVec 5)
  /-- `VSUB.i32` (R31). Short form of VSUB.i32 vd, vd, vs. -/
  | vsubI32S (s : BitVec 5) (d : BitVec 5)
  /-- `VAND` (R31). Short form of VAND vd, vd, vs. -/
  | vandS (s : BitVec 5) (d : BitVec 5)
  /-- `VOR` (R31). Short form of VOR vd, vd, vs. -/
  | vorS (s : BitVec 5) (d : BitVec 5)
  /-- `VXOR` (R31). Short form of VXOR vd, vd, vs. -/
  | vxorS (s : BitVec 5) (d : BitVec 5)
  /-- `VMOV` (R31). Short form of VMOV vd, vs. -/
  | vmovS (s : BitVec 5) (d : BitVec 5)
  /-- `VABS.f32` (R31). Short form of VABS.f32 vd, vs. -/
  | vabsF32S (s : BitVec 5) (d : BitVec 5)
  /-- `VRELU.f32` (R31). Short form of VACT relu on f32. -/
  | vreluF32S (s : BitVec 5) (d : BitVec 5)
  /-- `DICT_REF` (R32). Executes the 32-bit word held at an entry of the desk's dictionary, with an optional guard replacement. -/
  | dictRef (i : BitVec 10) (g : BitVec 4)
  /-- `MMA.pt` (R165). Queues a plus-times matrix product into an accumulator slot. -/
  | mmaPt (k : BitVec 4) (b : BitVec 5) (a : BitVec 5) (s : BitVec 1) (c : BitVec 1) (n : BitVec 2)
  /-- `MMA.minp` (R165). Queues a min-plus matrix product. -/
  | mmaMinp (k : BitVec 4) (b : BitVec 5) (a : BitVec 5) (s : BitVec 1) (c : BitVec 1) (n : BitVec 2)
  /-- `MMA.maxp` (R165). Queues a max-plus matrix product. -/
  | mmaMaxp (k : BitVec 4) (b : BitVec 5) (a : BitVec 5) (s : BitVec 1) (c : BitVec 1) (n : BitVec 2)
  /-- `MMA.maxt` (R165). Queues a max-times matrix product. -/
  | mmaMaxt (k : BitVec 4) (b : BitVec 5) (a : BitVec 5) (s : BitVec 1) (c : BitVec 1) (n : BitVec 2)
  /-- `MMA.orand` (R165). Queues an or-and Boolean matrix product. -/
  | mmaOrand (k : BitVec 4) (b : BitVec 5) (a : BitVec 5) (s : BitVec 1) (c : BitVec 1) (n : BitVec 2)
  /-- `MMAS` (R166). Queues a segmented product summing A's rows per run before multiplying by B. -/
  | mmas (k : BitVec 4) (b : BitVec 5) (a : BitVec 5) (s : BitVec 1) (c : BitVec 1) (n : BitVec 2)
  /-- `MZERO` (R167). Sets a slot's shape and kind and zeroes it. -/
  | mzero (k : BitVec 4) (a : BitVec 5) (n : BitVec 2)
  /-- `MLDC` (R167). Loads a slot from an FP32, INT32 or BOOL1 operand. -/
  | mldc (k : BitVec 4) (a : BitVec 5) (n : BitVec 2)
  /-- `MOUT` (R167). Writes a slot out through its epilogue to a destination operand. -/
  | mout (k : BitVec 4) (a : BitVec 5) (n : BitVec 2)
  /-- `MEPI` (R168). Reads an epilogue record and sets the epilogue for later MOUTs of the slot. -/
  | mepi (k : BitVec 4) (a : BitVec 5) (n : BitVec 2)
  /-- `MMASK.row` (R183). Sets a slot's 128-bit row mask. -/
  | mmaskRow (k : BitVec 4) (a : BitVec 5) (n : BitVec 2)
  /-- `MMASK.blk` (R183). Sets a slot's 64-bit block mask. -/
  | mmaskBlk (k : BitVec 4) (a : BitVec 5) (n : BitVec 2)
  /-- `MWAIT` (R169). Waits for earlier commands on the slot and reports a pending fault. -/
  | mwait (n : BitVec 2)
  /-- `MSEND` (R173). Reads a command record and delivers it with a capability token to another core's matrix unit. -/
  | msend (k : BitVec 4) (b : BitVec 5) (a : BitVec 5)
  /-- `MCAP` (R172). Mints a capability token for remote matrix commands. -/
  | mcap (a : BitVec 5) (d : BitVec 5)
  /-- `MREVOKE` (R172). Frees the capability entry a token names. -/
  | mrevoke (a : BitVec 5)
  /-- `MSTAT` (R184). Writes gD with a slot exception counter or RES after earlier commands. -/
  | mstat (n : BitVec 2) (a : BitVec 5) (d : BitVec 5)
  /-- `MTHR` (R184). Sets a slot's thresholds and clears its counters and report flags. -/
  | mthr (k : BitVec 4) (a : BitVec 5) (n : BitVec 2)
  /-- `MPROG.rd` (R184). Writes gD with the slot's row-progress register. -/
  | mprogRd (n : BitVec 2) (d : BitVec 5)
  /-- `MPROG.wr` (R184). Writes the slot's row-progress register. -/
  | mprogWr (a : BitVec 5) (n : BitVec 2)
  /-- `KHASH` (R286). Writes gD with the key hash under a seed. -/
  | khash (g : BitVec 4) (b : BitVec 5) (a : BitVec 5) (d : BitVec 5)
  /-- `KFIND` (R286). Looks up a key and writes its slot or NK. -/
  | kfind (g : BitVec 4) (b : BitVec 5) (a : BitVec 5) (d : BitVec 5)
  /-- `KINS` (R286). Finds or inserts a key and writes its slot. -/
  | kins (g : BitVec 4) (b : BitVec 5) (a : BitVec 5) (d : BitVec 5)
  /-- `KDEL` (R286). Turns a key's slot into a tombstone. -/
  | kdel (g : BitVec 4) (b : BitVec 5) (a : BitVec 5) (d : BitVec 5)
  /-- `KACC` (R287). Inserts the key if absent and accumulates a source vector into its payload or replica. -/
  | kacc (g : BitVec 4) (b : BitVec 5) (a : BitVec 5) (d : BitVec 5)
  /-- `KGET` (R287). Copies a key's main payload, or zeros, to the scratchpad. -/
  | kget (g : BitVec 4) (b : BitVec 5) (a : BitVec 5) (d : BitVec 5)
  /-- `KPUT` (R287). Inserts the key if absent and overwrites its payload. -/
  | kput (g : BitVec 4) (b : BitVec 5) (a : BitVec 5) (d : BitVec 5)
  /-- `KHOT` (R288). Makes a key hot with r replicas. -/
  | khot (g : BitVec 4) (b : BitVec 5) (a : BitVec 5) (d : BitVec 5)
  /-- `KMERGE` (R288). Merges a hot key's replicas, or every hot key for NK. -/
  | kmerge (g : BitVec 4) (b : BitVec 5) (a : BitVec 5)
  /-- `KSCAN` (R289). Finds the next live, optionally dirty, slot from a cursor. -/
  | kscan (g : BitVec 4) (b : BitVec 5) (a : BitVec 5) (d : BitVec 5)
  /-- `KDIRTY` (R289). Sets DIRTY on a key's live slot. -/
  | kdirty (g : BitVec 4) (b : BitVec 5) (a : BitVec 5)
  /-- `KCOUNT` (R286). Writes a key's COUNT, or LIVE for NK. -/
  | kcount (g : BitVec 4) (b : BitVec 5) (a : BitVec 5) (d : BitVec 5)
  /-- `JBIND` (R290). Checks a join-tree type and binding and copies them into a join handle. -/
  | jbind (b : BitVec 5) (a : BitVec 5) (n : BitVec 2)
  /-- `JNODE` (R291). Writes a field of a bound handle's node. -/
  | jnode (b : BitVec 5) (n : BitVec 2) (d : BitVec 5)
  /-- `KRANGE` (R292). Binary-searches a sorted relation for a key's row range. -/
  | krange (b : BitVec 5) (a : BitVec 5) (d : BitVec 5)
  /-- `KRUNS` (R293). Writes the run list of equal keys over a row range. -/
  | kruns (k : BitVec 4) (b : BitVec 5) (a : BitVec 5) (d : BitVec 5)
  /-- `KISECT` (R294). Intersects the sorted key columns of 2 to 4 relations. -/
  | kisect (k : BitVec 4) (a : BitVec 5)
  /-- `JGATHER` (R296). Sums children's partial results per row into a tile and writes the kept-row predicate. -/
  | jgather (b : BitVec 5) (a : BitVec 5) (n : BitVec 2) (p : BitVec 3)
  /-- `JSCATTER` (R297). Probes keys and accumulates tile rows into P or D tables in two phases. -/
  | jscatter (k : BitVec 4) (b : BitVec 5) (a : BitVec 5) (n : BitVec 2) (p : BitVec 3)
  /-- `CPY` (R309). Submits a copy job card to the cluster's copy engine. -/
  | cpy (k : BitVec 4) (a : BitVec 5)
  /-- `CPYQ` (R309). Submits a quantising copy job card. -/
  | cpyq (k : BitVec 4) (a : BitVec 5)
  /-- `GATH` (R309). Submits a gather job card. -/
  | gath (k : BitVec 4) (a : BitVec 5)
  /-- `COLL` (R316). Submits a collective job card to the die's collective engine. -/
  | coll (k : BitVec 4) (a : BitVec 5)
  /-- `FPUT` (R320). Submits a fabric put card to the package gateway. -/
  | fput (k : BitVec 4) (a : BitVec 5)
  /-- `FGET` (R320). Submits a fabric get card to the package gateway. -/
  | fget (k : BitVec 4) (a : BitVec 5)
  /-- `JOBX` (R313). Cancels the most recent uncompleted card from an address. -/
  | jobx (a : BitVec 5) (d : BitVec 5)
  /-- `MSG` (R322). Sends 64 bytes of vB to a target core's inbound queue, stalling until accepted. -/
  | msg (k : BitVec 4) (b : BitVec 5) (a : BitVec 5)
  /-- `MRECV` (R324). Takes the oldest message for this context from a queue into vD, waiting when empty. -/
  | mrecv (q : BitVec 2) (d : BitVec 5)
  /-- `MPEEK` (R324). Writes the number of messages for this context in a queue. -/
  | mpeek (q : BitVec 2) (d : BitVec 5)
  /-- `MSG.nb` (R322). Sends a message without stalling and reports acceptance, back-pressure or refusal. -/
  | msgNb (b : BitVec 5) (a : BitVec 5) (d : BitVec 5)
  /-- `LAUNCH` (R341). Places a launch record in a launch queue and returns its sequence number. -/
  | launch (b : BitVec 5) (a : BitVec 5) (d : BitVec 5)
  /-- `SPAWN` (R342). Makes a launch record a child of the issuing launch. -/
  | spawn (a : BitVec 5) (d : BitVec 5)
  /-- `SHARE` (R343). Writes SHAREIX and SHARECT into a register pair. -/
  | share (d : BitVec 5)
  /-- `TEND` (R344). Ends the desk's part of the share and, as last desk, moves to the next slot or rings the bell. -/
  | tend
  /-- `ESIGNAL` (R345). Ends the stage after this superstep, or fails the launch with a code. -/
  | esignal (b : BitVec 5) (a : BitVec 5)
  /-- `SQPUT` (R346). Appends a 64-byte item to the stage's output queue. -/
  | sqput (a : BitVec 5) (d : BitVec 5)
  /-- `SQGET` (R346). Takes the oldest item of the input queue with an acquire and generation bump. -/
  | sqget (a : BitVec 5) (d : BitVec 5)
  /-- `SQLEN` (R346). Writes the item count of the input or output queue. -/
  | sqlen (x : BitVec 1) (d : BitVec 5)
  /-- `MFS` (R362). Reads a system register into gD after earlier instructions retire. -/
  | mfs (r : BitVec 12) (d : BitVec 5)
  /-- `MTS` (R362). Writes gA into the RW fields of a system register that has no behaviour of its own. -/
  | mts (r : BitVec 12) (a : BitVec 5)
  /-- `TRAP` (R360). Raises software cause 0x1F0 + n with XVAL = g[a]. -/
  | trap (n : BitVec 4) (a : BitVec 5)
  /-- `XRET` (R360). Returns from a trap to XPC, restoring mode and a saved user-handler state. -/
  | xret
  /-- `XRET.skip` (R360). Returns from a trap past the trapping instruction. -/
  | xretSkip
  /-- `CTXSV` (R368). Brings named desks to rest and writes their context save area. -/
  | ctxsv (b : BitVec 5) (a : BitVec 5)
  /-- `CTXRS` (R369). Restores desks and optionally the share part from a save area. -/
  | ctxrs (b : BitVec 5) (a : BitVec 5)
  /-- `TLBINV` (R384). Removes selected translations package-wide and waits for accesses that used them. -/
  | tlbinv (b : BitVec 5) (a : BitVec 5)
  /-- `BRKPT` (R387). Records a pending debug stop under a session. -/
  | brkpt (b : BitVec 5)
  /-- `ROLL` (R386). Requests one extra roll call and writes its sequence number. -/
  | roll (d : BitVec 5)
  /-- `CKPT` (R388). Requests one more checkpoint at the next superstep start. -/
  | ckpt
  /-- `IDLE` (R361). Makes the desk not ready until RTREQ is set or the timeout passes. -/
  | idle (a : BitVec 5)
  /-- `FRM_WRITE` (R55). An MTS of FRM updates SAT and MODE, leaving MODE unchanged for values 5 to 7. -/
  | frmWrite (a : GReg)
  /-- `FFLAGS_WRITE` (R61). An MTS of FFLAGS sets or clears the sticky flags after every earlier instruction. -/
  | fflagsWrite (a : GReg)
  /-- `SRSEED_WRITE` (R59). An MTS of SRSEED stores the generator state, storing 1 for 0. -/
  | srseedWrite (a : GReg)
  /-- `LC_WRITE` (R95). An MTS of LC0 or LC1 sets a loop count, exiting after the current iteration for 0 or 1. -/
  | lcWrite (n : BitVec 1) (a : GReg)
  /-- `VPROG_WRITE` (R234). An MTS of VPROG sets the first lane of the next vector atomic. -/
  | vprogWrite (a : GReg)
  /-- `BIT_BUFFER_WRITE` (R139). An MTS of a bit-buffer register takes effect from the next bit-stream instruction. -/
  | bitBufferWrite (r : BitVec 3) (a : GReg)
  /-- `RTREQ_WRITE` (R361). Writing 1 to RTREQ bits clears them. -/
  | rtreqWrite (a : GReg)
  /-- `MONCTL_WRITE` (R390). A write to MONCTLn configures a monitor and clears it when it sets EN. -/
  | monctlWrite (n : BitVec 5) (a : GReg)
  /-- `MONDATA_READ` (R390). An MFS of MONDATA returns the monitor word that MONSEL selects. -/
  | mondataRead (d : GReg)
  /-- `RCCTL_WRITE` (R385). A write to RCCTL sets the roll-call period and reaches every die within 200 clk. -/
  | rcctlWrite (a : GReg)
  /-- `CKCTL_WRITE` (R388). A write to CKCTL enables periodic checkpoints every 2^C bells. -/
  | ckctlWrite (a : GReg)
  /-- `STEPCNT_WRITE` (R389). A write to STEPCNT sets the instruction count at which a replayed desk stops. -/
  | stepcntWrite (a : GReg)
  /-- `ASYNC_TRAP` (R356). Delivers a pending asynchronous fault at the desk's next instruction boundary. -/
  | asyncTrap (c : CoreId) (d : DeskId)
  /-- `DESK_RESUME` (R16). An idle core resumes the first desk whose outstanding references have returned. -/
  | deskResume (c : CoreId)
  /-- `LOAD_RETURN` (R190). A global load's value returns from L1 or its home and retires into its destination. -/
  | loadReturn (c : CoreId) (d : DeskId)
  /-- `STORE_PERFORM` (R189). A store-queue entry is performed at its home. -/
  | storePerform (c : CoreId) (d : DeskId) (i : Nat)
  /-- `L2_FILL` (R213). A line filled into its home bank takes version floor + 1 and a free entry. -/
  | l2Fill (pa : PAddr)
  /-- `TWIN_STEP` (R217). Within 200 clk of final content a bank points an eligible line at the zero entry or a matching entry. -/
  | twinStep (pa : PAddr)
  /-- `MS_REQUEST_FORWARD` (R208). A bank writes back or invalidates its copy before forwarding memory-side requests. -/
  | msRequestForward (pa : PAddr)
  /-- `WALK` (R378). A page-table walk resolves a translation or fails with a reason. -/
  | walk (c : CoreId) (d : DeskId) (va : Word) (acc : BitVec 2)
  /-- `CWAIT_WAKE` (R250). A write that satisfies registered waiters wakes them in registration order within 20 clk. -/
  | cwaitWake (pa : PAddr)
  /-- `WAITER_REREAD` (R250). With the waiter list full a waiting CWAIT or BWAIT rereads its home every 128 clk. -/
  | waiterReread (c : CoreId) (d : DeskId)
  /-- `QUEUE_WATCHDOG` (R102). A port wait of 2^20 clk with no retirement traps with cause 0x0C8. -/
  | queueWatchdog (c : CoreId) (d : DeskId)
  /-- `GANG_WATCHDOG` (R110). A gang or reconvergence wait of 2^20 clk traps with cause 0x012. -/
  | gangWatchdog (c : CoreId) (d : DeskId)
  /-- `TILE_WATCHDOG` (R153). A tile wait of 2^20 clk traps with cause 0x0C7. -/
  | tileWatchdog (c : CoreId) (d : DeskId)
  /-- `MSG_WATCHDOG` (R322). An MSG stalled 2^20 clk traps with cause 0x145, sending nothing. -/
  | msgWatchdog (c : CoreId) (d : DeskId)
  /-- `IDLE_WAKE` (R361). An idle desk becomes ready when RTREQ is set or its timeout passes. -/
  | idleWake (c : CoreId) (d : DeskId)
  /-- `GANG_FORWARD` (R18). A follower executes each forwarded word 2h clk after the leader on its own registers. -/
  | gangForward (c : CoreId)
  /-- `BRQ_RESOLVE` (R105). The awaited queue head arrives and confirms or discards the run-ahead generation. -/
  | brqResolve (c : CoreId) (d : DeskId)
  /-- `EXECUTE_CLEAR` (R411). When earlier execute-stream instructions clear, held access-stream work takes effect in order. -/
  | executeClear (c : CoreId) (d : DeskId)
  /-- `REP_PASS` (R98). The sequencer executes one pass of the recorded instructions with staggered fields. -/
  | repPass (c : CoreId) (d : DeskId)
  /-- `TCAST_DELIVERY` (R150). Once every target accepts, the bytes are written into all targets at once and they become READY. -/
  | tcastDelivery (c : CoreId) (d : DeskId)
  /-- `MATRIX_COMMAND_START` (R165). The unit starts a queued command, rechecking slot kind and shape. -/
  | matrixCommandStart (c : CoreId) (n : BitVec 2)
  /-- `MMA_BLOCK_COMMIT` (R176). A 16-row block completes over K and commits, advancing row progress. -/
  | mmaBlockCommit (c : CoreId) (n : BitVec 2)
  /-- `MATRIX_COMMAND_COMPLETE` (R169). A matrix command completes when its slot holds the result or its writes are performed. -/
  | matrixCommandComplete (c : CoreId) (n : BitVec 2)
  /-- `MATRIX_OPERAND_FAULT` (R177). An operand access fault stops the command and records the cause on the slot. -/
  | matrixOperandFault (c : CoreId) (n : BitVec 2)
  /-- `REMOTE_COMMAND_ACCEPT` (R173). A target core accepts or refuses a delivered MSEND record. -/
  | remoteCommandAccept (c : CoreId) (d : DeskId)
  /-- `REMOTE_COMMAND_COMPLETE` (R173). An accepted remote command completes and adds 1 at its counter as a release. -/
  | remoteCommandComplete (c : CoreId) (n : BitVec 2)
  /-- `CARD_START` (R310). An engine starts the card at its queue head once its footprint edges are met. -/
  | cardStart (e : EngineId) (i : Nat)
  /-- `CARD_COMPLETE` (R312). A card performs its writes, writes STATUS and adds at its counter. -/
  | cardComplete (e : EngineId) (i : Nat)
  /-- `CARD_FAILURE` (R312). An engine access that cannot be made stops the card with a failure status. -/
  | cardFailure (e : EngineId) (i : Nat)
  /-- `COLLECTIVE_INSTANCE` (R315). The cards of every member form an instance that combines and completes on all members. -/
  | collectiveInstance (l : Nat) (g : BitVec 16) (k : Nat)
  /-- `SWITCH_COMBINE` (R318). An attested Horuf switch decrypts, combines in FP32 and re-encodes an instance's payloads. -/
  | switchCombine (l : Nat) (g : BitVec 16) (k : Nat) (w : Word)
  /-- `MESSAGE_ARRIVAL` (R323). An arriving message is placed in a queue or mailbox by its context, or refused. -/
  | messageArrival (i : Nat)
  /-- `NM_TRANSLATION_PHASE` (R236). A released NMOP translates every array page and checks MS = 1. -/
  | nmTranslationPhase (c : CoreId) (d : DeskId) (i : Nat)
  /-- `NM_UPDATE_PHASE` (R236). Near-memory units update every element and the command adds at COUNTER. -/
  | nmUpdatePhase (c : CoreId) (d : DeskId) (i : Nat)
  /-- `JSCATTER_PHASE2` (R297). After retirement the key unit performs JSCATTER's additions. -/
  | jscatterPhase2 (c : CoreId)
  /-- `KEY_ACCUMULATE` (R283). A payload addition lands at the home of each element while the key's slot is live. -/
  | keyAccumulate (c : CoreId)
  /-- `HOT_PROMOTION` (R276). At the end of a 4,096-clk window a slot whose contention passed HOTTHR is made hot. -/
  | hotPromotion (p : PartId) (h : Word) (slot : Nat) (n : Nat)
  /-- `LAUNCH_TAKE` (R330). The timetable takes a published head record and checks it. -/
  | launchTake (p : PartId) (q : BitVec 4)
  /-- `LAUNCH_START` (R334). An eligible head starts when every stage can receive MIN cores. -/
  | launchStart (p : PartId) (q : BitVec 4) (info : LoadInfo)
  /-- `SPAN_START` (R331). A combined stage begins once all SPANDEV devices have started. -/
  | spanStart (l : Nat)
  /-- `SHARE_DISPATCH` (R335). A share starts on its desks with entry registers, seeds and reset state and bumps L1. -/
  | shareDispatch (c : CoreId) (x : CtxIds)
  /-- `STAGE_ITEM_DISPATCH` (R27). Dispatch of a stage-queue item bumps the L1 generation before its first instruction. -/
  | stageItemDispatch (c : CoreId)
  /-- `BELL_COMPLETE` (R22). After the last ring every core leaves the bell and begins exchange. -/
  | bellComplete (l : Nat) (k : Nat) (x : BitVec 16)
  /-- `EXCHANGE_END` (R256). When every core's exchange ends the next compute begins and SSCNT advances. -/
  | exchangeEnd (l : Nat) (k : Nat)
  /-- `PREEMPT_IMMEDIATE` (R338). The timetable saves running shares to the resume list at the first permitted point. -/
  | preemptImmediate (c : CoreId) (area : Word)
  /-- `RESUME_ENTRY` (R338). A core that ended its dealt slots takes the lowest resume-list entry. -/
  | resumeEntry (c : CoreId)
  /-- `HANG_DETECT` (R339). A compute phase past HANGLIMIT fails the launch with cause 0x183. -/
  | hangDetect (l : Nat) (k : Nat)
  /-- `LAUNCH_FAIL` (R339). The timetable freezes the launch, writes its record failed and cancels dependents. -/
  | launchFail (l : Nat) (cause : Cause) (v : Word) (pc : Word) (c : CoreId)
  /-- `SHARE_RERUN` (R340). An uncorrected error in a restartable share re-runs it from its input snapshot. -/
  | shareRerun (c : CoreId) (x : CtxIds)
  /-- `LAUNCH_COMPLETE` (R347). A finished launch writes its record done and adds to DONECNT as a release. -/
  | launchComplete (l : Nat)
  /-- `DEBUG_STOP` (R387). A pending stop freezes the launch at its next bell or exchange end and writes a stop record. -/
  | debugStop (l : Nat)
  /-- `CHECKPOINT` (R388). At a superstep start the timetable writes each core's tiles, region and counters. -/
  | checkpoint (l : Nat) (k : Nat)
  /-- `REPLAY_STOP` (R389). A replayed desk stops when ICNT reaches STEPCNT and its state is written. -/
  | replayStop (c : CoreId) (d : DeskId)
  /-- `ROLL_CALL` (R385). On a tick every core latches each desk's state and PC and a record is written. -/
  | rollCall
  /-- `MONITOR_SAMPLE` (R390). A level monitor samples its source every 2^16 clk. -/
  | monitorSample (p : PartId) (n : BitVec 5) (v : Word)
  /-- `ERROR_EVENT` (R371). An ECC or residue event is corrected and counted, or poisons or raises a hardware cause. -/
  | errorEvent (u : ErrUnit)
  /-- `WINDOW_ROLLOVER` (R373). Each 2^32-clk window restarts every corrected-event count. -/
  | windowRollover
  /-- `UNIT_RETIRE` (R374). A lasting unit is retired: core spared, entry or way disabled, row remapped, engine removed. -/
  | unitRetire (u : RasUnit)
  /-- `CLOCK_STEP` (R10). The arithmetic clock changes step on every core of a die at once. -/
  | clockStep (die : BitVec 2) (k : BitVec 2)
  /-- `COLD_RESET` (R3). Cold reset of the module loads every register's reset value. -/
  | coldReset
  /-- `HOST_TAIL_WRITE` (R329). A host Horuf write advances a host-fed queue's TAILCNT. -/
  | hostTailWrite (p : PartId) (q : BitVec 4) (r : BitVec 2048)
  /-- `HOST_MEMORY_ACCESS` (R401). A host access through the physical function returns ciphertext or is refused for C = 1 frames. -/
  | hostMemoryAccess (wr : Bool) (pa : PAddr) (v : Vec)
  /-- `PARTITION_CONFIG_WRITE` (R398). The run-time writes a partition record, refused and erroring the TDI when frozen. -/
  | partitionConfigWrite (r : BitVec 512)
  /-- `LOCK_INTERFACE` (R398). Freezes every partition record of a TDI and measures them. -/
  | lockInterface (t : BitVec 11)
  /-- `START_INTERFACE` (R399). Moves a locked TDI to RUN. -/
  | startInterface (t : BitVec 11)
  /-- `TDI_ERROR` (R398). A TDI entering ERROR fails its launches and erases its key slots. -/
  | tdiError (t : BitVec 11)
  /-- `SPDM_REQUEST` (R399). The security processor answers an SPDM request with signed measurements. -/
  | spdmRequest (ix : BitVec 16) (nonce : BitVec 256)
  /-- `LINK_GROUP_FAIL` (R402). A flit group failing its tag is discarded and requested again. -/
  | linkGroupFail (k : BitVec 6) (g : Word)
  /-- `LINK_DOWN` (R402). A third failure of one group takes the link down and fails in-flight transfers with 0x1E2. -/
  | linkDown (k : BitVec 6)
  /-- `LINK_REKEY` (R402). Link partners rekey after 2^40 groups without losing a group. -/
  | linkRekey (k : BitVec 6)
  /-- `MGMT_RESET` (R404). A reset on the management port takes effect at once and fails every launch with 0x1E4. -/
  | mgmtReset
  /-- `PLDM_MONITOR` (R404). The management port answers a sensor or log request. -/
  | pldmMonitor (r : BitVec 8)
  /-- `FIRMWARE_UPDATE` (R405). A verified image replaces the single slot, or the request is refused. -/
  | firmwareUpdate (port : Bool) (img : BitVec 512)
  /-- `RESERVED_ENCODING` (R48). A fetched word that is a reserved encoding, including the all-zero halfword, traps precisely with cause 0x001 before any effect. -/
  | reservedEncoding (w : BitVec 32) (full : Bool)
  /-- `DEADLINE_PASS` (R155). When a starting launch's DEADLINE passes before a permitted save point, the timetable falls back to vacating the core in normal mode at the next bell. -/
  | deadlinePass (l : Nat)
  /-- `HOST_STOP_REQUEST` (R387). The host records a pending stop on a launch under debug. -/
  | hostStopRequest (l : Nat)
  /-- `DEBUG_RESUME` (R387). A launch frozen at a debug stop resumes on the host's command. -/
  | debugResume (l : Nat)
  /-- `DEBUG_SESSION_ATTACH` (R387). The run-time attaches a debug session to a launch at the host's request, putting the launch under debug. -/
  | debugSessionAttach (l : Nat)
  /-- `NEW_SPDM_SESSION` (R402). A link taken down gets a new SPDM session with its partner and returns to service with new keys. -/
  | newSpdmSession (k : BitVec 6)
  /-- `POWER_LOSS` (R405). Power to the module fails, cutting off any work in progress, such as a firmware slot write. -/
  | powerLoss
  /-- `STOP_INTERFACE` (R398). A TDISP stop request returns a TDI from CONFIG_LOCKED, RUN or ERROR to CONFIG_UNLOCKED. -/
  | stopInterface (t : BitVec 11)
  deriving DecidableEq, Repr

end Sys2Proof
end

