-- ==== Sys2Proof/WellFormed.lean ====
section
/-! DEFINITION. Well-formed instructions: the values of the fields that the opcode map assigns (R36, R38 to R47, R89 to R95,
R119 to R133, R163, R229, R246, R285, R290).  The decoder refuses a word whose fields hold any other value as a reserved
encoding (R48).  What depends on the desk (queue ports in a field, `.gregs`) is checked by the meanings. -/

namespace Sys2Proof

/-- Not the reserved guard code 1000 (R39). -/
def guardOk (g : Guard) : Bool := g != 8#4
/-- A condition is a guard code that is not 0000 (R42). -/
def condOk (g : Guard) : Bool := g != 8#4 && g != 0#4
/-- A guard-slot code is 0000 or 1nnn (R40). -/
def slotOk (k : Guard) : Bool := k == 0#4 || k.getLsbD 3
/-- A pair field may not name g31 (R38). -/
def pairOk (r : GReg) : Bool := r != 31#5
/-- A predicate destination is not p0 (R36). -/
def predOk (p : PReg) : Bool := p != 0#3
/-- The classes of vector types (R119): F floats, I integers, F8 the 8-bit floats. -/
def tyF (t : BitVec 3) : Bool := t.toNat ≤ 2
/-- i32, i16 and i8. -/
def tyI (t : BitVec 3) : Bool := 5 ≤ t.toNat
/-- F or I. -/
def tyFI (t : BitVec 3) : Bool := tyF t || tyI t
/-- e4m3 and e5m2. -/
def tyF8 (t : BitVec 3) : Bool := t == 3#3 || t == 4#3
/-- Memory scopes 5 to 7 are reserved (R47). -/
def scopeOk (s : BitVec 5) : Bool := s.toNat ≤ 4

/-- Every field holds a value that the map assigns. -/
def Instr.wellFormed : Instr → Bool
  | .add g _ _ _ => guardOk g
  | .sub g _ _ _ => guardOk g
  | .mul g _ _ _ => guardOk g
  | .mulh g _ _ _ => guardOk g
  | .mulhU g _ _ _ => guardOk g
  | .div g _ _ _ => guardOk g
  | .divU g _ _ _ => guardOk g
  | .rem g _ _ _ => guardOk g
  | .remU g _ _ _ => guardOk g
  | .and g _ _ _ => guardOk g
  | .or g _ _ _ => guardOk g
  | .xor g _ _ _ => guardOk g
  | .shl g _ _ _ => guardOk g
  | .shr g _ _ _ => guardOk g
  | .sha g _ _ _ => guardOk g
  | .slt g _ _ _ => guardOk g
  | .sltU g _ _ _ => guardOk g
  | .min g _ _ _ => guardOk g
  | .minU g _ _ _ => guardOk g
  | .max g _ _ _ => guardOk g
  | .maxU g _ _ _ => guardOk g
  | .clz g _ _ => guardOk g
  | .ctz g _ _ => guardOk g
  | .popc g _ _ => guardOk g
  | .extB g _ _ => guardOk g
  | .extH g _ _ => guardOk g
  | .extW g _ _ => guardOk g
  | .extBu g _ _ => guardOk g
  | .extHu g _ _ => guardOk g
  | .extWu g _ _ => guardOk g
  | .sel c _ _ _ => condOk c
  | .addImm _ _ _ => true
  | .andImm _ _ _ => true
  | .orImm _ _ _ => true
  | .xorImm _ _ _ => true
  | .shlImm _ _ _ => true
  | .shrImm _ _ _ => true
  | .shaImm _ _ _ => true
  | .sltImm _ _ _ => true
  | .lui _ _ => true
  | .addpc _ _ => true
  | .pcmpEq g _ _ d => guardOk g && predOk d
  | .pcmpNe g _ _ d => guardOk g && predOk d
  | .pcmpLt g _ _ d => guardOk g && predOk d
  | .pcmpGe g _ _ d => guardOk g && predOk d
  | .pcmpLtU g _ _ d => guardOk g && predOk d
  | .pcmpGeU g _ _ d => guardOk g && predOk d
  | .pand g _ _ d => guardOk g && predOk d
  | .por g _ _ d => guardOk g && predOk d
  | .pxor g _ _ d => guardOk g && predOk d
  | .pandn g _ _ d => guardOk g && predOk d
  | .pnot g _ d => guardOk g && predOk d
  | .pmov g _ d => guardOk g && predOk d
  | .pcnt g _ _ => guardOk g
  | .pfirst g _ _ => guardOk g
  | .pall g _ _ => guardOk g
  | .pnone g _ _ => guardOk g
  | .b _ _ c _ _ => decide (c.toNat ≤ 5)
  | .bpAny _ _ _ _ => true
  | .bpAll _ _ _ _ => true
  | .bpNone _ _ _ _ => true
  | .jal _ _ => true
  | .jr _ _ => true
  | .rep _ _ _ _ => true
  | .setk _ _ => true
  | .pendk _ => true
  | .qflush _ => true
  | .qcnt _ _ => true
  | .gang _ => true
  | .ungang => true
  | .loop l _ _ => l != 0#14
  | .loopi l _ _ => l != 0#14
  | .brd _ _ c _ _ => decide (c.toNat ≤ 5)
  | .brq _ _ c _ _ => decide (c.toNat ≤ 5)
  | .rejoin _ => true
  | .ld _ _ s _ _ => decide (s.toNat ≤ 6)
  | .st _ q s _ _ => decide (s.toNat ≤ 3) && !q.getLsbD 0
  | .ldl _ s _ _ => decide (s.toNat ≤ 6)
  | .stl _ _ _ _ => true
  | .vld _ _ _ _ => true
  | .vst _ q _ _ => !q.getLsbD 0
  | .vldl _ _ _ => true
  | .vstl _ _ _ => true
  | .lda g rb _ _ => guardOk g && scopeOk rb
  | .str g _ _ s => guardOk g && scopeOk s
  | .vlds g _ _ _ => guardOk g
  | .vsts g _ _ _ => guardOk g
  | .vgathW g _ _ _ => guardOk g
  | .vgathD g _ _ _ => guardOk g
  | .vscatW g _ _ _ => guardOk g
  | .vscatD g _ _ _ => guardOk g
  | .pref g _ _ => guardOk g
  | .fence g _ s => guardOk g && scopeOk s
  | .l1gen => true
  | .ldv g _ d => guardOk g && pairOk d
  | .ldvs g _ d => guardOk g && pairOk d
  | .valset g _ => guardOk g
  | .vclr g => guardOk g
  | .vcas g _ _ d => guardOk g && pairOk d
  | .lver g _ _ => guardOk g
  | .l2ret g _ _ _ => guardOk g
  | .unpin g _ => guardOk g
  | .l2stat g _ _ => guardOk g
  | .amoAdd _ _ _ _ _ => true
  | .amoAnd _ _ _ _ _ => true
  | .amoOr _ _ _ _ _ => true
  | .amoXor _ _ _ _ _ => true
  | .amoMin _ _ _ _ _ => true
  | .amoMax _ _ _ _ _ => true
  | .amoMinU _ _ _ _ _ => true
  | .amoMaxU _ _ _ _ _ => true
  | .amoSwap _ _ _ _ _ => true
  | .amoFadd _ _ _ _ _ => true
  | .amoFmin _ _ _ _ _ => true
  | .amoFmax _ _ _ _ _ => true
  | .amoAddW _ _ _ _ _ => true
  | .amoAndW _ _ _ _ _ => true
  | .amoOrW _ _ _ _ _ => true
  | .amoXorW _ _ _ _ _ => true
  | .amoMinW _ _ _ _ _ => true
  | .amoMaxW _ _ _ _ _ => true
  | .amoMinUW _ _ _ _ _ => true
  | .amoMaxUW _ _ _ _ _ => true
  | .amoSwapW _ _ _ _ _ => true
  | .cas _ _ _ _ _ => true
  | .casW _ _ _ _ _ => true
  | .aredAdd _ o _ _ => !o.getLsbD 0
  | .aredAnd _ o _ _ => !o.getLsbD 0
  | .aredOr _ o _ _ => !o.getLsbD 0
  | .aredXor _ o _ _ => !o.getLsbD 0
  | .aredMin _ o _ _ => !o.getLsbD 0
  | .aredMax _ o _ _ => !o.getLsbD 0
  | .aredMinU _ o _ _ => !o.getLsbD 0
  | .aredMaxU _ o _ _ => !o.getLsbD 0
  | .aredSwap _ o _ _ => !o.getLsbD 0
  | .aredFadd _ o _ _ => !o.getLsbD 0
  | .aredFmin _ o _ _ => !o.getLsbD 0
  | .aredFmax _ o _ _ => !o.getLsbD 0
  | .aredAddW _ o _ _ => !o.getLsbD 0
  | .aredAndW _ o _ _ => !o.getLsbD 0
  | .aredOrW _ o _ _ => !o.getLsbD 0
  | .aredXorW _ o _ _ => !o.getLsbD 0
  | .aredMinW _ o _ _ => !o.getLsbD 0
  | .aredMaxW _ o _ _ => !o.getLsbD 0
  | .aredMinUW _ o _ _ => !o.getLsbD 0
  | .aredMaxUW _ o _ _ => !o.getLsbD 0
  | .aredSwapW _ o _ _ => !o.getLsbD 0
  | .vamoAdd g _ _ _ => guardOk g
  | .vamoAnd g _ _ _ => guardOk g
  | .vamoOr g _ _ _ => guardOk g
  | .vamoXor g _ _ _ => guardOk g
  | .vamoMin g _ _ _ => guardOk g
  | .vamoMax g _ _ _ => guardOk g
  | .vamoMinU g _ _ _ => guardOk g
  | .vamoMaxU g _ _ _ => guardOk g
  | .vamoSwap g _ _ _ => guardOk g
  | .vamoFadd g _ _ _ => guardOk g
  | .vamoFmin g _ _ _ => guardOk g
  | .vamoFmax g _ _ _ => guardOk g
  | .varedAdd g _ _ _ => guardOk g
  | .varedAnd g _ _ _ => guardOk g
  | .varedOr g _ _ _ => guardOk g
  | .varedXor g _ _ _ => guardOk g
  | .varedMin g _ _ _ => guardOk g
  | .varedMax g _ _ _ => guardOk g
  | .varedMinU g _ _ _ => guardOk g
  | .varedMaxU g _ _ _ => guardOk g
  | .varedSwap g _ _ _ => guardOk g
  | .varedFadd g _ _ _ => guardOk g
  | .varedFmin g _ _ _ => guardOk g
  | .varedFmax g _ _ _ => guardOk g
  | .nmop _ k => slotOk k
  | .nmwait _ => true
  | .cadd _ o _ _ d => (!o.getLsbD 0 || d != 0#5)
  | .cwait _ _ => true
  | .ctest _ _ _ => true
  | .barv _ _ _ => true
  | .bwait _ _ => true
  | .bell => true
  | .xdone => true
  | .xput _ _ _ => true
  | .xget _ _ _ => true
  | .tdef g _ _ => guardOk g
  | .tfill g _ _ => guardOk g
  | .tready g _ => guardOk g
  | .tdrain g _ => guardOk g
  | .tfree g _ => guardOk g
  | .tstat g _ _ => guardOk g
  | .twait g _ _ => guardOk g
  | .tcast g _ _ _ => guardOk g
  | .bbinit g _ _ => guardOk g
  | .bbinitw g _ _ => guardOk g
  | .bbpeek g _ _ => guardOk g
  | .bbget g _ _ => guardOk g
  | .bbskip g _ => guardOk g
  | .bbseek g _ => guardOk g
  | .bbpos g _ => guardOk g
  | .bblut g _ _ _ => guardOk g
  | .bbput g _ _ => guardOk g
  | .bbflush g => guardOk g
  | .bfx g _ _ _ => guardOk g
  | .bfi g _ _ _ => guardOk g
  | .fshl g _ _ _ => guardOk g
  | .fshr g _ _ _ => guardOk g
  | .brev g _ _ => guardOk g
  | .vadd t g _ _ _ => guardOk g && tyFI t
  | .vsub t g _ _ _ => guardOk g && tyFI t
  | .vmul t g _ _ _ => guardOk g && tyFI t
  | .vfma t g _ _ _ => guardOk g && tyFI t
  | .vfms t g _ _ _ => guardOk g && tyFI t
  | .vmin t g _ _ _ => guardOk g && tyFI t
  | .vmax t g _ _ _ => guardOk g && tyFI t
  | .vdiv t g _ _ _ => guardOk g && tyF t
  | .vabs t g _ _ => guardOk g && tyFI t
  | .vneg t g _ _ => guardOk g && tyFI t
  | .vsqrt t g _ _ => guardOk g && tyF t
  | .vrcp t g _ _ => guardOk g && tyF t
  | .vrsqrt t g _ _ => guardOk g && tyF t
  | .vexp2 t g _ _ => guardOk g && tyF t
  | .vlog2 t g _ _ => guardOk g && tyF t
  | .vmov _ g _ _ => guardOk g
  | .vact t g f _ _ => guardOk g && tyF t && decide (f.toNat ≤ 5)
  | .vdact t g f _ _ => guardOk g && tyF t && (decide (f.toNat ≤ 2) || f == 4#5)
  | .vcmpEq t g _ _ p => guardOk g && tyFI t && predOk p
  | .vcmpNe t g _ _ p => guardOk g && tyFI t && predOk p
  | .vcmpLt t g _ _ p => guardOk g && tyFI t && predOk p
  | .vcmpLe t g _ _ p => guardOk g && tyFI t && predOk p
  | .vsel _ c _ _ _ => condOk c
  | .vnfin t g _ p => guardOk g && (tyF t || tyF8 t) && predOk p
  | .vand _ g _ _ _ => guardOk g
  | .vor _ g _ _ _ => guardOk g
  | .vxor _ g _ _ _ => guardOk g
  | .vnot _ g _ _ => guardOk g
  | .vshl t g _ _ _ => guardOk g && tyI t
  | .vshr t g _ _ _ => guardOk g && tyI t
  | .vsha t g _ _ _ => guardOk g && tyI t
  | .viota t g _ => guardOk g && tyI t
  | .vbcast _ g _ _ => guardOk g
  | .vextr _ g _ _ _ => guardOk g
  | .vins _ g _ _ _ => guardOk g
  | .vperm _ g _ _ _ => guardOk g
  | .vred t g o _ _ => guardOk g && tyFI t && decide (o.toNat ≤ 2)
  | .vscan t g o _ _ => guardOk g && tyFI t && decide (o.toNat ≤ 2)
  | .vdot t g _ _ _ => guardOk g && tyFI t
  | .vhad n _ _ => decide (n.toNat ≤ 2)
  | .vcvt _ g _ _ _ _ => guardOk g
  | .vpack t _ _ => tyF8 t
  | .vunpk t _ _ => tyF8 t
  | .vaddF32S _ _ => true
  | .vsubF32S _ _ => true
  | .vmulF32S _ _ => true
  | .vmaxF32S _ _ => true
  | .vminF32S _ _ => true
  | .vaddBf16S _ _ => true
  | .vmulBf16S _ _ => true
  | .vaddI32S _ _ => true
  | .vsubI32S _ _ => true
  | .vandS _ _ => true
  | .vorS _ _ => true
  | .vxorS _ _ => true
  | .vmovS _ _ => true
  | .vabsF32S _ _ => true
  | .vreluF32S _ _ => true
  | .dictRef _ _ => true
  | .mmaPt k rb a _ _ _ => slotOk k && pairOk a && pairOk rb
  | .mmaMinp k rb a _ _ _ => slotOk k && pairOk a && pairOk rb
  | .mmaMaxp k rb a _ _ _ => slotOk k && pairOk a && pairOk rb
  | .mmaMaxt k rb a _ _ _ => slotOk k && pairOk a && pairOk rb
  | .mmaOrand k rb a _ _ _ => slotOk k && pairOk a && pairOk rb
  | .mmas k rb a _ _ _ => slotOk k && pairOk a && decide (rb.toNat ≤ 29)
  | .mzero k _ _ => slotOk k
  | .mldc k a _ => slotOk k && pairOk a
  | .mout k a _ => slotOk k && pairOk a
  | .mepi k _ _ => slotOk k
  | .mmaskRow k a _ => slotOk k && pairOk a
  | .mmaskBlk k _ _ => slotOk k
  | .mwait _ => true
  | .msend k _ _ => slotOk k
  | .mcap _ _ => true
  | .mrevoke _ => true
  | .mstat _ _ _ => true
  | .mthr k _ _ => slotOk k
  | .mprogRd _ _ => true
  | .mprogWr _ _ => true
  | .khash g _ _ _ => guardOk g
  | .kfind g _ _ _ => guardOk g
  | .kins g _ _ _ => guardOk g
  | .kdel g _ _ _ => guardOk g
  | .kacc g _ _ _ => guardOk g
  | .kget g _ _ _ => guardOk g
  | .kput g _ _ _ => guardOk g
  | .khot g _ _ _ => guardOk g
  | .kmerge g _ _ => guardOk g
  | .kscan g _ _ d => guardOk g && pairOk d
  | .kdirty g _ _ => guardOk g
  | .kcount g _ _ _ => guardOk g
  | .jbind _ _ _ => true
  | .jnode _ _ _ => true
  | .krange _ _ d => pairOk d
  | .kruns k _ _ d => slotOk k && pairOk d
  | .kisect k _ => slotOk k
  | .jgather _ _ _ p => predOk p
  | .jscatter k _ _ _ _ => slotOk k
  | .cpy k _ => slotOk k
  | .cpyq k _ => slotOk k
  | .gath k _ => slotOk k
  | .coll k _ => slotOk k
  | .fput k _ => slotOk k
  | .fget k _ => slotOk k
  | .jobx _ _ => true
  | .msg k _ _ => slotOk k
  | .mrecv _ _ => true
  | .mpeek _ _ => true
  | .msgNb _ _ _ => true
  | .launch _ _ _ => true
  | .spawn _ _ => true
  | .share d => pairOk d
  | .tend => true
  | .esignal _ _ => true
  | .sqput _ _ => true
  | .sqget _ _ => true
  | .sqlen _ _ => true
  | .mfs _ _ => true
  | .mts _ _ => true
  | .trap _ _ => true
  | .xret => true
  | .xretSkip => true
  | .ctxsv _ _ => true
  | .ctxrs _ _ => true
  | .tlbinv _ _ => true
  | .brkpt _ => true
  | .roll _ => true
  | .ckpt => true
  | .idle _ => true
  | .frmWrite _ => true
  | .fflagsWrite _ => true
  | .srseedWrite _ => true
  | .lcWrite _ _ => true
  | .vprogWrite _ => true
  | .bitBufferWrite _ _ => true
  | .rtreqWrite _ => true
  | .monctlWrite _ _ => true
  | .mondataRead _ => true
  | .rcctlWrite _ => true
  | .ckctlWrite _ => true
  | .stepcntWrite _ => true
  | .asyncTrap _ _ => true
  | .deskResume _ => true
  | .loadReturn _ _ => true
  | .storePerform _ _ _ => true
  | .l2Fill _ => true
  | .twinStep _ => true
  | .msRequestForward _ => true
  | .walk _ _ _ _ => true
  | .cwaitWake _ => true
  | .waiterReread _ _ => true
  | .queueWatchdog _ _ => true
  | .gangWatchdog _ _ => true
  | .tileWatchdog _ _ => true
  | .msgWatchdog _ _ => true
  | .idleWake _ _ => true
  | .gangForward _ => true
  | .brqResolve _ _ => true
  | .executeClear _ _ => true
  | .repPass _ _ => true
  | .tcastDelivery _ _ => true
  | .matrixCommandStart _ _ => true
  | .mmaBlockCommit _ _ => true
  | .matrixCommandComplete _ _ => true
  | .matrixOperandFault _ _ => true
  | .remoteCommandAccept _ _ => true
  | .remoteCommandComplete _ _ => true
  | .cardStart _ _ => true
  | .cardComplete _ _ => true
  | .cardFailure _ _ => true
  | .collectiveInstance _ _ _ => true
  | .switchCombine _ _ _ _ => true
  | .messageArrival _ => true
  | .nmTranslationPhase _ _ _ => true
  | .nmUpdatePhase _ _ _ => true
  | .jscatterPhase2 _ => true
  | .keyAccumulate _ => true
  | .hotPromotion _ _ _ _ => true
  | .launchTake _ _ => true
  | .launchStart _ _ _ => true
  | .spanStart _ => true
  | .shareDispatch _ _ => true
  | .stageItemDispatch _ => true
  | .bellComplete _ _ _ => true
  | .exchangeEnd _ _ => true
  | .preemptImmediate _ _ => true
  | .resumeEntry _ => true
  | .hangDetect _ _ => true
  | .launchFail _ _ _ _ _ => true
  | .shareRerun _ _ => true
  | .launchComplete _ => true
  | .debugStop _ => true
  | .checkpoint _ _ => true
  | .replayStop _ _ => true
  | .rollCall => true
  | .monitorSample _ _ _ => true
  | .errorEvent _ => true
  | .windowRollover => true
  | .unitRetire _ => true
  | .clockStep _ _ => true
  | .coldReset => true
  | .hostTailWrite _ _ _ => true
  | .hostMemoryAccess _ _ _ => true
  | .partitionConfigWrite _ => true
  | .lockInterface _ => true
  | .startInterface _ => true
  | .tdiError _ => true
  | .spdmRequest _ _ => true
  | .linkGroupFail _ _ => true
  | .linkDown _ => true
  | .linkRekey _ => true
  | .mgmtReset => true
  | .pldmMonitor _ => true
  | .firmwareUpdate _ _ => true
  | .reservedEncoding _ _ => true
  | .deadlinePass _ => true
  | .hostStopRequest _ => true
  | .debugResume _ => true
  | .debugSessionAttach _ => true
  | .newSpdmSession _ => true
  | .powerLoss => true
  | .stopInterface _ => true

end Sys2Proof
end

