-- ==== Sys2Proof/Decode.lean ====
section
/-! DEFINITION. Decoding (R29 to R50) and, after it, the encoder.  A word is split into the fields of its format (R34); the
major opcode picks the class (R42), the function code the instruction (R43, R44); a field that must be zero and is not, and
every value the maps leave unassigned, makes the word a reserved encoding, and the decoder answers `none` (R48).  What depends
on the desk (queue ports, register limits, modes) is no matter of the word and is checked by the meanings.

`noncomputable` here says only that the compiler of this Lean builds no constructor past the 245th; the kernel evaluates
every definition of this file. -/

namespace Sys2Proof

/-- An instruction as it stands in memory: one halfword or a 32-bit word (R29). -/
inductive Code where
  /-- bit 0 is 0 -/
  | half (h : BitVec 16)
  /-- bit 0 is 1 -/
  | full (w : BitVec 32)
  deriving DecidableEq, Repr

/-! ### Formats (R34) -/

/-- Bits [31:26]: func6, or op3 above type. -/
def fF (w : BitVec 32) : BitVec 6 := BitVec.ofNat 6 (w.toNat / 2 ^ 26)
/-- Bits [25:22]. -/
def fG (w : BitVec 32) : BitVec 4 := BitVec.ofNat 4 (w.toNat / 2 ^ 22)
/-- Bits [21:17]. -/
def fB (w : BitVec 32) : BitVec 5 := BitVec.ofNat 5 (w.toNat / 2 ^ 17)
/-- Bits [16:12]. -/
def fA (w : BitVec 32) : BitVec 5 := BitVec.ofNat 5 (w.toNat / 2 ^ 12)
/-- Bits [11:7]. -/
def fD (w : BitVec 32) : BitVec 5 := BitVec.ofNat 5 (w.toNat / 2 ^ 7)
/-- Bits [6:0]: the major opcode above bit 0. -/
def fM (w : BitVec 32) : BitVec 7 := BitVec.ofNat 7 w.toNat

/-- Formats A, V and X, whose fields lie on the same boundaries. -/
def fmtA (f : BitVec 6) (g : BitVec 4) (b a d : BitVec 5) (m : BitVec 7) : BitVec 32 :=
  BitVec.ofNat 32 (f.toNat * 2 ^ 26 + g.toNat * 2 ^ 22 + b.toNat * 2 ^ 17 + a.toNat * 2 ^ 12 + d.toNat * 2 ^ 7 + m.toNat)

/-- Format I's [31:17]. -/
def imm15 (w : BitVec 32) : BitVec 15 := BitVec.ofNat 15 (w.toNat / 2 ^ 17)
/-- Format I. -/
def fmtI (i : BitVec 15) (a d : BitVec 5) (m : BitVec 7) : BitVec 32 :=
  BitVec.ofNat 32 (i.toNat * 2 ^ 17 + a.toNat * 2 ^ 12 + d.toNat * 2 ^ 7 + m.toNat)

/-- Formats U and J: [31:12]. -/
def imm20 (w : BitVec 32) : BitVec 20 := BitVec.ofNat 20 (w.toNat / 2 ^ 12)
/-- Formats U and J. -/
def fmtU (i : BitVec 20) (d : BitVec 5) (m : BitVec 7) : BitVec 32 :=
  BitVec.ofNat 32 (i.toNat * 2 ^ 12 + d.toNat * 2 ^ 7 + m.toNat)

/-- Format C's [31:21]. -/
def off11 (w : BitVec 32) : BitVec 11 := BitVec.ofNat 11 (w.toNat / 2 ^ 21)
/-- Format C's [20]. -/
def likely (w : BitVec 32) : BitVec 1 := BitVec.ofNat 1 (w.toNat / 2 ^ 20)
/-- Format C's [19:17]. -/
def cond (w : BitVec 32) : BitVec 3 := BitVec.ofNat 3 (w.toNat / 2 ^ 17)
/-- Format C. -/
def fmtC (o : BitVec 11) (l : BitVec 1) (c : BitVec 3) (b a : BitVec 5) (m : BitVec 7) : BitVec 32 :=
  BitVec.ofNat 32 (o.toNat * 2 ^ 21 + l.toNat * 2 ^ 20 + c.toNat * 2 ^ 17 + b.toNat * 2 ^ 12 + a.toNat * 2 ^ 7 + m.toNat)

/-- Format M's [31:22]. -/
def off10 (w : BitVec 32) : BitVec 10 := BitVec.ofNat 10 (w.toNat / 2 ^ 22)
/-- Format M's [21:20]. -/
def qual (w : BitVec 32) : BitVec 2 := BitVec.ofNat 2 (w.toNat / 2 ^ 20)
/-- Format M's [19:17]. -/
def size (w : BitVec 32) : BitVec 3 := BitVec.ofNat 3 (w.toNat / 2 ^ 17)
/-- Format M. -/
def fmtM (o : BitVec 10) (q : BitVec 2) (s : BitVec 3) (b d : BitVec 5) (m : BitVec 7) : BitVec 32 :=
  BitVec.ofNat 32 (o.toNat * 2 ^ 22 + q.toNat * 2 ^ 20 + s.toNat * 2 ^ 17 + b.toNat * 2 ^ 12 + d.toNat * 2 ^ 7 + m.toNat)

/-- The immediate shifts' [31:25], which must be zero. -/
def shZ (w : BitVec 32) : BitVec 7 := BitVec.ofNat 7 (w.toNat / 2 ^ 25)
/-- The immediate shifts' kind, [24:23]. -/
def shK (w : BitVec 32) : BitVec 2 := BitVec.ofNat 2 (w.toNat / 2 ^ 23)
/-- The immediate shifts' amount, [22:17]. -/
def shS (w : BitVec 32) : BitVec 6 := BitVec.ofNat 6 (w.toNat / 2 ^ 17)
/-- The format of the immediate shifts. -/
def fmtS (z : BitVec 7) (k : BitVec 2) (s : BitVec 6) (a d : BitVec 5) (m : BitVec 7) : BitVec 32 :=
  BitVec.ofNat 32 (z.toNat * 2 ^ 25 + k.toNat * 2 ^ 23 + s.toNat * 2 ^ 17 + a.toNat * 2 ^ 12 + d.toNat * 2 ^ 7 + m.toNat)

/-- LOOP and LOOPI's body length, [31:18]. -/
def len14 (w : BitVec 32) : BitVec 14 := BitVec.ofNat 14 (w.toNat / 2 ^ 18)
/-- LOOP's [17:13], which must be zero. -/
def loopZ (w : BitVec 32) : BitVec 5 := BitVec.ofNat 5 (w.toNat / 2 ^ 13)
/-- LOOP's count register, [12:8]. -/
def loopR (w : BitVec 32) : BitVec 5 := BitVec.ofNat 5 (w.toNat / 2 ^ 8)
/-- LOOPI's count, [17:8]. -/
def loopC (w : BitVec 32) : BitVec 10 := BitVec.ofNat 10 (w.toNat / 2 ^ 8)
/-- The loop id, [7]. -/
def loopId (w : BitVec 32) : BitVec 1 := BitVec.ofNat 1 (w.toNat / 2 ^ 7)
/-- LOOP's format. -/
def fmtL (l : BitVec 14) (z r : BitVec 5) (i : BitVec 1) (m : BitVec 7) : BitVec 32 :=
  BitVec.ofNat 32 (l.toNat * 2 ^ 18 + z.toNat * 2 ^ 13 + r.toNat * 2 ^ 8 + i.toNat * 2 ^ 7 + m.toNat)
/-- LOOPI's format. -/
def fmtLI (l : BitVec 14) (c : BitVec 10) (i : BitVec 1) (m : BitVec 7) : BitVec 32 :=
  BitVec.ofNat 32 (l.toNat * 2 ^ 18 + c.toNat * 2 ^ 8 + i.toNat * 2 ^ 7 + m.toNat)

/-! ### The decoder, major by major -/

/-- Major 0x01 (R42, R43). -/
def decMajor01 (w : BitVec 32) : Option Instr :=
  match fF w with
  | 0#6 => some (.add (fG w) (fB w) (fA w) (fD w))
  | 1#6 => some (.sub (fG w) (fB w) (fA w) (fD w))
  | 2#6 => some (.mul (fG w) (fB w) (fA w) (fD w))
  | 3#6 => some (.mulh (fG w) (fB w) (fA w) (fD w))
  | 4#6 => some (.mulhU (fG w) (fB w) (fA w) (fD w))
  | 5#6 => some (.div (fG w) (fB w) (fA w) (fD w))
  | 6#6 => some (.divU (fG w) (fB w) (fA w) (fD w))
  | 7#6 => some (.rem (fG w) (fB w) (fA w) (fD w))
  | 8#6 => some (.remU (fG w) (fB w) (fA w) (fD w))
  | 9#6 => some (.and (fG w) (fB w) (fA w) (fD w))
  | 10#6 => some (.or (fG w) (fB w) (fA w) (fD w))
  | 11#6 => some (.xor (fG w) (fB w) (fA w) (fD w))
  | 12#6 => some (.shl (fG w) (fB w) (fA w) (fD w))
  | 13#6 => some (.shr (fG w) (fB w) (fA w) (fD w))
  | 14#6 => some (.sha (fG w) (fB w) (fA w) (fD w))
  | 15#6 => some (.slt (fG w) (fB w) (fA w) (fD w))
  | 16#6 => some (.sltU (fG w) (fB w) (fA w) (fD w))
  | 17#6 => some (.min (fG w) (fB w) (fA w) (fD w))
  | 18#6 => some (.minU (fG w) (fB w) (fA w) (fD w))
  | 19#6 => some (.max (fG w) (fB w) (fA w) (fD w))
  | 20#6 => some (.maxU (fG w) (fB w) (fA w) (fD w))
  | 21#6 => if fB w = 0#5 then some (.clz (fG w) (fA w) (fD w)) else none
  | 22#6 => if fB w = 0#5 then some (.ctz (fG w) (fA w) (fD w)) else none
  | 23#6 => if fB w = 0#5 then some (.popc (fG w) (fA w) (fD w)) else none
  | 24#6 => if fB w = 0#5 then some (.extB (fG w) (fA w) (fD w)) else none
  | 25#6 => if fB w = 0#5 then some (.extH (fG w) (fA w) (fD w)) else none
  | 26#6 => if fB w = 0#5 then some (.extW (fG w) (fA w) (fD w)) else none
  | 27#6 => if fB w = 0#5 then some (.extBu (fG w) (fA w) (fD w)) else none
  | 28#6 => if fB w = 0#5 then some (.extHu (fG w) (fA w) (fD w)) else none
  | 29#6 => if fB w = 0#5 then some (.extWu (fG w) (fA w) (fD w)) else none
  | 30#6 => some (.sel (fG w) (fB w) (fA w) (fD w))
  | _ => none

/-- Major 0x02 (R42). -/
def decMajor02 (w : BitVec 32) : Option Instr :=
  some (.addImm (imm15 w) (fA w) (fD w))

/-- Major 0x03 (R42). -/
def decMajor03 (w : BitVec 32) : Option Instr :=
  some (.andImm (imm15 w) (fA w) (fD w))

/-- Major 0x04 (R42). -/
def decMajor04 (w : BitVec 32) : Option Instr :=
  some (.orImm (imm15 w) (fA w) (fD w))

/-- Major 0x05 (R42). -/
def decMajor05 (w : BitVec 32) : Option Instr :=
  some (.xorImm (imm15 w) (fA w) (fD w))

/-- Major 0x06 (R42). -/
def decMajor06 (w : BitVec 32) : Option Instr :=
  if shZ w = 0#7 ∧ shK w = 0#2 then some (.shlImm (shS w) (fA w) (fD w))
  else if shZ w = 0#7 ∧ shK w = 1#2 then some (.shrImm (shS w) (fA w) (fD w))
  else if shZ w = 0#7 ∧ shK w = 2#2 then some (.shaImm (shS w) (fA w) (fD w))
  else none

/-- Major 0x07 (R42). -/
def decMajor07 (w : BitVec 32) : Option Instr :=
  some (.sltImm (imm15 w) (fA w) (fD w))

/-- Major 0x08 (R42). -/
def decMajor08 (w : BitVec 32) : Option Instr :=
  some (.lui (imm20 w) (fD w))

/-- Major 0x09 (R42). -/
def decMajor09 (w : BitVec 32) : Option Instr :=
  some (.addpc (imm20 w) (fD w))

/-- Major 0x0A (R42, R43). -/
def decMajor0A (w : BitVec 32) : Option Instr :=
  match fF w with
  | 0#6 => if (fD w).extractLsb' 3 2 = 0#2 then some (.pcmpEq (fG w) (fB w) (fA w) ((fD w).extractLsb' 0 3)) else none
  | 1#6 => if (fD w).extractLsb' 3 2 = 0#2 then some (.pcmpNe (fG w) (fB w) (fA w) ((fD w).extractLsb' 0 3)) else none
  | 2#6 => if (fD w).extractLsb' 3 2 = 0#2 then some (.pcmpLt (fG w) (fB w) (fA w) ((fD w).extractLsb' 0 3)) else none
  | 3#6 => if (fD w).extractLsb' 3 2 = 0#2 then some (.pcmpGe (fG w) (fB w) (fA w) ((fD w).extractLsb' 0 3)) else none
  | 4#6 => if (fD w).extractLsb' 3 2 = 0#2 then some (.pcmpLtU (fG w) (fB w) (fA w) ((fD w).extractLsb' 0 3)) else none
  | 5#6 => if (fD w).extractLsb' 3 2 = 0#2 then some (.pcmpGeU (fG w) (fB w) (fA w) ((fD w).extractLsb' 0 3)) else none
  | 8#6 => if (fB w).extractLsb' 3 2 = 0#2 ∧ (fA w).extractLsb' 3 2 = 0#2 ∧ (fD w).extractLsb' 3 2 = 0#2 then some (.pand (fG w) ((fB w).extractLsb' 0 3) ((fA w).extractLsb' 0 3) ((fD w).extractLsb' 0 3)) else none
  | 9#6 => if (fB w).extractLsb' 3 2 = 0#2 ∧ (fA w).extractLsb' 3 2 = 0#2 ∧ (fD w).extractLsb' 3 2 = 0#2 then some (.por (fG w) ((fB w).extractLsb' 0 3) ((fA w).extractLsb' 0 3) ((fD w).extractLsb' 0 3)) else none
  | 10#6 => if (fB w).extractLsb' 3 2 = 0#2 ∧ (fA w).extractLsb' 3 2 = 0#2 ∧ (fD w).extractLsb' 3 2 = 0#2 then some (.pxor (fG w) ((fB w).extractLsb' 0 3) ((fA w).extractLsb' 0 3) ((fD w).extractLsb' 0 3)) else none
  | 11#6 => if (fB w).extractLsb' 3 2 = 0#2 ∧ (fA w).extractLsb' 3 2 = 0#2 ∧ (fD w).extractLsb' 3 2 = 0#2 then some (.pandn (fG w) ((fB w).extractLsb' 0 3) ((fA w).extractLsb' 0 3) ((fD w).extractLsb' 0 3)) else none
  | 12#6 => if fB w = 0#5 ∧ (fA w).extractLsb' 3 2 = 0#2 ∧ (fD w).extractLsb' 3 2 = 0#2 then some (.pnot (fG w) ((fA w).extractLsb' 0 3) ((fD w).extractLsb' 0 3)) else none
  | 13#6 => if fB w = 0#5 ∧ (fA w).extractLsb' 3 2 = 0#2 ∧ (fD w).extractLsb' 3 2 = 0#2 then some (.pmov (fG w) ((fA w).extractLsb' 0 3) ((fD w).extractLsb' 0 3)) else none
  | 14#6 => if fB w = 0#5 ∧ (fA w).extractLsb' 3 2 = 0#2 then some (.pcnt (fG w) ((fA w).extractLsb' 0 3) (fD w)) else none
  | 15#6 => if fB w = 0#5 ∧ (fA w).extractLsb' 3 2 = 0#2 then some (.pfirst (fG w) ((fA w).extractLsb' 0 3) (fD w)) else none
  | 16#6 => if fB w = 0#5 ∧ (fA w).extractLsb' 3 2 = 0#2 then some (.pall (fG w) ((fA w).extractLsb' 0 3) (fD w)) else none
  | 17#6 => if fB w = 0#5 ∧ (fA w).extractLsb' 3 2 = 0#2 then some (.pnone (fG w) ((fA w).extractLsb' 0 3) (fD w)) else none
  | _ => none

/-- Major 0x0B (R42). -/
def decMajor0B (w : BitVec 32) : Option Instr :=
  some (.b (off11 w) (likely w) (cond w) (fA w) (fD w))

/-- Major 0x0C (R42). -/
def decMajor0C (w : BitVec 32) : Option Instr :=
  if cond w = 0#3 ∧ (fA w).extractLsb' 4 1 = 0#1 ∧ (fA w).extractLsb' 0 2 = 0#2 ∧ (fD w).extractLsb' 3 2 = 0#2 then some (.bpAny (off11 w) (likely w) ((fA w).extractLsb' 2 2) ((fD w).extractLsb' 0 3))
  else if cond w = 0#3 ∧ (fA w).extractLsb' 4 1 = 0#1 ∧ (fA w).extractLsb' 0 2 = 1#2 ∧ (fD w).extractLsb' 3 2 = 0#2 then some (.bpAll (off11 w) (likely w) ((fA w).extractLsb' 2 2) ((fD w).extractLsb' 0 3))
  else if cond w = 0#3 ∧ (fA w).extractLsb' 4 1 = 0#1 ∧ (fA w).extractLsb' 0 2 = 2#2 ∧ (fD w).extractLsb' 3 2 = 0#2 then some (.bpNone (off11 w) (likely w) ((fA w).extractLsb' 2 2) ((fD w).extractLsb' 0 3))
  else none

/-- Major 0x0D (R42). -/
def decMajor0D (w : BitVec 32) : Option Instr :=
  some (.jal (imm20 w) (fD w))

/-- Major 0x0E (R42, R43). -/
def decMajor0E (w : BitVec 32) : Option Instr :=
  match fF w with
  | 0#6 => if fG w = 0#4 ∧ fB w = 0#5 then some (.jr (fA w) (fD w)) else none
  | 1#6 => if (fG w).extractLsb' 3 1 = 0#1 ∧ (fD w).extractLsb' 4 1 = 0#1 then some (.rep ((fG w).extractLsb' 0 3) (fB w) (fA w) ((fD w).extractLsb' 0 4)) else none
  | 2#6 => if fG w = 0#4 ∧ fB w = 0#5 ∧ (fA w).extractLsb' 3 2 = 0#2 ∧ (fD w).extractLsb' 3 2 = 0#2 then some (.setk ((fA w).extractLsb' 0 3) ((fD w).extractLsb' 0 3)) else none
  | 3#6 => if fG w = 0#4 ∧ fB w = 0#5 ∧ fA w = 0#5 ∧ (fD w).extractLsb' 3 2 = 0#2 then some (.pendk ((fD w).extractLsb' 0 3)) else none
  | 4#6 => if fG w = 0#4 ∧ fB w = 0#5 ∧ fA w = 0#5 ∧ (fD w).extractLsb' 3 2 = 0#2 then some (.qflush ((fD w).extractLsb' 0 3)) else none
  | 5#6 => if fG w = 0#4 ∧ fB w = 0#5 ∧ (fA w).extractLsb' 3 2 = 0#2 then some (.qcnt ((fA w).extractLsb' 0 3) (fD w)) else none
  | 6#6 => if fG w = 0#4 ∧ fB w = 0#5 ∧ fD w = 0#5 then some (.gang (fA w)) else none
  | 7#6 => if fG w = 0#4 ∧ fB w = 0#5 ∧ fA w = 0#5 ∧ fD w = 0#5 then some (.ungang) else none
  | _ => none

/-- Major 0x0F (R42). -/
def decMajor0F (w : BitVec 32) : Option Instr :=
  if loopZ w = 0#5 then some (.loop (len14 w) (loopR w) (loopId w))
  else none

/-- Major 0x10 (R42). -/
def decMajor10 (w : BitVec 32) : Option Instr :=
  some (.loopi (len14 w) (loopC w) (loopId w))

/-- Major 0x11 (R42). -/
def decMajor11 (w : BitVec 32) : Option Instr :=
  some (.brd (off11 w) (likely w) (cond w) (fA w) (fD w))

/-- Major 0x12 (R42). -/
def decMajor12 (w : BitVec 32) : Option Instr :=
  if (fD w).extractLsb' 2 3 = 7#3 then some (.brq (off11 w) (likely w) (cond w) (fA w) ((fD w).extractLsb' 0 2))
  else none

/-- Major 0x13 (R42). -/
def decMajor13 (w : BitVec 32) : Option Instr :=
  if fD w = 0#5 then some (.rejoin (imm20 w))
  else none

/-- Major 0x18 (R42). -/
def decMajor18 (w : BitVec 32) : Option Instr :=
  some (.ld (off10 w) (qual w) (size w) (fA w) (fD w))

/-- Major 0x19 (R42). -/
def decMajor19 (w : BitVec 32) : Option Instr :=
  some (.st (off10 w) (qual w) (size w) (fA w) (fD w))

/-- Major 0x1A (R42). -/
def decMajor1A (w : BitVec 32) : Option Instr :=
  if qual w = 0#2 then some (.ldl (off10 w) (size w) (fA w) (fD w))
  else none

/-- Major 0x1B (R42). -/
def decMajor1B (w : BitVec 32) : Option Instr :=
  if qual w = 0#2 ∧ (size w).extractLsb' 2 1 = 0#1 then some (.stl (off10 w) ((size w).extractLsb' 0 2) (fA w) (fD w))
  else none

/-- Major 0x1C (R42). -/
def decMajor1C (w : BitVec 32) : Option Instr :=
  if size w = 0#3 then some (.vld (off10 w) (qual w) (fA w) (fD w))
  else none

/-- Major 0x1D (R42). -/
def decMajor1D (w : BitVec 32) : Option Instr :=
  if size w = 0#3 then some (.vst (off10 w) (qual w) (fA w) (fD w))
  else none

/-- Major 0x1E (R42). -/
def decMajor1E (w : BitVec 32) : Option Instr :=
  if qual w = 0#2 ∧ size w = 0#3 then some (.vldl (off10 w) (fA w) (fD w))
  else none

/-- Major 0x1F (R42). -/
def decMajor1F (w : BitVec 32) : Option Instr :=
  if qual w = 0#2 ∧ size w = 0#3 then some (.vstl (off10 w) (fA w) (fD w))
  else none

/-- Major 0x20 (R42, R43). -/
def decMajor20 (w : BitVec 32) : Option Instr :=
  match fF w with
  | 0#6 => some (.lda (fG w) (fB w) (fA w) (fD w))
  | 1#6 => some (.str (fG w) (fB w) (fA w) (fD w))
  | 2#6 => some (.vlds (fG w) (fB w) (fA w) (fD w))
  | 3#6 => some (.vsts (fG w) (fB w) (fA w) (fD w))
  | 4#6 => some (.vgathW (fG w) (fB w) (fA w) (fD w))
  | 5#6 => some (.vgathD (fG w) (fB w) (fA w) (fD w))
  | 6#6 => some (.vscatW (fG w) (fB w) (fA w) (fD w))
  | 7#6 => some (.vscatD (fG w) (fB w) (fA w) (fD w))
  | 8#6 => if fD w = 0#5 then some (.pref (fG w) (fB w) (fA w)) else none
  | 9#6 => if (fB w).extractLsb' 4 1 = 0#1 ∧ fA w = 0#5 then some (.fence (fG w) ((fB w).extractLsb' 0 4) (fD w)) else none
  | 10#6 => if fG w = 0#4 ∧ fB w = 0#5 ∧ fA w = 0#5 ∧ fD w = 0#5 then some (.l1gen) else none
  | _ => none

/-- Major 0x21 (R42, R43). -/
def decMajor21 (w : BitVec 32) : Option Instr :=
  match fF w with
  | 0#6 => if fB w = 0#5 then some (.ldv (fG w) (fA w) (fD w)) else none
  | 1#6 => if fB w = 0#5 then some (.ldvs (fG w) (fA w) (fD w)) else none
  | 2#6 => if fB w = 0#5 ∧ fA w = 0#5 then some (.valset (fG w) (fD w)) else none
  | 3#6 => if fB w = 0#5 ∧ fA w = 0#5 ∧ fD w = 0#5 then some (.vclr (fG w)) else none
  | 4#6 => some (.vcas (fG w) (fB w) (fA w) (fD w))
  | 5#6 => if fB w = 0#5 then some (.lver (fG w) (fA w) (fD w)) else none
  | 6#6 => if (fD w).extractLsb' 3 2 = 0#2 then some (.l2ret (fG w) (fB w) (fA w) ((fD w).extractLsb' 0 3)) else none
  | 7#6 => if fB w = 0#5 ∧ fA w = 0#5 ∧ (fD w).extractLsb' 3 2 = 0#2 then some (.unpin (fG w) ((fD w).extractLsb' 0 3)) else none
  | 8#6 => if fA w = 0#5 then some (.l2stat (fG w) (fB w) (fD w)) else none
  | _ => none

/-- Major 0x22 (R42, R43). -/
def decMajor22 (w : BitVec 32) : Option Instr :=
  match fF w with
  | 0#6 => some (.amoAdd ((fG w).extractLsb' 2 2) ((fG w).extractLsb' 0 2) (fB w) (fA w) (fD w))
  | 1#6 => some (.amoAnd ((fG w).extractLsb' 2 2) ((fG w).extractLsb' 0 2) (fB w) (fA w) (fD w))
  | 2#6 => some (.amoOr ((fG w).extractLsb' 2 2) ((fG w).extractLsb' 0 2) (fB w) (fA w) (fD w))
  | 3#6 => some (.amoXor ((fG w).extractLsb' 2 2) ((fG w).extractLsb' 0 2) (fB w) (fA w) (fD w))
  | 4#6 => some (.amoMin ((fG w).extractLsb' 2 2) ((fG w).extractLsb' 0 2) (fB w) (fA w) (fD w))
  | 5#6 => some (.amoMax ((fG w).extractLsb' 2 2) ((fG w).extractLsb' 0 2) (fB w) (fA w) (fD w))
  | 6#6 => some (.amoMinU ((fG w).extractLsb' 2 2) ((fG w).extractLsb' 0 2) (fB w) (fA w) (fD w))
  | 7#6 => some (.amoMaxU ((fG w).extractLsb' 2 2) ((fG w).extractLsb' 0 2) (fB w) (fA w) (fD w))
  | 8#6 => some (.amoSwap ((fG w).extractLsb' 2 2) ((fG w).extractLsb' 0 2) (fB w) (fA w) (fD w))
  | 9#6 => some (.amoFadd ((fG w).extractLsb' 2 2) ((fG w).extractLsb' 0 2) (fB w) (fA w) (fD w))
  | 10#6 => some (.amoFmin ((fG w).extractLsb' 2 2) ((fG w).extractLsb' 0 2) (fB w) (fA w) (fD w))
  | 11#6 => some (.amoFmax ((fG w).extractLsb' 2 2) ((fG w).extractLsb' 0 2) (fB w) (fA w) (fD w))
  | 16#6 => some (.amoAddW ((fG w).extractLsb' 2 2) ((fG w).extractLsb' 0 2) (fB w) (fA w) (fD w))
  | 17#6 => some (.amoAndW ((fG w).extractLsb' 2 2) ((fG w).extractLsb' 0 2) (fB w) (fA w) (fD w))
  | 18#6 => some (.amoOrW ((fG w).extractLsb' 2 2) ((fG w).extractLsb' 0 2) (fB w) (fA w) (fD w))
  | 19#6 => some (.amoXorW ((fG w).extractLsb' 2 2) ((fG w).extractLsb' 0 2) (fB w) (fA w) (fD w))
  | 20#6 => some (.amoMinW ((fG w).extractLsb' 2 2) ((fG w).extractLsb' 0 2) (fB w) (fA w) (fD w))
  | 21#6 => some (.amoMaxW ((fG w).extractLsb' 2 2) ((fG w).extractLsb' 0 2) (fB w) (fA w) (fD w))
  | 22#6 => some (.amoMinUW ((fG w).extractLsb' 2 2) ((fG w).extractLsb' 0 2) (fB w) (fA w) (fD w))
  | 23#6 => some (.amoMaxUW ((fG w).extractLsb' 2 2) ((fG w).extractLsb' 0 2) (fB w) (fA w) (fD w))
  | 24#6 => some (.amoSwapW ((fG w).extractLsb' 2 2) ((fG w).extractLsb' 0 2) (fB w) (fA w) (fD w))
  | 28#6 => some (.cas ((fG w).extractLsb' 2 2) ((fG w).extractLsb' 0 2) (fB w) (fA w) (fD w))
  | 29#6 => some (.casW ((fG w).extractLsb' 2 2) ((fG w).extractLsb' 0 2) (fB w) (fA w) (fD w))
  | 32#6 => if fD w = 0#5 then some (.aredAdd ((fG w).extractLsb' 2 2) ((fG w).extractLsb' 0 2) (fB w) (fA w)) else none
  | 33#6 => if fD w = 0#5 then some (.aredAnd ((fG w).extractLsb' 2 2) ((fG w).extractLsb' 0 2) (fB w) (fA w)) else none
  | 34#6 => if fD w = 0#5 then some (.aredOr ((fG w).extractLsb' 2 2) ((fG w).extractLsb' 0 2) (fB w) (fA w)) else none
  | 35#6 => if fD w = 0#5 then some (.aredXor ((fG w).extractLsb' 2 2) ((fG w).extractLsb' 0 2) (fB w) (fA w)) else none
  | 36#6 => if fD w = 0#5 then some (.aredMin ((fG w).extractLsb' 2 2) ((fG w).extractLsb' 0 2) (fB w) (fA w)) else none
  | 37#6 => if fD w = 0#5 then some (.aredMax ((fG w).extractLsb' 2 2) ((fG w).extractLsb' 0 2) (fB w) (fA w)) else none
  | 38#6 => if fD w = 0#5 then some (.aredMinU ((fG w).extractLsb' 2 2) ((fG w).extractLsb' 0 2) (fB w) (fA w)) else none
  | 39#6 => if fD w = 0#5 then some (.aredMaxU ((fG w).extractLsb' 2 2) ((fG w).extractLsb' 0 2) (fB w) (fA w)) else none
  | 40#6 => if fD w = 0#5 then some (.aredSwap ((fG w).extractLsb' 2 2) ((fG w).extractLsb' 0 2) (fB w) (fA w)) else none
  | 41#6 => if fD w = 0#5 then some (.aredFadd ((fG w).extractLsb' 2 2) ((fG w).extractLsb' 0 2) (fB w) (fA w)) else none
  | 42#6 => if fD w = 0#5 then some (.aredFmin ((fG w).extractLsb' 2 2) ((fG w).extractLsb' 0 2) (fB w) (fA w)) else none
  | 43#6 => if fD w = 0#5 then some (.aredFmax ((fG w).extractLsb' 2 2) ((fG w).extractLsb' 0 2) (fB w) (fA w)) else none
  | 48#6 => if fD w = 0#5 then some (.aredAddW ((fG w).extractLsb' 2 2) ((fG w).extractLsb' 0 2) (fB w) (fA w)) else none
  | 49#6 => if fD w = 0#5 then some (.aredAndW ((fG w).extractLsb' 2 2) ((fG w).extractLsb' 0 2) (fB w) (fA w)) else none
  | 50#6 => if fD w = 0#5 then some (.aredOrW ((fG w).extractLsb' 2 2) ((fG w).extractLsb' 0 2) (fB w) (fA w)) else none
  | 51#6 => if fD w = 0#5 then some (.aredXorW ((fG w).extractLsb' 2 2) ((fG w).extractLsb' 0 2) (fB w) (fA w)) else none
  | 52#6 => if fD w = 0#5 then some (.aredMinW ((fG w).extractLsb' 2 2) ((fG w).extractLsb' 0 2) (fB w) (fA w)) else none
  | 53#6 => if fD w = 0#5 then some (.aredMaxW ((fG w).extractLsb' 2 2) ((fG w).extractLsb' 0 2) (fB w) (fA w)) else none
  | 54#6 => if fD w = 0#5 then some (.aredMinUW ((fG w).extractLsb' 2 2) ((fG w).extractLsb' 0 2) (fB w) (fA w)) else none
  | 55#6 => if fD w = 0#5 then some (.aredMaxUW ((fG w).extractLsb' 2 2) ((fG w).extractLsb' 0 2) (fB w) (fA w)) else none
  | 56#6 => if fD w = 0#5 then some (.aredSwapW ((fG w).extractLsb' 2 2) ((fG w).extractLsb' 0 2) (fB w) (fA w)) else none
  | _ => none

/-- Major 0x23 (R42, R43). -/
def decMajor23 (w : BitVec 32) : Option Instr :=
  match fF w with
  | 0#6 => some (.vamoAdd (fG w) (fB w) (fA w) (fD w))
  | 1#6 => some (.vamoAnd (fG w) (fB w) (fA w) (fD w))
  | 2#6 => some (.vamoOr (fG w) (fB w) (fA w) (fD w))
  | 3#6 => some (.vamoXor (fG w) (fB w) (fA w) (fD w))
  | 4#6 => some (.vamoMin (fG w) (fB w) (fA w) (fD w))
  | 5#6 => some (.vamoMax (fG w) (fB w) (fA w) (fD w))
  | 6#6 => some (.vamoMinU (fG w) (fB w) (fA w) (fD w))
  | 7#6 => some (.vamoMaxU (fG w) (fB w) (fA w) (fD w))
  | 8#6 => some (.vamoSwap (fG w) (fB w) (fA w) (fD w))
  | 9#6 => some (.vamoFadd (fG w) (fB w) (fA w) (fD w))
  | 10#6 => some (.vamoFmin (fG w) (fB w) (fA w) (fD w))
  | 11#6 => some (.vamoFmax (fG w) (fB w) (fA w) (fD w))
  | 16#6 => some (.varedAdd (fG w) (fB w) (fA w) (fD w))
  | 17#6 => some (.varedAnd (fG w) (fB w) (fA w) (fD w))
  | 18#6 => some (.varedOr (fG w) (fB w) (fA w) (fD w))
  | 19#6 => some (.varedXor (fG w) (fB w) (fA w) (fD w))
  | 20#6 => some (.varedMin (fG w) (fB w) (fA w) (fD w))
  | 21#6 => some (.varedMax (fG w) (fB w) (fA w) (fD w))
  | 22#6 => some (.varedMinU (fG w) (fB w) (fA w) (fD w))
  | 23#6 => some (.varedMaxU (fG w) (fB w) (fA w) (fD w))
  | 24#6 => some (.varedSwap (fG w) (fB w) (fA w) (fD w))
  | 25#6 => some (.varedFadd (fG w) (fB w) (fA w) (fD w))
  | 26#6 => some (.varedFmin (fG w) (fB w) (fA w) (fD w))
  | 27#6 => some (.varedFmax (fG w) (fB w) (fA w) (fD w))
  | 48#6 => if fG w = 0#4 ∧ fB w = 0#5 ∧ (fD w).extractLsb' 4 1 = 0#1 then some (.nmop (fA w) ((fD w).extractLsb' 0 4)) else none
  | 49#6 => if fG w = 0#4 ∧ fB w = 0#5 ∧ fD w = 0#5 then some (.nmwait (fA w)) else none
  | _ => none

/-- Major 0x24 (R42, R43). -/
def decMajor24 (w : BitVec 32) : Option Instr :=
  match fF w with
  | 0#6 => some (.cadd ((fG w).extractLsb' 2 2) ((fG w).extractLsb' 0 2) (fB w) (fA w) (fD w))
  | 1#6 => if fG w = 0#4 ∧ fD w = 0#5 then some (.cwait (fB w) (fA w)) else none
  | 2#6 => if fG w = 0#4 then some (.ctest (fB w) (fA w) (fD w)) else none
  | 3#6 => if fG w = 0#4 then some (.barv (fB w) (fA w) (fD w)) else none
  | 4#6 => if fG w = 0#4 ∧ fD w = 0#5 then some (.bwait (fB w) (fA w)) else none
  | 5#6 => if fG w = 0#4 ∧ fB w = 0#5 ∧ fA w = 0#5 ∧ fD w = 0#5 then some (.bell) else none
  | 6#6 => if fG w = 0#4 ∧ fB w = 0#5 ∧ fA w = 0#5 ∧ fD w = 0#5 then some (.xdone) else none
  | 7#6 => if fG w = 0#4 then some (.xput (fB w) (fA w) (fD w)) else none
  | 8#6 => if fG w = 0#4 then some (.xget (fB w) (fA w) (fD w)) else none
  | _ => none

/-- Major 0x25 (R42, R43). -/
def decMajor25 (w : BitVec 32) : Option Instr :=
  match fF w with
  | 0#6 => if fD w = 0#5 then some (.tdef (fG w) (fB w) (fA w)) else none
  | 1#6 => if fD w = 0#5 then some (.tfill (fG w) (fB w) (fA w)) else none
  | 2#6 => if fB w = 0#5 ∧ fD w = 0#5 then some (.tready (fG w) (fA w)) else none
  | 3#6 => if fB w = 0#5 ∧ fD w = 0#5 then some (.tdrain (fG w) (fA w)) else none
  | 4#6 => if fB w = 0#5 ∧ fD w = 0#5 then some (.tfree (fG w) (fA w)) else none
  | 5#6 => if fB w = 0#5 then some (.tstat (fG w) (fA w) (fD w)) else none
  | 6#6 => if fD w = 0#5 then some (.twait (fG w) (fB w) (fA w)) else none
  | 7#6 => some (.tcast (fG w) (fB w) (fA w) (fD w))
  | _ => none

/-- Major 0x26 (R42, R43). -/
def decMajor26 (w : BitVec 32) : Option Instr :=
  match fF w with
  | 0#6 => if fD w = 0#5 then some (.bbinit (fG w) (fB w) (fA w)) else none
  | 1#6 => if fD w = 0#5 then some (.bbinitw (fG w) (fB w) (fA w)) else none
  | 2#6 => if fA w = 0#5 then some (.bbpeek (fG w) (fB w) (fD w)) else none
  | 3#6 => if fA w = 0#5 then some (.bbget (fG w) (fB w) (fD w)) else none
  | 4#6 => if fA w = 0#5 ∧ fD w = 0#5 then some (.bbskip (fG w) (fB w)) else none
  | 5#6 => if fB w = 0#5 ∧ fD w = 0#5 then some (.bbseek (fG w) (fA w)) else none
  | 6#6 => if fB w = 0#5 ∧ fA w = 0#5 then some (.bbpos (fG w) (fD w)) else none
  | 7#6 => some (.bblut (fG w) (fB w) (fA w) (fD w))
  | 8#6 => if fD w = 0#5 then some (.bbput (fG w) (fB w) (fA w)) else none
  | 9#6 => if fB w = 0#5 ∧ fA w = 0#5 ∧ fD w = 0#5 then some (.bbflush (fG w)) else none
  | 10#6 => some (.bfx (fG w) (fB w) (fA w) (fD w))
  | 11#6 => some (.bfi (fG w) (fB w) (fA w) (fD w))
  | 12#6 => some (.fshl (fG w) (fB w) (fA w) (fD w))
  | 13#6 => some (.fshr (fG w) (fB w) (fA w) (fD w))
  | 14#6 => if fB w = 0#5 then some (.brev (fG w) (fA w) (fD w)) else none
  | _ => none

/-- Major 0x28 (R42, R43). -/
def decMajor28 (w : BitVec 32) : Option Instr :=
  match (fF w).extractLsb' 3 3 with
  | 0#3 => some (.vadd ((fF w).extractLsb' 0 3) (fG w) (fB w) (fA w) (fD w))
  | 1#3 => some (.vsub ((fF w).extractLsb' 0 3) (fG w) (fB w) (fA w) (fD w))
  | 2#3 => some (.vmul ((fF w).extractLsb' 0 3) (fG w) (fB w) (fA w) (fD w))
  | 3#3 => some (.vfma ((fF w).extractLsb' 0 3) (fG w) (fB w) (fA w) (fD w))
  | 4#3 => some (.vfms ((fF w).extractLsb' 0 3) (fG w) (fB w) (fA w) (fD w))
  | 5#3 => some (.vmin ((fF w).extractLsb' 0 3) (fG w) (fB w) (fA w) (fD w))
  | 6#3 => some (.vmax ((fF w).extractLsb' 0 3) (fG w) (fB w) (fA w) (fD w))
  | 7#3 => some (.vdiv ((fF w).extractLsb' 0 3) (fG w) (fB w) (fA w) (fD w))
  | _ => none

/-- Major 0x29 (R42, R43). -/
def decMajor29 (w : BitVec 32) : Option Instr :=
  match (fF w).extractLsb' 3 3 with
  | 0#3 => if fB w = 0#5 then some (.vabs ((fF w).extractLsb' 0 3) (fG w) (fA w) (fD w)) else none
  | 1#3 => if fB w = 0#5 then some (.vneg ((fF w).extractLsb' 0 3) (fG w) (fA w) (fD w)) else none
  | 2#3 => if fB w = 0#5 then some (.vsqrt ((fF w).extractLsb' 0 3) (fG w) (fA w) (fD w)) else none
  | 3#3 => if fB w = 0#5 then some (.vrcp ((fF w).extractLsb' 0 3) (fG w) (fA w) (fD w)) else none
  | 4#3 => if fB w = 0#5 then some (.vrsqrt ((fF w).extractLsb' 0 3) (fG w) (fA w) (fD w)) else none
  | 5#3 => if fB w = 0#5 then some (.vexp2 ((fF w).extractLsb' 0 3) (fG w) (fA w) (fD w)) else none
  | 6#3 => if fB w = 0#5 then some (.vlog2 ((fF w).extractLsb' 0 3) (fG w) (fA w) (fD w)) else none
  | 7#3 => if fB w = 0#5 then some (.vmov ((fF w).extractLsb' 0 3) (fG w) (fA w) (fD w)) else none
  | _ => none

/-- Major 0x2A (R42, R43). -/
def decMajor2A (w : BitVec 32) : Option Instr :=
  match (fF w).extractLsb' 3 3 with
  | 0#3 => some (.vact ((fF w).extractLsb' 0 3) (fG w) (fB w) (fA w) (fD w))
  | 1#3 => some (.vdact ((fF w).extractLsb' 0 3) (fG w) (fB w) (fA w) (fD w))
  | 2#3 => if (fD w).extractLsb' 3 2 = 0#2 then some (.vcmpEq ((fF w).extractLsb' 0 3) (fG w) (fB w) (fA w) ((fD w).extractLsb' 0 3)) else none
  | 3#3 => if (fD w).extractLsb' 3 2 = 0#2 then some (.vcmpNe ((fF w).extractLsb' 0 3) (fG w) (fB w) (fA w) ((fD w).extractLsb' 0 3)) else none
  | 4#3 => if (fD w).extractLsb' 3 2 = 0#2 then some (.vcmpLt ((fF w).extractLsb' 0 3) (fG w) (fB w) (fA w) ((fD w).extractLsb' 0 3)) else none
  | 5#3 => if (fD w).extractLsb' 3 2 = 0#2 then some (.vcmpLe ((fF w).extractLsb' 0 3) (fG w) (fB w) (fA w) ((fD w).extractLsb' 0 3)) else none
  | 6#3 => some (.vsel ((fF w).extractLsb' 0 3) (fG w) (fB w) (fA w) (fD w))
  | 7#3 => if fB w = 0#5 ∧ (fD w).extractLsb' 3 2 = 0#2 then some (.vnfin ((fF w).extractLsb' 0 3) (fG w) (fA w) ((fD w).extractLsb' 0 3)) else none
  | _ => none

/-- Major 0x2B (R42, R43). -/
def decMajor2B (w : BitVec 32) : Option Instr :=
  match (fF w).extractLsb' 3 3 with
  | 0#3 => some (.vand ((fF w).extractLsb' 0 3) (fG w) (fB w) (fA w) (fD w))
  | 1#3 => some (.vor ((fF w).extractLsb' 0 3) (fG w) (fB w) (fA w) (fD w))
  | 2#3 => some (.vxor ((fF w).extractLsb' 0 3) (fG w) (fB w) (fA w) (fD w))
  | 3#3 => if fB w = 0#5 then some (.vnot ((fF w).extractLsb' 0 3) (fG w) (fA w) (fD w)) else none
  | 4#3 => some (.vshl ((fF w).extractLsb' 0 3) (fG w) (fB w) (fA w) (fD w))
  | 5#3 => some (.vshr ((fF w).extractLsb' 0 3) (fG w) (fB w) (fA w) (fD w))
  | 6#3 => some (.vsha ((fF w).extractLsb' 0 3) (fG w) (fB w) (fA w) (fD w))
  | 7#3 => if fB w = 0#5 ∧ fA w = 0#5 then some (.viota ((fF w).extractLsb' 0 3) (fG w) (fD w)) else none
  | _ => none

/-- Major 0x2C (R42, R43). -/
noncomputable def decMajor2C (w : BitVec 32) : Option Instr :=
  match (fF w).extractLsb' 3 3 with
  | 0#3 => if fB w = 0#5 then some (.vbcast ((fF w).extractLsb' 0 3) (fG w) (fA w) (fD w)) else none
  | 1#3 => some (.vextr ((fF w).extractLsb' 0 3) (fG w) (fB w) (fA w) (fD w))
  | 2#3 => some (.vins ((fF w).extractLsb' 0 3) (fG w) (fB w) (fA w) (fD w))
  | 3#3 => some (.vperm ((fF w).extractLsb' 0 3) (fG w) (fB w) (fA w) (fD w))
  | 4#3 => some (.vred ((fF w).extractLsb' 0 3) (fG w) (fB w) (fA w) (fD w))
  | 5#3 => some (.vscan ((fF w).extractLsb' 0 3) (fG w) (fB w) (fA w) (fD w))
  | 6#3 => some (.vdot ((fF w).extractLsb' 0 3) (fG w) (fB w) (fA w) (fD w))
  | 7#3 => if (fF w).extractLsb' 0 3 = 0#3 ∧ fG w = 0#4 then some (.vhad (fB w) (fA w) (fD w)) else none
  | _ => none

/-- Major 0x2D (R42, R43). -/
noncomputable def decMajor2D (w : BitVec 32) : Option Instr :=
  match (fF w).extractLsb' 3 3 with
  | 0#3 => some (.vcvt ((fF w).extractLsb' 0 3) (fG w) ((fB w).extractLsb' 3 2) ((fB w).extractLsb' 0 3) (fA w) (fD w))
  | 1#3 => if fG w = 0#4 ∧ fB w = 0#5 then some (.vpack ((fF w).extractLsb' 0 3) (fA w) (fD w)) else none
  | 2#3 => if fG w = 0#4 ∧ fB w = 0#5 then some (.vunpk ((fF w).extractLsb' 0 3) (fA w) (fD w)) else none
  | _ => none

/-- Major 0x30 (R42, R43). -/
noncomputable def decMajor30 (w : BitVec 32) : Option Instr :=
  match fF w with
  | 0#6 => if (fD w).extractLsb' 4 1 = 0#1 then some (.mmaPt (fG w) (fB w) (fA w) ((fD w).extractLsb' 3 1) ((fD w).extractLsb' 2 1) ((fD w).extractLsb' 0 2)) else none
  | 1#6 => if (fD w).extractLsb' 4 1 = 0#1 then some (.mmaMinp (fG w) (fB w) (fA w) ((fD w).extractLsb' 3 1) ((fD w).extractLsb' 2 1) ((fD w).extractLsb' 0 2)) else none
  | 2#6 => if (fD w).extractLsb' 4 1 = 0#1 then some (.mmaMaxp (fG w) (fB w) (fA w) ((fD w).extractLsb' 3 1) ((fD w).extractLsb' 2 1) ((fD w).extractLsb' 0 2)) else none
  | 3#6 => if (fD w).extractLsb' 4 1 = 0#1 then some (.mmaMaxt (fG w) (fB w) (fA w) ((fD w).extractLsb' 3 1) ((fD w).extractLsb' 2 1) ((fD w).extractLsb' 0 2)) else none
  | 4#6 => if (fD w).extractLsb' 4 1 = 0#1 then some (.mmaOrand (fG w) (fB w) (fA w) ((fD w).extractLsb' 3 1) ((fD w).extractLsb' 2 1) ((fD w).extractLsb' 0 2)) else none
  | 8#6 => if (fD w).extractLsb' 4 1 = 0#1 then some (.mmas (fG w) (fB w) (fA w) ((fD w).extractLsb' 3 1) ((fD w).extractLsb' 2 1) ((fD w).extractLsb' 0 2)) else none
  | 9#6 => if fB w = 0#5 ∧ (fD w).extractLsb' 2 3 = 0#3 then some (.mzero (fG w) (fA w) ((fD w).extractLsb' 0 2)) else none
  | 10#6 => if fB w = 0#5 ∧ (fD w).extractLsb' 2 3 = 0#3 then some (.mldc (fG w) (fA w) ((fD w).extractLsb' 0 2)) else none
  | 11#6 => if fB w = 0#5 ∧ (fD w).extractLsb' 2 3 = 0#3 then some (.mout (fG w) (fA w) ((fD w).extractLsb' 0 2)) else none
  | 12#6 => if fB w = 0#5 ∧ (fD w).extractLsb' 2 3 = 0#3 then some (.mepi (fG w) (fA w) ((fD w).extractLsb' 0 2)) else none
  | 13#6 => if fB w = 0#5 ∧ (fD w).extractLsb' 2 3 = 0#3 then some (.mmaskRow (fG w) (fA w) ((fD w).extractLsb' 0 2)) else if fB w = 0#5 ∧ (fD w).extractLsb' 2 3 = 1#3 then some (.mmaskBlk (fG w) (fA w) ((fD w).extractLsb' 0 2)) else none
  | 14#6 => if fG w = 0#4 ∧ fB w = 0#5 ∧ fA w = 0#5 ∧ (fD w).extractLsb' 2 3 = 0#3 then some (.mwait ((fD w).extractLsb' 0 2)) else none
  | 15#6 => if fD w = 0#5 then some (.msend (fG w) (fB w) (fA w)) else none
  | 16#6 => if fG w = 0#4 ∧ fB w = 0#5 then some (.mcap (fA w) (fD w)) else none
  | 17#6 => if fG w = 0#4 ∧ fB w = 0#5 ∧ fD w = 0#5 then some (.mrevoke (fA w)) else none
  | 18#6 => if fG w = 0#4 ∧ (fB w).extractLsb' 2 3 = 0#3 then some (.mstat ((fB w).extractLsb' 0 2) (fA w) (fD w)) else none
  | 19#6 => if fB w = 0#5 ∧ (fD w).extractLsb' 2 3 = 0#3 then some (.mthr (fG w) (fA w) ((fD w).extractLsb' 0 2)) else none
  | 20#6 => if fG w = 0#4 ∧ (fB w).extractLsb' 2 3 = 0#3 ∧ fA w = 0#5 then some (.mprogRd ((fB w).extractLsb' 0 2) (fD w)) else none
  | 21#6 => if fG w = 0#4 ∧ fB w = 0#5 ∧ (fD w).extractLsb' 2 3 = 0#3 then some (.mprogWr (fA w) ((fD w).extractLsb' 0 2)) else none
  | _ => none

/-- Major 0x34 (R42, R43). -/
noncomputable def decMajor34 (w : BitVec 32) : Option Instr :=
  match fF w with
  | 0#6 => some (.khash (fG w) (fB w) (fA w) (fD w))
  | 1#6 => some (.kfind (fG w) (fB w) (fA w) (fD w))
  | 2#6 => some (.kins (fG w) (fB w) (fA w) (fD w))
  | 3#6 => some (.kdel (fG w) (fB w) (fA w) (fD w))
  | 4#6 => some (.kacc (fG w) (fB w) (fA w) (fD w))
  | 5#6 => some (.kget (fG w) (fB w) (fA w) (fD w))
  | 6#6 => some (.kput (fG w) (fB w) (fA w) (fD w))
  | 7#6 => some (.khot (fG w) (fB w) (fA w) (fD w))
  | 8#6 => if fD w = 0#5 then some (.kmerge (fG w) (fB w) (fA w)) else none
  | 9#6 => some (.kscan (fG w) (fB w) (fA w) (fD w))
  | 10#6 => if fD w = 0#5 then some (.kdirty (fG w) (fB w) (fA w)) else none
  | 11#6 => some (.kcount (fG w) (fB w) (fA w) (fD w))
  | _ => none

/-- Major 0x35 (R42, R43). -/
noncomputable def decMajor35 (w : BitVec 32) : Option Instr :=
  match fF w with
  | 0#6 => if fG w = 0#4 ∧ (fD w).extractLsb' 2 3 = 0#3 then some (.jbind (fB w) (fA w) ((fD w).extractLsb' 0 2)) else none
  | 1#6 => if fG w = 0#4 ∧ (fA w).extractLsb' 2 3 = 0#3 then some (.jnode (fB w) ((fA w).extractLsb' 0 2) (fD w)) else none
  | 2#6 => if fG w = 0#4 then some (.krange (fB w) (fA w) (fD w)) else none
  | 3#6 => some (.kruns (fG w) (fB w) (fA w) (fD w))
  | 4#6 => if fB w = 0#5 ∧ fD w = 0#5 then some (.kisect (fG w) (fA w)) else none
  | 5#6 => if fG w = 0#4 then some (.jgather (fB w) (fA w) ((fD w).extractLsb' 3 2) ((fD w).extractLsb' 0 3)) else none
  | 6#6 => some (.jscatter (fG w) (fB w) (fA w) ((fD w).extractLsb' 3 2) ((fD w).extractLsb' 0 3))
  | _ => none

/-- Major 0x38 (R42, R43). -/
noncomputable def decMajor38 (w : BitVec 32) : Option Instr :=
  match fF w with
  | 0#6 => if fB w = 0#5 ∧ fD w = 0#5 then some (.cpy (fG w) (fA w)) else none
  | 1#6 => if fB w = 0#5 ∧ fD w = 0#5 then some (.cpyq (fG w) (fA w)) else none
  | 2#6 => if fB w = 0#5 ∧ fD w = 0#5 then some (.gath (fG w) (fA w)) else none
  | 3#6 => if fB w = 0#5 ∧ fD w = 0#5 then some (.coll (fG w) (fA w)) else none
  | 4#6 => if fB w = 0#5 ∧ fD w = 0#5 then some (.fput (fG w) (fA w)) else none
  | 5#6 => if fB w = 0#5 ∧ fD w = 0#5 then some (.fget (fG w) (fA w)) else none
  | 6#6 => if fG w = 0#4 ∧ fB w = 0#5 then some (.jobx (fA w) (fD w)) else none
  | 7#6 => if fD w = 0#5 then some (.msg (fG w) (fB w) (fA w)) else none
  | 8#6 => if fG w = 0#4 ∧ fB w = 0#5 ∧ (fA w).extractLsb' 2 3 = 0#3 then some (.mrecv ((fA w).extractLsb' 0 2) (fD w)) else none
  | 9#6 => if fG w = 0#4 ∧ fB w = 0#5 ∧ (fA w).extractLsb' 2 3 = 0#3 then some (.mpeek ((fA w).extractLsb' 0 2) (fD w)) else none
  | 10#6 => if fG w = 0#4 then some (.msgNb (fB w) (fA w) (fD w)) else none
  | _ => none

/-- Major 0x3A (R42, R43). -/
noncomputable def decMajor3A (w : BitVec 32) : Option Instr :=
  match fF w with
  | 0#6 => if fG w = 0#4 then some (.launch (fB w) (fA w) (fD w)) else none
  | 1#6 => if fG w = 0#4 ∧ fB w = 0#5 then some (.spawn (fA w) (fD w)) else none
  | 2#6 => if fG w = 0#4 ∧ fB w = 0#5 ∧ fA w = 0#5 then some (.share (fD w)) else none
  | 3#6 => if fG w = 0#4 ∧ fB w = 0#5 ∧ fA w = 0#5 ∧ fD w = 0#5 then some (.tend) else none
  | 4#6 => if fG w = 0#4 ∧ fD w = 0#5 then some (.esignal (fB w) (fA w)) else none
  | 5#6 => if fG w = 0#4 ∧ fB w = 0#5 then some (.sqput (fA w) (fD w)) else none
  | 6#6 => if fG w = 0#4 ∧ fB w = 0#5 then some (.sqget (fA w) (fD w)) else none
  | 7#6 => if fG w = 0#4 ∧ fB w = 0#5 ∧ (fA w).extractLsb' 1 4 = 0#4 then some (.sqlen ((fA w).extractLsb' 0 1) (fD w)) else none
  | _ => none

/-- Major 0x3C (R42). -/
noncomputable def decMajor3C (w : BitVec 32) : Option Instr :=
  if (imm15 w).extractLsb' 12 3 = 0#3 ∧ fA w = 0#5 then some (.mfs ((imm15 w).extractLsb' 0 12) (fD w))
  else none

/-- Major 0x3D (R42). -/
noncomputable def decMajor3D (w : BitVec 32) : Option Instr :=
  if (imm15 w).extractLsb' 12 3 = 0#3 ∧ fD w = 0#5 then some (.mts ((imm15 w).extractLsb' 0 12) (fA w))
  else none

/-- Major 0x3E (R42, R43). -/
noncomputable def decMajor3E (w : BitVec 32) : Option Instr :=
  match fF w with
  | 0#6 => if fG w = 0#4 ∧ (fB w).extractLsb' 4 1 = 0#1 ∧ fD w = 0#5 then some (.trap ((fB w).extractLsb' 0 4) (fA w)) else none
  | 1#6 => if fG w = 0#4 ∧ fB w = 0#5 ∧ fA w = 0#5 ∧ fD w = 0#5 then some (.xret) else if fG w = 0#4 ∧ fB w = 0#5 ∧ fA w = 0#5 ∧ fD w = 1#5 then some (.xretSkip) else none
  | 3#6 => if fG w = 0#4 ∧ fD w = 0#5 then some (.ctxsv (fB w) (fA w)) else none
  | 4#6 => if fG w = 0#4 ∧ fD w = 0#5 then some (.ctxrs (fB w) (fA w)) else none
  | 5#6 => if fG w = 0#4 ∧ fD w = 0#5 then some (.tlbinv (fB w) (fA w)) else none
  | 6#6 => if fG w = 0#4 ∧ fA w = 0#5 ∧ fD w = 0#5 then some (.brkpt (fB w)) else none
  | 7#6 => if fG w = 0#4 ∧ fB w = 0#5 ∧ fA w = 0#5 then some (.roll (fD w)) else none
  | 8#6 => if fG w = 0#4 ∧ fB w = 0#5 ∧ fA w = 0#5 ∧ fD w = 0#5 then some (.ckpt) else none
  | 9#6 => if fG w = 0#4 ∧ fB w = 0#5 ∧ fD w = 0#5 then some (.idle (fA w)) else none
  | _ => none

/-- A 32-bit word by its major opcode (R42); a major not listed is reserved. -/
noncomputable def decode32 (w : BitVec 32) : Option Instr :=
  match fM w with
  | 3#7 => decMajor01 w
  | 5#7 => decMajor02 w
  | 7#7 => decMajor03 w
  | 9#7 => decMajor04 w
  | 11#7 => decMajor05 w
  | 13#7 => decMajor06 w
  | 15#7 => decMajor07 w
  | 17#7 => decMajor08 w
  | 19#7 => decMajor09 w
  | 21#7 => decMajor0A w
  | 23#7 => decMajor0B w
  | 25#7 => decMajor0C w
  | 27#7 => decMajor0D w
  | 29#7 => decMajor0E w
  | 31#7 => decMajor0F w
  | 33#7 => decMajor10 w
  | 35#7 => decMajor11 w
  | 37#7 => decMajor12 w
  | 39#7 => decMajor13 w
  | 49#7 => decMajor18 w
  | 51#7 => decMajor19 w
  | 53#7 => decMajor1A w
  | 55#7 => decMajor1B w
  | 57#7 => decMajor1C w
  | 59#7 => decMajor1D w
  | 61#7 => decMajor1E w
  | 63#7 => decMajor1F w
  | 65#7 => decMajor20 w
  | 67#7 => decMajor21 w
  | 69#7 => decMajor22 w
  | 71#7 => decMajor23 w
  | 73#7 => decMajor24 w
  | 75#7 => decMajor25 w
  | 77#7 => decMajor26 w
  | 81#7 => decMajor28 w
  | 83#7 => decMajor29 w
  | 85#7 => decMajor2A w
  | 87#7 => decMajor2B w
  | 89#7 => decMajor2C w
  | 91#7 => decMajor2D w
  | 97#7 => decMajor30 w
  | 105#7 => decMajor34 w
  | 107#7 => decMajor35 w
  | 113#7 => decMajor38 w
  | 117#7 => decMajor3A w
  | 121#7 => decMajor3C w
  | 123#7 => decMajor3D w
  | 125#7 => decMajor3E w
  | _ => none

/-- A 16-bit halfword: bit 1 selects a short form (R31) or a dictionary reference (R32). -/
noncomputable def decode16 (h : BitVec 16) : Option Instr :=
  if h.extractLsb' 0 2 = 2#2 then some (.dictRef (h.extractLsb' 6 10) (h.extractLsb' 2 4))
  else if h.extractLsb' 0 2 = 0#2 then
    let s := h.extractLsb' 11 5
    let d := h.extractLsb' 6 5
    match h.extractLsb' 2 4 with
    | 1#4 => some (.vaddF32S s d)
    | 2#4 => some (.vsubF32S s d)
    | 3#4 => some (.vmulF32S s d)
    | 4#4 => some (.vmaxF32S s d)
    | 5#4 => some (.vminF32S s d)
    | 6#4 => some (.vaddBf16S s d)
    | 7#4 => some (.vmulBf16S s d)
    | 8#4 => some (.vaddI32S s d)
    | 9#4 => some (.vsubI32S s d)
    | 10#4 => some (.vandS s d)
    | 11#4 => some (.vorS s d)
    | 12#4 => some (.vxorS s d)
    | 13#4 => some (.vmovS s d)
    | 14#4 => some (.vabsF32S s d)
    | 15#4 => some (.vreluF32S s d)
    | _ => none
  else none

/-- The instruction a code word stands for; `none` for a reserved encoding (R48).  A value that the maps leave unassigned is
no well-formed instruction. -/
noncomputable def decodeCode (c : Code) : Option Instr :=
  match (match c with | .half h => decode16 h | .full w => decode32 w) with
  | some i => if i.wellFormed then some i else none
  | none => none

/-- Why a byte string gives no instruction. -/
inductive Reject where
  /-- fewer bytes than the instruction has -/
  | tooShort
  /-- a reserved encoding (R48), with the word and whether it is a 32-bit word -/
  | reserved (w : BitVec 32) (full : Bool)
  deriving DecidableEq, Repr

/-- Two bytes, little-endian (R29). -/
def halfOf (b0 b1 : Byte) : BitVec 16 := b1 ++ b0

/-- The code word at the head of a byte string: bit 0 of the first halfword gives the length (R29). -/
def frame : List Byte → Option (Code × List Byte)
  | b0 :: b1 :: rest =>
    if b0.getLsbD 0 then
      match rest with
      | b2 :: b3 :: rest' => some (.full (halfOf b2 b3 ++ halfOf b0 b1), rest')
      | _ => none
    else some (.half (halfOf b0 b1), rest)
  | _ => none

/-- Decoding, total on any bytes: the instruction and the bytes after it, or the reason there is none. -/
noncomputable def decodeBytes (bs : List Byte) : Except Reject (Instr × List Byte) :=
  match frame bs with
  | none => .error .tooShort
  | some (.half h, rest) =>
    match decodeCode (.half h) with
    | some i => .ok (i, rest)
    | none => .error (.reserved (h.setWidth 32) false)
  | some (.full w, rest) =>
    match decodeCode (.full w) with
    | some i => .ok (i, rest)
    | none => .error (.reserved w true)

/-- The bytes of a number, least significant first. -/
def bytesOf (n : Nat) : Nat → List Byte
  | 0 => []
  | k + 1 => BitVec.ofNat 8 n :: bytesOf (n / 256) k

/-- The instruction the decoder reads from a word of the operation table (its bits numbered as the table numbers them). -/
noncomputable def decodeTableWord (nbits w : Nat) : Option Instr :=
  match decodeBytes (bytesOf w (max 4 (nbits / 8))) with
  | .ok (i, _) => some i
  | .error _ => none

/-! ### The encoder -/

/-- The code word of an instruction, from the same formats and maps (R31 to R47); `none` for an event, which has no word. -/
def encode : Instr → Option Code
  | .add g b a d => some (.full (fmtA 0#6 g b a d 3#7))
  | .sub g b a d => some (.full (fmtA 1#6 g b a d 3#7))
  | .mul g b a d => some (.full (fmtA 2#6 g b a d 3#7))
  | .mulh g b a d => some (.full (fmtA 3#6 g b a d 3#7))
  | .mulhU g b a d => some (.full (fmtA 4#6 g b a d 3#7))
  | .div g b a d => some (.full (fmtA 5#6 g b a d 3#7))
  | .divU g b a d => some (.full (fmtA 6#6 g b a d 3#7))
  | .rem g b a d => some (.full (fmtA 7#6 g b a d 3#7))
  | .remU g b a d => some (.full (fmtA 8#6 g b a d 3#7))
  | .and g b a d => some (.full (fmtA 9#6 g b a d 3#7))
  | .or g b a d => some (.full (fmtA 10#6 g b a d 3#7))
  | .xor g b a d => some (.full (fmtA 11#6 g b a d 3#7))
  | .shl g b a d => some (.full (fmtA 12#6 g b a d 3#7))
  | .shr g b a d => some (.full (fmtA 13#6 g b a d 3#7))
  | .sha g b a d => some (.full (fmtA 14#6 g b a d 3#7))
  | .slt g b a d => some (.full (fmtA 15#6 g b a d 3#7))
  | .sltU g b a d => some (.full (fmtA 16#6 g b a d 3#7))
  | .min g b a d => some (.full (fmtA 17#6 g b a d 3#7))
  | .minU g b a d => some (.full (fmtA 18#6 g b a d 3#7))
  | .max g b a d => some (.full (fmtA 19#6 g b a d 3#7))
  | .maxU g b a d => some (.full (fmtA 20#6 g b a d 3#7))
  | .clz g a d => some (.full (fmtA 21#6 g 0#5 a d 3#7))
  | .ctz g a d => some (.full (fmtA 22#6 g 0#5 a d 3#7))
  | .popc g a d => some (.full (fmtA 23#6 g 0#5 a d 3#7))
  | .extB g a d => some (.full (fmtA 24#6 g 0#5 a d 3#7))
  | .extH g a d => some (.full (fmtA 25#6 g 0#5 a d 3#7))
  | .extW g a d => some (.full (fmtA 26#6 g 0#5 a d 3#7))
  | .extBu g a d => some (.full (fmtA 27#6 g 0#5 a d 3#7))
  | .extHu g a d => some (.full (fmtA 28#6 g 0#5 a d 3#7))
  | .extWu g a d => some (.full (fmtA 29#6 g 0#5 a d 3#7))
  | .sel c b a d => some (.full (fmtA 30#6 c b a d 3#7))
  | .addImm i a d => some (.full (fmtI i a d 5#7))
  | .andImm i a d => some (.full (fmtI i a d 7#7))
  | .orImm i a d => some (.full (fmtI i a d 9#7))
  | .xorImm i a d => some (.full (fmtI i a d 11#7))
  | .shlImm s a d => some (.full (fmtS 0#7 0#2 s a d 13#7))
  | .shrImm s a d => some (.full (fmtS 0#7 1#2 s a d 13#7))
  | .shaImm s a d => some (.full (fmtS 0#7 2#2 s a d 13#7))
  | .sltImm i a d => some (.full (fmtI i a d 15#7))
  | .lui i d => some (.full (fmtU i d 17#7))
  | .addpc i d => some (.full (fmtU i d 19#7))
  | .pcmpEq g b a d => some (.full (fmtA 0#6 g b a (0#2 ++ d) 21#7))
  | .pcmpNe g b a d => some (.full (fmtA 1#6 g b a (0#2 ++ d) 21#7))
  | .pcmpLt g b a d => some (.full (fmtA 2#6 g b a (0#2 ++ d) 21#7))
  | .pcmpGe g b a d => some (.full (fmtA 3#6 g b a (0#2 ++ d) 21#7))
  | .pcmpLtU g b a d => some (.full (fmtA 4#6 g b a (0#2 ++ d) 21#7))
  | .pcmpGeU g b a d => some (.full (fmtA 5#6 g b a (0#2 ++ d) 21#7))
  | .pand g b a d => some (.full (fmtA 8#6 g (0#2 ++ b) (0#2 ++ a) (0#2 ++ d) 21#7))
  | .por g b a d => some (.full (fmtA 9#6 g (0#2 ++ b) (0#2 ++ a) (0#2 ++ d) 21#7))
  | .pxor g b a d => some (.full (fmtA 10#6 g (0#2 ++ b) (0#2 ++ a) (0#2 ++ d) 21#7))
  | .pandn g b a d => some (.full (fmtA 11#6 g (0#2 ++ b) (0#2 ++ a) (0#2 ++ d) 21#7))
  | .pnot g a d => some (.full (fmtA 12#6 g 0#5 (0#2 ++ a) (0#2 ++ d) 21#7))
  | .pmov g a d => some (.full (fmtA 13#6 g 0#5 (0#2 ++ a) (0#2 ++ d) 21#7))
  | .pcnt g a d => some (.full (fmtA 14#6 g 0#5 (0#2 ++ a) d 21#7))
  | .pfirst g a d => some (.full (fmtA 15#6 g 0#5 (0#2 ++ a) d 21#7))
  | .pall g a d => some (.full (fmtA 16#6 g 0#5 (0#2 ++ a) d 21#7))
  | .pnone g a d => some (.full (fmtA 17#6 g 0#5 (0#2 ++ a) d 21#7))
  | .b o l c b a => some (.full (fmtC o l c b a 23#7))
  | .bpAny o l w p => some (.full (fmtC o l 0#3 (0#1 ++ w ++ 0#2) (0#2 ++ p) 25#7))
  | .bpAll o l w p => some (.full (fmtC o l 0#3 (0#1 ++ w ++ 1#2) (0#2 ++ p) 25#7))
  | .bpNone o l w p => some (.full (fmtC o l 0#3 (0#1 ++ w ++ 2#2) (0#2 ++ p) 25#7))
  | .jal o d => some (.full (fmtU o d 27#7))
  | .jr a d => some (.full (fmtA 0#6 0#4 0#5 a d 29#7))
  | .rep m s a n => some (.full (fmtA 1#6 (0#1 ++ m) s a (0#1 ++ n) 29#7))
  | .setk a d => some (.full (fmtA 2#6 0#4 0#5 (0#2 ++ a) (0#2 ++ d) 29#7))
  | .pendk d => some (.full (fmtA 3#6 0#4 0#5 0#5 (0#2 ++ d) 29#7))
  | .qflush d => some (.full (fmtA 4#6 0#4 0#5 0#5 (0#2 ++ d) 29#7))
  | .qcnt a d => some (.full (fmtA 5#6 0#4 0#5 (0#2 ++ a) d 29#7))
  | .gang a => some (.full (fmtA 6#6 0#4 0#5 a 0#5 29#7))
  | .ungang => some (.full (fmtA 7#6 0#4 0#5 0#5 0#5 29#7))
  | .loop l r i => some (.full (fmtL l 0#5 r i 31#7))
  | .loopi l c i => some (.full (fmtLI l c i 33#7))
  | .brd o l c b a => some (.full (fmtC o l c b a 35#7))
  | .brq o l c b q => some (.full (fmtC o l c b (7#3 ++ q) 37#7))
  | .rejoin o => some (.full (fmtU o 0#5 39#7))
  | .ld o q s b d => some (.full (fmtM o q s b d 49#7))
  | .st o q s b d => some (.full (fmtM o q s b d 51#7))
  | .ldl o s b d => some (.full (fmtM o 0#2 s b d 53#7))
  | .stl o s b d => some (.full (fmtM o 0#2 (0#1 ++ s) b d 55#7))
  | .vld o q b d => some (.full (fmtM o q 0#3 b d 57#7))
  | .vst o q b d => some (.full (fmtM o q 0#3 b d 59#7))
  | .vldl o b d => some (.full (fmtM o 0#2 0#3 b d 61#7))
  | .vstl o b d => some (.full (fmtM o 0#2 0#3 b d 63#7))
  | .lda g b a d => some (.full (fmtA 0#6 g b a d 65#7))
  | .str g b a s => some (.full (fmtA 1#6 g b a s 65#7))
  | .vlds g b a d => some (.full (fmtA 2#6 g b a d 65#7))
  | .vsts g b a d => some (.full (fmtA 3#6 g b a d 65#7))
  | .vgathW g b a d => some (.full (fmtA 4#6 g b a d 65#7))
  | .vgathD g b a d => some (.full (fmtA 5#6 g b a d 65#7))
  | .vscatW g b a d => some (.full (fmtA 6#6 g b a d 65#7))
  | .vscatD g b a d => some (.full (fmtA 7#6 g b a d 65#7))
  | .pref g b a => some (.full (fmtA 8#6 g b a 0#5 65#7))
  | .fence g k s => some (.full (fmtA 9#6 g (0#1 ++ k) 0#5 s 65#7))
  | .l1gen => some (.full (fmtA 10#6 0#4 0#5 0#5 0#5 65#7))
  | .ldv g a d => some (.full (fmtA 0#6 g 0#5 a d 67#7))
  | .ldvs g a d => some (.full (fmtA 1#6 g 0#5 a d 67#7))
  | .valset g d => some (.full (fmtA 2#6 g 0#5 0#5 d 67#7))
  | .vclr g => some (.full (fmtA 3#6 g 0#5 0#5 0#5 67#7))
  | .vcas g b a d => some (.full (fmtA 4#6 g b a d 67#7))
  | .lver g a d => some (.full (fmtA 5#6 g 0#5 a d 67#7))
  | .l2ret g b a n => some (.full (fmtA 6#6 g b a (0#2 ++ n) 67#7))
  | .unpin g n => some (.full (fmtA 7#6 g 0#5 0#5 (0#2 ++ n) 67#7))
  | .l2stat g b d => some (.full (fmtA 8#6 g b 0#5 d 67#7))
  | .amoAdd s o b a d => some (.full (fmtA 0#6 (s ++ o) b a d 69#7))
  | .amoAnd s o b a d => some (.full (fmtA 1#6 (s ++ o) b a d 69#7))
  | .amoOr s o b a d => some (.full (fmtA 2#6 (s ++ o) b a d 69#7))
  | .amoXor s o b a d => some (.full (fmtA 3#6 (s ++ o) b a d 69#7))
  | .amoMin s o b a d => some (.full (fmtA 4#6 (s ++ o) b a d 69#7))
  | .amoMax s o b a d => some (.full (fmtA 5#6 (s ++ o) b a d 69#7))
  | .amoMinU s o b a d => some (.full (fmtA 6#6 (s ++ o) b a d 69#7))
  | .amoMaxU s o b a d => some (.full (fmtA 7#6 (s ++ o) b a d 69#7))
  | .amoSwap s o b a d => some (.full (fmtA 8#6 (s ++ o) b a d 69#7))
  | .amoFadd s o b a d => some (.full (fmtA 9#6 (s ++ o) b a d 69#7))
  | .amoFmin s o b a d => some (.full (fmtA 10#6 (s ++ o) b a d 69#7))
  | .amoFmax s o b a d => some (.full (fmtA 11#6 (s ++ o) b a d 69#7))
  | .amoAddW s o b a d => some (.full (fmtA 16#6 (s ++ o) b a d 69#7))
  | .amoAndW s o b a d => some (.full (fmtA 17#6 (s ++ o) b a d 69#7))
  | .amoOrW s o b a d => some (.full (fmtA 18#6 (s ++ o) b a d 69#7))
  | .amoXorW s o b a d => some (.full (fmtA 19#6 (s ++ o) b a d 69#7))
  | .amoMinW s o b a d => some (.full (fmtA 20#6 (s ++ o) b a d 69#7))
  | .amoMaxW s o b a d => some (.full (fmtA 21#6 (s ++ o) b a d 69#7))
  | .amoMinUW s o b a d => some (.full (fmtA 22#6 (s ++ o) b a d 69#7))
  | .amoMaxUW s o b a d => some (.full (fmtA 23#6 (s ++ o) b a d 69#7))
  | .amoSwapW s o b a d => some (.full (fmtA 24#6 (s ++ o) b a d 69#7))
  | .cas s o b a d => some (.full (fmtA 28#6 (s ++ o) b a d 69#7))
  | .casW s o b a d => some (.full (fmtA 29#6 (s ++ o) b a d 69#7))
  | .aredAdd s o b a => some (.full (fmtA 32#6 (s ++ o) b a 0#5 69#7))
  | .aredAnd s o b a => some (.full (fmtA 33#6 (s ++ o) b a 0#5 69#7))
  | .aredOr s o b a => some (.full (fmtA 34#6 (s ++ o) b a 0#5 69#7))
  | .aredXor s o b a => some (.full (fmtA 35#6 (s ++ o) b a 0#5 69#7))
  | .aredMin s o b a => some (.full (fmtA 36#6 (s ++ o) b a 0#5 69#7))
  | .aredMax s o b a => some (.full (fmtA 37#6 (s ++ o) b a 0#5 69#7))
  | .aredMinU s o b a => some (.full (fmtA 38#6 (s ++ o) b a 0#5 69#7))
  | .aredMaxU s o b a => some (.full (fmtA 39#6 (s ++ o) b a 0#5 69#7))
  | .aredSwap s o b a => some (.full (fmtA 40#6 (s ++ o) b a 0#5 69#7))
  | .aredFadd s o b a => some (.full (fmtA 41#6 (s ++ o) b a 0#5 69#7))
  | .aredFmin s o b a => some (.full (fmtA 42#6 (s ++ o) b a 0#5 69#7))
  | .aredFmax s o b a => some (.full (fmtA 43#6 (s ++ o) b a 0#5 69#7))
  | .aredAddW s o b a => some (.full (fmtA 48#6 (s ++ o) b a 0#5 69#7))
  | .aredAndW s o b a => some (.full (fmtA 49#6 (s ++ o) b a 0#5 69#7))
  | .aredOrW s o b a => some (.full (fmtA 50#6 (s ++ o) b a 0#5 69#7))
  | .aredXorW s o b a => some (.full (fmtA 51#6 (s ++ o) b a 0#5 69#7))
  | .aredMinW s o b a => some (.full (fmtA 52#6 (s ++ o) b a 0#5 69#7))
  | .aredMaxW s o b a => some (.full (fmtA 53#6 (s ++ o) b a 0#5 69#7))
  | .aredMinUW s o b a => some (.full (fmtA 54#6 (s ++ o) b a 0#5 69#7))
  | .aredMaxUW s o b a => some (.full (fmtA 55#6 (s ++ o) b a 0#5 69#7))
  | .aredSwapW s o b a => some (.full (fmtA 56#6 (s ++ o) b a 0#5 69#7))
  | .vamoAdd g b a d => some (.full (fmtA 0#6 g b a d 71#7))
  | .vamoAnd g b a d => some (.full (fmtA 1#6 g b a d 71#7))
  | .vamoOr g b a d => some (.full (fmtA 2#6 g b a d 71#7))
  | .vamoXor g b a d => some (.full (fmtA 3#6 g b a d 71#7))
  | .vamoMin g b a d => some (.full (fmtA 4#6 g b a d 71#7))
  | .vamoMax g b a d => some (.full (fmtA 5#6 g b a d 71#7))
  | .vamoMinU g b a d => some (.full (fmtA 6#6 g b a d 71#7))
  | .vamoMaxU g b a d => some (.full (fmtA 7#6 g b a d 71#7))
  | .vamoSwap g b a d => some (.full (fmtA 8#6 g b a d 71#7))
  | .vamoFadd g b a d => some (.full (fmtA 9#6 g b a d 71#7))
  | .vamoFmin g b a d => some (.full (fmtA 10#6 g b a d 71#7))
  | .vamoFmax g b a d => some (.full (fmtA 11#6 g b a d 71#7))
  | .varedAdd g b a d => some (.full (fmtA 16#6 g b a d 71#7))
  | .varedAnd g b a d => some (.full (fmtA 17#6 g b a d 71#7))
  | .varedOr g b a d => some (.full (fmtA 18#6 g b a d 71#7))
  | .varedXor g b a d => some (.full (fmtA 19#6 g b a d 71#7))
  | .varedMin g b a d => some (.full (fmtA 20#6 g b a d 71#7))
  | .varedMax g b a d => some (.full (fmtA 21#6 g b a d 71#7))
  | .varedMinU g b a d => some (.full (fmtA 22#6 g b a d 71#7))
  | .varedMaxU g b a d => some (.full (fmtA 23#6 g b a d 71#7))
  | .varedSwap g b a d => some (.full (fmtA 24#6 g b a d 71#7))
  | .varedFadd g b a d => some (.full (fmtA 25#6 g b a d 71#7))
  | .varedFmin g b a d => some (.full (fmtA 26#6 g b a d 71#7))
  | .varedFmax g b a d => some (.full (fmtA 27#6 g b a d 71#7))
  | .nmop a k => some (.full (fmtA 48#6 0#4 0#5 a (0#1 ++ k) 71#7))
  | .nmwait a => some (.full (fmtA 49#6 0#4 0#5 a 0#5 71#7))
  | .cadd s o b a d => some (.full (fmtA 0#6 (s ++ o) b a d 73#7))
  | .cwait b a => some (.full (fmtA 1#6 0#4 b a 0#5 73#7))
  | .ctest b a d => some (.full (fmtA 2#6 0#4 b a d 73#7))
  | .barv b a d => some (.full (fmtA 3#6 0#4 b a d 73#7))
  | .bwait b a => some (.full (fmtA 4#6 0#4 b a 0#5 73#7))
  | .bell => some (.full (fmtA 5#6 0#4 0#5 0#5 0#5 73#7))
  | .xdone => some (.full (fmtA 6#6 0#4 0#5 0#5 0#5 73#7))
  | .xput b a d => some (.full (fmtA 7#6 0#4 b a d 73#7))
  | .xget b a d => some (.full (fmtA 8#6 0#4 b a d 73#7))
  | .tdef g b a => some (.full (fmtA 0#6 g b a 0#5 75#7))
  | .tfill g b a => some (.full (fmtA 1#6 g b a 0#5 75#7))
  | .tready g a => some (.full (fmtA 2#6 g 0#5 a 0#5 75#7))
  | .tdrain g a => some (.full (fmtA 3#6 g 0#5 a 0#5 75#7))
  | .tfree g a => some (.full (fmtA 4#6 g 0#5 a 0#5 75#7))
  | .tstat g a d => some (.full (fmtA 5#6 g 0#5 a d 75#7))
  | .twait g b a => some (.full (fmtA 6#6 g b a 0#5 75#7))
  | .tcast g b a d => some (.full (fmtA 7#6 g b a d 75#7))
  | .bbinit g b a => some (.full (fmtA 0#6 g b a 0#5 77#7))
  | .bbinitw g b a => some (.full (fmtA 1#6 g b a 0#5 77#7))
  | .bbpeek g b d => some (.full (fmtA 2#6 g b 0#5 d 77#7))
  | .bbget g b d => some (.full (fmtA 3#6 g b 0#5 d 77#7))
  | .bbskip g b => some (.full (fmtA 4#6 g b 0#5 0#5 77#7))
  | .bbseek g a => some (.full (fmtA 5#6 g 0#5 a 0#5 77#7))
  | .bbpos g d => some (.full (fmtA 6#6 g 0#5 0#5 d 77#7))
  | .bblut g b a d => some (.full (fmtA 7#6 g b a d 77#7))
  | .bbput g b a => some (.full (fmtA 8#6 g b a 0#5 77#7))
  | .bbflush g => some (.full (fmtA 9#6 g 0#5 0#5 0#5 77#7))
  | .bfx g b a d => some (.full (fmtA 10#6 g b a d 77#7))
  | .bfi g b a d => some (.full (fmtA 11#6 g b a d 77#7))
  | .fshl g b a d => some (.full (fmtA 12#6 g b a d 77#7))
  | .fshr g b a d => some (.full (fmtA 13#6 g b a d 77#7))
  | .brev g a d => some (.full (fmtA 14#6 g 0#5 a d 77#7))
  | .vadd t g b a d => some (.full (fmtA (0#3 ++ t) g b a d 81#7))
  | .vsub t g b a d => some (.full (fmtA (1#3 ++ t) g b a d 81#7))
  | .vmul t g b a d => some (.full (fmtA (2#3 ++ t) g b a d 81#7))
  | .vfma t g b a d => some (.full (fmtA (3#3 ++ t) g b a d 81#7))
  | .vfms t g b a d => some (.full (fmtA (4#3 ++ t) g b a d 81#7))
  | .vmin t g b a d => some (.full (fmtA (5#3 ++ t) g b a d 81#7))
  | .vmax t g b a d => some (.full (fmtA (6#3 ++ t) g b a d 81#7))
  | .vdiv t g b a d => some (.full (fmtA (7#3 ++ t) g b a d 81#7))
  | .vabs t g a d => some (.full (fmtA (0#3 ++ t) g 0#5 a d 83#7))
  | .vneg t g a d => some (.full (fmtA (1#3 ++ t) g 0#5 a d 83#7))
  | .vsqrt t g a d => some (.full (fmtA (2#3 ++ t) g 0#5 a d 83#7))
  | .vrcp t g a d => some (.full (fmtA (3#3 ++ t) g 0#5 a d 83#7))
  | .vrsqrt t g a d => some (.full (fmtA (4#3 ++ t) g 0#5 a d 83#7))
  | .vexp2 t g a d => some (.full (fmtA (5#3 ++ t) g 0#5 a d 83#7))
  | .vlog2 t g a d => some (.full (fmtA (6#3 ++ t) g 0#5 a d 83#7))
  | .vmov t g a d => some (.full (fmtA (7#3 ++ t) g 0#5 a d 83#7))
  | .vact t g f a d => some (.full (fmtA (0#3 ++ t) g f a d 85#7))
  | .vdact t g f a d => some (.full (fmtA (1#3 ++ t) g f a d 85#7))
  | .vcmpEq t g b a p => some (.full (fmtA (2#3 ++ t) g b a (0#2 ++ p) 85#7))
  | .vcmpNe t g b a p => some (.full (fmtA (3#3 ++ t) g b a (0#2 ++ p) 85#7))
  | .vcmpLt t g b a p => some (.full (fmtA (4#3 ++ t) g b a (0#2 ++ p) 85#7))
  | .vcmpLe t g b a p => some (.full (fmtA (5#3 ++ t) g b a (0#2 ++ p) 85#7))
  | .vsel t c b a d => some (.full (fmtA (6#3 ++ t) c b a d 85#7))
  | .vnfin t g a p => some (.full (fmtA (7#3 ++ t) g 0#5 a (0#2 ++ p) 85#7))
  | .vand t g b a d => some (.full (fmtA (0#3 ++ t) g b a d 87#7))
  | .vor t g b a d => some (.full (fmtA (1#3 ++ t) g b a d 87#7))
  | .vxor t g b a d => some (.full (fmtA (2#3 ++ t) g b a d 87#7))
  | .vnot t g a d => some (.full (fmtA (3#3 ++ t) g 0#5 a d 87#7))
  | .vshl t g b a d => some (.full (fmtA (4#3 ++ t) g b a d 87#7))
  | .vshr t g b a d => some (.full (fmtA (5#3 ++ t) g b a d 87#7))
  | .vsha t g b a d => some (.full (fmtA (6#3 ++ t) g b a d 87#7))
  | .viota t g d => some (.full (fmtA (7#3 ++ t) g 0#5 0#5 d 87#7))
  | .vbcast t g a d => some (.full (fmtA (0#3 ++ t) g 0#5 a d 89#7))
  | .vextr t g b a d => some (.full (fmtA (1#3 ++ t) g b a d 89#7))
  | .vins t g b a d => some (.full (fmtA (2#3 ++ t) g b a d 89#7))
  | .vperm t g b a d => some (.full (fmtA (3#3 ++ t) g b a d 89#7))
  | .vred t g o a d => some (.full (fmtA (4#3 ++ t) g o a d 89#7))
  | .vscan t g o a d => some (.full (fmtA (5#3 ++ t) g o a d 89#7))
  | .vdot t g b a d => some (.full (fmtA (6#3 ++ t) g b a d 89#7))
  | .vhad n a d => some (.full (fmtA 56#6 0#4 n a d 89#7))
  | .vcvt t g r s a d => some (.full (fmtA (0#3 ++ t) g (r ++ s) a d 91#7))
  | .vpack t a d => some (.full (fmtA (1#3 ++ t) 0#4 0#5 a d 91#7))
  | .vunpk t a d => some (.full (fmtA (2#3 ++ t) 0#4 0#5 a d 91#7))
  | .vaddF32S s d => some (.half (s ++ d ++ 1#4 ++ 0#2))
  | .vsubF32S s d => some (.half (s ++ d ++ 2#4 ++ 0#2))
  | .vmulF32S s d => some (.half (s ++ d ++ 3#4 ++ 0#2))
  | .vmaxF32S s d => some (.half (s ++ d ++ 4#4 ++ 0#2))
  | .vminF32S s d => some (.half (s ++ d ++ 5#4 ++ 0#2))
  | .vaddBf16S s d => some (.half (s ++ d ++ 6#4 ++ 0#2))
  | .vmulBf16S s d => some (.half (s ++ d ++ 7#4 ++ 0#2))
  | .vaddI32S s d => some (.half (s ++ d ++ 8#4 ++ 0#2))
  | .vsubI32S s d => some (.half (s ++ d ++ 9#4 ++ 0#2))
  | .vandS s d => some (.half (s ++ d ++ 10#4 ++ 0#2))
  | .vorS s d => some (.half (s ++ d ++ 11#4 ++ 0#2))
  | .vxorS s d => some (.half (s ++ d ++ 12#4 ++ 0#2))
  | .vmovS s d => some (.half (s ++ d ++ 13#4 ++ 0#2))
  | .vabsF32S s d => some (.half (s ++ d ++ 14#4 ++ 0#2))
  | .vreluF32S s d => some (.half (s ++ d ++ 15#4 ++ 0#2))
  | .dictRef i g => some (.half (i ++ g ++ 2#2))
  | .mmaPt k b a s c n => some (.full (fmtA 0#6 k b a (0#1 ++ s ++ c ++ n) 97#7))
  | .mmaMinp k b a s c n => some (.full (fmtA 1#6 k b a (0#1 ++ s ++ c ++ n) 97#7))
  | .mmaMaxp k b a s c n => some (.full (fmtA 2#6 k b a (0#1 ++ s ++ c ++ n) 97#7))
  | .mmaMaxt k b a s c n => some (.full (fmtA 3#6 k b a (0#1 ++ s ++ c ++ n) 97#7))
  | .mmaOrand k b a s c n => some (.full (fmtA 4#6 k b a (0#1 ++ s ++ c ++ n) 97#7))
  | .mmas k b a s c n => some (.full (fmtA 8#6 k b a (0#1 ++ s ++ c ++ n) 97#7))
  | .mzero k a n => some (.full (fmtA 9#6 k 0#5 a (0#3 ++ n) 97#7))
  | .mldc k a n => some (.full (fmtA 10#6 k 0#5 a (0#3 ++ n) 97#7))
  | .mout k a n => some (.full (fmtA 11#6 k 0#5 a (0#3 ++ n) 97#7))
  | .mepi k a n => some (.full (fmtA 12#6 k 0#5 a (0#3 ++ n) 97#7))
  | .mmaskRow k a n => some (.full (fmtA 13#6 k 0#5 a (0#3 ++ n) 97#7))
  | .mmaskBlk k a n => some (.full (fmtA 13#6 k 0#5 a (1#3 ++ n) 97#7))
  | .mwait n => some (.full (fmtA 14#6 0#4 0#5 0#5 (0#3 ++ n) 97#7))
  | .msend k b a => some (.full (fmtA 15#6 k b a 0#5 97#7))
  | .mcap a d => some (.full (fmtA 16#6 0#4 0#5 a d 97#7))
  | .mrevoke a => some (.full (fmtA 17#6 0#4 0#5 a 0#5 97#7))
  | .mstat n a d => some (.full (fmtA 18#6 0#4 (0#3 ++ n) a d 97#7))
  | .mthr k a n => some (.full (fmtA 19#6 k 0#5 a (0#3 ++ n) 97#7))
  | .mprogRd n d => some (.full (fmtA 20#6 0#4 (0#3 ++ n) 0#5 d 97#7))
  | .mprogWr a n => some (.full (fmtA 21#6 0#4 0#5 a (0#3 ++ n) 97#7))
  | .khash g b a d => some (.full (fmtA 0#6 g b a d 105#7))
  | .kfind g b a d => some (.full (fmtA 1#6 g b a d 105#7))
  | .kins g b a d => some (.full (fmtA 2#6 g b a d 105#7))
  | .kdel g b a d => some (.full (fmtA 3#6 g b a d 105#7))
  | .kacc g b a d => some (.full (fmtA 4#6 g b a d 105#7))
  | .kget g b a d => some (.full (fmtA 5#6 g b a d 105#7))
  | .kput g b a d => some (.full (fmtA 6#6 g b a d 105#7))
  | .khot g b a d => some (.full (fmtA 7#6 g b a d 105#7))
  | .kmerge g b a => some (.full (fmtA 8#6 g b a 0#5 105#7))
  | .kscan g b a d => some (.full (fmtA 9#6 g b a d 105#7))
  | .kdirty g b a => some (.full (fmtA 10#6 g b a 0#5 105#7))
  | .kcount g b a d => some (.full (fmtA 11#6 g b a d 105#7))
  | .jbind b a n => some (.full (fmtA 0#6 0#4 b a (0#3 ++ n) 107#7))
  | .jnode b n d => some (.full (fmtA 1#6 0#4 b (0#3 ++ n) d 107#7))
  | .krange b a d => some (.full (fmtA 2#6 0#4 b a d 107#7))
  | .kruns k b a d => some (.full (fmtA 3#6 k b a d 107#7))
  | .kisect k a => some (.full (fmtA 4#6 k 0#5 a 0#5 107#7))
  | .jgather b a n p => some (.full (fmtA 5#6 0#4 b a (n ++ p) 107#7))
  | .jscatter k b a n p => some (.full (fmtA 6#6 k b a (n ++ p) 107#7))
  | .cpy k a => some (.full (fmtA 0#6 k 0#5 a 0#5 113#7))
  | .cpyq k a => some (.full (fmtA 1#6 k 0#5 a 0#5 113#7))
  | .gath k a => some (.full (fmtA 2#6 k 0#5 a 0#5 113#7))
  | .coll k a => some (.full (fmtA 3#6 k 0#5 a 0#5 113#7))
  | .fput k a => some (.full (fmtA 4#6 k 0#5 a 0#5 113#7))
  | .fget k a => some (.full (fmtA 5#6 k 0#5 a 0#5 113#7))
  | .jobx a d => some (.full (fmtA 6#6 0#4 0#5 a d 113#7))
  | .msg k b a => some (.full (fmtA 7#6 k b a 0#5 113#7))
  | .mrecv q d => some (.full (fmtA 8#6 0#4 0#5 (0#3 ++ q) d 113#7))
  | .mpeek q d => some (.full (fmtA 9#6 0#4 0#5 (0#3 ++ q) d 113#7))
  | .msgNb b a d => some (.full (fmtA 10#6 0#4 b a d 113#7))
  | .launch b a d => some (.full (fmtA 0#6 0#4 b a d 117#7))
  | .spawn a d => some (.full (fmtA 1#6 0#4 0#5 a d 117#7))
  | .share d => some (.full (fmtA 2#6 0#4 0#5 0#5 d 117#7))
  | .tend => some (.full (fmtA 3#6 0#4 0#5 0#5 0#5 117#7))
  | .esignal b a => some (.full (fmtA 4#6 0#4 b a 0#5 117#7))
  | .sqput a d => some (.full (fmtA 5#6 0#4 0#5 a d 117#7))
  | .sqget a d => some (.full (fmtA 6#6 0#4 0#5 a d 117#7))
  | .sqlen x d => some (.full (fmtA 7#6 0#4 0#5 (0#4 ++ x) d 117#7))
  | .mfs r d => some (.full (fmtI (0#3 ++ r) 0#5 d 121#7))
  | .mts r a => some (.full (fmtI (0#3 ++ r) a 0#5 123#7))
  | .trap n a => some (.full (fmtA 0#6 0#4 (0#1 ++ n) a 0#5 125#7))
  | .xret => some (.full (fmtA 1#6 0#4 0#5 0#5 0#5 125#7))
  | .xretSkip => some (.full (fmtA 1#6 0#4 0#5 0#5 1#5 125#7))
  | .ctxsv b a => some (.full (fmtA 3#6 0#4 b a 0#5 125#7))
  | .ctxrs b a => some (.full (fmtA 4#6 0#4 b a 0#5 125#7))
  | .tlbinv b a => some (.full (fmtA 5#6 0#4 b a 0#5 125#7))
  | .brkpt b => some (.full (fmtA 6#6 0#4 b 0#5 0#5 125#7))
  | .roll d => some (.full (fmtA 7#6 0#4 0#5 0#5 d 125#7))
  | .ckpt => some (.full (fmtA 8#6 0#4 0#5 0#5 0#5 125#7))
  | .idle a => some (.full (fmtA 9#6 0#4 0#5 a 0#5 125#7))
  | .frmWrite _ => none
  | .fflagsWrite _ => none
  | .srseedWrite _ => none
  | .lcWrite _ _ => none
  | .vprogWrite _ => none
  | .bitBufferWrite _ _ => none
  | .rtreqWrite _ => none
  | .monctlWrite _ _ => none
  | .mondataRead _ => none
  | .rcctlWrite _ => none
  | .ckctlWrite _ => none
  | .stepcntWrite _ => none
  | .asyncTrap _ _ => none
  | .deskResume _ => none
  | .loadReturn _ _ => none
  | .storePerform _ _ _ => none
  | .l2Fill _ => none
  | .twinStep _ => none
  | .msRequestForward _ => none
  | .walk _ _ _ _ => none
  | .cwaitWake _ => none
  | .waiterReread _ _ => none
  | .queueWatchdog _ _ => none
  | .gangWatchdog _ _ => none
  | .tileWatchdog _ _ => none
  | .msgWatchdog _ _ => none
  | .idleWake _ _ => none
  | .gangForward _ => none
  | .brqResolve _ _ => none
  | .executeClear _ _ => none
  | .repPass _ _ => none
  | .tcastDelivery _ _ => none
  | .matrixCommandStart _ _ => none
  | .mmaBlockCommit _ _ => none
  | .matrixCommandComplete _ _ => none
  | .matrixOperandFault _ _ => none
  | .remoteCommandAccept _ _ => none
  | .remoteCommandComplete _ _ => none
  | .cardStart _ _ => none
  | .cardComplete _ _ => none
  | .cardFailure _ _ => none
  | .collectiveInstance _ _ _ => none
  | .switchCombine _ _ _ _ => none
  | .messageArrival _ => none
  | .nmTranslationPhase _ _ _ => none
  | .nmUpdatePhase _ _ _ => none
  | .jscatterPhase2 _ => none
  | .keyAccumulate _ => none
  | .hotPromotion _ _ _ _ => none
  | .launchTake _ _ => none
  | .launchStart _ _ _ => none
  | .spanStart _ => none
  | .shareDispatch _ _ => none
  | .stageItemDispatch _ => none
  | .bellComplete _ _ _ => none
  | .exchangeEnd _ _ => none
  | .preemptImmediate _ _ => none
  | .resumeEntry _ => none
  | .hangDetect _ _ => none
  | .launchFail _ _ _ _ _ => none
  | .shareRerun _ _ => none
  | .launchComplete _ => none
  | .debugStop _ => none
  | .checkpoint _ _ => none
  | .replayStop _ _ => none
  | .rollCall => none
  | .monitorSample _ _ _ => none
  | .errorEvent _ => none
  | .windowRollover => none
  | .unitRetire _ => none
  | .clockStep _ _ => none
  | .coldReset => none
  | .hostTailWrite _ _ _ => none
  | .hostMemoryAccess _ _ _ => none
  | .partitionConfigWrite _ => none
  | .lockInterface _ => none
  | .startInterface _ => none
  | .tdiError _ => none
  | .spdmRequest _ _ => none
  | .linkGroupFail _ _ => none
  | .linkDown _ => none
  | .linkRekey _ => none
  | .mgmtReset => none
  | .pldmMonitor _ => none
  | .firmwareUpdate _ _ => none
  | .reservedEncoding _ _ => none
  | .deadlinePass _ => none
  | .hostStopRequest _ => none
  | .debugResume _ => none
  | .debugSessionAttach _ => none
  | .newSpdmSession _ => none
  | .powerLoss => none
  | .stopInterface _ => none

/-- The bytes of a code word as they stand in memory. -/
def Code.bytes : Code → List Byte
  | .half h => bytesOf h.toNat 2
  | .full w => bytesOf w.toNat 4

end Sys2Proof
end

