-- ==== Sys2Proof/Machine/FloatFun.lean ====
section
/-! DEFINITION. The functions of R123 and R124 whose exact value is no dyadic number: 2^a, log2 a and the activations.  Each is
enclosed between two dyadic bounds at a working precision; where both bounds round to the same result (pattern and flags),
that is the correctly rounded result of the exact function, and otherwise the precision is raised. -/

namespace Sys2Proof.Machine

/-- An enclosure: the exact value lies in [lo, hi] / 2^s. -/
structure Encl where
  /-- numerator of the lower bound -/
  lo : Int
  /-- numerator of the upper bound -/
  hi : Int
  /-- scale -/
  s : Nat
  deriving DecidableEq, Repr

/-- An exact integer over 2^s. -/
def Encl.point (x : Int) (s : Nat) : Encl := ⟨x, x, s⟩
/-- The same enclosure at a larger scale. -/
def Encl.up (a : Encl) (s : Nat) : Encl := ⟨a.lo * 2 ^ (s - a.s), a.hi * 2 ^ (s - a.s), s⟩
/-- Sum. -/
def Encl.add (a b : Encl) : Encl :=
  let s := max a.s b.s
  ⟨(a.up s).lo + (b.up s).lo, (a.up s).hi + (b.up s).hi, s⟩
/-- Negation. -/
def Encl.neg (a : Encl) : Encl := ⟨-a.hi, -a.lo, a.s⟩
/-- Difference. -/
def Encl.sub (a b : Encl) : Encl := a.add b.neg
/-- Product. -/
def Encl.mul (a b : Encl) : Encl :=
  let p := a.lo * b.lo
  let q := a.lo * b.hi
  let r := a.hi * b.lo
  let t := a.hi * b.hi
  ⟨min (min p q) (min r t), max (max p q) (max r t), a.s + b.s⟩
/-- Multiplication by 2^k, for either sign of k. -/
def Encl.shift (a : Encl) (k : Int) : Encl :=
  if k < 0 then ⟨a.lo, a.hi, a.s + (-k).toNat⟩ else ⟨a.lo * 2 ^ k.toNat, a.hi * 2 ^ k.toNat, a.s⟩
/-- Cut to `p` fractional bits, outwards. -/
def Encl.trim (a : Encl) (p : Nat) : Encl :=
  if a.s ≤ p then a else ⟨a.lo / 2 ^ (a.s - p), a.hi / 2 ^ (a.s - p) + 1, p⟩
/-- Quotient of an enclosure by a positive one, to `p` bits beyond the scales. -/
def Encl.div (a b : Encl) (p : Nat) : Encl :=
  let k := p + b.s + bitLen b.hi.natAbs
  let lo := if 0 ≤ a.lo then a.lo * 2 ^ k / b.hi else -(-a.lo * 2 ^ k / b.lo) - 1
  let hi := if 0 ≤ a.hi then a.hi * 2 ^ k / b.lo + 1 else -(-a.hi * 2 ^ k / b.hi)
  -- (a / 2^sa) / (b / 2^sb) = (a 2^k / b) / 2^(sa + k - sb)
  ⟨lo, hi, a.s + k - b.s⟩

/-- The sum of x^i / i! for i below `n`, term by term, of `x` over 2^p with 0 ≤ x. -/
def expTerms (p x : Nat) : Nat → Nat → Nat → Nat → Nat
  | 0, _, _, acc => acc
  | n + 1, i, term, acc => expTerms p x n (i + 1) (term * x / 2 ^ p / (i + 1)) (acc + term)
/-- e^x for 0 ≤ x ≤ 1, `x` over 2^p: every term is cut by less than `n` units, and the tail is below one. -/
def expUnit (p x : Nat) : Encl :=
  let n := p / 4 + 24
  let s := expTerms p x n 0 (2 ^ p) 0
  ⟨s, s + n * n + 2, p⟩
/-- The sum of z^(2i+1) / (2i+1), term by term, of `z` over 2^p. -/
def atanhTerms (p z2 : Nat) : Nat → Nat → Nat → Nat → Nat
  | 0, _, _, acc => acc
  | n + 1, i, pw, acc => atanhTerms p z2 n (i + 1) (pw * z2 / 2 ^ p) (acc + pw / (2 * i + 1))
/-- artanh z for 0 ≤ z ≤ 1/3, `z` over 2^p. -/
def atanhUnit (p z : Nat) : Encl :=
  let n := p / 3 + 4
  let s := atanhTerms p (z * z / 2 ^ p) n 0 z 0
  ⟨s, s + n * n + 4, p⟩
/-- ln(1 + x) of an enclosure with 0 ≤ x ≤ 1: 2 artanh(x / (2 + x)), monotone in x. -/
def lnOnePlus (p : Nat) (x : Encl) : Encl :=
  let z := (x.div (x.add (.point 2 0)) p).trim p
  ⟨2 * (atanhUnit p (z.lo.toNat)).lo, 2 * (atanhUnit p (z.hi.toNat)).hi, p⟩
/-- ln 2. -/
def ln2 (p : Nat) : Encl :=
  let z := (2 ^ p : Nat) / 3
  ⟨2 * (atanhUnit p z).lo, 2 * (atanhUnit p (z + 1)).hi, p⟩
/-- The alternating sum of 1 / ((2i+1) q^(2i+1)). -/
def atanTerms (p q2 : Nat) : Nat → Nat → Nat → Int → Int
  | 0, _, _, acc => acc
  | n + 1, i, pw, acc =>
    let t : Int := (pw / (2 * i + 1) : Nat)
    atanTerms p q2 n (i + 1) (pw / q2) (if i % 2 = 0 then acc + t else acc - t)
/-- arctan(1/q) over 2^p. -/
def atanInv (p q : Nat) : Encl :=
  let n := p / 4 + 4
  let s := atanTerms p (q * q) n 0 (2 ^ p / q) 0
  ⟨s - 2 * n - 2, s + 2 * n + 2, p⟩
/-- π = 16 arctan(1/5) - 4 arctan(1/239). -/
def piEncl (p : Nat) : Encl := (Encl.mul (.point 16 0) (atanInv p 5)).sub (Encl.mul (.point 4 0) (atanInv p 239))
/-- √(2/π). -/
def sqrt2OverPi (p : Nat) : Encl :=
  let q := ((Encl.point 2 0).div (piEncl p) p).trim (2 * p)
  let q := q.up (2 * p)
  ⟨isqrt q.lo.toNat, isqrt q.hi.toNat + 1, p⟩

/-- e^x of an exact dyadic x = k / 2^s, by x = j ln 2 + r. -/
def expEncl (p : Nat) (x : Encl) : Encl :=
  let l := ln2 (p + 16)
  -- an integer j near x / ln 2 from below; the remainder is kept within [0, 1] by taking j one lower where needed
  let j := (x.lo * 2 ^ (p + 16)) / (l.hi * 2 ^ x.s) - (if x.lo < 0 then 1 else 0)
  let r := (x.sub (Encl.mul (.point j 0) l)).trim p
  let lo := expUnit p r.lo.toNat
  let hi := expUnit p (min r.hi.toNat (2 ^ (p + 1)))
  (Encl.mk lo.lo hi.hi p).shift j

/-- Exact dyadic as an enclosure. -/
def dyEncl (n : Bool) (m : Nat) (e : Int) : Encl := (Encl.point (if n then -(m : Int) else m) 0).shift e

/-- One bound rounded: the exact magnitude lies strictly beyond the cut numerator. -/
def roundBound (f : Fmt) (r : Rm) (x : Int) (s : Nat) : FRes := f.round r (x < 0) x.natAbs (-(s : Int)) true

/-- The rounded result when both bounds agree. -/
def agreed (f : Fmt) (r : Rm) (a : Encl) : Option FRes :=
  if 0 < a.lo then
    let x := roundBound f r a.lo a.s
    if x = roundBound f r (a.hi - 1) a.s then some x else none
  else if a.hi < 0 then
    let x := roundBound f r a.hi a.s
    if x = roundBound f r (a.lo + 1) a.s then some x else none
  else none

/-- Raises the working precision until the two bounds agree. -/
def refine (f : Fmt) (r : Rm) (g : Nat → Encl) : List Nat → FRes
  | [] => roundBound f r (g 4096).lo (g 4096).s
  | p :: ps => match agreed f r (g p) with | some x => x | none => refine f r g ps

/-- Working precisions: the last is beyond every near-exact case of R123 and R124 on binary32 operands. -/
def precisions : List Nat := [96, 224, 480, 1200]

/-- A positive value below every quantum: under every rounding it acts as an infinitesimal. -/
def tinyRes (f : Fmt) (r : Rm) (neg : Bool) : FRes := f.round r neg 1 (-2000) true
/-- A value just below the dyadic one in magnitude. -/
def justBelow (f : Fmt) (r : Rm) (neg : Bool) (m : Nat) (e : Int) : FRes :=
  f.round r neg (m * 2 ^ 200 - 1) (e - 200) true
/-- A value just above the dyadic one in magnitude. -/
def justAbove (f : Fmt) (r : Rm) (neg : Bool) (m : Nat) (e : Int) : FRes :=
  f.round r neg (m * 2 ^ 200) (e - 200) true
/-- A magnitude beyond every format. -/
def hugeRes (f : Fmt) (r : Rm) (neg : Bool) : FRes := f.round r neg 1 2000 true
/-- Whether |x| is at least 256. -/
def isLarge (m : Nat) (e : Int) : Bool := m != 0 && decide (8 ≤ (m.log2 : Int) + e)

/-- 2^a (R123). -/
def Fmt.exp2 (f : Fmt) (r : Rm) (a : Nat) : FRes :=
  match f.value a with
  | .nan s => ⟨f.nan, (FVal.nan s).sigFlag⟩
  | .inf n => ⟨if n then 0 else f.inf, 0⟩
  | .num n m e =>
    if m = 0 then f.round r false 1 0 false
    else if decide (11 ≤ (m.log2 : Int) + e) then if n then tinyRes f r false else hugeRes f r false
    else
      let k := scaledInt n m e (min e 0)
      let d : Int := 2 ^ (-(min e 0)).toNat
      if k % d = 0 then f.round r false 1 (k / d) false
      else refine f r (fun p =>
        (expEncl p ((Encl.mul ⟨k % d, k % d, (-(min e 0)).toNat⟩ (ln2 (p + 16))).trim (p + 8))).shift (k / d)) precisions

/-- log2 a (R123). -/
def Fmt.log2 (f : Fmt) (r : Rm) (a : Nat) : FRes :=
  match f.value a with
  | .nan s => ⟨f.nan, (FVal.nan s).sigFlag⟩
  | .inf n => if n then ⟨f.nan, flNV⟩ else ⟨f.inf, 0⟩
  | .num n m e =>
    if m = 0 then ⟨f.signed true f.inf, flDZ⟩
    else if n then ⟨f.nan, flNV⟩
    else
      let k := m.log2
      if m = 2 ^ k then intToFloat f r (e + k)
      else
        -- m 2^e = z 2^j with z in [2/3, 4/3)
        let j : Int := if 4 * 2 ^ k ≤ 3 * m then e + k + 1 else e + k
        let num : Int := if 4 * 2 ^ k ≤ 3 * m then (m : Int) - 2 ^ (k + 1) else (m : Int) - 2 ^ k
        let den : Int := if 4 * 2 ^ k ≤ 3 * m then (m : Int) + 2 ^ (k + 1) else (m : Int) + 2 ^ k
        refine f r (fun p =>
          let q := p + 160
          let z := (num.natAbs * 2 ^ q : Nat) / den.toNat
          let l : Encl := ⟨2 * (atanhUnit q z).lo, 2 * (atanhUnit q (z + 1)).hi, q⟩
          let l := if num < 0 then l.neg else l
          ((Encl.point j 0).add (l.div (ln2 q) q))) precisions

/-- The codes of R124. -/
inductive ActFn where
  /-- 0 -/
  | relu
  /-- 1 -/
  | sigmoid
  /-- 2 -/
  | tanh
  /-- 3 -/
  | silu
  /-- 4 -/
  | softplus
  /-- 5 -/
  | gelu
  deriving DecidableEq, Repr

/-- The function of a code; codes past 5 are reserved. -/
def ActFn.ofCode : Nat → Option ActFn
  | 0 => some .relu | 1 => some .sigmoid | 2 => some .tanh | 3 => some .silu | 4 => some .softplus | 5 => some .gelu
  | _ => none

/-- 1 / (1 + e^(-x)) of an enclosure. -/
def sigmoidEncl (p : Nat) (x : Encl) : Encl :=
  let e := expEncl p x.neg
  (Encl.point 1 0).div (e.add (.point 1 0)) (p + 16)

/-- VACT's f(x) (R124). -/
def Fmt.act (f : Fmt) (fn : ActFn) (r : Rm) (a : Nat) : FRes :=
  match f.value a with
  | .nan s => ⟨f.nan, (FVal.nan s).sigFlag⟩
  | .inf n =>
    match fn with
    | .relu => ⟨if n then 0 else f.inf, 0⟩
    | .sigmoid => if n then ⟨0, 0⟩ else f.round r false 1 0 false
    | .tanh => f.round r n 1 0 false
    | .silu => ⟨if n then f.signed true 0 else f.inf, 0⟩
    | .softplus => ⟨if n then 0 else f.inf, 0⟩
    | .gelu => ⟨if n then f.signed true 0 else f.inf, 0⟩
  | .num n m e =>
    let x := dyEncl n m e
    match fn with
    | .relu => if n then ⟨0, 0⟩ else f.round r false m e false
    | .sigmoid =>
      if m = 0 then f.round r false 1 (-1) false
      else if isLarge m e then if n then tinyRes f r false else justBelow f r false 1 0
      else refine f r (fun p => sigmoidEncl p x) precisions
    | .tanh =>
      if m = 0 then ⟨f.signed n 0, 0⟩
      else if isLarge m e then justBelow f r n 1 0
      else refine f r (fun p =>
        let q := expEncl p ((Encl.mul (.point (-2) 0) (dyEncl false m e)))
        let t := ((Encl.point 1 0).sub q).div ((Encl.point 1 0).add q) (p + 16)
        if n then t.neg else t) precisions
    | .silu =>
      if m = 0 then ⟨f.signed n 0, 0⟩
      else if isLarge m e then if n then tinyRes f r true else justBelow f r false m e
      else refine f r (fun p => x.mul (sigmoidEncl p x)) precisions
    | .softplus =>
      if m = 0 then refine f r (fun p => ln2 p) precisions
      else if isLarge m e then if n then tinyRes f r false else justAbove f r false m e
      else refine f r (fun p =>
        let l := lnOnePlus p ((expEncl p (dyEncl true m e)).trim (3 * p))
        if n then l else l.add x) precisions
    | .gelu =>
      if m = 0 then ⟨f.signed n 0, 0⟩
      else if decide (5 ≤ (m.log2 : Int) + e) then if n then tinyRes f r true else justBelow f r false m e
      else refine f r (fun p =>
        let c := sqrt2OverPi (p + 32)
        let k := (Encl.point 44715 0).div (.point 1000000 0) (p + 32)
        let u := c.mul (x.add (k.mul (x.mul (x.mul x))))
        x.mul (sigmoidEncl p ((Encl.mul (.point 2 0) u).trim (p + 16)))) precisions

/-- VDACT's f' expressed in the saved output y (R124). -/
def Fmt.dact (f : Fmt) (fn : ActFn) (r : Rm) (y : Nat) : FRes :=
  match f.value y with
  | .nan s => ⟨f.nan, (FVal.nan s).sigFlag⟩
  | .inf n =>
    match fn with
    | .relu => if n then ⟨0, 0⟩ else f.round r false 1 0 false
    | .softplus => if n then ⟨f.signed true f.inf, 0⟩ else f.round r false 1 0 false
    | _ => ⟨f.signed true f.inf, 0⟩
  | .num n m e =>
    match fn with
    | .relu => if n ∨ m = 0 then ⟨0, 0⟩ else f.round r false 1 0 false
    | .sigmoid =>
      f.ofExact r (exMul (.num n m e) (exAdd false (.num false 1 0) (.num (!n) m e)).v)
    | .softplus =>
      if m = 0 then ⟨f.signed r.rdn 0, 0⟩
      else if isLarge m e then if n then hugeRes f r true else justBelow f r false 1 0
      else refine f r (fun p => (Encl.point 1 0).sub (expEncl p (dyEncl (!n) m e))) precisions
    | _ => f.ofExact r (exAdd r.rdn (.num false 1 0) (.num true (m * m) (2 * e)))

end Sys2Proof.Machine
end

