-- ==== Sys2Proof/Config.lean ====
section
/-! DEFINITION. What the manual leaves open and the machine goes on with: free values.  Each is a constant without a body, so
that nothing can be proved of the value it gives; each stands in a log entry of notes/assumptions. -/

namespace Sys2Proof.Config

/-- Which of the moves that are open is made next (log 3): an index that the step takes modulo their number. -/
opaque pick : Nat → Nat
/-- The clk count at a step (log 4). -/
opaque clkAt : Nat → Nat
/-- A choice between two allowed behaviours at a step: an old or a new translation (R382), an L1 copy or the home (R190). -/
opaque choice : Nat → Bool
/-- A choice between two allowed behaviours at a step about one thing, which the second number names: whether an L1 still holds a
line (R190), whether a pending twinning step counts (R226). -/
opaque chance : Nat → Nat → Bool
/-- A 64-bit value that the manual leaves open, at a step. -/
opaque freeWord : Nat → BitVec 64

/-- A byte that the manual leaves open, at a step and a place. -/
opaque freeByte : Nat → Nat → BitVec 8
/-- One of several choices that the manual leaves open, at a step and a place: an index taken modulo their number. -/
opaque pickAt : Nat → Nat → Nat
/-- H of a binding without any table (R270, R291), which the manual does not state. -/
opaque hNone : Nat

/-- Whether a device lies in the domain of a partition's trust set (R402), which the manual does not list. -/
opaque inTrust : Nat → Nat → Bool

/-- A vector register's value that the manual leaves open, at a step and a place. -/
opaque freeV : Nat → Nat → BitVec 512
/-- Whether a core belongs to a partition: the run-time assigns them, and the manual gives no rule (R333, R334). -/
opaque inPart : Nat → Nat → Bool


/-- The row of an HBM4E stack that holds a byte of it: the manual gives rows no size (R373). -/
opaque rowOf : Nat → Nat
/-- SHA3-512 of some bytes (R398, R399): the manual names it and does not define it. -/
opaque sha3 : List (BitVec 8) → BitVec 512
/-- A signature of the device identity key over a digest (R399). -/
opaque sign : BitVec 512 → BitVec 64
/-- Whether the security processor verifies a firmware image (R405). -/
opaque verifies : BitVec 512 → Bool
/-- A line's ciphertext (R400, R401): its key, address and bytes. -/
opaque cipher : Nat → Nat → List (BitVec 8) → BitVec 512

end Sys2Proof.Config
end

