-- ==== Sys2Proof/Machine/Table.lean ====
section
/-! DEFINITION. Sparse tables: a list of key and value pairs with rising keys.  An absent key reads as the table's default. -/

namespace Sys2Proof.Machine

/-- A sparse table. -/
abbrev Table (α : Type) := List (Nat × α)

/-- The value at a key, if listed. -/
def tget? {α : Type} : Table α → Nat → Option α
  | [], _ => none
  | (k, v) :: t, n => if k = n then some v else tget? t n
/-- The value at a key, or the default. -/
def tget {α : Type} (t : Table α) (n : Nat) (d : α) : α := (tget? t n).getD d
/-- Writes a key, keeping the keys rising. -/
def tset {α : Type} : Table α → Nat → α → Table α
  | [], n, x => [(n, x)]
  | (k, v) :: t, n, x =>
    if k < n then (k, v) :: tset t n x
    else if k = n then (n, x) :: t
    else (n, x) :: (k, v) :: t
/-- Removes a key. -/
def tdel {α : Type} : Table α → Nat → Table α
  | [], _ => []
  | (k, v) :: t, n => if k = n then t else (k, v) :: tdel t n

/-- A key reads back what was written to it. -/
theorem tget?_tset_same {α : Type} (t : Table α) (n : Nat) (x : α) : tget? (tset t n x) n = some x := by
  induction t with
  | nil => simp [tset, tget?]
  | cons p t ih =>
    obtain ⟨k, v⟩ := p
    simp only [tset]
    split
    · simp only [tget?]; rw [if_neg (by omega)]; exact ih
    · split <;> simp [tget?]
/-- Every other key reads as before. -/
theorem tget?_tset_other {α : Type} (t : Table α) (n m : Nat) (x : α) (h : m ≠ n) :
    tget? (tset t n x) m = tget? t m := by
  induction t with
  | nil => simp [tset, tget?, Ne.symm h]
  | cons p t ih =>
    obtain ⟨k, v⟩ := p
    simp only [tset]
    split
    · simp only [tget?, ih]
    · split
      · subst_vars; simp [tget?, Ne.symm h]
      · simp [tget?, Ne.symm h]
/-- A key reads back what was written to it. -/
@[simp] theorem tget_tset_same {α : Type} (t : Table α) (n : Nat) (x d : α) : tget (tset t n x) n d = x := by
  simp [tget, tget?_tset_same]
/-- Every other key reads as before. -/
theorem tget_tset_other {α : Type} (t : Table α) (n m : Nat) (x d : α) (h : m ≠ n) :
    tget (tset t n x) m d = tget t m d := by
  simp [tget, tget?_tset_other t n m x h]

end Sys2Proof.Machine
end

