-- ==== Sys2Proof/Machine/State.lean ====
section
/-! DEFINITION. The state of one KX8-768 module: every register, memory, queue and table that the manual gives it, as plain data.
A desk lies in a core, a core in the module, so that what a desk's instruction leaves alone is left alone by its type.  The
default of each field is its value after a cold reset. -/

namespace Sys2Proof.Machine

/-! ### Reasons to stop -/

/-- Why the machine stops with a fault: never.  Every condition that the manual describes is a trap, a wait, a free value or, without
power, an idle step (R405), so this type has no constructor. -/
inductive Fault where
  deriving DecidableEq, Repr

/-- Why an instruction has no meaning in the model. -/
inductive Refusal where
  /-- The instruction has no meaning yet; raised by an arm of `exec`.  Safe: nothing can be proved of what it does. -/
  | notModelled (mnemonic : String)
  deriving DecidableEq, Repr

/-- Why a desk waits: what the roll call reports (R385) and what the watchdogs time (R102, R110, R153, R322). -/
inductive Wait where
  /-- an empty (`pop`) or full port (R37) -/
  | port (n : BitVec 3) (pop : Bool)
  /-- an instruction held by a run-ahead generation (R104) -/
  | held
  /-- a full store queue, or stores and loads to be performed -/
  | memory
  /-- a leader at GANG -/
  | gangLeader
  /-- a follower at GANG -/
  | gangFollower
  /-- at REJOIN, with the label -/
  | rejoin (label : Word)
  /-- at UNGANG -/
  | ungang
  /-- a full forwarding queue -/
  | forward
  /-- a tile, with its index -/
  | tile (t : BitVec 6)
  /-- a matrix queue, slot or report -/
  | matrix
  /-- an engine queue or card -/
  | engine
  /-- the key unit -/
  | key
  /-- near-memory commands -/
  | nearMem
  /-- a counter (CWAIT, BWAIT) -/
  | counter
  /-- the bell -/
  | bell
  /-- a message not yet accepted, with its target tuple -/
  | msg (target : Word)
  /-- MRECV on an empty queue -/
  | mrecv
  /-- IDLE -/
  | idle
  /-- an off-core reference that has issued and is still to be performed (R15, R233) -/
  | reference
  deriving DecidableEq, Repr

/-- How an instruction ends when it does not complete. -/
inductive Stop where
  /-- It traps (R5, R353): cause, XVAL, the access kind of XSTAT.ACC, and what TFINFO takes (R379). -/
  | trap (cause : Cause) (xval : Word) (acc : BitVec 2 := 0) (tf : Option (BitVec 9) := none)
  /-- A line that it reads fails its MAC (R401): line, XVAL and access kind. -/
  | mac (line : Nat) (xval : Word) (acc : BitVec 2)
  /-- It waits, and issues again later. -/
  | wait (w : Wait)
  deriving DecidableEq, Repr

/-! ### Desk -/

/-- An entry of a queue port (R100): value, poison, and whether it is tentative, that is, pushed by a run-ahead generation
(R104). -/
structure Entry (n : Nat) where
  /-- value -/
  val : BitVec n
  /-- poison -/
  poison : Bool
  /-- pushed on a run-ahead path and not yet confirmed -/
  tent : Bool := false
  deriving DecidableEq, Repr

/-- A guard slot (R106). -/
inductive KSlot where
  /-- false -/
  | no
  /-- true -/
  | yes
  /-- pending -/
  | pending
  deriving DecidableEq, Repr

/-- A hardware loop (R95). -/
structure Loop where
  /-- lc, 0 to 2^32 - 1 -/
  count : BitVec 32 := 0
  /-- start of the body -/
  start : Word := 0
  /-- end of the body -/
  stop : Word := 0
  /-- active -/
  active : Bool := false
  /-- address of its LOOP or LOOPI (R97) -/
  at_ : Word := 0
  deriving DecidableEq, Repr

/-- A recorded instruction of the repetition buffer: its address, length, whether it is a dictionary reference, and its
32-bit word (a short form is kept as its halfword, R98). -/
structure RepWord where
  /-- address -/
  addr : Word
  /-- length in bytes -/
  len : Nat
  /-- dictionary reference -/
  dict : Bool
  /-- short form -/
  short : Bool
  /-- the word -/
  word : BitVec 32
  /-- XVAL of an illegal instruction there (R48) -/
  xval : Word
  deriving DecidableEq, Repr

/-- The repetition buffer (R98, R99). -/
structure Rep where
  /-- recorded instructions -/
  words : List RepWord := []
  /-- stagger step -/
  step : BitVec 5 := 0
  /-- stagger mask -/
  mask : BitVec 3 := 0
  /-- passes to run -/
  count : Word := 0
  /-- pass i -/
  pass : Word := 0
  /-- instruction j -/
  idx : Nat := 0
  /-- active -/
  active : Bool := false
  /-- recorded in user mode -/
  user : Bool := true
  deriving DecidableEq, Repr

/-- A word that a leader forwards (R111). -/
structure Fwd where
  /-- the resolved 32-bit word, or a halfword -/
  word : BitVec 32
  /-- halfword -/
  half : Bool
  /-- the leader's address -/
  addr : Word
  /-- length in bytes -/
  len : Nat
  /-- dictionary reference -/
  dict : Bool
  /-- XVAL of an illegal instruction there (R48) -/
  xval : Word
  /-- the leader's own instruction transferred (R112) -/
  taken : Bool
  deriving DecidableEq, Repr

/-- What a run-ahead generation waits for. -/
inductive GenKind where
  /-- BRQ on an empty port (R103): port, condition, the value compared with, the port that it was popped from, and both paths -/
  | brq (q : BitVec 2) (c : BitVec 3) (rhs : Word) (own : Option (BitVec 2)) (taken fall : Word) (likely : Bool)
  /-- an instruction that waits to push to a full port, while the other stream goes on (R100, R411): the port, and whether the
  instruction is of the execute stream -/
  | behind (port : BitVec 3) (exec : Bool)
  deriving DecidableEq, Repr

/-- What an instruction uses, as sets by number: registers and predicates that it reads and writes, and ports that it pops and pushes. -/
structure Use where
  /-- g registers read -/
  gr : BitVec 32 := 0
  /-- g registers written -/
  gw : BitVec 32 := 0
  /-- v registers read -/
  vr : BitVec 32 := 0
  /-- v registers written -/
  vw : BitVec 32 := 0
  /-- predicates read -/
  pr : BitVec 8 := 0
  /-- predicates written -/
  pw : BitVec 8 := 0
  /-- ports popped -/
  pop : BitVec 8 := 0
  /-- ports pushed -/
  push : BitVec 8 := 0
  /-- everything written is written whole, whatever a guard says -/
  sure : Bool := false
  deriving DecidableEq, Repr

/-- What a run-ahead path may change: the g file of the mode, the v file, predicates, loops, the repetition buffer and counts (R104), and
how the instruction at its start was fetched. -/
structure Shadow where
  /-- g registers -/
  g : Vector Word 32
  /-- their poison -/
  gp : BitVec 32
  /-- v registers -/
  v : Vector Vec 32
  /-- their poison -/
  vp : BitVec 32
  /-- predicates -/
  p : Vector Word 8
  /-- loops -/
  lc : Vector Loop 2
  /-- pc -/
  pc : Word
  /-- ICNT -/
  icnt : Word
  /-- FFLAGS -/
  fflags : BitVec 6
  /-- SRSEED -/
  srseed : Word
  /-- the repetition buffer -/
  rep : Rep
  /-- length in bytes of the instruction -/
  len : Nat
  /-- it is a dictionary reference -/
  dict : Bool
  /-- its XVAL as an illegal instruction -/
  xword : Word
  /-- ports with a place granted -/
  grant : BitVec 8
  deriving DecidableEq, Repr

/-- A run-ahead generation (R104): what it waits for, what to go back to, the confirmed entries that it has popped, and what follows from
it only when it is confirmed. -/
structure Gen where
  /-- what it waits for -/
  kind : GenKind
  /-- the desk where the generation began -/
  was : Shadow
  /-- entries popped from q0 to q3, oldest first -/
  popQ : Vector (List (Entry 64)) 4 := Vector.replicate 4 []
  /-- entries popped from q4 to q7 -/
  popV : Vector (List (Entry 512)) 4 := Vector.replicate 4 []
  /-- what the instructions use that wait, in the stream that waits (R87, R100) -/
  skip : Use := {}
  /-- a follower's forwarded words that its path has executed, oldest first (R105, R111) -/
  taken : List Fwd := []
  /-- words that a leader forwards once the path is confirmed, oldest first (log 18) -/
  sent : List Fwd := []
  /-- breakpoint addresses that the path has retired, oldest first (R387) -/
  breaks : List Word := []
  deriving DecidableEq, Repr

/-- Where a bit buffer stands (R138, R139). -/
structure BitBuf where
  /-- BBUF -/
  buf : BitVec 128 := 0
  /-- BBCNT.MODE -/
  mode : BitVec 2 := 0
  /-- BBCNT.COUNT -/
  count : BitVec 8 := 0
  /-- BBPTR -/
  ptr : BitVec 19 := 0
  /-- BBEND -/
  stop : BitVec 19 := 0
  deriving DecidableEq, Repr

/-- A snapshot slot (R223). -/
structure Snap where
  /-- VERSION -/
  version : BitVec 32
  /-- PLINE: PA[51:6] -/
  pline : BitVec 46
  /-- VLINE: VA[56:6] -/
  vline : BitVec 51
  deriving DecidableEq, Repr

/-- One contiguous physical part of an access. -/
structure Part where
  /-- physical address of the first byte -/
  pa : PAddr
  /-- bytes -/
  n : Nat
  /-- ordering kind of the page (R197) -/
  kind : BitVec 2
  /-- memory-side page (R207) -/
  ms : Bool
  /-- twinning permitted (R216) -/
  dd : Bool
  /-- confidential (R377 C) -/
  conf : Bool
  deriving DecidableEq, Repr

/-- A cached translation (R382, R383). -/
structure TlbEntry where
  /-- partition -/
  part : PartId
  /-- root it was walked from -/
  root : Word
  /-- first virtual address of the page -/
  va : Nat
  /-- log2 of the page size -/
  log2 : Nat
  /-- the leaf -/
  pte : Word
  /-- formed with D set: it serves writes -/
  dirty : Bool
  deriving DecidableEq, Repr

/-- A walk under way for a desk, with what it has found (R383): every miss of the die on the same 4 KiB page and access kind that joins it
takes that. -/
structure WalkRun where
  /-- partition -/
  part : PartId
  /-- root -/
  root : Word
  /-- VA divided by 4096 -/
  page : Nat
  /-- access kind -/
  acc : BitVec 2
  /-- the translation; none where the walk fails -/
  found : Option TlbEntry
  /-- reason and level of its failure -/
  fail : Nat × Nat
  /-- it is another desk's walk, which this one joined -/
  joined : Bool
  deriving DecidableEq, Repr

/-- A read that a load makes at one moment (R188): an aligned lane, or one byte of a misaligned one. -/
structure LoadUnit where
  /-- virtual address -/
  va : Word
  /-- physical parts in ascending address order -/
  parts : List Part
  /-- bit offset in the destination -/
  bit : Nat
  /-- lane -/
  lane : Nat
  deriving DecidableEq, Repr

/-- A load that has issued and not returned (R15, R190). -/
structure Pending where
  /-- destination register field -/
  dst : GReg
  /-- v file -/
  vec : Bool
  /-- reads not yet made -/
  units : List LoadUnit
  /-- what has been read: bit offset and bytes -/
  got : List (Nat × List Byte) := []
  /-- a line read was poisoned -/
  bad : Bool := false
  /-- sign-extended (LD) -/
  signed : Bool
  /-- reads its home (.byp, LDA) -/
  home : Bool
  /-- placed at the LRU position (.ef) -/
  ef : Bool
  /-- keeps the destination bits that no lane writes (R192) -/
  merge : Bool
  /-- g operands, popped at the return -/
  gs : List GReg
  /-- v operands, popped at the return -/
  vs : List GReg
  /-- issued on a run-ahead path -/
  tent : Bool
  /-- a VAMO, performed lane by lane (R234): its operation and its data -/
  amo : Option (BitVec 4 × Vec) := none
  deriving DecidableEq, Repr

/-- An element of a payload that a KGET or JGATHER under way has read before the others (R280). -/
structure Seen where
  /-- the key whose payload it is -/
  key : Word
  /-- its address -/
  at_ : Word
  /-- its 4 bytes -/
  val : List Byte
  /-- poison -/
  bad : Bool
  deriving DecidableEq, Repr

/-- The scopes of R202. -/
inductive Scope where
  /-- 0 -/
  | core
  /-- 1 -/
  | cluster
  /-- 2 -/
  | die
  /-- 3 -/
  | device
  /-- 4 -/
  | system
  deriving DecidableEq, Repr

/-- One write of a store: a lane, or the whole of a plain store. -/
structure StoreOp where
  /-- virtual address of the first byte -/
  va : Word
  /-- physical parts -/
  parts : List Part
  /-- bytes in ascending address order; the operand of a reduction -/
  bytes : List Byte
  /-- a store of a poisoned register (R189) -/
  poison : Bool
  deriving DecidableEq, Repr

/-- What a store does at its home. -/
inductive StoreKind where
  /-- writes its bytes -/
  | plain
  /-- combines its bytes with those there by an operation of R231, given by its code -/
  | ared (op : BitVec 5)
  /-- adds to a counter (R246) -/
  | cadd
  deriving DecidableEq, Repr

/-- A store in a desk's store queue (R189): its writes in order. -/
structure StoreItem where
  /-- what it does -/
  kind : StoreKind
  /-- writes not yet performed -/
  ops : List StoreOp
  /-- .ef -/
  ef : Bool
  /-- a release, and its scope (R193, R233) -/
  release : Option Scope
  /-- partition -/
  part : PartId
  /-- it comes after the core's key commands below this place (R284) -/
  keys : Nat := 0
  deriving DecidableEq, Repr

/-- An access of a waiting CWAIT or BWAIT that has not been satisfied (R247): the counter, its target, and whether the home's waiter
list holds it (R250). -/
structure CounterWait where
  /-- physical address -/
  pa : PAddr
  /-- virtual address -/
  va : Word
  /-- target -/
  target : Word
  /-- on the waiter list -/
  listed : Bool
  /-- its operands, popped when it completes -/
  regs : List GReg
  /-- BWAIT: the token entry goes when it completes (R252) -/
  token : Bool
  deriving DecidableEq, Repr

/-- The role of desk 0 in a gang (R109). -/
inductive GangRole where
  /-- no gang -/
  | none
  /-- leader of `n` cores -/
  | leader (n : Nat)
  /-- offered at a GANG, not yet taken -/
  | offered
  /-- attached follower of a leader -/
  | follower (leader : CoreId)
  /-- detached follower (R112) -/
  | detached (leader : CoreId)
  deriving DecidableEq, Repr

/-- A barrier token (R251). -/
structure Token where
  /-- counter address -/
  addr : Word
  /-- token -/
  token : Word
  deriving DecidableEq, Repr

/-- An asynchronous report that waits for an instruction boundary (R356). -/
structure Report where
  /-- cause -/
  cause : Cause
  /-- XVAL -/
  xval : Word
  /-- what TFINFO takes (R379) -/
  tf : Option (BitVec 9) := none
  /-- the failure of an engine's card (R312) -/
  card : Bool := false
  /-- the access kind of XSTAT.ACC (R357) -/
  acc : BitVec 2 := 0
  deriving DecidableEq, Repr

/-- A fault that a unit records for a later report: cause, XVAL, the access kind of XSTAT.ACC (R357), and what TFINFO takes (R379). -/
structure Recorded where
  /-- cause -/
  cause : Cause := 0
  /-- XVAL -/
  xval : Word := 0
  /-- access kind -/
  acc : BitVec 2 := 0
  /-- TFINFO -/
  tf : Option (BitVec 9) := none
  deriving DecidableEq, Repr

/-- The kernel header's declarations (R78), as the descriptor of R85 holds them. -/
structure Kernel where
  /-- .gregs -/
  gregs : Nat := 32
  /-- .vregs -/
  vregs : Nat := 32
  /-- .desks -/
  desks : Nat := 1
  /-- .scratch total -/
  scratch : Nat := 0x80000
  /-- stack bytes of each desk -/
  stack : Nat := 0
  /-- .tiles -/
  tiles : Nat := 64
  /-- .counters -/
  counters : Nat := 0
  /-- .queues on -/
  queues : Bool := false
  /-- .dict on -/
  dict : Bool := false
  /-- .stage id -/
  stage : BitVec 4 := 0
  /-- .restartable -/
  restart : Bool := false
  /-- input region of a restartable kernel: offset and length -/
  inOff : Nat := 0
  /-- length of the input region -/
  inLen : Nat := 0
  /-- output region -/
  outOff : Nat := 0
  /-- length of the output region -/
  outLen : Nat := 0
  /-- .persist ranges: offset and length -/
  persist : List (Nat × Nat) := []
  /-- code entry, relative to `.text` -/
  entry : Word := 0
  /-- exchange entry (xlabel), relative to `.text`; absent where the kernel has no exchange routine -/
  xentry : Option Word := none
  /-- offset of the dictionary in the image, and its entries -/
  dictAt : Nat × Nat := (0, 0)
  /-- dictionary entries (R32) -/
  dictWords : List (BitVec 32) := []
  deriving DecidableEq, Repr

/-- A TCAST that waits for its targets (R150). -/
structure Cast where
  /-- source offset -/
  src : Nat
  /-- bytes -/
  len : Nat
  /-- mask of target cores of the cluster -/
  mask : BitVec 16
  /-- tile -/
  tile : BitVec 6
  /-- its operands, popped at retirement -/
  regs : List GReg
  deriving DecidableEq, Repr

/-- An aligned 8-byte unit of an exchange copy that has not been performed (R258, R259). -/
structure Xfer where
  /-- target core -/
  dst : CoreId
  /-- target offset -/
  off : Nat
  /-- the bytes of an XPUT -/
  bytes : List Byte := []
  /-- their poison -/
  bad : Bool := false
  /-- the source of an XGET: core and offset -/
  src : Option (CoreId × Nat) := none
  /-- the copy overwrites the whole 64-byte unit around it with clean data (R364) -/
  full : Bool := false
  deriving DecidableEq, Repr

/-- One desk of a core (R15). -/
structure Desk where
  /-- occupied -/
  occ : Bool := false
  /-- its own part has ended; its context lives until its share ends (R25, R323) -/
  quit : Bool := false
  /-- stopped by a double trap (R355) or by the end of its launch -/
  stopped : Bool := false
  /-- parked by replay (R389) -/
  parked : Bool := false
  /-- user mode (R352) -/
  user : Bool := true
  /-- user g file -/
  gu : Vector Word 32 := Vector.replicate 32 0
  /-- supervisor g file -/
  gs : Vector Word 32 := Vector.replicate 32 0
  /-- poison of the user g file -/
  gup : BitVec 32 := 0
  /-- poison of the supervisor g file -/
  gsp : BitVec 32 := 0
  /-- v file (R116) -/
  v : Vector Vec 32 := Vector.replicate 32 0
  /-- poison of the v file -/
  vp : BitVec 32 := 0
  /-- predicates (R91); entry 0 is not read -/
  p : Vector Word 8 := Vector.replicate 8 0
  /-- guard slots (R106) -/
  k : Vector KSlot 8 := Vector.replicate 8 .yes
  /-- q0 to q3, oldest first (R100) -/
  q : Vector (List (Entry 64)) 4 := Vector.replicate 4 []
  /-- q4 to q7, oldest first -/
  vq : Vector (List (Entry 512)) 4 := Vector.replicate 4 []
  /-- LC0 and LC1 -/
  lc : Vector Loop 2 := Vector.replicate 2 {}
  /-- repetition buffer -/
  rep : Rep := {}
  /-- address of the instruction that issues -/
  pc : Word := 0
  /-- length in bytes of the instruction that issues -/
  len : Nat := 4
  /-- it is a dictionary reference (R48) -/
  dict : Bool := false
  /-- the XVAL of an illegal instruction (R48) -/
  xword : Word := 0
  /-- a transfer decided by the instruction that issues: target, and whether it is a call (R96); none between steps -/
  jump : Option (Word × Bool) := none
  /-- a word in place of the one in memory: a resolved dictionary reference, or a forwarded word; word and halfword mark -/
  latch : Option (BitVec 32 × Bool) := none
  /-- why it waits -/
  wait : Option Wait := none
  /-- a TCAST under way -/
  cast : Option Cast := none
  /-- the commands that a waiting MWAIT, MSTAT or MPROG waits for: those that entered before this place (R169) -/
  mark : Option Nat := none
  /-- an off-core reference not yet returned -/
  pend : Option Pending := none
  /-- a walk under way for the instruction at the pc (R383) -/
  walk : Option WalkRun := none
  /-- elements that the KGET or JGATHER at the pc has read already (R280) -/
  seen : List Seen := []
  /-- store queue, oldest first (R189) -/
  sq : List StoreItem := []
  /-- the counter that a CWAIT or BWAIT waits for -/
  cw : Option CounterWait := none
  /-- what the last FENCEs make accesses of each kind l, s, e, n wait for: the cards and the near-memory commands of the desk below
  these places (R194) -/
  fences : Vector (Nat × Nat × Nat) 4 := Vector.replicate 4 (0, 0, 0)
  /-- exchange copies of the desk not yet performed (R258) -/
  xfers : List Xfer := []
  /-- run-ahead generation -/
  gen : Option Gen := none
  /-- ports in which the instruction at the pc has a place, because later instructions of the other stream pop them (R411) -/
  grant : BitVec 8 := 0
  /-- XCAUSE -/
  xcause : Cause := 0
  /-- XVAL -/
  xval : Word := 0
  /-- XPC -/
  xpc : BitVec 57 := 0
  /-- XSTAT -/
  xstat : BitVec 13 := 0
  /-- XVEC -/
  xvec : BitVec 57 := 0
  /-- XSCR -/
  xscr : Word := 0
  /-- SVEC -/
  svec : BitVec 57 := 0
  /-- SSCR -/
  sscr : Word := 0
  /-- UCAUSE -/
  ucause : Cause := 0
  /-- UVAL -/
  uval : Word := 0
  /-- UPC -/
  upc : BitVec 57 := 0
  /-- USTAT -/
  ustat : BitVec 13 := 0
  /-- RTREQ -/
  rtreq : BitVec 16 := 0
  /-- asynchronous reports, oldest first (R356) -/
  reports : List Report := []
  /-- FFLAGS -/
  fflags : BitVec 6 := 0
  /-- FRM -/
  frm : BitVec 4 := 0
  /-- SRSEED -/
  srseed : Word := 1
  /-- CTXID -/
  ctxid : BitVec 16 := 0
  /-- PARTID -/
  part : PartId := 0
  /-- SHAREIX -/
  shareIx : BitVec 32 := 0
  /-- SHARECT -/
  shareCt : BitVec 32 := 0
  /-- STAGEID -/
  stage : BitVec 4 := 0
  /-- PHASE: 1 in exchange -/
  exch : Bool := false
  /-- SSCNT -/
  sscnt : Word := 0
  /-- CNTBASE -/
  cntbase : Word := 0
  /-- VPROG -/
  vprog : Word := 0
  /-- ICNT -/
  icnt : Word := 0
  /-- TFINFO -/
  tfinfo : BitVec 9 := 0
  /-- BPADDR0 to 3 -/
  bp : Vector (BitVec 57) 4 := Vector.replicate 4 0
  /-- STEPCNT -/
  stepcnt : Word := 0
  /-- bit buffer -/
  bb : BitBuf := {}
  /-- snapshot set, slots in ascending order (R223) -/
  snaps : List Snap := []
  /-- barrier tokens (R251) -/
  tokens : List Token := []
  /-- clk at which an IDLE ends, 0 for no limit (R361) -/
  idleUntil : Nat := 0
  /-- the launch it runs, if any -/
  launch : Option Nat := none
  /-- its kernel -/
  kern : Kernel := {}
  /-- the `.text` base of its kernel -/
  text : Word := 0
  /-- the launch's region on this core (R17) -/
  base : Nat := 0
  /-- gang role (desk 0) -/
  gang : GangRole := .none
  /-- the leader has already forwarded the instruction that it waits at (R113, R114) -/
  sent : Bool := false
  /-- forwarded words, oldest first (R18) -/
  fwd : List Fwd := []
  /-- where a follower goes on after UNGANG: the instruction after its own GANG (R114) -/
  gangPc : Word := 0
  /-- its user context is saved away, and supervisor code runs on it as on a free desk (R368) -/
  hollow : Bool := false
  deriving DecidableEq, Repr

/-! ### Core -/

/-- A 32-byte line of a core's L1 (R190, R191). -/
structure L1Line where
  /-- PA >> 5 -/
  line : Nat
  /-- generation in which it was filled -/
  gen : BitVec 8
  /-- its bytes as they were when filled -/
  data : BitVec 256
  /-- poison of the 64-byte line when filled -/
  poison : Bool
  /-- the step of its fill: only lines of one moment serve an access that is single-copy atomic (R188) -/
  at_ : Nat
  deriving DecidableEq, Repr

/-- Byte storage: address and byte pairs, addresses rising, no byte equal to what an unlisted address reads as (0). -/
abbrev Cells := List Host.Cell

/-- A tile's state (R147): 0 EMPTY, 1 FILLING, 2 READY, 3 DRAINING. -/
inductive TileSt where
  /-- 0 -/
  | empty
  /-- 1 -/
  | filling
  /-- 2 -/
  | ready
  /-- 3 -/
  | draining
  deriving DecidableEq, Repr

/-- A tile entry (R147). -/
structure Tile where
  /-- BASE -/
  base : Nat := 0
  /-- SIZE, 0 for an undefined tile -/
  size : Nat := 0
  /-- STATE -/
  st : TileSt := .empty
  /-- PRODUCER -/
  prod : BitVec 4 := 0
  deriving DecidableEq, Repr

/-- Where an access is made from, which says the translation caches that serve it (R383). -/
inductive Site where
  /-- a core's loads, stores and fetches: its L1 TLB, then its cluster's -/
  | core (c : CoreId)
  /-- a matrix unit's load pipes: their own TLB, then the cluster's -/
  | matrix (c : CoreId)
  /-- a copy engine of a cluster (die × 16 + cluster): the cluster's TLB -/
  | cluster (cl : BitVec 6)
  /-- the die's translation service itself: collective engine, near-memory units, timetable -/
  | service (die : BitVec 2)
  deriving DecidableEq, Repr
/-- Who makes an access for an instruction that has issued: partition, mode (R352), launch (R348), and from where. -/
structure Maker where
  /-- partition -/
  part : PartId := 0
  /-- user mode -/
  user : Bool := true
  /-- launch -/
  launch : Option Nat := none
  /-- from where -/
  site : Site := .service 0
  deriving DecidableEq, Repr

/-- How a guarded command stands (R107). -/
inductive Bind where
  /-- unguarded, or bound true -/
  | yes
  /-- bound false -/
  | no
  /-- waits for a SETK of a slot by its issuing desk -/
  | slot (k : BitVec 3)
  deriving DecidableEq, Repr

/-- The kind of an accumulator slot (R158); an EMPTY slot has none. -/
inductive Fam where
  /-- FP32 -/
  | f
  /-- INT32 -/
  | i
  /-- Boolean -/
  | b
  deriving DecidableEq, Repr

/-- A slot's epilogue (R167, R168), with its output rounding resolved at MEPI. -/
structure Epilogue where
  /-- bits [9:0] of the record -/
  ctl : BitVec 10
  /-- SCALE -/
  scale : BitVec 32
  /-- BIASADDR -/
  bias : Word
  /-- STATSADDR -/
  stats : Word
  /-- rounding mode -/
  mode : BitVec 3
  deriving DecidableEq, Repr

/-- An output mask (R183). -/
inductive MMask where
  /-- row mask -/
  | row (m : BitVec 128)
  /-- block mask -/
  | blk (m : BitVec 64)
  deriving DecidableEq, Repr

/-- An accumulator slot (R158, R175). -/
structure Slot where
  /-- kind; none is EMPTY -/
  kind : Option Fam := none
  /-- M -/
  m : Nat := 0
  /-- N -/
  n : Nat := 0
  /-- elements, (i, j) at 128 i + j; an absent one is 0, and so is each outside the shape of the product that came last (DESIGN CHOICE,
  log 131) -/
  cells : Table (BitVec 32) := []
  /-- poisoned -/
  bad : Bool := false
  /-- epilogue; none is off -/
  epi : Option Epilogue := none
  /-- row-progress register -/
  prog : BitVec 17 := 0
  /-- mask -/
  mask : MMask := .row (BitVec.allOnes 128)
  /-- SAT, NAN, BLK -/
  cnt : Vector (BitVec 32) 3 := Vector.replicate 3 0
  /-- thresholds -/
  thr : Vector (BitVec 16) 3 := Vector.replicate 3 0
  /-- counters that have crossed since MTHR -/
  crossed : BitVec 3 := 0
  /-- pending-report flags -/
  flags : BitVec 3 := 0
  /-- a recorded operand fault (R179 item 1) -/
  fault : Option Recorded := none
  /-- reports of R179 item 2, oldest first -/
  dead : List (Cause × Word) := []
  deriving DecidableEq, Repr

/-- A matrix queue command (R159, R163). -/
inductive MOp where
  /-- MMA in a semiring -/
  | mma (sr : BitVec 3)
  /-- MMAS -/
  | mmas
  /-- MZERO -/
  | mzero
  /-- MLDC -/
  | mldc
  /-- MOUT -/
  | mout
  /-- MEPI -/
  | mepi (e : Epilogue)
  /-- MMASK -/
  | mmask (m : MMask)
  /-- MTHR -/
  | mthr (w : BitVec 48)
  /-- a guarded MSEND: its record and token (R107, R163) -/
  | msend (bytes : List Byte) (token : Word)
  deriving DecidableEq, Repr

/-- How far a command has come. -/
inductive MState where
  /-- in the queue -/
  | queued
  /-- started -/
  | running
  /-- stopped by a recorded fault (R177) -/
  | stopped
  /-- a remote command that has done its work and whose counter is not yet increased (R173) -/
  | done
  deriving DecidableEq, Repr

/-- Who has learned of a stopped command's fault (R178). -/
inductive Told where
  /-- no desk yet -/
  | none
  /-- a desk whose next MWAIT, MOUT or TEND on the slot resumes it -/
  | desk (d : DeskId)
  /-- a desk to which it has been raised once more, with this cause and XVAL: the return from that trap resumes it -/
  | again (d : DeskId) (cause : Cause) (xval : Word)
  deriving DecidableEq, Repr

/-- A command in the matrix queue. -/
structure MCmd where
  /-- what it does -/
  op : MOp
  /-- slot -/
  slot : BitVec 2
  /-- accumulate -/
  acc : Bool := false
  /-- saturate -/
  sat : Bool := false
  /-- A, source or destination address; the shape word of MZERO -/
  a : Word := 0
  /-- its layout -/
  la : Word := 0
  /-- B address -/
  b : Word := 0
  /-- B layout -/
  lb : Word := 0
  /-- run-list address -/
  runs : Word := 0
  /-- guard -/
  bind : Bind := .yes
  /-- issuing desk, or the desk that minted the capability -/
  desk : DeskId
  /-- who accesses memory -/
  maker : Maker
  /-- state -/
  st : MState := .queued
  /-- place in the order of entry -/
  seq : Nat
  /-- it has started before, so that its check against the slot is made (R165) -/
  begun : Bool := false
  /-- decided at its start: it takes the slot's old elements into its sum -/
  onto : Bool := false
  /-- decided at its start: it writes every element of its slot -/
  whole : Bool := false
  /-- an operand that it has read was poisoned -/
  bad : Bool := false
  /-- a stopped command's fault -/
  why : Recorded := {}
  /-- who has learned of it -/
  told : Told := .none
  /-- remote, with its completion counter (R173) -/
  remote : Option Word := none
  /-- translations held: its counter's (R242) -/
  held : List TlbEntry := []
  deriving DecidableEq, Repr

/-- A capability (R172). -/
structure Cap where
  /-- rights word -/
  rights : BitVec 6
  /-- nonce -/
  nonce : BitVec 44
  /-- the desk that minted it -/
  desk : DeskId
  deriving DecidableEq, Repr

/-- The matrix unit of a core (R158, R159, R172, R175). -/
structure Mx where
  /-- a0 to a3 -/
  slots : Vector Slot 4 := Vector.replicate 4 {}
  /-- command queue, oldest first -/
  queue : List MCmd := []
  /-- commands that have entered -/
  next : Nat := 0
  /-- RES -/
  res : BitVec 32 := 0
  /-- capability table -/
  caps : Vector (Option Cap) 8 := Vector.replicate 8 none
  /-- mint counter -/
  nonce : BitVec 44 := 0
  deriving DecidableEq, Repr

/-- Who issued a command that a unit outside the core keeps: its context (R363), or its desk where it runs no launch. -/
structure Owner where
  /-- launch -/
  launch : Option Nat := none
  /-- CTXID -/
  ctx : BitVec 16 := 0
  /-- core -/
  core : CoreId := 0
  /-- desk -/
  desk : DeskId := 0
  deriving DecidableEq, Repr

/-- A message (R322, R323). -/
structure Msg where
  /-- CTX of the receiver -/
  ctx : BitVec 16
  /-- 64 bytes -/
  data : Vec
  /-- poison -/
  poison : Bool
  deriving DecidableEq, Repr

/-- A relation image header (R263). -/
structure Rel where
  /-- ROWSADDR -/
  addr : Word
  /-- ROWCNT -/
  rows : Nat
  /-- STRIDE -/
  stride : Nat
  /-- offsets of the key columns -/
  keys : List Nat
  /-- FEATCNT -/
  feats : Nat
  /-- address of the header -/
  head : Word
  deriving DecidableEq, Repr

/-- A key-table header as read (R272), with the address that names the table. -/
structure KTab where
  /-- header address -/
  head : Word
  /-- log2 SLOTS -/
  log2 : Nat
  /-- i32 payload -/
  int : Bool
  /-- PSIZE -/
  psize : Nat
  /-- MAXREP -/
  maxrep : Nat
  /-- HOTTHR -/
  hotthr : Nat
  /-- SEED -/
  seed : Word
  /-- KEYS -/
  keys : Word
  /-- META -/
  metas : Word
  /-- PAYLOAD -/
  payload : Word
  /-- REPAREA -/
  rep : Word
  deriving DecidableEq, Repr

/-- A node of a bound join-tree type (R266, R270). -/
structure JNode where
  /-- KIND -/
  kind : Nat
  /-- PARENT -/
  parent : Nat
  /-- FIRSTCHILD -/
  first : Nat
  /-- NEXTSIB -/
  next : Nat
  /-- PKEY -/
  pkey : Nat
  /-- OWNKEY -/
  own : Nat
  /-- FEATCNT -/
  feats : Nat
  /-- IMAGE -/
  image : Word
  /-- PTAB -/
  ptab : Word
  /-- DTAB -/
  dtab : Word
  /-- WEIGHT -/
  weight : Word
  /-- its relation -/
  rel : Rel
  /-- its P table -/
  p : Option KTab
  /-- its D table -/
  d : Option KTab
  deriving DecidableEq, Repr

/-- A join handle (R271). -/
structure Handle where
  /-- type address -/
  type : Word
  /-- binding address -/
  binding : Word
  /-- ROOT -/
  root : Nat
  /-- nodes -/
  nodes : List JNode
  deriving DecidableEq, Repr

/-- An accumulation that has claimed its slot and whose additions are not all performed (R274, R283, R297). -/
structure KAdd where
  /-- issuing desk -/
  desk : DeskId
  /-- who accesses memory -/
  maker : Maker
  /-- table -/
  tab : KTab
  /-- slot -/
  slot : Nat
  /-- elements not yet added: place, value and poison -/
  elems : List (Nat × BitVec 32 × Bool)
  /-- once its COUNT is added: the payload, main or a replica's, that its elements go to -/
  at_ : Option Word
  /-- an addition of JSCATTER's second phase -/
  phase2 : Bool
  /-- place in the order of key commands -/
  seq : Nat := 0
  /-- translations held (R297) -/
  held : List TlbEntry := []
  /-- where it writes -/
  outs : List Part := []
  deriving DecidableEq, Repr

/-- A held key command (R298). -/
inductive KOp where
  /-- KRUNS: relation, first row, count, column, output -/
  | runs (r : Rel) (first cnt col : Nat) (out : Word)
  /-- KISECT: inputs with their columns, output, capacity, and its record's address -/
  | isect (ins : List (Rel × Nat)) (out : Word) (cap : Nat) (rec : Word)
  /-- JSCATTER: handle's copy, node, TARGET 1, first row, rows, mask, tile offset, and the handle's number -/
  | scatter (h : Handle) (node : Nat) (own : Bool) (first rows : Nat) (mask : Word) (tile : Nat) (n : BitVec 2)
  deriving DecidableEq, Repr

/-- A guarded key command (R107, R298). -/
structure KCmd where
  /-- what it does -/
  op : KOp
  /-- its slot -/
  bind : Bind
  /-- issuing desk -/
  desk : DeskId
  /-- who accesses memory -/
  maker : Maker
  /-- place in the order of key commands -/
  seq : Nat := 0
  /-- translations held (R298) -/
  held : List TlbEntry := []
  /-- where it may write -/
  outs : List Part := []
  deriving DecidableEq, Repr

/-- What a home counts of a slot's accumulations in a window of 4,096 clk (R276). -/
structure HotCount where
  /-- partition of the table -/
  part : PartId
  /-- header address -/
  head : Word
  /-- slot -/
  slot : Nat
  /-- number of the window -/
  window : Nat
  /-- accumulations in it that arrived while an earlier one was in progress -/
  count : Nat
  /-- the count has passed HOTTHR and the promotion has not succeeded -/
  due : Bool
  /-- the window from which on it may be tried: the one after a failed attempt -/
  tried : Nat
  deriving DecidableEq, Repr

/-- A handle that a restore has still to bind again (R271, R369), because a header lies in a tile that another core fills. -/
structure Rebind where
  /-- handle -/
  n : BitVec 2
  /-- the desk for which it is bound -/
  desk : DeskId
  /-- type address -/
  type : Word
  /-- binding address -/
  binding : Word
  deriving DecidableEq, Repr

/-- The key unit of a core (R271, R277). -/
structure KeyUnit where
  /-- j0 to j3 -/
  handles : Vector (Option Handle) 4 := Vector.replicate 4 none
  /-- handles that a restore has still to bind -/
  binds : List Rebind := []
  /-- merge list: partition and header address -/
  merge : List (PartId × Word) := []
  /-- held commands, oldest first -/
  held : List KCmd := []
  /-- accumulations under way, oldest first -/
  adds : List KAdd := []
  /-- key commands that have issued -/
  next : Nat := 0
  deriving DecidableEq, Repr

/-- A copy of a run of scratchpad bytes: its bytes, by offset from its start, and its poisoned 64-byte units. -/
abbrev Image := List Host.Cell × List Nat

/-- An entry of a stage's resume list (R338): a slot, with the saved desks of a share or none for a slot not started. -/
structure Resume where
  /-- slot -/
  slot : Nat
  /-- save area of the share, if it had started -/
  area : Option Word
  /-- the share's runs in this superstep (R340) -/
  runs : Nat := 0
  /-- its snapshot slot, of a restartable kernel (R340) -/
  snap : Option Nat := none
  deriving DecidableEq, Repr

/-- What a core is doing for the timetable (R22 to R25). -/
structure Work where
  /-- the launch it is allotted to -/
  launch : Option Nat := none
  /-- the stage -/
  stage : Nat := 0
  /-- the slot that runs -/
  slot : Option Nat := none
  /-- dealt slots not yet started -/
  todo : List Nat := []
  /-- it has rung the bell -/
  rung : Bool := false
  /-- its last share rang by BELL (R253), so that it takes no resume entry (R338) -/
  byBell : Bool := false
  /-- in exchange -/
  exch : Bool := false
  /-- it has issued its XDONE -/
  xdone : Bool := false
  /-- the launch's region and `.scratch` are loaded (R335) -/
  loaded : Bool := false
  /-- base of the region (R17) -/
  base : Nat := 0
  /-- runs of the share in this superstep (R340) -/
  runs : Nat := 0
  /-- the share's slot of the snapshot area, of a restartable kernel (R340) -/
  snap : Option Nat := none
  /-- the entry of the resume list that it goes on with, taken as its last dealt share ended (R338) -/
  next : Option Resume := none
  /-- a region image set aside by a restore (R369) -/
  aside : Option Image := none
  /-- the share that runs comes from the resume list, not from the dealing (R253, R338) -/
  resumed : Bool := false
  /-- so does the slot not yet started -/
  listed : Bool := false
  /-- it runs a share again for a debug session, outside its stage (R389) -/
  replay : Bool := false
  deriving DecidableEq, Repr

/-- A core (R12, R14). -/
structure Core where
  /-- its four desks -/
  desks : Vector Desk 4 := Vector.replicate 4 {}
  /-- the desk it issues from (R15) -/
  desk : DeskId := 0
  /-- scratchpad bytes (R11, R19) -/
  pad : Cells := []
  /-- poisoned 64-byte units of the scratchpad, rising (R145) -/
  padPoison : List Nat := []
  /-- for the stages of its launch that are in exchange: the scratchpad as it was at their bell, with the exchange writes of their cores since
  (R259) -/
  bells : Table Image := []
  /-- L1 generation (R191) -/
  l1gen : BitVec 8 := 0
  /-- L1 lines -/
  l1 : List L1Line := []
  /-- work for the timetable -/
  work : Work := {}
  /-- its numbers are served by the cluster's spare (R14) -/
  spared : Bool := false
  /-- retired with no spare left: allotted no work (R14) -/
  lost : Bool := false
  /-- due to be vacated and retired (R374) -/
  retiring : Bool := false
  /-- tile table (R147) -/
  tiles : Vector Tile 64 := Vector.replicate 64 {}
  /-- matrix unit -/
  mx : Mx := {}
  /-- key unit -/
  key : KeyUnit := {}
  /-- inbound queues 0 to 3, oldest first (R323) -/
  inq : Vector (List Msg) 4 := Vector.replicate 4 []
  /-- messages of a restored mailbox that await room: queue and message, oldest first (R323) -/
  mail : List (BitVec 2 × Msg) := []
  deriving DecidableEq, Repr

/-! ### Memory -/

/-- An L2 tag (R211).  The place of a tag in its bank's list is its recency, most recent first. -/
structure L2Tag where
  /-- PA >> 6 -/
  line : Nat
  /-- STATE 2 -/
  dirty : Bool
  /-- data entry of the bank, or the implicit zero entry -/
  entry : Option Nat
  /-- VERSION -/
  version : BitVec 32
  /-- DOMAIN, 0 for a page with DD = 0 -/
  domain : BitVec 16
  /-- partition of the line: the last whose access through a page reached it; none for a line that only the host has reached -/
  part : Option PartId
  /-- RSLOT -/
  rslot : Nat
  /-- final content not yet looked up (R217) -/
  due : Bool
  /-- filled for an access under way that has not reached it: that one is a miss (R226) -/
  asked : Bool := false
  deriving DecidableEq, Repr

/-- Metadata of an L2 data entry (R211). -/
structure L2Entry where
  /-- DIGEST -/
  digest : BitVec 64 := 0
  /-- INDEXED -/
  indexed : Bool := false
  /-- COUNT -/
  count : Nat := 0
  deriving DecidableEq, Repr

/-- An L2 bank (R211, R213). -/
structure Bank where
  /-- version floor -/
  floor : BitVec 32 := 0
  /-- tags, most recent first -/
  tags : List L2Tag := []
  /-- entries in use -/
  entries : Table L2Entry := []
  /-- indexed entries in the order they joined the digest index (NEXT) -/
  chain : List Nat := []
  /-- entries retired for good (R374) -/
  gone : List Nat := []
  /-- ways disabled, by set (R374) -/
  ways : Table Nat := []
  deriving DecidableEq, Repr

/-- Event counts of a partition (R226), statistics 3 to 7. -/
structure L2Stats where
  /-- 3 -/
  unshare : Word := 0
  /-- 4 -/
  collide : Word := 0
  /-- 5 -/
  split : Word := 0
  /-- 6 -/
  retHit : Word := 0
  /-- 7 -/
  retOver : Word := 0
  deriving DecidableEq, Repr

/-- An entry of levels 4 to 1 in a walk cache (R383). -/
structure WalkEntry where
  /-- partition -/
  part : PartId
  /-- the virtual addresses it serves: VA divided by 2^(12 + 9 level) -/
  va : Nat
  /-- level -/
  level : Nat
  /-- physical address -/
  addr : Nat
  /-- the entry, but for A and D -/
  pte : Word
  deriving DecidableEq, Repr

/-- A desk on a home's waiter list (R247, R250). -/
structure Waiter where
  /-- core -/
  core : CoreId
  /-- desk -/
  desk : DeskId
  /-- counter -/
  pa : PAddr
  /-- target -/
  target : Word
  /-- the home: its bank, or 256 + the stack of a memory-side page -/
  home : Nat
  /-- a write has brought the counter to the target, or left its line poisoned (true) -/
  due : Option Bool
  deriving DecidableEq, Repr

/-- What an access carries to its bank: the partition, its dedup domain where the page permits twinning, the retention slot and
its way count, and the .ef mark (R189, R216, R224). -/
structure Carry where
  /-- the partition whose access it is; none for the host's (R401) -/
  part : Option PartId := none
  /-- domain, 0 where DD = 0; none for an access through no page, which leaves the line's domain -/
  domain : Option (BitVec 16) := none
  /-- retention slot 1 to 8, or 0 -/
  rslot : Nat := 0
  /-- its way count -/
  ways : Nat := 0
  /-- .ef -/
  ef : Bool := false
  /-- the key of its page (R400): a partition's number + 1, or the host-shared one -/
  key : Option Nat := none
  /-- a write -/
  write : Bool := false
  /-- the write of a read-modify-write, whose read has reached the bank already (R226) -/
  again : Bool := false
  deriving DecidableEq, Repr
/-- Global memory, its caches and its translations. -/
structure MemSys where
  /-- physical bytes -/
  bytes : Cells := []
  /-- poisoned lines (PA >> 6), rising (R364) -/
  poison : List Nat := []
  /-- lines whose MAC no longer holds, rising (R401) -/
  badMac : List Nat := []
  /-- erased keys (R398), each as `keyOf` numbers it -/
  erased : List Nat := []
  /-- key of each written line: a partition's number + 1 for its own key, absent for the host-shared key (R400) -/
  keyOf : Table Nat := []
  /-- L2 banks, by die * 64 + bank -/
  banks : Table Bank := []
  /-- event counts, by partition -/
  stats : Table L2Stats := []
  /-- the TLBs (R383): the L1 TLB of a core at its CORENUM, its matrix unit's at 1024 + that, a cluster's at 2048 + die × 16 + cluster; a
  translation that no longer agrees with the tables may stay until a TLBINV (R382) -/
  tlbs : Table (List TlbEntry) := []
  /-- the dies' walk caches -/
  walks : Table (List WalkEntry) := []
  /-- lines that PREF has asked for and that their banks have not filled, with what the request carries (R196) -/
  asked : List (Nat × Carry) := []
  /-- lines for which a bank has forwarded a memory-side request that is not yet performed (R208) -/
  msOut : List Nat := []
  /-- waiter lists, in the order of registration (R247, R250) -/
  waiters : List Waiter := []
  /-- second-tier windows: port, base and size (R187) -/
  windows : List (Nat × Nat × Nat) := []
  /-- what the monitors that are on watch: partition and source of each that samples events (R390) -/
  watch : List (Nat × Nat) := []
  /-- watched events that no monitor has taken yet, oldest first: partition, source and dies (R390) -/
  events : List (Nat × Nat × List Nat) := []
  deriving DecidableEq, Repr

/-! ### Timetable -/

/-- A footprint region (R348). -/
structure Foot where
  /-- base -/
  base : Nat
  /-- length -/
  len : Nat
  /-- covers reads -/
  rd : Bool
  /-- covers writes -/
  wr : Bool
  deriving DecidableEq, Repr

/-- A stage of a launch: its entry (R329) and where it stands. -/
structure Stage where
  /-- KERNEL -/
  kernIx : Nat := 0
  /-- kernel descriptor -/
  kern : Kernel := {}
  /-- MIN -/
  min : Nat := 1
  /-- MAX -/
  max : Nat := 1
  /-- S -/
  shares : BitVec 32 := 1
  /-- SUPERSTEPS -/
  supersteps : BitVec 32 := 0
  /-- BELLINT -/
  bellint : Word := 0
  /-- QBASE -/
  qbase : Word := 0
  /-- QLOG2 -/
  qlog2 : Nat := 0
  /-- allotted cores in rank order (R24) -/
  cores : List CoreId := []
  /-- supersteps completed -/
  sscnt : Word := 0
  /-- in exchange -/
  exch : Bool := false
  /-- first compute phase begun -/
  begun : Bool := false
  /-- ended -/
  ended : Bool := false
  /-- ESIGNAL END received (R345) -/
  endReq : Bool := false
  /-- resume list (R338) -/
  resume : List Resume := []
  /-- items taken from the input queue -/
  qhead : Word := 0
  /-- items put into the input queue -/
  qtail : Word := 0
  /-- stages that take a core of this one at its next bell (R336) -/
  gives : List Nat := []
  /-- cores that other stages have given it, not yet received (R336) -/
  getting : List CoreId := []
  /-- cores that it receives at the bell under way -/
  joining : List CoreId := []
  /-- cores to be vacated for another launch at the next bell (R337) -/
  vacate : List CoreId := []
  /-- stages that take a core of this one in the exchange of the bell under way (R336) -/
  giving : List Nat := []
  /-- cores that leave in the exchange of the bell under way (R337) -/
  vacating : List CoreId := []
  /-- cores to be vacated at once (R338) -/
  urgent : List CoreId := []
  /-- the cores in the rank order by which the superstep was dealt (R24, R26) -/
  order : List CoreId := []
  /-- persistent ranges of shares that ended on another core than their slot's, by rank (R369) -/
  kept : Table Image := []
  /-- no share of the superstep has been dispatched -/
  fresh : Bool := true
  /-- the superstep's checkpoint is taken (R388) -/
  ckDone : Bool := false
  /-- the bell found the input queue empty and the producer ended (R346) -/
  last : Bool := false
  /-- frozen for a debug stop (R387) -/
  held : Bool := false
  /-- clk at which the compute phase began -/
  began : Nat := 0
  /-- cores of the combined stage on devices ranked before and after this one (R331) -/
  far : Nat × Nat := (0, 0)
  /-- what they become in the exchange of the bell under way -/
  farNext : Nat × Nat := (0, 0)
  /-- tables recorded by shares of the superstep whose cores have left (R277) -/
  merges : List (PartId × Word) := []
  /-- the bell under way is that of a remap, which has emptied the capability tables (R172) -/
  cleared : Bool := false
  deriving DecidableEq, Repr

/-- A collective group (R332): id, stage, explicit members, and the instance numbers drawn so far by each member. -/
structure Group where
  /-- ID -/
  id : BitVec 16
  /-- STAGE -/
  stage : Nat
  /-- EXPLICIT, with LIST's tuples in rank order -/
  members : Option (List Word)
  /-- next instance number by member tuple's core -/
  drawn : Table Nat := []
  deriving DecidableEq, Repr

/-- A footprint entry of a kernel (R85): kind, and the argument offsets of address and length. -/
structure FootArg where
  /-- KIND -/
  kind : Nat
  /-- ADDRARG -/
  addr : Nat
  /-- LENARG -/
  len : Nat
  deriving DecidableEq, Repr

/-- How a launch stands. -/
inductive LStatus where
  /-- running, STATE 0 -/
  | running
  /-- STATE 1 -/
  | done
  /-- STATE 2 -/
  | cancelled
  /-- STATE 3 -/
  | failed
  deriving DecidableEq, Repr

/-- A debug stop (R387): pending until a stage that asked for it reaches the point at which it is taken. -/
structure DbgStop where
  /-- 0 BRKPT, 1 BPADDR, 2 host -/
  kind : BitVec 2
  /-- n of BRKPT -/
  n : BitVec 5
  /-- the stages of the requests, and whether each was in exchange -/
  asked : List (Nat × Bool)
  /-- CORENUM of the first request -/
  core : CoreId
  /-- PC of the first request -/
  pc : Word
  /-- requests merged -/
  merged : Nat
  /-- where it was taken: STAGE and SSCNT -/
  at_ : Option (Nat × Word) := none
  /-- every stage is frozen and the record is written -/
  written : Bool := false
  deriving DecidableEq, Repr

/-- A launch (R329 to R347). -/
structure Launch where
  /-- partition -/
  part : PartId := 0
  /-- queue it came from, none for a child -/
  queue : Option (BitVec 4) := none
  /-- effective priority at its start -/
  prio : Nat := 0
  /-- IMMOK -/
  immok : Bool := false
  /-- FUSE -/
  fuse : Bool := false
  /-- its launch record's address -/
  self : Word := 0
  /-- RECORD -/
  record : Word := 0
  /-- DONECNT -/
  donecnt : Word := 0
  /-- ARGS -/
  args : Word := 0
  /-- IMAGE -/
  image : Word := 0
  /-- SEED -/
  seed : Word := 0
  /-- SPAN -/
  span : BitVec 32 := 0
  /-- SPANDEV -/
  spandev : BitVec 32 := 0
  /-- the launches of the other devices of the SPAN have started (R331) -/
  spanReady : Bool := true
  /-- devices of the SPAN ranked before this one -/
  rank : Nat := 0
  /-- WAITCNT -/
  waitcnt : Word := 0
  /-- WAITTGT -/
  waittgt : Word := 0
  /-- WAITREC0 and WAITREC1 -/
  waitrec : List Word := []
  /-- DEADLINE -/
  deadline : Word := 0
  /-- HANGLIMIT -/
  hang : Word := 0
  /-- GROUPTAB -/
  grouptab : Word := 0
  /-- stages -/
  stages : List Stage := []
  /-- footprint entries of its kernels, as read with the record -/
  footArgs : List FootArg := []
  /-- footprints -/
  foots : List Foot := []
  /-- groups -/
  groups : List Group := []
  /-- what the loader fixed -/
  info : LoadInfo := ⟨0, 0, 0, [], 0, [], true, 0⟩
  /-- parent launch -/
  parent : Option Nat := none
  /-- children spawned so far -/
  spawned : Nat := 0
  /-- started -/
  started : Bool := false
  /-- status -/
  status : LStatus := .running
  /-- frozen (R339) -/
  frozen : Bool := false
  /-- CAUSE -/
  cause : Cause := 0
  /-- ORIGIN -/
  origin : Word := 0
  /-- a debug session is attached (R387) -/
  debug : Bool := false
  /-- pending debug stop -/
  stop : Option DbgStop := none
  /-- clk at which it became eligible -/
  eligAt : Option Nat := none
  /-- its place in the order of starts (R334) -/
  startNo : Nat := 0
  deriving DecidableEq, Repr

/-- A launch queue's descriptor (R329). -/
structure LQueue where
  /-- RINGBASE -/
  ring : Word := 0
  /-- LOG2DEPTH -/
  log2 : Nat := 1
  /-- HOSTFED -/
  hostfed : Bool := false
  /-- TAILCNT -/
  tail : Word := 0
  /-- HEADCNT -/
  head : Word := 0
  /-- the launch at the head, taken and not yet started -/
  cur : Option Nat := none
  deriving DecidableEq, Repr

/-- A monitor (R390). -/
structure Monitor where
  /-- MONCTLn -/
  ctl : Word := 0
  /-- MIN -/
  min : Word := 0
  /-- MAX -/
  max : Word := 0
  /-- COUNT -/
  count : Word := 0
  /-- bins -/
  bins : Vector Word 16 := Vector.replicate 16 0
  /-- a level source: the number of the window of 2^16 clk in which it last sampled -/
  last : Nat := 0
  deriving DecidableEq, Repr

/-- A partition: its configuration (R396) and the registers that belong to it (R385). -/
structure Partition where
  /-- PTROOT (R377) -/
  ptroot : Word := 0
  /-- SPTROOT -/
  sptroot : Word := 0
  /-- CONF: C = 1 pages are permitted (R400) -/
  conf : Bool := false
  /-- dedup domain (R216) -/
  domain : BitVec 16 := 0
  /-- way count of each retention slot (R224) -/
  ways : List Nat := [0, 0, 0, 0, 0, 0, 0, 0]
  /-- active retention ranges, by slot 0 to 7: base and length -/
  ret : Table (Nat × Nat) := []
  /-- launch queues, by number -/
  queues : Table LQueue := []
  /-- queue served last (R333) -/
  served : Option (BitVec 4) := none
  /-- RCCTL -/
  rcctl : BitVec 5 := 0
  /-- RCRING -/
  rcring : Word := 0
  /-- RCSEQ -/
  rcseq : Word := 0
  /-- extra roll calls asked for by ROLL -/
  rolls : Nat := 0
  /-- where the next record begins in the ring -/
  rcpos : Nat := 0
  /-- the PCs of the previous record: desk, CTXID and PC (R386) -/
  rcprev : List (Nat × BitVec 16 × Word) := []
  /-- CKCTL -/
  ckctl : BitVec 6 := 0
  /-- CKAREA -/
  ckarea : Word := 0
  /-- checkpoints asked for by CKPT -/
  ckpts : Nat := 0
  /-- MONSEL -/
  monsel : BitVec 10 := 0
  /-- monitors -/
  mons : Vector Monitor 32 := Vector.replicate 32 {}
  /-- the launch for which cores are pre-empted, and those cores (R333, R334) -/
  pre : Option (Nat × List CoreId) := none
  deriving DecidableEq, Repr

/-! ### Engines, near-memory units and messages under way -/

/-- A region that a card reads or writes (R309, R310): a scratchpad's, or global memory. -/
structure Region where
  /-- the core whose scratchpad it lies in; none for global memory -/
  core : Option CoreId
  /-- first byte -/
  base : Nat
  /-- bytes -/
  len : Nat
  deriving DecidableEq, Repr

/-- Why an engine cannot go on with a card (R312): the cause, and what TFINFO takes (R379). -/
structure EngErr where
  /-- cause -/
  cause : Cause
  /-- TFINFO -/
  tf : Option (BitVec 9) := none
  /-- a line that failed its MAC (R401) -/
  line : Option Nat := none
  deriving DecidableEq, Repr

/-- A line of an engine's destination to be written: its offset, bytes and poison, and the bytes that stood there when it was prepared (R311). -/
structure OutLine where
  /-- offset -/
  off : Nat
  /-- bytes -/
  bytes : List Byte
  /-- poison -/
  bad : Bool
  /-- what stood there -/
  was : List Byte
  deriving DecidableEq, Repr

/-- A job card that an engine holds (R304 to R315). -/
structure Card where
  /-- place in the order of submission -/
  seq : Nat
  /-- the 64 bytes read at issue -/
  raw : BitVec 512
  /-- card address -/
  addr : Word
  /-- who submitted it -/
  owner : Owner
  /-- who accesses memory -/
  maker : Maker
  /-- stage -/
  stage : Nat
  /-- submitted in exchange -/
  exch : Bool
  /-- read regions -/
  rd : List Region
  /-- write region; none for a fabric put -/
  wr : Option Region
  /-- guard -/
  bind : Bind
  /-- started -/
  started : Bool := false
  /-- progress: bytes of the destination, or elements of a quantising copy, that are written -/
  done : Nat := 0
  /-- how far the source is read, as `done` counts -/
  got : Nat := 0
  /-- units of the source under way that are read: place, bytes and poison (R311) -/
  buf : List (Nat × List Byte × Bool) := []
  /-- a gather: the index of the row under way, with its poison -/
  ix : Option (Nat × Bool) := none
  /-- lines of the destination under way to be written -/
  out : List OutLine := []
  /-- those of the pieces that follow it and are read already, in order -/
  ahead : List (List OutLine) := []
  /-- a collective: its result is known -/
  paid : Bool := false
  /-- a failure found -/
  fail : Option EngErr := none
  /-- translations held: its counter's (R242) -/
  held : List TlbEntry := []
  /-- collective: the member's rank and its instance -/
  rank : Nat := 0
  /-- instance -/
  inst : Nat := 0
  deriving DecidableEq, Repr

/-- An element under way (R236): what has been read of G, and what M1 and M2 took, as FP32 bits, each with its poison. -/
structure NmOpen where
  /-- the element -/
  el : Nat
  /-- G -/
  g : Option (Nat × Bool) := none
  /-- the new M1 -/
  m1 : Option (Nat × Bool) := none
  /-- the new M2 -/
  m2 : Option (Nat × Bool) := none
  deriving DecidableEq, Repr

/-- How far a near-memory command has come (R236). -/
inductive NmState where
  /-- awaits its translation phase -/
  | waiting
  /-- updates: every element below this place has begun, and these beyond it; those under way -/
  | running (done : Nat) (ahead : List Nat) (under : List NmOpen)
  /-- stopped by a recorded fault, and whether it has been reported -/
  | fault (f : Recorded) (told : Bool)
  deriving DecidableEq, Repr

/-- A near-memory command (R235, R236). -/
structure NmCmd where
  /-- place in the order of issue -/
  seq : Nat
  /-- record address -/
  addr : Word
  /-- record as read -/
  raw : BitVec 512
  /-- hyper-parameters as read -/
  hyper : BitVec 512
  /-- t as read -/
  t : Word
  /-- who issued it -/
  owner : Owner
  /-- who accesses memory -/
  maker : Maker
  /-- guard -/
  bind : Bind
  /-- state -/
  st : NmState := .waiting
  /-- translations held: its counter's, and those of its arrays (R236, R242) -/
  held : List TlbEntry := []
  deriving DecidableEq, Repr

/-- A message that its sender has handed over and that its target has not accepted (R322). -/
structure NetMsg where
  /-- sender -/
  owner : Owner
  /-- target word -/
  target : Word
  /-- message -/
  msg : Msg
  /-- its guard (R107) -/
  bind : Bind
  /-- its desk waits for the acceptance: the operands that it then pops -/
  waits : Option (GReg × GReg)
  deriving DecidableEq, Repr

/-- A context whose desk is switched out (R323): its launch and id, and its mailbox. -/
structure Away where
  /-- launch -/
  launch : Nat
  /-- CTXID -/
  ctx : BitVec 16
  /-- core that it left -/
  core : CoreId
  /-- its stage and share -/
  share : Nat × BitVec 32
  /-- partition -/
  part : PartId
  /-- where its desk part stands in the save area -/
  at_ : Word
  /-- card failures that the part lists (R312) -/
  fails : Nat
  /-- where its mailbox stands -/
  va : Word
  /-- mailbox: queue and message, oldest first -/
  box : List (BitVec 2 × Msg)
  deriving DecidableEq, Repr

/-- What the unit keeps of a save area beside its bytes (R367), by area address and partition: what no field of the area holds. -/
structure Saved where
  /-- partition -/
  part : PartId
  /-- area -/
  area : Word
  /-- desks as saved -/
  desks : List (DeskId × Desk)
  /-- matrix unit, key unit and tiles, with a share part -/
  share : Option (Mx × KeyUnit × Vector Tile 64)
  /-- poisoned units of the region image, relative to the region -/
  poison : List Nat
  deriving DecidableEq, Repr

/-- A collective instance under way (R315): what has come for it from outside. -/
structure Inst where
  /-- launch -/
  launch : Nat
  /-- group -/
  group : BitVec 16
  /-- instance -/
  inst : Nat
  /-- a switch combined it (R318): its Horuf id -/
  switch : Option Word := none
  /-- ended by JOBX or failed: members that come later end so too (R312, R313) -/
  dead : Bool := false
  /-- it failed -/
  fail : Option EngErr := none
  deriving DecidableEq, Repr

/-! ### Host, security and dependability -/

/-- TDISP states (R398). -/
inductive TdiState where
  /-- CONFIG_UNLOCKED -/
  | unlocked
  /-- CONFIG_LOCKED -/
  | locked
  /-- RUN -/
  | run
  /-- ERROR -/
  | error
  deriving DecidableEq, Repr

/-- What the management controller logs (R355, R374, R404). -/
inductive LogKind where
  /-- a launch failed -/
  | fault
  /-- a double trap -/
  | doubleTrap
  /-- a unit retired -/
  | retirement
  /-- a unit of a kind whose spares are exhausted -/
  | exhausted
  deriving DecidableEq, Repr

/-- A log entry of the management controller. -/
structure LogEntry where
  /-- what happened -/
  kind : LogKind
  /-- partition of the launch -/
  part : PartId := 0
  /-- CAUSE -/
  cause : Cause := 0
  /-- SSCNT -/
  sscnt : Word := 0
  /-- CORENUM, 0x3FF for none -/
  core : Nat := 0x3FF
  /-- XVAL -/
  xval : Word := 0
  /-- XPC -/
  xpc : Word := 0
  /-- unit -/
  ras : Option RasUnit := none
  /-- clk -/
  at_ : Nat := 0
  deriving DecidableEq, Repr

/-- What the host or the management port was last answered (R399, R401, R403, R404). -/
inductive Reply where
  /-- a line of memory, and whether it is poisoned -/
  | data (v : Vec) (poison : Bool)
  /-- a line's ciphertext (R401) -/
  | cipher (v : Vec)
  /-- Unsupported Request (R401), a frozen record (R398), or a failed verification (R405) -/
  | refused
  /-- "already in update mode" (R404) -/
  | updating
  /-- the physical function went down (R404) -/
  | down
  /-- a record as far as the operator may see it (R403) -/
  | view (v : Vec)
  /-- the line failed its MAC -/
  | failed
  /-- the log, as far as it is shown (R403) -/
  | log (e : List LogEntry)
  /-- a sensor's value -/
  | sensor (v : Word)
  /-- a signed measurement: index, digest and signature (R399) -/
  | signed (ix : BitVec 16) (digest : BitVec 512) (sig : Word)
  deriving DecidableEq, Repr

/-- A Horuf link (R402). -/
structure Link where
  /-- up -/
  up : Bool := true
  /-- groups that have failed their tags, with how often -/
  fails : List (Word × Nat) := []
  /-- the partner at its other end, by its Horuf id (R402) -/
  partner : Word := 0
  /-- the partner's identity, as their SPDM session gave it (R399, R402) -/
  identity : BitVec 512 := 0
  /-- keys exchanged so far -/
  key : Nat := 0
  deriving DecidableEq, Repr

/-- The firmware slot (R405). -/
inductive Firmware where
  /-- a verified image -/
  | good (img : BitVec 512)
  /-- being written over, or failed to verify -/
  | broken
  deriving DecidableEq, Repr

/-- Engines, units outside the cores, host side and management. -/
structure Sys where
  /-- engine queues by engine number: cards that have not completed, oldest first -/
  cards : Table (List Card) := []
  /-- cards submitted -/
  cardSeq : Nat := 0
  /-- near-memory commands that have not completed -/
  nm : List NmCmd := []
  /-- what the homes count of accumulations that meet (R276) -/
  hots : List HotCount := []
  /-- near-memory commands issued -/
  nmSeq : Nat := 0
  /-- messages not yet accepted -/
  net : List NetMsg := []
  /-- switched-out contexts -/
  away : List Away := []
  /-- save areas -/
  saved : List Saved := []
  /-- collective instances touched by a switch or ended by JOBX -/
  insts : List Inst := []
  /-- failures of commands whose context is switched out (R312) -/
  late : List (Owner × Report) := []
  /-- device ids of the fabric domain beside this module's -/
  domain : List (BitVec 11) := []
  /-- TDIs by number; an absent one is CONFIG_UNLOCKED -/
  tdis : Table TdiState := []
  /-- partition records as written (R397), by PARTID -/
  records : Table (BitVec 512) := []
  /-- digests of a TDI's frozen records, taken at its lock (R398, R399) -/
  frozen : Table (BitVec 512) := []
  /-- Horuf links; an absent one is up -/
  links : Table Link := []
  /-- the links as the last cold reset measured them (R399) -/
  linkMap : Table Link := []
  /-- the security processor's configuration, as the last cold reset loaded and measured it (R399) -/
  spConf : BitVec 512 := 0
  /-- signatures made for SPDM requests -/
  signed : Nat := 0
  /-- what the host or the management port was last answered -/
  reply : Option Reply := none
  /-- firmware slot -/
  slot : Firmware := .good 0
  /-- firmware that runs -/
  running : Option (BitVec 512) := some 0
  /-- compute dies, timetable and Horuf ports are off (R405) -/
  mgmtOnly : Bool := false
  /-- an update session: whether it came by the management port, and its image, which is being written (R405) -/
  update : Option (Bool × BitVec 512) := none
  /-- log of the management controller, oldest first -/
  log : List LogEntry := []
  /-- corrected events in this window: the unit and the ECC granule of each (R373) -/
  counts : List (RasUnit × Nat) := []
  /-- corrected events in this window at places that are no unit of R373: near-memory units by stack, and second-tier ports from 16 on -/
  others : Table Nat := []
  /-- retired units (R374) -/
  retired : List RasUnit := []
  /-- arithmetic clock step of each die (R10): 0 2.25, 1 2.0, 2 1.75, 3 1.5 GHz -/
  clock : Vector (BitVec 2) 4 := Vector.replicate 4 0
  /-- physical function and Horuf are up -/
  hostUp : Bool := true
  /-- power is gone -/
  off : Bool := false
  deriving DecidableEq, Repr


/-- Who moves next. -/
inductive Move where
  /-- a core issues -/
  | issue (c : CoreId)
  /-- an event takes place -/
  | event (i : Instr)
  deriving DecidableEq, Repr

/-- The state of the module. -/
structure State where
  /-- cores that are not as after reset, by CORENUM -/
  cores : Table Core := []
  /-- the core that moves -/
  core : CoreId := 0
  /-- the desk that moves -/
  desk : DeskId := 0
  /-- memory -/
  mem : MemSys := {}
  /-- partitions, by number -/
  parts : Table Partition := []
  /-- launches, by the order they were taken or spawned -/
  launches : Table Launch := []
  /-- moves laid down to come next, before any free choice (log 3) -/
  turns : List Move := []
  /-- steps made: the model's own counter, which feeds the free values (log 3) -/
  tick : Nat := 0
  /-- this module's device id in the fabric domain (R21) -/
  device : BitVec 11 := 0
  /-- engines, units outside the cores, host side -/
  sys : Sys := {}
  deriving DecidableEq, Repr

/-- The machine after a cold reset: every field at its default. -/
def State.reset : State := {}

end Sys2Proof.Machine
end

