-- ==== Sys2Proof/Machine/Mem.lean ====
section
/-! DEFINITION. Physical memory: bytes in canonical form, poison, and the L2 banks with their versions, entries and twinning (R187,
R208, R211 to R226, R364).  The bytes of a line stand in one place whether the line is cached or not: caching, twinning and
eviction change no value (R221). -/

namespace Sys2Proof.Machine

/-! ### Bytes -/

/-- The byte at an address; an unlisted address reads 0 (log 2). -/
def cget : Cells → Nat → Byte
  | [], _ => 0
  | (k, b) :: t, a => if k = a then b else cget t a
/-- Lists a byte at its place among rising addresses. -/
def cput : Cells → Nat → Byte → Cells
  | [], a, b => [(a, b)]
  | (k, x) :: t, a, b =>
    if k < a then (k, x) :: cput t a b
    else if k = a then (a, b) :: t
    else (a, b) :: (k, x) :: t
/-- Writes a byte, keeping the addresses rising and listing no byte equal to 0. -/
def cset (m : Cells) (a : Nat) (b : Byte) : Cells := if b = 0 then m.filter (fun x => x.1 != a) else cput m a b
/-- The canonical form: addresses strictly rising, no byte equal to 0. -/
def Cells.wf : Cells → Bool
  | [] => true
  | [(_, b)] => b != 0
  | (k, b) :: (k', b') :: t => b != 0 && decide (k < k') && Cells.wf ((k', b') :: t)
/-- The canonical form of a module's memory. -/
def Memory.wf (m : Cells) : Bool := m.wf
/-- `n` bytes from an address. -/
def creads (m : Cells) (a : Nat) : Nat → List Byte
  | 0 => []
  | n + 1 => cget m a :: creads m (a + 1) n
/-- Writes bytes from an address up. -/
def cwrites (m : Cells) (a : Nat) : List Byte → Cells
  | [] => m
  | b :: bs => cwrites (cset m a b) (a + 1) bs
/-- One of some things, which the manual leaves open. -/
def oneOf {α : Type} (tick place : Nat) : List α → Option α
  | [] => none
  | [x] => some x
  | xs => xs[Config.pickAt tick place % xs.length]?
/-- The number that bytes stand for, least significant first. -/
def leNat : List Byte → Nat
  | [] => 0
  | b :: bs => b.toNat + 256 * leNat bs
/-- The bytes of a number, least significant first. -/
def natLe (x : Nat) : Nat → List Byte
  | 0 => []
  | n + 1 => BitVec.ofNat 8 x :: natLe (x / 256) n
/-- Insertion into a rising list without repeats. -/
def insN : List Nat → Nat → List Nat
  | [], a => [a]
  | k :: t, a => if k < a then k :: insN t a else if k = a then k :: t else a :: k :: t

/-! ### Homes -/

/-- The end of HBM4E (R187). -/
def hbmEnd : Nat := 0xC000000000
/-- The port whose window holds a physical address; the MACs of a window's lines take its top 1/16, where nothing else lies (R400). -/
def MemSys.port (m : MemSys) (pa : Nat) : Option Nat :=
  (m.windows.find? (fun w => decide (w.2.1 ≤ pa ∧ pa < w.2.1 + (w.2.2 - w.2.2 / 16)))).map (·.1)
/-- HBM4E or a configured second-tier window (R187, R378 reason 3). -/
def MemSys.inMemory (m : MemSys) (pa : Nat) : Bool := decide (pa < hbmEnd) || (m.port pa).isSome
/-- The stack of an HBM4E address. -/
def stackOf (pa : Nat) : Nat := pa / 4096 % 12
/-- The home die of an address. -/
def MemSys.die (m : MemSys) (pa : Nat) : Nat :=
  if pa < hbmEnd then stackOf pa / 3 else ((m.port pa).getD 0) / 2
/-- The home bank of a line, as die * 64 + bank. -/
def MemSys.bankNo (m : MemSys) (line : Nat) : Nat := m.die (line * 64) * 64 + line % 64
/-- The set of a line in its bank (R211). -/
def setOf (line : Nat) : Nat := line / 64 % 2048

/-! ### L2 banks -/

/-- Data entries of a bank. -/
def bankEntries : Nat := 16384
/-- The reserve that only un-sharing writes take from (R219). -/
def bankReserve : Nat := 64
/-- Entries that no tag points at. -/
def Bank.free (b : Bank) : Nat := bankEntries - b.gone.length - b.entries.length
/-- The lowest entry in no use. -/
def firstFree (used : List Nat) : Nat → Nat → Nat
  | 0, n => n
  | k + 1, n => if used.contains n then firstFree used k (n + 1) else n
/-- An entry in no use. -/
def Bank.fresh (b : Bank) : Nat :=
  firstFree (b.entries.map (·.1) ++ b.gone) (b.entries.length + b.gone.length) 0
/-- One tag less on an entry (R218). -/
def Bank.drop (b : Bank) (e : Option Nat) : Bank :=
  match e with
  | none => b
  | some n =>
    let x := tget b.entries n {}
    if x.count ≤ 1 then { b with entries := tdel b.entries n, chain := b.chain.filter (· != n) }
    else { b with entries := tset b.entries n { x with count := x.count - 1 } }
/-- The floor after a line of version `v` leaves the bank (R213). -/
def raiseFloor (floor v : BitVec 32) : BitVec 32 :=
  let k := v - floor
  if 1 ≤ k.toNat ∧ k.toNat < 2 ^ 31 then v else floor
/-- A line leaves the bank (R213, R218). -/
def Bank.evict (b : Bank) (line : Nat) : Bank :=
  match b.tags.find? (·.line == line) with
  | none => b
  | some t =>
    let b := b.drop t.entry
    { b with tags := b.tags.filter (·.line != line), floor := raiseFloor b.floor t.version }
/-- The least recent tag that satisfies a test. -/
def Bank.lru (b : Bank) (p : L2Tag → Bool) : Option L2Tag := b.tags.reverse.find? p
/-- Whether a tag's entry is its own. -/
def Bank.sole (b : Bank) (t : L2Tag) : Bool :=
  match t.entry with | none => false | some n => (tget b.entries n {}).count == 1
/-- The COUNT of a tag's entry; none for the zero entry. -/
def Bank.countOf (b : Bank) (t : L2Tag) : Option Nat := t.entry.map (fun n => (tget b.entries n {}).count)
/-- The lowest COUNT among the entries of the tags that satisfy a test. -/
def Bank.minCount (b : Bank) (p : L2Tag → Bool) : Option Nat := ((b.tags.filter p).filterMap b.countOf).min?
/-- The victim among the tags that satisfy a test: an unshared line, clean before dirty, then a tag of the entry with the lowest
COUNT (R220). -/
def Bank.victimOf (b : Bank) (p : L2Tag → Bool) : Option L2Tag :=
  (b.lru (fun t => p t && b.sole t && !t.dirty)) <|> (b.lru (fun t => p t && b.sole t)) <|>
  (b.lru (fun t => p t && (b.countOf t).isSome && b.countOf t == b.minCount p))
/-- The victim of an entry reclaim (R220): retained lines last. -/
def Bank.victim (b : Bank) : Option L2Tag := b.victimOf (·.rslot == 0) <|> b.victimOf (·.rslot != 0)
/-- Evicts until more than `keep` entries are free (R220). -/
def Bank.reclaim (keep : Nat) : Nat → Bank → Bank
  | 0, b => b
  | k + 1, b =>
    if keep < b.free then b
    else match b.victim with
      | none => b
      | some t => Bank.reclaim keep k (b.evict t.line)
/-- Evictions that always suffice (R220). -/
def reclaimFuel : Nat := 512

/-- It goes through a page: DD = 0 carries domain 0 (R216). -/
def Carry.via (c : Carry) (p : Part) : Carry :=
  { c with domain := c.domain.map (fun x => if p.dd then x else 0), key := if p.conf then c.part.map (fun x => x.toNat + 1) else none }

/-- A tag at its place in the recency order: the front, or, with .ef, the least recent place (R225). -/
def Bank.place (b : Bank) (t : L2Tag) (ef : Bool) : Bank :=
  let rest := b.tags.filter (·.line != t.line)
  { b with tags := if ef then rest ++ [t] else t :: rest }

/-- The tags of a line's set, but for the line's own. -/
def Bank.others (b : Bank) (line : Nat) : List L2Tag := b.tags.filter (fun t => setOf t.line == setOf line && t.line != line)
/-- Whether a tag lies in the slot that an access carries: the same number of the same partition. -/
def Carry.holds (c : Carry) (t : L2Tag) : Bool := c.rslot != 0 && t.rslot == c.rslot && t.part == c.part
/-- Whether the slot that an access carries has a way left for a line (R225). -/
def Bank.reserved (b : Bank) (line : Nat) (c : Carry) : Bool :=
  c.rslot != 0 && decide (((b.others line).filter c.holds).length < c.ways) && decide (((b.others line).filter (·.rslot != 0)).length < 8)
/-- Whether the ways of the slot that an access carries are full in a line's set (R225). -/
def Bank.waysFull (b : Bank) (line : Nat) (c : Carry) : Bool := c.rslot != 0 && decide (c.ways ≤ ((b.others line).filter c.holds).length)
/-- Makes room for a tag in a set (R225): an ordinary line goes, and, where the ways of the slot that the fill carries are full, the
least recently used line of that slot (log 111). -/
def Bank.room (b : Bank) (line : Nat) (c : Carry) : Bank :=
  let inSet (t : L2Tag) : Bool := setOf t.line == setOf line
  if 16 - tget b.ways (setOf line) 0 ≤ (b.tags.filter inSet).length then
    match (if b.waysFull line c then b.lru (fun t => inSet t && c.holds t) else none) <|>
        (b.lru (fun t => inSet t && t.rslot == 0)) <|> (b.lru inSet) with
    | some t => b.evict t.line
    | none => b
  else b

/-- Whether 64 bytes at a line are all 0. -/
def MemSys.zeroLine (m : MemSys) (line : Nat) : Bool := (creads m.bytes (line * 64) 64).all (· == 0)

/-- Applies a change to a bank. -/
def MemSys.onBank (m : MemSys) (line : Nat) (f : Bank → Bank) : MemSys :=
  { m with banks := tset m.banks (m.bankNo line) (f (tget m.banks (m.bankNo line) {})) }
/-- Applies a change to a partition's event counts. -/
def MemSys.onStats (m : MemSys) (p : Option PartId) (f : L2Stats → L2Stats) : MemSys :=
  match p with
  | none => m
  | some p => { m with stats := tset m.stats p.toNat (f (tget m.stats p.toNat {})) }
/-- The tag of a resident line. -/
def MemSys.tag (m : MemSys) (line : Nat) : Option L2Tag :=
  (tget m.banks (m.bankNo line) {}).tags.find? (·.line == line)

/-- Replaces the tag of a line. -/
def Bank.setTag (b : Bank) (t : L2Tag) : Bank := { b with tags := b.tags.map (fun u => if u.line == t.line then t else u) }
/-- A line gets an entry of its own for its content (R218, R219): the reserve may be used, and is replenished.  A reclaim that took
the line itself away puts its tag back. -/
def Bank.own (b : Bank) (t : L2Tag) : Bank :=
  let b := b.reclaim 0 reclaimFuel
  let u := b.tags.find? (·.line == t.line)
  let b := b.drop (u.bind (·.entry))
  let n := b.fresh
  let b := { b with entries := tset b.entries n { count := 1 } }
  (if u.isSome then b.setTag { t with entry := some n } else b.place { t with entry := some n } false).reclaim (bankReserve - 1) reclaimFuel
/-- An entry leaves the digest index (R216, R219). -/
def Bank.unindex (b : Bank) (e : Option Nat) : Bank :=
  match e with
  | none => b
  | some n => { b with entries := tset b.entries n { count := 1 }, chain := b.chain.filter (· != n) }
/-- A resident line that is to share no entry gets one of its own, outside the digest index (R216, R218). -/
def MemSys.ownEntry (m : MemSys) (line : Nat) : MemSys :=
  match m.tag line with
  | none => m
  | some t => m.onBank line (fun b => if b.sole t then b.unindex t.entry else b.own t)
/-- A line turns out to be poisoned: it never shares an entry (R218, R364). -/
def MemSys.spoil (m : MemSys) (line : Nat) : MemSys := { m with poison := insN m.poison line }.ownEntry line

/-- A fill (R213, R219, R225): version floor + 1; a free entry outside the reserve, or the zero entry.  `asked` marks a fill that an
access under way is still to reach. -/
def MemSys.fill (m : MemSys) (line : Nat) (c : Carry) (asked : Bool := false) : MemSys :=
  let b := tget m.banks (m.bankNo line) {}
  let keep := b.reserved line c
  let b := b.room line c
  let dom := c.domain.getD 0
  let zero := dom != 0 && m.zeroLine line && !m.poison.contains line
  let b := if zero then b else b.reclaim bankReserve reclaimFuel
  let (e, b) : Option Nat × Bank :=
    if zero then (none, b)
    else (some b.fresh, { b with entries := tset b.entries b.fresh { count := 1 } })
  let t : L2Tag := ⟨line, false, e, b.floor + 1, dom, c.part, if keep then c.rslot else 0, dom != 0 && !zero, asked⟩
  let m := m.onBank line (fun _ => b.place t c.ef)
  if c.rslot != 0 && !keep then m.onStats c.part (fun x => { x with retOver := x.retOver + 1 }) else m

/-- The domain of a resident line after an access through a page (R216): one that leaves its domain gets an entry of its own, and is
looked up in the new one. -/
def MemSys.redomain (m : MemSys) (line : Nat) (t : L2Tag) (c : Carry) : MemSys :=
  match c.domain with
  | none => m
  | some x =>
    if x = t.domain then m
    else (m.onBank line (·.setTag { t with domain := x, due := x != 0 })).ownEntry line

/-- A read or write reaches a line's bank: the line is filled if absent, takes the access's partition, domain and retention slot, and
becomes most recent, but where .ef places it last: a write, a retained line, the line filled for this load (R189, R213, R216, R224,
R225); a hit on a retained line counts (R226). -/
def MemSys.touch (m : MemSys) (line : Nat) (c : Carry) : MemSys :=
  match m.tag line with
  | none => m.fill line c
  | some t =>
    let own := if c.domain.isSome then c.part else t.part
    let m := if t.rslot != 0 && !t.asked && !c.again then m.onStats own (fun x => { x with retHit := x.retHit + 1 }) else m
    let m := m.redomain line t c
    match m.tag line with
    | none => m
    | some t =>
      let b := tget m.banks (m.bankNo line) {}
      let rs := if b.reserved line c then c.rslot else t.rslot
      m.onBank line (fun b => b.place { t with rslot := rs, part := own, asked := false } (c.ef && (c.write || rs != 0 || t.asked)))

/-- A write is applied to a resident line's tag (R212, R219): version + 1, and an entry of its own. -/
def MemSys.bump (m : MemSys) (line : Nat) : MemSys :=
  match m.tag line with
  | none => m
  | some t =>
    let b := tget m.banks (m.bankNo line) {}
    let t' := { t with dirty := true, version := t.version + 1, due := t.domain != 0 }
    if b.sole t then
      m.onBank line (fun b => (b.unindex t.entry).setTag t')
    else (m.onBank line (·.own t')).onStats t.part (fun x => { x with unshare := x.unshare + 1 })

/-- One step of a CRC-64 by a message bit, polynomial 0x42F0_E1EB_A9EA_3693, most significant bit first (R217). -/
def crcBit (c : BitVec 64) (b : Bool) : BitVec 64 :=
  let s := c <<< 1
  if c.msb != b then s ^^^ 0x42F0E1EBA9EA3693#64 else s
/-- A CRC-64 over a byte. -/
def crcByte (c : BitVec 64) (x : Byte) : BitVec 64 :=
  [7, 6, 5, 4, 3, 2, 1, 0].foldl (fun c i => crcBit c (x.getLsbD i)) c
/-- The digest of a domain and 64 bytes (R217). -/
def digest (domain : BitVec 16) (bs : List Byte) : BitVec 64 :=
  (natLe domain.toNat 2 ++ bs).foldl crcByte 0

/-- Looks an eligible line up (R217); does nothing for a line with nothing due. -/
def MemSys.twin (m : MemSys) (line : Nat) : MemSys :=
  match m.tag line with
  | none => m
  | some t =>
    if !t.due || t.domain == 0 || m.poison.contains line then m
    else
      let bs := creads m.bytes (line * 64) 64
      let b := tget m.banks (m.bankNo line) {}
      let set (b : Bank) (e : Option Nat) : Bank := b.setTag { t with entry := e, due := false }
      if bs.all (· == 0) then m.onBank line (fun b => set (b.drop t.entry) none)
      else
        let dg := digest t.domain bs
        let cands := b.chain.filter (fun n => (tget b.entries n {}).digest == dg && some n != t.entry)
        let same (n : Nat) : Bool :=
          match b.tags.find? (fun u => u.entry == some n) with
          | some u => u.domain == t.domain && creads m.bytes (u.line * 64) 64 == bs
          | none => false
        let open_ (n : Nat) : Bool := same n && decide ((tget b.entries n {}).count < 255)
        let misses := cands.takeWhile (fun n => !open_ n)
        -- a line that keeps its own entry although a full entry holds its content is one split
        let m := m.onStats t.part (fun x => {
          x with collide := x.collide + BitVec.ofNat 64 (misses.filter (fun n => !same n)).length
                 split := x.split + (if misses.any same && !cands.any open_ then 1 else 0) })
        match cands.find? open_ with
        | some n => m.onBank line (fun b =>
            let x := tget b.entries n {}
            let b := { b with entries := tset b.entries n { x with count := x.count + 1 } }
            set (b.drop t.entry) (some n))
        | none =>
          match t.entry with
          | none => m
          | some n => m.onBank line (fun b => set { b with
              entries := tset b.entries n { tget b.entries n {} with digest := dg, indexed := true }
              chain := b.chain.filter (· != n) ++ [n] } (some n))

/-! ### Reads and writes of physical parts -/

/-- Lines that a part touches, with the bytes of the part in each: line, first byte and count. -/
def linesOf (pa n : Nat) : Nat → List (Nat × Nat × Nat)
  | 0 => []
  | k + 1 =>
    if n = 0 then []
    else
      let m := min n (64 - pa % 64)
      (pa / 64, pa, m) :: linesOf (pa + m) (n - m) k

/-- A memory-side request passes the bank: a copy the bank holds leaves it first (R208). -/
def MemSys.expel (m : MemSys) (line : Nat) : MemSys :=
  if (m.tag line).isSome then m.onBank line (·.evict line) else m
/-- An event of a partition's that its monitors may watch, at some dies (R390). -/
def MemSys.note (m : MemSys) (p : PartId) (source : Nat) (dies : List Nat) : MemSys :=
  if m.watch.contains (p.toNat, source) then { m with events := m.events ++ [(p.toNat, source, dies)] } else m
/-- An access is an event of its partition's (R390): a hit in the bank (0), or a read of HBM4E (1). -/
def MemSys.noteAccess (m : MemSys) (ms : Bool) (line : Nat) (c : Carry) : MemSys :=
  match c.part with
  | none => m
  | some p =>
    let miss := ms || (match m.tag line with | none => true | some t => t.asked)
    if c.again || (miss && (decide (hbmEnd ≤ line * 64) || (ms && c.write))) then m else m.note p (if miss then 1 else 0) [m.die (line * 64)]
/-- An access's line reaches its home; a memory-side request that the bank had forwarded is then performed (R208). -/
def MemSys.reach (m : MemSys) (ms : Bool) (line : Nat) (c : Carry) : MemSys :=
  let m := m.noteAccess ms line c
  if ms then { m.expel line with msOut := m.msOut.filter (· != line) } else m.touch line c

/-- The key a part's page selects (R400): the partition's own, as its number + 1, or the host-shared one. -/
def keyFor (p : Part) (part : PartId) : Option Nat := if p.conf then some (part.toNat + 1) else none
/-- Whether a line, read from memory under a key, fails its MAC (R401), as every line does whose key is erased (R398); a copy on the
chip is plaintext (R400). -/
def MemSys.macBad (m : MemSys) (ms : Bool) (line : Nat) (key : Option Nat) : Bool :=
  (ms || (m.tag line).isNone) && (m.badMac.contains line || tget? m.keyOf line != key || (match key with | some k => m.erased.contains k | none => false))
/-- The first line of a part that fails its MAC. -/
def MemSys.macFail (m : MemSys) (part : PartId) (p : Part) : Option Nat :=
  ((linesOf p.pa.toNat p.n (p.n + 1)).find? (fun l => m.macBad p.ms l.1 (keyFor p part))).map (·.1)

/-- Reads a part at its home. -/
def MemSys.readPart (m : MemSys) (p : Part) (c : Carry) : MemSys × List Byte × Bool :=
  let ls := linesOf p.pa.toNat p.n (p.n + 1)
  (ls.foldl (fun m l => m.reach p.ms l.1 (c.via p)) m, creads m.bytes p.pa.toNat p.n, ls.any (fun l => m.poison.contains l.1))

/-- What a waiter has seen after a write of its line: a poisoned line, or a value that satisfies it (R247). -/
def Waiter.see (w : Waiter) (bytes : Cells) (poison : List Nat) (line : Nat) : Waiter :=
  if w.due.isSome || w.pa.toNat / 64 != line then w
  else if poison.contains line then { w with due := some true }
  else if w.target.toNat ≤ leNat (creads bytes w.pa.toNat 8) then { w with due := some false }
  else w
/-- One write applied at one line's home under a key: version, poison, key and bytes (R189, R212, R364, R400). -/
def MemSys.writeKeyed (m : MemSys) (key : Option Nat) (ms : Bool) (c : Carry) (bad : Bool) (line pa : Nat) (bs : List Byte) : MemSys :=
  -- a part-line write reads the line first, which poisons it where its MAC fails (R401)
  let bad := bad || (decide (bs.length < 64) && m.macBad ms line key)
  let m := m.reach ms line { c with write := true }
  let m := if ms then m else m.bump line
  let bytes := cwrites m.bytes pa bs
  let poison := if bad then insN m.poison line
      else if bs.length = 64 then m.poison.filter (· != line) else m.poison
  { m with
    bytes := bytes
    poison := poison
    waiters := m.waiters.map (·.see bytes poison line)
    keyOf := match key with | some k => tset m.keyOf line k | none => tdel m.keyOf line
    badMac := m.badMac.filter (· != line) }
/-- A write of a part at one line. -/
def MemSys.writeLine (m : MemSys) (p : Part) (c : Carry) (bad : Bool) (line pa : Nat) (bs : List Byte) : MemSys :=
  m.writeKeyed (keyFor p (c.part.getD 0)) p.ms (c.via p) bad line pa bs

/-- Writes a part: one write per line (R212). -/
def MemSys.writePart (m : MemSys) (p : Part) (c : Carry) (bad : Bool) (bs : List Byte) : MemSys :=
  (linesOf p.pa.toNat p.n (p.n + 1)).foldl
    (fun m l => m.writeLine p c bad l.1 l.2.1 ((bs.drop (l.2.1 - p.pa.toNat)).take l.2.2)) m

/-- Reads parts in ascending address order. -/
def MemSys.readParts (m : MemSys) (ps : List Part) (c : Carry) : MemSys × List Byte × Bool :=
  ps.foldl (fun r p => let (m, bs, bad) := r.1.readPart p c; (m, r.2.1 ++ bs, r.2.2 || bad)) (m, [], false)
/-- Writes parts in ascending address order. -/
def MemSys.writeParts (m : MemSys) (ps : List Part) (c : Carry) (bad : Bool) (bs : List Byte) : MemSys :=
  (ps.foldl (fun (r : MemSys × List Byte) p => (r.1.writePart p c bad (r.2.take p.n), r.2.drop p.n)) (m, bs)).1

end Sys2Proof.Machine
end

