-- ==== Sys2Proof/Machine/Translate.lean ====
section
/-! DEFINITION. Translation (R377 to R384), ordering kinds (R197) and footprints (R348): from a virtual address to physical parts. -/

namespace Sys2Proof.Machine

/-! ### Cores, desks, partitions -/

/-- A core. -/
def State.coreAt (s : State) (c : CoreId) : Core := tget s.cores c.toNat {}
/-- Writes a core. -/
def State.setCoreAt (s : State) (c : CoreId) (x : Core) : State := { s with cores := tset s.cores c.toNat x }
/-- A desk of a core. -/
def Core.at (c : Core) (i : DeskId) : Desk := c.desks[i.toNat]'i.isLt
/-- Writes a desk of a core. -/
def Core.put (c : Core) (i : DeskId) (d : Desk) : Core := { c with desks := c.desks.set i.toNat d i.isLt }
/-- A desk. -/
def State.deskAt (s : State) (c : CoreId) (i : DeskId) : Desk := (s.coreAt c).at i
/-- Writes a desk. -/
def State.setDeskAt (s : State) (c : CoreId) (i : DeskId) (d : Desk) : State :=
  s.setCoreAt c ((s.coreAt c).put i d)
/-- The core that moves. -/
def State.c (s : State) : Core := s.coreAt s.core
/-- Writes the core that moves. -/
def State.setC (s : State) (x : Core) : State := s.setCoreAt s.core x
/-- The desk that moves. -/
def State.d (s : State) : Desk := s.deskAt s.core s.desk
/-- Writes the desk that moves. -/
def State.setD (s : State) (d : Desk) : State := s.setDeskAt s.core s.desk d
/-- A partition. -/
def State.partAt (s : State) (p : PartId) : Partition := tget s.parts p.toNat {}
/-- Writes a partition. -/
def State.setPart (s : State) (p : PartId) (x : Partition) : State := { s with parts := tset s.parts p.toNat x }
/-- A launch. -/
def State.launchAt (s : State) (l : Nat) : Launch := tget s.launches l {}
/-- Writes a launch. -/
def State.setLaunch (s : State) (l : Nat) (x : Launch) : State := { s with launches := tset s.launches l x }

/-! ### Walks -/

/-- Access kinds, as XSTAT.ACC codes them (R357). -/
def accRead : BitVec 2 := 0
/-- write -/
def accWrite : BitVec 2 := 1
/-- read-modify-write -/
def accRmw : BitVec 2 := 2
/-- fetch -/
def accFetch : BitVec 2 := 3

/-- A bit of a page table entry. -/
def pteBit (e : Word) (i : Nat) : Bool := e.getLsbD i
/-- FRAME as a physical address. -/
def pteFrame (e : Word) : Nat := e.toNat / 4096 % 2 ^ 40 * 4096
/-- KIND. -/
def pteKind (e : Word) : BitVec 2 := e.extractLsb' 6 2

/-- Whether an entry at a level is malformed (R378 reason 2): C = 1 in a partition that is not confidential is (R400). -/
def pteMalformed (conf : Bool) (e : Word) (level : Nat) : Bool :=
  let leaf := pteBit e 11
  e.extractLsb' 52 11 != 0 || (leaf && decide (3 ≤ level)) || (!leaf && level == 0) ||
  (!leaf && (pteBit e 63 || e.extractLsb' 1 10 != 0)) ||
  (leaf && pteBit e 2 && !pteBit e 1) || (leaf && pteBit e 63 && !conf) ||
  (leaf && level == 2 && e.extractLsb' 12 18 != 0) || (leaf && level == 1 && e.extractLsb' 12 9 != 0)

/-- Whether a leaf permits an access (R378 reason 1). -/
def ptePermits (e : Word) (acc : BitVec 2) : Bool :=
  if acc = accRead then pteBit e 1
  else if acc = accWrite then pteBit e 2
  else if acc = accRmw then pteBit e 1 && pteBit e 2
  else pteBit e 3

/-- A leaf that a walk ends at. -/
structure Leaf where
  /-- the entry -/
  pte : Word
  /-- log2 of the page size -/
  log2 : Nat
  /-- physical addresses of the entries that take A and D (R380, R381) -/
  entries : List Nat
  /-- the entries of levels 4 to 1 on the way: level, address, entry -/
  path : List (Nat × Nat × Word) := []
  deriving DecidableEq, Repr

/-- Why a walk fails (R378): reason and level. -/
structure WalkFail where
  /-- 0 to 4 -/
  reason : Nat
  /-- 0 to 4 -/
  level : Nat
  deriving DecidableEq, Repr

/-- An entry in physical memory. -/
def MemSys.pte (m : MemSys) (a : Nat) : Word := BitVec.ofNat 64 (leNat (creads m.bytes a 8))

/-- Whether the aligned group of sixteen entries around one forms a 64 KiB page (R381). -/
def MemSys.group64 (m : MemSys) (a : Nat) (e : Word) : Bool :=
  let g := a / 128 * 128
  let f := pteFrame e / 65536 * 65536
  (List.range 16).all (fun i =>
    let x := m.pte (g + 8 * i)
    pteBit x 0 && x.extractLsb' 0 12 == e.extractLsb' 0 12 && pteBit x 63 == pteBit e 63 && pteFrame x == f + 4096 * i)

/-- The leaf's own checks (R378 steps 3 and 4). -/
def MemSys.leafCheck (m : MemSys) (e : Word) (level : Nat) (acc : BitVec 2) (l : Leaf) : Except WalkFail Leaf :=
  if !m.inMemory (pteFrame e) then .error ⟨3, level⟩
  else if pteBit e 8 && decide (hbmEnd ≤ pteFrame e) then .error ⟨4, level⟩
  else if !ptePermits e acc then .error ⟨1, level⟩
  else .ok l

/-- The walk from a table at a level (R377, R378), reading entries by `rd`. -/
def MemSys.walkFrom (m : MemSys) (conf : Bool) (rd : Nat → Nat → Word) (va : Nat) (acc : BitVec 2) : Nat → Nat → Except WalkFail Leaf
  | table, level =>
    let a := table + va / 2 ^ (12 + 9 * level) % 512 * 8
    let e := rd level a
    if !pteBit e 0 then .error ⟨0, level⟩
    else if pteMalformed conf e level then .error ⟨2, level⟩
    else if pteBit e 11 then
      if level == 0 && m.group64 a e then
        m.leafCheck e level acc ⟨e, 16, (List.range 16).map (fun i => a / 128 * 128 + 8 * i), []⟩
      else m.leafCheck e level acc ⟨e, 12 + 9 * level, [a], if level = 0 then [] else [(level, a, e)]⟩
    else match level with
      | 0 => .error ⟨2, 0⟩
      | k + 1 => (m.walkFrom conf rd va acc (pteFrame e) k).map (fun l => { l with path := (k + 1, a, e) :: l.path })

/-- A walk from a root (R377, R378). -/
def MemSys.walk (m : MemSys) (conf : Bool) (rd : Nat → Nat → Word) (root va : Word) (acc : BitVec 2) : Except WalkFail Leaf :=
  if va.extractLsb' 57 7 ≠ 0 ∨ !pteBit root 0 then .error ⟨0, 4⟩
  else m.walkFrom conf rd va.toNat acc (pteFrame root) 4
/-- An entry as a walk of a partition reads it: from the die's walk cache, or at its home (R382, R383). -/
def MemSys.readEntry (m : MemSys) (die : BitVec 2) (part : PartId) (level a : Nat) : Word :=
  match (tget m.walks die.toNat []).find? (fun x => x.part == part && x.addr == a && x.level == level) with
  | some x => x.pte
  | none => m.pte a

/-- The walker's OR of A, and of D on a write, at each entry's home: a write under the line's own key (R212, R380). -/
def MemSys.setAD (m : MemSys) (part : PartId) (l : Leaf) (acc : BitVec 2) : MemSys :=
  let bits : Word := if acc = accWrite ∨ acc = accRmw then 0x30 else 0x10
  l.entries.foldl (fun m a =>
    m.writeKeyed (tget? m.keyOf (a / 64)) false { part := some part } false (a / 64) a (natLe (m.pte a ||| bits).toNat 8)) m

/-- Where a page's byte lies. -/
def pageAddr (pte : Word) (log2 : Nat) (va : Word) : Nat :=
  pteFrame pte / 2 ^ log2 * 2 ^ log2 + va.toNat % 2 ^ log2

/-- Leaf fields that a translation uses: all but A and D. -/
def pteUse (e : Word) : Word := e &&& ~~~0x30#64

/-- Who makes an access and through which root. -/
structure Who where
  /-- partition -/
  part : PartId
  /-- root -/
  root : Word
  /-- launch whose footprints bind it, if any -/
  launch : Option Nat
  /-- translations that its command holds (R236, R242, R297, R298) -/
  held : List TlbEntry := []
  /-- it is made for the core's key command of this place, which comes before what the desk issued later (R284) -/
  keys : Option Nat := none
  /-- the hardware makes it, which no desk's order holds back -/
  hw : Bool := false
  /-- from where (R383) -/
  site : Site := .service 0
  /-- a walk under way that it takes the result of (R383) -/
  walk : Option WalkRun := none
  deriving DecidableEq, Repr

/-! ### Translation caches (R383) -/

/-- The TLBs that serve a site, nearest first. -/
def Site.tlbs : Site → List Nat
  | .core c => [c.toNat, 2048 + c.toNat / 16]
  | .matrix c => [1024 + c.toNat, 2048 + c.toNat / 16]
  | .cluster cl => [2048 + cl.toNat]
  | .service _ => []
/-- The die whose translation service walks for it. -/
def Site.die : Site → BitVec 2
  | .core c | .matrix c => BitVec.ofNat 2 (c.toNat / 256)
  | .cluster cl => BitVec.ofNat 2 (cl.toNat / 16)
  | .service d => d
/-- Entries of a TLB. -/
def tlbSize (k : Nat) : Nat := if k < 1024 then 64 else if k < 2048 then 128 else 4096
/-- An entry put into a full cache takes the place of any (log 11). -/
def putCache {α : Type} (size tick : Nat) (x : α) (l : List α) : List α :=
  x :: (if l.length < size then l else l.eraseIdx (Config.pickAt tick 5 % l.length))
/-- A translation put into a TLB, in place of one of the same page. -/
def MemSys.putTlb (m : MemSys) (tick k : Nat) (t : TlbEntry) : MemSys :=
  let l := (tget m.tlbs k []).filter (fun u => !(u.part == t.part && u.root == t.root && u.va == t.va && u.log2 == t.log2))
  { m with tlbs := tset m.tlbs k (putCache (tlbSize k) tick t l) }
/-- Entries of levels 4 to 1 put into a die's walk cache. -/
def MemSys.putWalks (m : MemSys) (tick : Nat) (die : BitVec 2) (ps : List WalkEntry) : MemSys :=
  { m with walks := tset m.walks die.toNat (ps.foldl (fun l p =>
      putCache 512 tick p (l.filter (fun u => !(u.part == p.part && u.addr == p.addr && u.level == p.level)))) (tget m.walks die.toNat [])) }

/-- The level of the leaf of a cached translation. -/
def TlbEntry.level (t : TlbEntry) : Nat := (t.log2 - 12) / 9
/-- Whether a translation that a command holds is of an address, and formed for such an access. -/
def TlbEntry.holds (t : TlbEntry) (va : Word) (acc : BitVec 2) : Bool :=
  va.toNat / 2 ^ t.log2 * 2 ^ t.log2 == t.va && (t.dirty || acc == accRead || acc == accFetch)
/-- Whether a cached translation is of an address, and formed for such an access: one without D serves reads only (R380). -/
def TlbEntry.covers (t : TlbEntry) (w : Who) (va : Word) (acc : BitVec 2) : Bool :=
  t.part == w.part && t.root == w.root && va.toNat / 2 ^ t.log2 * 2 ^ t.log2 == t.va && (t.dirty || acc == accRead || acc == accFetch)
/-- Translation by walk: it sets A, and D on a write, and fills the caches on its way (R380, R383); a failure fills none (R382). -/
def State.walked (s : State) (w : Who) (va : Word) (acc : BitVec 2) : Except WalkFail (State × TlbEntry) :=
  match s.mem.walk (s.partAt w.part).conf (s.mem.readEntry w.site.die w.part) w.root va acc with
  | .error f => .error f
  | .ok l =>
    let wr := acc == accWrite || acc == accRmw
    let t : TlbEntry := ⟨w.part, w.root, va.toNat / 2 ^ l.log2 * 2 ^ l.log2, l.log2, pteUse l.pte, wr || pteBit l.pte 5⟩
    let ps := l.path.map (fun x => (⟨w.part, va.toNat / 2 ^ (12 + 9 * x.1), x.1, x.2.1, pteUse x.2.2⟩ : WalkEntry))
    let m := (s.mem.setAD w.part l acc).putWalks s.tick w.site.die ps
    .ok ({ s with mem := w.site.tlbs.foldl (fun m k => m.putTlb s.tick k t) m }, t)
/-- The first TLB on the way that holds a translation of an access gives it, and those before it take it (R383). -/
def MemSys.tlbHit (m : MemSys) (tick : Nat) (w : Who) (va : Word) (acc : BitVec 2) : List Nat → Option (MemSys × TlbEntry)
  | [] => none
  | k :: ks => match (tget m.tlbs k []).find? (·.covers w va acc) with
    | some t => some (m, t)
    | none => (m.tlbHit tick w va acc ks).map (fun r => (r.1.putTlb tick k r.2, r.2))
/-- Whether a walk under way is of an access's page and kind (R383). -/
def WalkRun.of (r : WalkRun) (w : Who) (va : Word) (acc : BitVec 2) : Bool :=
  r.part == w.part && r.root == w.root && r.page == va.toNat / 4096 && r.acc == acc
/-- What a miss finds: the result of the walk under way that it has joined, or a walk of its own. -/
def State.missed (s : State) (w : Who) (va : Word) (acc : BitVec 2) : Except WalkFail (State × TlbEntry) :=
  match w.walk with
  | some r => if !r.of w va acc then s.walked w va acc
    else match r.found with
      | some t => .ok ({ s with mem := w.site.tlbs.foldl (fun m k => m.putTlb s.tick k t) s.mem }, t)
      | none => .error ⟨r.fail.1, r.fail.2⟩
  | none => s.walked w va acc
/-- A translation (R382, R383): one that the command holds; else one that a TLB on the way holds, be it older than the tables; else what a
walk finds.  A cached leaf without the permission fails as a walk would. -/
def State.xlate (s : State) (w : Who) (va : Word) (acc : BitVec 2) : Except WalkFail (State × TlbEntry) :=
  match w.held.find? (·.holds va acc) with
  | some t => .ok (s, t)
  | none => match s.mem.tlbHit s.tick w va acc w.site.tlbs with
    | some (m, t) => if ptePermits t.pte acc then .ok ({ s with mem := m }, t) else .error ⟨1, t.level⟩
    | none => s.missed w va acc
/-- Any entry of any cache may go at any moment, to make place (R383, log 11). -/
def State.tlbChance (s : State) : State :=
  let cut {α : Type} (t : Table (List α)) : Table (List α) :=
    match t[Config.pickAt s.tick 6 % t.length]? with
    | some k => tset t k.1 (k.2.eraseIdx (Config.pickAt s.tick 7 % k.2.length))
    | none => t
  { s with mem := if Config.choice s.tick then { s.mem with tlbs := cut s.mem.tlbs } else { s.mem with walks := cut s.mem.walks } }

/-- The cause of a walk's failure (R378). -/
def WalkFail.cause (f : WalkFail) : Cause := if f.reason = 0 then 0x040 else if f.reason = 1 then 0x042 else 0x044
/-- TFINFO of a failure (R379). -/
def WalkFail.info (f : WalkFail) (acc : BitVec 2) : BitVec 9 :=
  acc ++ BitVec.ofNat 3 f.level ++ 0#1 ++ BitVec.ofNat 3 f.reason

/-- A desk of a core as the maker of an access (R377, R348): supervisor code is the run-time's own. -/
def State.whoAt (s : State) (c : CoreId) (d : Desk) : Who :=
  let p := s.partAt d.part
  { part := d.part, root := if d.user then p.ptroot else p.sptroot, launch := if d.user then d.launch else none, site := .core c, walk := d.walk }
/-- A desk of the core that moves as the maker of an access. -/
def State.who (s : State) (d : Desk) : Who := s.whoAt s.core d

/-- A physical part from a leaf. -/
def partOf (pte : Word) (log2 : Nat) (va : Word) (n : Nat) : Part :=
  ⟨BitVec.ofNat 52 (pageAddr pte log2 va), n, pteKind pte, pteBit pte 8, pteBit pte 9, pteBit pte 63⟩

/-- Translates `n` bytes page by page, every page before any effect (R189, R201).  A failure gives the address of its first byte
in the access; a page of kind 11 gives 0x041 with the access address. -/
def State.span (s : State) (w : Who) (ea va : Word) (acc : BitVec 2) : Nat → Nat → Except Stop (State × List Part)
  | 0, _ => .ok (s, [])
  | fuel + 1, n =>
    if n = 0 then .ok (s, [])
    else
      let k := min n (4096 - va.toNat % 4096)
      match s.xlate w va acc with
      | .error f => .error (.trap f.cause va acc (some (f.info acc)))
      | .ok (s, t) =>
        if pteKind t.pte = 3#2 then .error (.trap 0x041 ea acc)
        else match s.span w ea (va + BitVec.ofNat 64 k) acc fuel (n - k) with
          | .error e => .error e
          | .ok (s, ps) => .ok (s, partOf t.pte t.log2 va k :: ps)
/-- Translates a range and gives the translations for a command to hold (R236, R242, R298). -/
def State.grip (s : State) (w : Who) (ea va : Word) (acc : BitVec 2) : Nat → Nat → Except Stop (State × List TlbEntry)
  | 0, _ => .ok (s, [])
  | fuel + 1, n =>
    if n = 0 then .ok (s, [])
    else
      let k := min n (4096 - va.toNat % 4096)
      match s.xlate w va acc with
      | .error f => .error (.trap f.cause va acc (some (f.info acc)))
      | .ok (s, t) =>
        if pteKind t.pte = 3#2 then .error (.trap 0x041 ea acc)
        else match s.grip { w with held := t :: w.held } ea (va + BitVec.ofNat 64 k) acc fuel (n - k) with
          | .error e => .error e
          | .ok (s, ts) => .ok (s, t :: ts)

/-! ### Footprints (R348) -/

/-- Whether a region covers an address. -/
def inRegion (base len a : Nat) : Bool := decide (base ≤ a ∧ a < base + len)

/-- Regions of a launch exempt from its footprints, as base and length. -/
def Launch.exempt (l : Launch) : List (Nat × Nat) :=
  l.info.ranges ++
  [(l.args.toNat, l.info.argsLen), (l.record.toNat, 64)] ++
  [(l.info.cntbase.toNat, 32768)] ++
  l.stages.map (fun st => (st.qbase.toNat, if st.qlog2 = 0 then 0 else 64 * 2 ^ st.qlog2))

/-- The ends of the regions that cover an address for reading and for writing, as far as asked. -/
def Launch.coverEnd (l : Launch) (rd wr : Bool) (a : Nat) : Option Nat :=
  let ex := (l.exempt.filter (fun r => inRegion r.1 r.2 a)).map (fun r => r.1 + r.2)
  let far (xs : List Nat) : Option Nat := match xs with | [] => none | x :: t => some (t.foldl max x)
  let r := if rd then far (ex ++ (l.foots.filter (fun f => f.rd && inRegion f.base f.len a)).map (fun f => f.base + f.len))
    else some (2 ^ 64)
  let w := if wr then far (ex ++ (l.foots.filter (fun f => f.wr && inRegion f.base f.len a)).map (fun f => f.base + f.len))
    else some (2 ^ 64)
  match r, w with | some x, some y => some (min x y) | _, _ => none

/-- The lowest byte of a range that the footprints do not cover. -/
def Launch.uncovered (l : Launch) (rd wr : Bool) : Nat → Nat → Nat → Option Nat
  | 0, a, stop => if a < stop then some a else none
  | k + 1, a, stop =>
    if stop ≤ a then none
    else match l.coverEnd rd wr a with
      | none => some a
      | some e => l.uncovered rd wr k (max e (a + 1)) stop

/-- The footprint check of an access (R348). -/
def State.footOk (s : State) (w : Who) (va : Word) (n : Nat) (acc : BitVec 2) : Option Word :=
  match w.launch with
  | none => none
  | some l =>
    let x := s.launchAt l
    (x.uncovered (acc != accWrite) (acc == accWrite || acc == accRmw) (x.exempt.length + x.foots.length + 1) va.toNat (va.toNat + n)).map (BitVec.ofNat 64)

/-- Translation, ordering kind and footprints of an access, in the order of R348. -/
def State.access (s : State) (w : Who) (va : Word) (n : Nat) (acc : BitVec 2) : Except Stop (State × List Part) :=
  match s.span w va va acc (n / 4096 + 2) n with
  | .error e => .error e
  | .ok (s', ps) =>
    match s.footOk w va n acc with
    | some a => .error (.trap 0x181 a acc)
    | none => .ok (s', ps)

/-- The retention slot that an address carries (R224): the lowest active slot whose range holds it. -/
def Partition.slotOf (p : Partition) (va : Word) : Nat :=
  match p.ret.find? (fun r => inRegion r.2.1 r.2.2 va.toNat) with
  | some r => r.1 + 1
  | none => 0
/-- What an access carries to the banks. -/
def State.carry (s : State) (part : PartId) (va : Word) (ef : Bool) : Carry :=
  let p := s.partAt part
  { part := some part, domain := some p.domain, rslot := p.slotOf va, ways := p.ways.getD (p.slotOf va - 1) 0, ef := ef }

/-- The first line of some parts that fails its MAC (R401). -/
def State.macFail (s : State) (part : PartId) (ps : List Part) : Option Nat := ps.findSome? (fun p => s.mem.macFail part p)
/-- Reads bytes at their home. -/
def State.readHome (s : State) (part : PartId) (va : Word) (ps : List Part) (ef : Bool) : State × List Byte × Bool :=
  let (m, bs, bad) := s.mem.readParts ps (s.carry part va ef)
  ({ s with mem := m }, bs, bad)
/-- Reads bytes at their home for an instruction: a line that fails its MAC traps with 0x1E0 (R401). -/
def State.readMac (s : State) (part : PartId) (va : Word) (ps : List Part) (ef : Bool) (acc : BitVec 2) :
    Except Stop (State × List Byte × Bool) :=
  match s.macFail part ps with
  | some l => .error (.mac l va acc)
  | none => .ok (s.readHome part va ps ef)
/-- Writes bytes at their home: one write per line. -/
def State.writeHome (s : State) (part : PartId) (va : Word) (ps : List Part) (ef bad : Bool) (bs : List Byte) : State :=
  { s with mem := s.mem.writeParts ps (s.carry part va ef) bad bs }
/-- The write of a read-modify-write whose read has reached the home (R226). -/
def State.updateHome (s : State) (part : PartId) (va : Word) (ps : List Part) (bad : Bool) (bs : List Byte) : State :=
  { s with mem := s.mem.writeParts ps { s.carry part va false with again := true } bad bs }

end Sys2Proof.Machine
end

