-- ==== Sys2Proof/Machine/Units.lean ====
section
/-! DEFINITION. What the units outside the cores do to memory and scratchpads: the timetable's own accesses, counter adds (R242), an engine's
work on a card (R309 to R313) and a near-memory unit's on an element (R236). -/

namespace Sys2Proof.Machine

/-! ### Accesses of the hardware (R333, R377) -/

/-- The maker of a command's accesses (R377, R348): the root of its mode. -/
def State.whoOf (s : State) (m : Maker) (held : List TlbEntry := []) : Who :=
  let p := s.partAt m.part
  { part := m.part, root := if m.user then p.ptroot else p.sptroot, launch := if m.user then m.launch else none, held := held, site := m.site }
/-- An event of a partition's at some dies, for its monitors (R390). -/
def State.note (s : State) (p : PartId) (source : Nat) (dies : List Nat) : State := { s with mem := s.mem.note p source dies }
/-- The die of a core. -/
def coreDie (c : CoreId) : Nat := c.toNat / 256
/-- The timetable as the maker of accesses for a partition. -/
def State.hwWho (s : State) (part : PartId) : Who := { part := part, root := (s.partAt part).ptroot, launch := none, hw := true }
/-- The timetable as the maker of accesses for a partition's run-time, through SPTROOT. -/
def State.supWho (s : State) (part : PartId) : Who := { part := part, root := (s.partAt part).sptroot, launch := none, hw := true }
/-- A write that the hardware makes for a partition through its translation; an address that cannot be reached takes none. -/
def State.hwWrite (s : State) (part : PartId) (va : Word) (bs : List Byte) : State :=
  match s.span (s.hwWho part) va va accWrite (bs.length / 4096 + 2) bs.length with
  | .error _ => s
  | .ok (s, ps) => s.writeHome part va ps false false bs
/-- A write that a unit makes for a command, through the command's root and the translations that it holds. -/
def State.hwWriteHeld (s : State) (w : Who) (va : Word) (bs : List Byte) : State :=
  match s.span w va va accWrite (bs.length / 4096 + 2) bs.length with
  | .error _ => s
  | .ok (s, ps) => s.writeHome w.part va ps false false bs
/-- A write that the hardware makes for a partition's run-time, through SPTROOT. -/
def State.supWrite (s : State) (part : PartId) (va : Word) (bs : List Byte) (bad : Bool) : State :=
  match s.span (s.supWho part) va va accWrite (bs.length / 4096 + 2) bs.length with
  | .error _ => s
  | .ok (s, ps) => s.writeHome part va ps false bad bs
/-- Context save areas, checkpoints, stop records and input snapshots stand under the partition's key where the partition is confidential
(R340, R388, R403), whatever their page says. -/
def State.sealed (s : State) (part : PartId) (ps : List Part) : List Part :=
  if (s.partAt part).conf then ps.map (fun p => { p with conf := true }) else ps
/-- A write of one of these. -/
def State.areaPut (s : State) (w : Who) (va : Word) (bs : List Byte) (bad : Bool) : State :=
  match s.span w va va accWrite (bs.length / 4096 + 2) bs.length with
  | .error _ => s
  | .ok (s, ps) => s.writeHome w.part va (s.sealed w.part ps) false bad bs
/-- The timetable's write of one, through SPTROOT. -/
def State.ckWrite (s : State) (part : PartId) (va : Word) (bs : List Byte) (bad : Bool) : State := s.areaPut (s.supWho part) va bs bad
/-- A line that failed its MAC is poisoned (R401). -/
def State.spoilAt (s : State) (l : Option Nat) : State := match l with | some l => { s with mem := s.mem.spoil l } | none => s
/-- The same, where it is not poisoned yet. -/
def State.spoilOnce (s : State) (l : Option Nat) : Option State :=
  if l.all (fun l => s.mem.poison.contains l) then none else some (s.spoilAt l)
/-- Why the hardware could not make a read: the address, and a line that failed its MAC. -/
structure HwErr where
  /-- address -/
  va : Word
  /-- line -/
  line : Option Nat := none
/-- A read that the hardware makes for a partition; the error is the address that could not be read (R333), and a line that failed its MAC. -/
def State.hwRead (s : State) (part : PartId) (va : Word) (n : Nat) : Except HwErr (State × List Byte) :=
  match s.span (s.hwWho part) va va accRead (n / 4096 + 2) n with
  | .error (.trap _ x _ _) => .error ⟨x, none⟩
  | .error _ => .error ⟨va, none⟩
  | .ok (s, ps) =>
    match s.macFail part ps with
    | some l => .error ⟨va, some l⟩
    | none =>
      let (s, bs, _) := s.readHome part va ps false
      .ok (s, bs)
/-- A 64-bit value read by the hardware. -/
def State.hwWord (s : State) (part : PartId) (va : Word) : Except HwErr (State × Word) :=
  (s.hwRead part va 8).map (fun r => (r.1, BitVec.ofNat 64 (leNat r.2)))
/-- The sum that a counter takes: it saturates (R242, R246). -/
def counterSum (old n : Nat) : Nat := min (old + n) (2 ^ 64 - 1)
/-- A counter add made at the counter's home, through the translation that its command holds (R242): a poisoned line takes it and stays
poisoned; address 0 names no counter. -/
def State.counterAdd (s : State) (w : Who) (va n : Word) : State :=
  if va = 0 then s
  else match s.span w va va accRmw 2 8 with
    | .error _ => s
    | .ok (s, ps) =>
      let (s, bs, _) := (s.spoilAt (s.macFail w.part ps)).readHome w.part va ps false
      s.updateHome w.part va ps false (natLe (counterSum (leNat bs) n.toNat) 8)

/-! ### Cards -/

/-- A 64-bit field of a 64-byte record. -/
def dword (r : BitVec 512) (off : Nat) : Word := r.extractLsb' (8 * off) 64
/-- A 32-bit field of a 64-byte record. -/
def sword (r : BitVec 512) (off : Nat) : Nat := (r.extractLsb' (8 * off) 32).toNat
/-- 64 bytes as a record. -/
def recOf (bs : List Byte) : BitVec 512 := BitVec.ofNat 512 (leNat bs)
/-- The core that a local-address tuple names (R21). -/
def tupleCore (x : Word) : CoreId := x.extractLsb' 19 10
/-- Its offset. -/
def tupleOff (x : Word) : Nat := (x.extractLsb' 0 19).toNat
/-- Its device. -/
def tupleDevice (x : Word) : BitVec 11 := x.extractLsb' 29 11
/-- A local-address tuple as a card's SRC or DST (R307). -/
def cardTuple (x : Word) : Bool := x.extractLsb' 60 4 == 0xC#4 && x.extractLsb' 40 20 == 0#20
/-- KIND -/
def Card.kind (c : Card) : Nat := (c.raw.extractLsb' 0 8).toNat
/-- DST -/
def cDst (r : BitVec 512) : Word := dword r 24
/-- DLEN -/
def cDlen (r : BitVec 512) : Nat := (dword r 32).toNat
/-- Bytes that the manual leaves open, from a place on. -/
def freeBytes (tick i : Nat) : Nat → List Byte
  | 0 => []
  | n + 1 => Config.freeByte tick i :: freeBytes tick (i + 1) n
/-- EXACT -/
def cExact (r : BitVec 512) : Bool := r.getLsbD 8
/-- COMPRESS -/
def cCompress (r : BitVec 512) : Bool := r.getLsbD 9
/-- SWITCH -/
def cSwitch (r : BitVec 512) : Bool := r.getLsbD 10
/-- COLL -/
def cColl (r : BitVec 512) : Nat := (r.extractLsb' 16 8).toNat
/-- COMBINE -/
def cComb (r : BitVec 512) : Nat := (r.extractLsb' 24 8).toNat
/-- GROUP -/
def cGroup (r : BitVec 512) : BitVec 16 := r.extractLsb' 32 16
/-- SRC -/
def cSrc (r : BitVec 512) : Word := dword r 8
/-- SLEN -/
def cSlen (r : BitVec 512) : Nat := (dword r 16).toNat
/-- AUX0 -/
def cAux0 (r : BitVec 512) : Word := dword r 40
/-- AUX1 -/
def cAux1 (r : BitVec 512) : Word := dword r 48
/-- COUNTER -/
def cCounter (r : BitVec 512) : Word := dword r 56

/-- Elements of a block of a quantising copy's format, and bytes of what one block gives. -/
def cpyqBlock (f : Nat) : Nat × Nat := if f = 7 then (64, 64) else if f = 8 then (128, 64) else if f ≤ 2 then (1, 2) else (1, 1)
/-- Elements of a rotation (R66). -/
def hadN (h : Nat) : Nat := if h = 0 then 1 else 8 * 2 ^ h

/-! ### Scratchpad bytes -/

/-- Bytes of the scratchpad. -/
def Core.padRead (c : Core) (off n : Nat) : List Byte := creads c.pad off n
/-- Whether a run of bytes touches a poisoned 64-byte unit (R364). -/
def Core.padBad (c : Core) (off n : Nat) : Bool := (linesOf off n (n + 1)).any (fun l => c.padPoison.contains l.1)
/-- The lowest poisoned unit that a run of bytes touches. -/
def Core.padBadAt (c : Core) (off n : Nat) : Option Nat :=
  ((linesOf off n (n + 1)).find? (fun l => c.padPoison.contains l.1)).map (·.1)
/-- A 64-byte unit's poison after a write of `n` of its bytes (R146, R364): poisoned data poisons it, a whole clean unit clears it. -/
def markUnit (ps : List Nat) (u n : Nat) (bad : Bool) : List Nat :=
  if bad then insN ps u else if n = 64 then ps.filter (· != u) else ps
/-- Writes bytes to the scratchpad. -/
def Core.padWrite (c : Core) (off : Nat) (bs : List Byte) (bad : Bool) : Core :=
  { c with
    pad := cwrites c.pad off bs
    padPoison := (linesOf off bs.length (bs.length + 1)).foldl (fun ps l => markUnit ps l.1 l.2.2 bad) c.padPoison }

/-! ### The engine's accesses (R309, R312) -/

/-- Why an engine cannot make an access (R312, R401). -/
def engErr (e : Stop) : EngErr :=
  match e with
  | .mac l _ _ => { cause := 0x1E0, line := some l }
  | .trap _ _ _ tf => { cause := 0x140, tf := tf }
  | .wait _ => { cause := 0x140 }
/-- Reads bytes at a card operand; a scratchpad of another device gives a free value. -/
def State.engRead (s : State) (m : Maker) (a : Word) (n : Nat) : Except EngErr (State × List Byte × Bool) :=
  if cardTuple a then
    let c := tupleCore a
    if tupleDevice a == s.device then .ok (s, (s.coreAt c).padRead (tupleOff a) n, (s.coreAt c).padBad (tupleOff a) n)
    else .ok (s, freeBytes s.tick 0 n, false)
  else match s.span (s.whoOf m) a a accRead (n / 4096 + 2) n with
    | .error e => .error (engErr e)
    | .ok (s, ps) => match s.readMac m.part a ps false accRead with
      | .error e => .error (engErr e)
      | .ok r => .ok r
/-- Writes bytes at a card operand; a scratchpad of another device is out of sight. -/
def State.engWrite (s : State) (m : Maker) (a : Word) (bs : List Byte) (bad : Bool) : Except EngErr State :=
  if cardTuple a then
    let c := tupleCore a
    if tupleDevice a == s.device then .ok (s.setCoreAt c ((s.coreAt c).padWrite (tupleOff a) bs bad)) else .ok s
  else match s.span (s.whoOf m) a a accWrite (bs.length / 4096 + 2) bs.length with
    | .error e => .error (engErr e)
    | .ok (s, ps) => .ok (s.writeHome m.part a ps false bad bs)

/-- Bytes up to the next 64-byte boundary of a destination. -/
def toEdge (d : Word) (left : Nat) : Nat := min left (64 - d.toNat % 64)
/-- The aligned 8-byte units of a run of bytes (R311), as offsets from its start with their lengths. -/
def units8 (a : Nat) : Nat → Nat → List (Nat × Nat)
  | 0, _ => []
  | k + 1, n => if n = 0 then [] else
    let c := min n (8 - a % 8)
    (0, c) :: (units8 (a + c) k (n - c)).map (fun u => (u.1 + c, u.2))
/-- Units of a source that are not read yet. -/
def toRead (a : Word) (n : Nat) (buf : List (Nat × List Byte × Bool)) : List (Nat × Nat) :=
  (units8 a.toNat (n + 1) n).filter (fun u => !buf.any (fun b => b.1 == u.1))
/-- An engine reads a unit of its source, in any order, or all of them in one access (R311). -/
def State.engFetch (s : State) (m : Maker) (a : Word) (n : Nat) (buf : List (Nat × List Byte × Bool)) :
    Except EngErr (State × List (Nat × List Byte × Bool)) :=
  let us := toRead a n buf
  if buf.isEmpty && (us.length ≤ 1 || Config.chance s.tick 8) then
    match s.engRead m a n with
    | .error e => .error e
    | .ok (s, bs, bad) => .ok (s, us.map (fun u => (u.1, (bs.drop u.1).take u.2, bad)))
  else match oneOf s.tick 9 us with
    | none => .ok (s, buf)
    | some u => match s.engRead m (a + BitVec.ofNat 64 u.1) u.2 with
      | .error e => .error e
      | .ok (s, bs, bad) => .ok (s, buf ++ [(u.1, bs, bad)])
/-- Bytes read, in place order. -/
def fetched (a : Word) (n : Nat) (buf : List (Nat × List Byte × Bool)) : List Byte :=
  (units8 a.toNat (n + 1) n).flatMap (fun u => match buf.find? (fun b => b.1 == u.1) with | some b => b.2.1 | none => [])
/-- Bytes cut at the 64-byte lines of their destination. -/
def linesFrom (a : Word) (bad : Bool) : Nat → Nat → List Byte → List (Nat × List Byte × Bool)
  | 0, _, _ => []
  | k + 1, off, bs => if bs.isEmpty then [] else
    let c := 64 - (a.toNat + off) % 64
    (off, bs.take c, bad) :: linesFrom a bad k (off + c) (bs.drop c)
/-- What stands at a run of bytes, as far as it can be told. -/
def State.engPeek (s : State) (m : Maker) (a : Word) (n : Nat) : List Byte × Bool :=
  match s.engRead m a n with | .ok (_, bs, bad) => (bs, bad) | .error _ => ([], false)
/-- A piece of a destination prepared: its bytes cut at the lines, with what stands there. -/
def State.outLines (s : State) (m : Maker) (a : Word) (off : Nat) (bad : Bool) (bs : List Byte) : List OutLine :=
  (linesFrom a bad (bs.length + 1) off bs).map (fun x => ⟨x.1, x.2.1, x.2.2, (s.engPeek m (a + BitVec.ofNat 64 x.1) x.2.1.length).1⟩)
/-- What a write of a line leaves: a unit of it that another write has changed since the engine prepared its own may come after it (R311). -/
def OutLine.mixed (o : OutLine) (tick : Nat) (a : Word) (now : List Byte) : List Byte × Bool :=
  let us := (units8 a.toNat (o.bytes.length + 1) o.bytes.length).map (fun u =>
    let part (bs : List Byte) : List Byte := (bs.drop u.1).take u.2
    if !o.was.isEmpty && part now != part o.was && Config.chance tick (16 + u.1) then (part now, true) else (part o.bytes, false))
  (us.flatMap (·.1), us.any (·.2))
/-- An engine writes a piece of its destination line by line, in any order; each line takes one write (R212, R311). -/
def State.engStore (s : State) (m : Maker) (a : Word) (out : List OutLine) : Except EngErr (State × List OutLine) :=
  match oneOf s.tick 10 out.zipIdx with
  | none => .ok (s, out)
  | some (o, i) =>
    let at_ := a + BitVec.ofNat 64 o.off
    let now := s.engPeek m at_ o.bytes.length
    let x := o.mixed s.tick at_ now.1
    (s.engWrite m at_ x.1 (o.bad || (x.2 && now.2))).map (fun s => (s, out.eraseIdx i))
/-- Destination bytes of a card in all, as its progress counts them (a quantising copy counts its elements). -/
def Card.total (c : Card) : Nat :=
  match c.kind with
  | 1 => cSlen c.raw * ((cAux0 c.raw).extractLsb' 0 32).toNat
  | 2 => cSlen c.raw / 4
  | 3 => cDlen c.raw
  | _ => cSlen c.raw
/-- FP32 patterns of bytes. -/
def words32 (bs : List Byte) : List Nat := (List.range (bs.length / 4)).map (fun i => leNat ((bs.drop (4 * i)).take 4))
/-- Bytes of FP32 patterns. -/
def bytes32 (xs : List Nat) : List Byte := xs.flatMap (fun x => natLe x 4)
/-- Elements that one step of a quantising copy takes. -/
def cpyqUnit (f h left : Nat) : Nat := min left (max (cpyqBlock f).1 (if h = 0 then 16 else hadN h))
/-- The output of a quantising copy for some elements (R309): rotated, then converted or packed. -/
def cpyqOut (f h : Nat) (sat : Bool) (xs : List Nat) : List Byte :=
  let ys := if h = 0 then xs else (hadamard (h + 3) xs).1
  let r : Rm := { sat := sat }
  match f with
  | 7 => natLe (sx7.pack (ys.map Fmt.f32.value)).1 64
  | 8 => natLe (sx3.pack (ys.map Fmt.f32.value)).1 64
  | f =>
    let dst : Fmt := if f = 1 then .bf16 else if f = 2 then .f16 else if f = 3 then .e4m3 else .e5m2
    ys.flatMap (fun y => natLe (floatToFloat .f32 dst r y).bits (if f ≤ 2 then 2 else 1))
/-- The shape record of a quantising copy (R67, R309). -/
def shapeRecord (r : BitVec 512) : List Byte :=
  let c := cSlen r / 4
  let f := ((cAux0 r).extractLsb' 0 4).toNat
  let sx := f = 7 ∨ f = 8
  let cols := min c 65536
  let rows := (c + 65535) / 65536
  let lay := (rows - 1) + (cols - 1) * 2 ^ 16 + f * 2 ^ 32 + (if sx then 2 else 0) * 2 ^ 36 + cols * 2 ^ 40
  natLe (cDst r).toNat 8 ++ natLe lay 8 ++ natLe 0 8 ++ natLe ((cAux1 r).extractLsb' 0 2).toNat 8 ++
  natLe (if sx then c / (cpyqBlock f).1 else 0) 8 ++ natLe c 8 ++ natLe 0 16
/-- What a card does next, from its progress on (R309): bytes of the source, at an address, and bytes of the destination, at an address, with
the progress that they make. -/
structure Piece where
  /-- source -/
  src : Word
  /-- its bytes; 0 where zeros are written -/
  n : Nat
  /-- destination -/
  dst : Word
  /-- progress -/
  step : Nat
  /-- what the destination takes -/
  out : List Byte → List Byte
/-- The piece at some progress: a part of a row of a copy or a gather, up to a 64-byte boundary of the destination; a block of a quantising
copy. -/
def Card.pieceAt (c : Card) (b : Nat) : Piece :=
  let r := c.raw
  match c.kind with
  | 2 =>
    let f := ((cAux0 r).extractLsb' 0 4).toNat
    let h := ((cAux1 r).extractLsb' 0 2).toNat
    let n := cpyqUnit f h (c.total - b)
    let (blk, out) := cpyqBlock f
    ⟨cSrc r + BitVec.ofNat 64 (4 * b), 4 * n, cDst r + BitVec.ofNat 64 (b / blk * out), n,
     fun bs => cpyqOut f h ((cAux0 r).getLsbD 4) (words32 bs)⟩
  | 3 =>
    let w := ((cAux1 r).extractLsb' 32 32).toNat
    let dst := cDst r + BitVec.ofNat 64 b
    let n := toEdge dst (w - b % w)
    let x := (c.ix.getD (0, false)).1
    if x = 2 ^ 64 - 1 ∨ cSlen r < (x + 1) * w then ⟨0, 0, dst, n, fun _ => List.replicate n 0⟩
    else ⟨cSrc r + BitVec.ofNat 64 (x * w + b % w), n, dst, n, id⟩
  | k =>
    let l := cSlen r
    let row := if k = 1 then b / l else 0
    let off := b - row * l
    let ss := if k = 1 then ((cAux0 r).extractLsb' 32 32).toNat else 0
    let ds := if k = 1 then (cAux1 r).toNat else 0
    let dst := cDst r + BitVec.ofNat 64 (row * ds + off)
    let n := toEdge dst (l - off)
    ⟨cSrc r + BitVec.ofNat 64 (row * ss + off), n, dst, n, id⟩
/-- The piece under way to be written. -/
def Card.piece (c : Card) : Piece := c.pieceAt c.done
/-- Bytes of a gather's row. -/
def Card.rowBytes (c : Card) : Nat := ((cAux1 c.raw).extractLsb' 32 32).toNat
/-- A gather's row begins: its index is to be read. -/
def Card.atRow (c : Card) : Bool := c.kind == 3 && c.ix.isNone
/-- A card after a write: the lines of its piece that are still to be written; with none the piece makes progress. -/
def Card.wrote (c : Card) (out : List OutLine) : Card :=
  if out.isEmpty then { c with out := c.ahead.headD [], ahead := c.ahead.drop 1, done := c.done + c.piece.step } else { c with out := out }
/-- A card after the last read of a piece: its lines wait to be written. -/
def Card.read (c : Card) (step : Nat) (lines : List OutLine) : Card :=
  let c := if c.out.isEmpty then { c with out := lines } else { c with ahead := c.ahead ++ [lines] }
  { c with buf := [], got := c.got + step, ix := if (c.got + step) % max 1 c.rowBytes = 0 then none else c.ix }
/-- A card reads on (R309, R311): the index of a row, or units of its source. -/
def State.cardRead (s : State) (c : Card) : Except EngErr (State × Card) :=
  let p := c.pieceAt c.got
  if c.atRow then
    match s.engRead c.maker (cAux0 c.raw + BitVec.ofNat 64 (8 * (c.got / c.rowBytes))) 8 with
    | .error e => .error e
    | .ok (s, ix, bad) => .ok (s, { c with ix := some (leNat ix, bad) })
  else if (toRead p.src p.n c.buf).isEmpty then
    let bad := c.buf.any (fun b => b.2.2) || (c.ix.map (fun x => x.2)).getD false
    let bs := p.out (fetched p.src p.n c.buf)
    .ok (s, c.read p.step (s.outLines c.maker p.dst 0 bad bs))
  else (s.engFetch c.maker p.src p.n c.buf).map (fun x => (x.1, { c with buf := x.2 }))
/-- A card goes on (R309, R311): it writes what it has read, or reads ahead of its writes; a piece written makes progress. -/
def State.cardStep (s : State) (c : Card) : Except EngErr (State × Card) :=
  if c.out.isEmpty || (decide (c.got < c.total) && Config.chance s.tick 11) then s.cardRead c
  else (s.engStore c.maker c.piece.dst c.out).map (fun x => (x.1, c.wrote x.2))
/-- An engine has made every read of a card (R194): of a collective's member, of its own source. -/
def Card.readsDone (c : Card) : Bool :=
  c.fail.isSome || c.bind == .no ||
  (if c.kind == 4 then c.paid || (cColl c.raw == 3 && (cAux0 c.raw).toNat != c.rank) || (toRead (cSrc c.raw) (cSlen c.raw) c.buf).isEmpty else c.started && decide (c.total ≤ c.got))
/-- Several steps of a card: the card as it stands, or with the failure it met. -/
def State.cardWork (s : State) : Nat → Card → State × Card
  | 0, c => (s, c)
  | k + 1, c =>
    if c.total ≤ c.done then (s, c)
    else match s.cardStep c with
      | .error e => (s.spoilAt e.line, { c with fail := some e })
      | .ok (s, c) => s.cardWork k c
/-- The lowest byte that a card is to write next. -/
def Card.nextByte (c : Card) : Nat := c.piece.dst.toNat + ((c.out.map (·.off)).min?).getD 0
/-- A card goes on in one line of its destination, up to its end (R313). -/
def State.cardIn (s : State) (line : Nat) : Nat → Card → State
  | 0, _ => s
  | k + 1, c =>
    if (c.out.isEmpty && decide (c.total ≤ c.done)) || c.nextByte / 64 != line then s
    else if c.out.isEmpty then
      match s.cardStep c with
      | .error e => s.spoilAt e.line
      | .ok (s, c) => s.cardIn line k c
    else
      let here (o : OutLine) : Bool := (c.piece.dst.toNat + o.off) / 64 == line
      match s.engStore c.maker c.piece.dst (c.out.filter here) with
      | .error _ => s
      | .ok (s, out) => s.cardIn line k (c.wrote (out ++ c.out.filter (!here ·)))
/-- A started card stops at the next 64-byte boundary of its destination (R313). -/
def State.cardToEdge (s : State) (c : Card) : State :=
  if c.fail.isSome || c.nextByte % 64 == 0 then s else s.cardIn (c.nextByte / 64) 2048 c

/-! ### Records -/

/-- OP -/
def nmOp (r : BitVec 512) : Nat := (r.extractLsb' 0 8).toNat
/-- GFMT -/
def nmG (r : BitVec 512) : Nat := (r.extractLsb' 8 2).toNat
/-- PFMT -/
def nmP (r : BitVec 512) : Nat := (r.extractLsb' 10 2).toNat
/-- COUNT -/
def nmCount (r : BitVec 512) : Nat := (dword r 40).toNat
/-- Bytes of an element of a format 0 FP32, 1 BF16, 2 FP16. -/
def nmBytes (f : Nat) : Nat := if f = 0 then 4 else 2
/-- The format. -/
def nmFmt (f : Nat) : Fmt := if f = 0 then .f32 else if f = 1 then .bf16 else .f16
/-- The arrays that a command uses: address, element size, access (R236). -/
def nmArrays (r : BitVec 512) : List (Word × Nat × BitVec 2) :=
  let p := (dword r 8, nmBytes (nmP r), accRmw)
  let g := (dword r 16, nmBytes (nmG r), accRead)
  let m1 := (dword r 24, 4, accRmw)
  let m2 := (dword r 32, 4, accRmw)
  match nmOp r with
  | 0 => [p, g] | 1 => [p] | 2 => [p, g, m1, m2] | _ => [p, g, m1]
/-- Who accesses memory for a command, with the translations that it holds. -/
def State.heldWho (s : State) (x : NmCmd) : Who := s.whoOf x.maker x.held
/-! ### What a near-memory unit does (R236) -/

/-- R(x + y) on FP32 bits. -/
def rAdd (a b : Nat) : Nat := (Fmt.f32.add rne a b).bits
/-- R(x - y) -/
def rSub (a b : Nat) : Nat := (Fmt.f32.sub rne a b).bits
/-- R(x * y) -/
def rMul (a b : Nat) : Nat := (Fmt.f32.mul rne a b).bits
/-- R(x / y) -/
def rDiv (a b : Nat) : Nat := (Fmt.f32.div rne a b).bits
/-- R of the square root -/
def rSqrt (a : Nat) : Nat := (Fmt.f32.sqrt rne a).bits
/-- 1.0 -/
def one32 : Nat := 0x3F800000
/-- R(1 - b^n), the power exact (R236). -/
def oneMinusPow (b n : Nat) : Nat :=
  match Fmt.f32.value b with
  | .nan _ => Fmt.f32.nan
  | .inf neg => Fmt.f32.signed (!(neg && n % 2 == 1)) Fmt.f32.inf
  | .num neg m e =>
    let p : FVal := .num (neg && n % 2 == 1) (m ^ n) (e * n)
    (Fmt.f32.ofExact rne (exAdd false (.num false 1 0) p.negate)).bits

/-- LR, B1, B2, EPS, WD of the hyper-parameters. -/
def hyLr (h : BitVec 512) : Nat := sword h 0
/-- B1 -/
def hyB1 (h : BitVec 512) : Nat := sword h 4
/-- B2 -/
def hyB2 (h : BitVec 512) : Nat := sword h 8
/-- EPS -/
def hyEps (h : BitVec 512) : Nat := sword h 12
/-- WD -/
def hyWd (h : BitVec 512) : Nat := sword h 16
/-- s: 1 without hyper-parameters. -/
def nmScale (r h : BitVec 512) : Nat := if dword r 48 = 0 then one32 else sword h 20
/-- Add-reduce: P. -/
def nmAddP (s g p : Nat) : Nat := rAdd p (rMul s g)
/-- AdamW: M1. -/
def adamM1 (h : BitVec 512) (s g m1 : Nat) : Nat := rAdd (rMul (hyB1 h) m1) (rMul (rSub one32 (hyB1 h)) (rMul s g))
/-- AdamW: M2. -/
def adamM2 (h : BitVec 512) (s g m2 : Nat) : Nat :=
  rAdd (rMul (hyB2 h) m2) (rMul (rSub one32 (hyB2 h)) (rMul (rMul s g) (rMul s g)))
/-- AdamW: P, from the new M1 and M2 and the step counter as read. -/
def adamP (h : BitVec 512) (t m1 m2 p : Nat) : Nat :=
  let u := rDiv (rDiv m1 (oneMinusPow (hyB1 h) (t + 1))) (rAdd (rSqrt (rDiv m2 (oneMinusPow (hyB2 h) (t + 1)))) (hyEps h))
  rSub p (rMul (hyLr h) (rAdd u (rMul (hyWd h) p)))
/-- SGD-momentum: M1, from the old P. -/
def sgdM1 (h : BitVec 512) (s g p m1 : Nat) : Nat := rAdd (rMul (hyB1 h) m1) (rAdd (rMul s g) (rMul (hyWd h) p))
/-- SGD-momentum: P, from the new M1. -/
def sgdP (h : BitVec 512) (m1 p : Nat) : Nat := rSub p (rMul (hyLr h) m1)

/-- A value of a format as FP32 bits, and back (R236). -/
def widen (f : Nat) (x : Nat) : Nat := (floatToFloat (nmFmt f) .f32 rne x).bits
/-- Rounded to a format. -/
def narrow (f : Nat) (x : Nat) : Nat := (floatToFloat .f32 (nmFmt f) rne x).bits

/-- Reads an element of an array of a command: the error is a line that fails its MAC. -/
def State.nmRead (s : State) (x : NmCmd) (a : Word) (n i : Nat) : Except (Option Nat) (State × Nat × Bool) :=
  let va := a + BitVec.ofNat 64 (n * i)
  match s.span (s.heldWho x) va va accRead 2 n with
  | .error _ => .error none
  | .ok (s, ps) => match s.readMac x.maker.part va ps false accRead with
    | .error (.mac l _ _) => .error (some l)
    | .error _ => .error none
    | .ok (s, bs, bad) => .ok (s, leNat bs, bad)
/-- Writes an element of a command. -/
def State.nmWrite (s : State) (x : NmCmd) (a : Word) (n i v : Nat) (bad : Bool) : State :=
  let va := a + BitVec.ofNat 64 (n * i)
  match s.span (s.heldWho x) va va accRmw 2 n with
  | .error _ => s
  | .ok (s, ps) => s.updateHome x.maker.part va ps bad (natLe v n)
/-- The read and the write of an element at its home are one indivisible operation (R236); poison of the operands passes on (R364).  It
gives what was written. -/
def State.nmRmw (s : State) (x : NmCmd) (a : Word) (n i : Nat) (f : Nat → Nat) (bad : Bool) : Except (Option Nat) (State × Nat × Bool) :=
  match s.nmRead x a n i with
  | .error l => .error l
  | .ok (s, v, b) => .ok (s.nmWrite x a n i (f v) (b || bad), f v, b || bad)

/-- The arrays of a command. -/
inductive NmArr where
  /-- GRAD -/
  | g
  /-- M1 -/
  | m1
  /-- M2 -/
  | m2
  /-- PARAM -/
  | p
  deriving DecidableEq, Repr
/-- The operations that an element may have next: no atomicity spans two arrays, so each is made at its own moment once what it uses is
known (R236).  SGD-momentum's M1 and P use each other's values, and go together (log 130). -/
def nmNext (op : Nat) (o : NmOpen) : List NmArr :=
  if op = 1 then [.p]
  else if o.g.isNone then [.g]
  else if op = 2 then (if o.m1.isNone then [.m1] else []) ++ (if o.m2.isNone then [.m2] else []) ++
    (if o.m1.isSome && o.m2.isSome then [.p] else [])
  else [.p]
/-- PARAM's operation, on FP32 bits: it widens exactly and rounds back (R236). -/
def State.nmParam (s : State) (x : NmCmd) (i : Nat) (f : Nat → Nat) (bad : Bool) : Except (Option Nat) (State × Nat × Bool) :=
  let k := nmP x.raw
  s.nmRmw x (dword x.raw 8) (nmBytes k) i (fun p => narrow k (f (widen k p))) bad
/-- One operation of an element (R236): what is then known of it; none once P is written. -/
def State.nmPiece (s : State) (x : NmCmd) (o : NmOpen) (k : NmArr) : Except (Option Nat) (State × Option NmOpen) :=
  let r := x.raw
  let h := x.hyper
  let sc := nmScale r h
  let g := o.g.getD (0, false)
  match k with
  | .g => (s.nmRead x (dword r 16) (nmBytes (nmG r)) o.el).map (fun y => (y.1, some { o with g := some (widen (nmG r) y.2.1, y.2.2) }))
  | .m1 => (s.nmRmw x (dword r 24) 4 o.el (adamM1 h sc g.1) g.2).map (fun y => (y.1, some { o with m1 := some y.2 }))
  | .m2 => (s.nmRmw x (dword r 32) 4 o.el (adamM2 h sc g.1) g.2).map (fun y => (y.1, some { o with m2 := some y.2 }))
  | .p =>
    match nmOp r with
    | 0 => (s.nmParam x o.el (nmAddP sc g.1) g.2).map (fun y => (y.1, none))
    | 1 => (s.nmParam x o.el (rMul sc) false).map (fun y => (y.1, none))
    | 2 =>
      let m1 := o.m1.getD (0, false)
      let m2 := o.m2.getD (0, false)
      (s.nmParam x o.el (adamP h x.t.toNat m1.1 m2.1) (m1.2 || m2.2)).map (fun y => (y.1, none))
    | _ =>
      match s.nmRead x (dword r 8) (nmBytes (nmP r)) o.el with
      | .error l => .error l
      | .ok (s, p, b) => match s.nmRmw x (dword r 24) 4 o.el (sgdM1 h sc g.1 (widen (nmP r) p)) (g.2 || b) with
        | .error l => .error l
        | .ok (s, m1, b) => (s.nmParam x o.el (sgdP h m1) b).map (fun y => (y.1, none))
/-- An element that has taken a part of its update takes the rest (R339): a command that is cancelled stops at an element boundary. -/
def State.nmFinish (s : State) (x : NmCmd) : Nat → NmOpen → State
  | 0, _ => s
  | k + 1, o =>
    if o.m1.isNone && o.m2.isNone then s
    else match nmNext (nmOp x.raw) o with
      | [] => s
      | a :: _ => match s.nmPiece x o a with
        | .error l => s.spoilAt l
        | .ok (s, none) => s
        | .ok (s, some o) => s.nmFinish x k o

end Sys2Proof.Machine
end

