-- ==== Sys2Proof/Machine/Fail.lean ====
section
/-! DEFINITION. How a launch ends failed or cancelled (R339, R331), and the writes that the timetable makes for it. -/

namespace Sys2Proof.Machine

/-- The state a completion record shows (R339). -/
def LStatus.code : LStatus → Nat
  | .running => 0 | .done => 1 | .cancelled => 2 | .failed => 3

/-- What a completion record says beside its state. -/
structure Outcome64 where
  /-- CAUSE -/
  cause : Cause := 0
  /-- STAGE -/
  stage : Nat := 0
  /-- CORENUM, 0x3FF for none -/
  core : Nat := 0x3FF
  /-- SSCNT -/
  sscnt : Word := 0
  /-- XVAL -/
  xval : Word := 0
  /-- XPC -/
  xpc : Word := 0
  /-- ORIGIN -/
  origin : Word := 0
  deriving DecidableEq, Repr

/-- The bytes of a completion record (R339). -/
def recordBytes (st : LStatus) (o : Outcome64) : List Byte :=
  natLe (st.code + o.cause.toNat * 256 + o.stage % 16 * 2 ^ 20 + o.core % 1024 * 2 ^ 24) 8 ++
  natLe o.sscnt.toNat 8 ++ natLe o.xval.toNat 8 ++ natLe o.xpc.toNat 8 ++ natLe o.origin.toNat 8 ++ natLe 0 24


/-- Any values over a run of bytes that a card names (R312, R313), from a place on. -/
def State.havoc (s : State) (m : Maker) (a : Word) : Nat → Nat → State
  | 0, _ => s
  | k + 1, n =>
    if n = 0 then s
    else
      let c := min n (64 - a.toNat % 64)
      let bs := freeBytes s.tick a.toNat c
      let x := s.coreAt (tupleCore a)
      let t := if !cardTuple a then s.hwWriteHeld (s.whoOf m) a bs
        else if tupleDevice a == s.device then s.setCoreAt (tupleCore a) { x with pad := cwrites x.pad (tupleOff a) bs } else s
      t.havoc m (a + BitVec.ofNat 64 c) k (n - c)
/-- Every byte of a member's destination holds any value (R312, R313). -/
def State.havocCard (s : State) (c : Card) : State := s.havoc c.maker (cDst c.raw) (cDlen c.raw / 64 + 2) (cDlen c.raw)
/-- The engine writes a card's STATUS and adds 1 at its COUNTER (R312). -/
def State.cardDone (s : State) (c : Card) (status : Nat) : State :=
  let w := s.whoOf c.maker c.held
  (s.hwWriteHeld w (c.addr + 6) (natLe status 2)).counterAdd w (c.raw.extractLsb' 448 64) 1
/-- Cards, near-memory commands, messages and saved contexts of a launch end with it: each card completes cancelled with its counter
add, a started one at the next 64-byte boundary of its destination, a collective's with any value there (R313); and each near-memory command,
a running one at an element boundary, still adds 1 at its COUNTER (R339). -/
def State.cancelWork (s : State) (l : Nat) : State :=
  let gone := s.sys.cards.flatMap (fun q => q.2.filter (fun c => c.owner.launch == some l))
  let nms := s.sys.nm.filter (fun c => c.owner.launch == some l)
  let s := { s with sys := { s.sys with
    cards := s.sys.cards.map (fun q => (q.1, q.2.filter (fun c => c.owner.launch != some l)))
    nm := s.sys.nm.filter (fun c => c.owner.launch != some l)
    net := s.sys.net.filter (fun m => m.owner.launch != some l)
    insts := s.sys.insts.filter (fun i => i.launch != l)
    away := s.sys.away.filter (fun a => a.launch != l)
    saved := s.sys.saved.filter (fun x => !x.desks.any (fun d => d.2.launch == some l)) } }
  let s := gone.foldl (fun s c => (if c.kind = 4 then s.havocCard c else if c.started then s.cardToEdge c else s).cardDone c 2) s
  let settle (s : State) (c : NmCmd) : State := match c.st with | .running _ _ us => us.foldl (fun s o => s.nmFinish c 4 o) s | _ => s
  nms.foldl (fun s c => (settle s c).counterAdd (s.whoOf c.maker c.held) (c.raw.extractLsb' 448 64) 1) s

/-- A core leaves its launch: the launch's desks are free and it awaits other work; what its units held for the launch goes, and so do the
messages of its contexts (R323).  Stores and key additions that have retired are still performed. -/
def Core.vacate (c : Core) : Core :=
  { c with
    inq := c.inq.map (fun q => q.filter (fun m => !c.desks.toList.any (fun d => (d.occ || d.quit) && d.launch.isSome && d.ctxid == m.ctx)))
    mail := []
    mx := { next := c.mx.next, nonce := c.mx.nonce, res := c.mx.res }
    bells := []
    key := { adds := c.key.adds }
    tiles := Vector.replicate 64 {}
    desks := c.desks.map (fun d => if d.launch.isSome then { d with occ := false, quit := false, stopped := false, launch := none, gen := none, grant := 0, walk := none, seen := [], pend := none, cw := none, xfers := [], wait := none, latch := none, cast := none, mark := none, tokens := [], gang := .none, fwd := [] } else d)
    work := {} }

/-- The cores of a cluster mask, rising. -/
def clusterCores (c : CoreId) (mask : BitVec 16) : List CoreId :=
  ((List.range 16).filter (fun k => mask.getLsbD k)).map (fun k => BitVec.ofNat 10 (c.toNat / 16 * 16 + k))
/-- The cores whose L1s serve a core: all of a fused cluster, or itself (R157). -/
def State.l1Cores (s : State) (c : CoreId) : List CoreId :=
  let ks := clusterCores c (BitVec.allOnes 16)
  match (s.coreAt c).work.launch with
  | some l => if (s.launchAt l).fuse && ks.all (fun k => (s.coreAt k).work.launch == some l) then ks else [c]
  | none => [c]
/-- A core of a fused cluster leaves its launch: the 16 L1s are flash-invalidated (R157). -/
def State.unfuse (s : State) (c : CoreId) : State :=
  let ks := s.l1Cores c
  if ks.length ≤ 1 then s else ks.foldl (fun s k => s.setCoreAt k { s.coreAt k with l1 := [] }) s
/-- Every core of a launch stops at its instruction boundary and is given up (R339), a fused one with its L1s (R157). -/
def State.releaseCores (s : State) (l : Nat) : State :=
  let s := (s.cores.filter (fun x => x.2.work.launch == some l)).foldl (fun s x => s.unfuse (BitVec.ofNat 10 x.1)) s
  { s with
    cores := s.cores.map (fun x => if x.2.work.launch == some l then (x.1, x.2.vacate) else x)
    mem := { s.mem with waiters := s.mem.waiters.filter (fun w => (s.coreAt w.core).work.launch != some l) } }

/-- One launch ends with a record and its completion count (R339, R347). -/
def State.endLaunch (s : State) (l : Nat) (st : LStatus) (o : Outcome64) : State :=
  let x := s.launchAt l
  if x.status != .running then s
  else
    let s := (s.releaseCores l).cancelWork l
    let s := s.setLaunch l { x with status := st, frozen := true, cause := o.cause, origin := o.origin }
    let s := s.hwWrite x.part x.record (recordBytes st o)
    s.counterAdd (s.hwWho x.part) x.donecnt 1

/-- The launches that an error token reaches at once: children, and launches of the same SPAN (R339). -/
def State.tokenReach (s : State) (l : Nat) : List Nat :=
  let x := s.launchAt l
  (s.launches.filter (fun y => y.2.status == .running && (y.2.parent == some l ||
    (x.span != 0 && y.2.span == x.span && y.2.part == x.part && y.1 != l)))).map (·.1)

/-- Passes an error token along children and spans. -/
def State.passToken : Nat → List Nat → Outcome64 → State → State
  | 0, _, _, s => s
  | _ + 1, [], _, s => s
  | k + 1, l :: ls, o, s =>
    let next := s.tokenReach l
    let s := s.endLaunch l .cancelled o
    State.passToken k (ls ++ next) o s

/-- A launch fails (R339): it is frozen, its record and count are written, an error token passes along the task graph, and the
management controller logs the fault (R355, R404). -/
def State.failLaunch (s : State) (l : Nat) (o : Outcome64) : State :=
  let x := s.launchAt l
  if x.status != .running then s
  else
    let o := { o with origin := x.record }
    let e : LogEntry := { kind := (if o.cause == 0x1C5#9 then .doubleTrap else .fault), part := x.part, cause := o.cause, sscnt := o.sscnt,
                          core := o.core, xval := o.xval, xpc := o.xpc, at_ := Config.clkAt s.tick }
    let s := { s with sys := { s.sys with log := s.sys.log ++ [e] } }
    let next := s.tokenReach l
    let s := s.endLaunch l .failed o
    State.passToken (2 * s.launches.length + 2) next { o with xval := o.xval } s

/-- The management controller logs a double trap of a desk that belongs to no launch (R355). -/
def State.logDouble (s : State) (p : PartId) (sscnt xval xpc : Word) : State :=
  let e : LogEntry := { kind := .doubleTrap, part := p, cause := 0x1C5, sscnt := sscnt, core := s.core.toNat, xval := xval, xpc := xpc, at_ := Config.clkAt s.tick }
  { s with sys := { s.sys with log := s.sys.log ++ [e] } }

end Sys2Proof.Machine
end

