-- ==== Sys2Proof/Machine/Ops.lean ====
section
/-! DEFINITION. What every instruction shares: taking a trap and returning from one (R353, R355, R360), retirement with its loop
checks (R95 to R97), waiting, and lifting the work of one desk or one core to the module. -/

namespace Sys2Proof.Machine

/-! ### Run-ahead generations (R104, R105) -/

/-- What a run-ahead path may change, as it stands. -/
def Desk.shadow (d : Desk) : Shadow :=
  ⟨if d.user then d.gu else d.gs, if d.user then d.gup else d.gsp, d.v, d.vp, d.p, d.lc, d.pc, d.icnt, d.fflags, d.srseed, d.rep, d.len, d.dict, d.xword, d.grant⟩
/-- The desk with that put in place. -/
def Desk.wear (d : Desk) (x : Shadow) : Desk :=
  let d := { d with
    v := x.v, vp := x.vp, p := x.p, lc := x.lc, pc := x.pc, icnt := x.icnt, fflags := x.fflags, srseed := x.srseed
    rep := x.rep, len := x.len, dict := x.dict, xword := x.xword, grant := x.grant }
  if d.user then { d with gu := x.g, gup := x.gp } else { d with gs := x.g, gsp := x.gp }
/-- The stochastic seed of work already issued (R57, R168): a run-ahead path does not move it. -/
def Desk.seed (d : Desk) : Word := match d.gen with | some g => g.was.srseed | none => d.srseed
/-- That seed drawn from: it stands whatever becomes of a run-ahead path. -/
def Desk.setSeed (d : Desk) (x : Word) : Desk :=
  { d with srseed := x, gen := d.gen.map (fun g => { g with was := { g.was with srseed := x } }) }
/-- A run-ahead generation begins: what it may change is kept aside. -/
def Desk.openGen (d : Desk) (k : GenKind) : Desk := { d with gen := some { kind := k, was := d.shadow }, grant := 0 }
/-- A path past an instruction that waits to push (R411): what runs there shows only whether the port gets room, and runs again in its
place (log 112). -/
def Desk.exploring (d : Desk) : Bool :=
  match d.gen.map (fun g => g.kind) with
  | some (GenKind.behind _ _) => true
  | _ => false
/-- Tagged entries and loads go, and the entries that a generation popped are given back (R105). -/
def Desk.unpop (d : Desk) (g : Gen) : Desk :=
  { d with
    q := Vector.zipWith (fun a b => a ++ b.filter (fun e => !e.tent)) g.popQ d.q
    vq := Vector.zipWith (fun a b => a ++ b.filter (fun e => !e.tent)) g.popV d.vq
    pend := match d.pend with | some x => if x.tent then none else some x | none => none
    latch := none }
/-- What runs ahead is discarded: the desk stands where the generation began, a follower with the words again that its path has executed. -/
def Desk.discardGen (d : Desk) : Desk :=
  match d.gen with
  | some g => { (d.unpop g).wear g.was with gen := none, fwd := g.taken ++ d.fwd }
  | none => d
/-- A generation is confirmed: its shadows stand and its entries are confirmed in place. -/
def Desk.confirmGen (d : Desk) : Desk :=
  { d with
    q := d.q.map (fun l => l.map (fun e => { e with tent := false }))
    vq := d.vq.map (fun l => l.map (fun e => { e with tent := false }))
    pend := d.pend.map (fun x => { x with tent := false })
    gen := none }

/-! ### Traps -/

/-- An asynchronous report joins those that wait for the desk's next boundary (R356). -/
def Desk.report (d : Desk) (c : Cause) (x : Word) (tf : Option (BitVec 9) := none) (card : Bool := false) (acc : BitVec 2 := 0) :
    Desk :=
  { d with reports := d.reports ++ [⟨c, x, tf, card, acc⟩] }
/-- A recorded fault as such a report. -/
def Desk.reportOf (d : Desk) (f : Recorded) : Desk := d.report f.cause f.xval f.tf false f.acc

/-- XSTAT.UH -/
def xUH (x : BitVec 13) : Bool := x.getLsbD 8
/-- XSTAT.PUH -/
def xPUH (x : BitVec 13) : Bool := x.getLsbD 9
/-- XSTAT.ASYNC -/
def xASYNC (x : BitVec 13) : Bool := x.getLsbD 10
/-- XSTAT.SHORT -/
def xSHORT (x : BitVec 13) : Bool := x.getLsbD 1
/-- XSTAT from its fields (R357). -/
def mkXstat (acc : BitVec 2) (async puh uh short dict : Bool) : BitVec 13 :=
  acc ++ BitVec.ofBool async ++ BitVec.ofBool puh ++ BitVec.ofBool uh ++ 0#6 ++ BitVec.ofBool short ++ BitVec.ofBool dict

/-- The causes below name no memory access, so that XSTAT.ACC is 0 for them (R357). -/
def accOf (c : Cause) (acc : BitVec 2) : BitVec 2 := if 0x040 ≤ c.toNat ∧ c.toNat < 0x080 then acc else 0

/-- Trap entry of a desk that is not in supervisor mode (R353). -/
def Desk.enter (d : Desk) (c : Cause) (x : Word) (acc : BitVec 2) (async : Bool) : Desk :=
  let short := !async && d.len == 2
  let dict := !async && d.dict
  if decide (0x1F0 ≤ c.toNat) && d.xvec != 0 && !xUH d.xstat && !async then
    { d with xcause := c, xval := x, xpc := d.pc.setWidth 57, xstat := mkXstat 0 false false true short dict,
             pc := d.xvec.setWidth 64, latch := none, wait := none, jump := none, cast := none, mark := none }
  else
    let p := xUH d.xstat
    let d := if p then { d with ucause := d.xcause, uval := d.xval, upc := d.xpc, ustat := d.xstat } else d
    { d with xcause := c, xval := x, xpc := d.pc.setWidth 57, xstat := mkXstat (accOf c acc) async p false short dict,
             user := false, pc := d.svec.setWidth 64, latch := none, wait := none, jump := none, cast := none, mark := none }

/-- Takes a trap on the desk that moves (R353): a run-ahead generation is discarded first (R105); a trap in supervisor mode stops
the desk and fails the launch (R355). -/
def State.takeTrap (s : State) (c : Cause) (x : Word) (acc : BitVec 2) (tf : Option (BitVec 9)) (async : Bool) : State :=
  let d := s.d.discardGen
  let d := { d with tfinfo := tf.getD d.tfinfo, grant := 0, walk := none, seen := [] }
  if d.user then s.setD (d.enter c x acc async)
  else
    let s := s.setD { d with stopped := true, wait := none }
    -- the run-time's desk whose own context is saved away stands for the launch of its core
    match d.launch <|> s.c.work.launch with
    | none => s.logDouble d.part d.sscnt (c.setWidth 64) d.pc
    | some l => s.failLaunch l
        { cause := 0x1C5, stage := d.stage.toNat, core := s.core.toNat, sscnt := d.sscnt, xval := c.setWidth 64, xpc := d.pc }

/-- Return from a trap (R360), once its own checks have passed: the desk at the saved PC, with the mode and the trap registers
that the entry put aside. -/
def Desk.xret (d : Desk) (skip : Bool) : Desk :=
  let t : Word := d.xpc.setWidth 64 + (if skip && !xASYNC d.xstat then (if xSHORT d.xstat then 2 else 4) else 0)
  let d :=
    if d.user then { d with xstat := d.xstat &&& ~~~0x100#13 }
    else
      let d' := { d with user := true }
      if xPUH d.xstat then { d' with xcause := d.ucause, xval := d.uval, xpc := d.upc, xstat := d.ustat } else d'
  { d with jump := some (t, false) }

/-! ### Retirement -/

/-- A loop's end check at a fall-through address (R95): the loop and, where it goes round, the address of its start. -/
def Loop.check (l : Loop) (pc next : Word) : Loop × Option Word × Bool :=
  if l.active && l.stop == next && decide (l.start.toNat ≤ pc.toNat) && decide (pc.toNat < l.stop.toNat) then
    if l.count.toNat ≤ 1 then ({ l with count := 0, active := false }, none, true)
    else ({ l with count := l.count - 1 }, some l.start, true)
  else (l, none, false)
/-- A transfer to `t` from `pc` as a loop sees it (R96): from inside the body to outside it, the loop ends with its count at 0. -/
def Loop.leave (l : Loop) (pc t : Word) : Loop :=
  let inside (a : Word) : Bool := decide (l.start.toNat ≤ a.toNat) && decide (a.toNat < l.stop.toNat)
  if l.active && inside pc && !inside t then { l with count := 0, active := false } else l

/-- Falls through to `next` (R95, R97): the inner loop's check runs first, the outer's only when the inner exits.  The inner loop
is the one that starts later. -/
def Desk.fall (d : Desk) (next : Word) : Desk :=
  let l0 := d.lc[0]
  let l1 := d.lc[1]
  let inner1 := decide (l0.start.toNat ≤ l1.start.toNat)
  let (i, o) := if inner1 then (l1, l0) else (l0, l1)
  let (i', ti, _) := i.check d.pc next
  let (o', tOut, _) := if ti.isSome then (o, none, false) else o.check d.pc next
  let lc := if inner1 then #v[o', i'] else #v[i', o']
  { d with lc := lc, pc := ti.getD (tOut.getD next) }

/-- Where a desk goes after the instruction that it has completed (R29, R95, R96). -/
def Desk.advance (d : Desk) : Desk :=
  match d.jump with
  | none => d.fall (d.pc + BitVec.ofNat 64 d.len)
  | some (t, call) =>
    let d := if call then d else { d with lc := d.lc.map (fun l => l.leave d.pc t) }
    { d with pc := t, jump := none }

/-- A desk that runs its kernel's own stream: user mode, and no user handler (R111, R352). -/
def Desk.inStream (d : Desk) : Bool := d.user && !xUH d.xstat

/-- The instruction that issues completes: ICNT counts it in user mode (R363), and the desk goes on (R95). -/
def Desk.retire (d : Desk) : Desk :=
  { d.advance with
    wait := none, latch := none, cast := none, mark := none, walk := none, seen := [], grant := 0, sent := if d.inStream then false else d.sent
    icnt := if d.user then d.icnt + 1 else d.icnt }

/-- The word that a leader forwards (R111): its resolved 32-bit word or its halfword. -/
def Desk.fwdWord (d : Desk) : BitVec 32 × Bool :=
  if d.dict then (d.xword.extractLsb' 16 32, false)
  else if d.len = 2 then (d.xword.extractLsb' 0 32, true)
  else (d.xword.extractLsb' 0 32, false)

/-- Cores of the gang that a core leads, in cluster order, itself left out. -/
def gangCores (c : CoreId) (n : Nat) : List CoreId := (List.range (n - 1)).map (fun i => c + BitVec.ofNat 10 (i + 1))

/-- Puts a forwarded word into every attached follower's queue (R18, R111). -/
def State.forward (s : State) (c : CoreId) (n : Nat) (f : Fwd) : State :=
  (gangCores c n).foldl (fun s k =>
    let d := s.deskAt k 0
    if d.gang = .follower c then s.setDeskAt k 0 { d with fwd := d.fwd ++ [f] } else s) s

/-- Whether a leader's forwarding queue to some follower has no room for `more` words before one more (R18). -/
def State.forwardFull (s : State) (c : CoreId) (n more : Nat) : Bool :=
  (gangCores c n).any (fun k => let d := s.deskAt k 0; decide (d.gang = .follower c) && decide (32 ≤ d.fwd.length + more))

/-- Records a stop of a launch under debug (R387). -/
def State.recordStop (s : State) (d : Desk) (kind : BitVec 2) (n : BitVec 5) : State :=
  match d.launch with
  | none => s
  | some l =>
    let x := s.launchAt l
    if !x.debug then s
    else
      let st : DbgStop := match x.stop with
        | some y => { y with asked := y.asked ++ [(d.stage.toNat, d.exch)], merged := y.merged + 1 }
        | none => ⟨kind, n, [(d.stage.toNat, d.exch)], s.core, d.pc, 1, none, false⟩
      s.setLaunch l { x with stop := some st }

/-- Whether a desk's instruction stands at a breakpoint's address (R387). -/
def Desk.atBreak (d : Desk) : Bool := d.user && d.bp.toList.any (fun b => b.getLsbD 0 && b.extractLsb' 1 56 == d.pc.extractLsb' 1 56)
/-- A user-mode instruction at a breakpoint's address retires: its stop is recorded (R387), on a run-ahead path once that is confirmed. -/
def State.breakAt (s : State) (d : Desk) : State :=
  if d.atBreak && d.gen.isNone then s.recordStop d 1 0 else s

/-- The same for an instruction of another desk that retires with the one that moves (R387). -/
def State.breakOf (s : State) (c : CoreId) (i : DeskId) : State :=
  { ({ s with core := c, desk := i }).breakAt (s.deskAt c i) with core := s.core, desk := s.desk }

/-- System instructions (majors 0x3C to 0x3E) are not forwarded (R111). -/
def systemWord (w : BitVec 32) : Bool := decide (0x3C ≤ w.toNat / 2 % 64 ∧ w.toNat / 2 % 64 ≤ 0x3E)
/-- Whether a leader forwards the instruction that it executes (R111): one of its kernel's own stream, not forwarded yet. -/
def Desk.forwards (d : Desk) : Bool := d.inStream && !d.sent && !d.exploring && (d.fwdWord.2 || !systemWord d.fwdWord.1)
/-- What it forwards. -/
def Desk.fwdOf (d : Desk) : Fwd := ⟨d.fwdWord.1, d.fwdWord.2, d.pc, d.len, d.dict, d.xword, d.jump.isSome⟩

/-- What a run-ahead path keeps of an instruction that retires on it: the word that a leader will forward, that a follower has taken, and
a breakpoint passed. -/
def Gen.retired (g : Gen) (d : Desk) : Gen :=
  { g with
    sent := match d.gang with | .leader _ => if d.forwards then g.sent ++ [d.fwdOf] else g.sent | _ => g.sent
    taken := match d.gang with | .follower _ => if d.inStream then g.taken ++ d.fwd.take 1 else g.taken | _ => g.taken
    breaks := if d.atBreak then g.breaks ++ [d.pc] else g.breaks }

/-- Retirement of the instruction of the desk that moves: debug breakpoints (R387), forwarding by a gang leader (R111), a
follower's queue, and the desk itself.  On a run-ahead path forwarding and breakpoints wait until it is confirmed; words of a path that
is discarded are never forwarded (DEDUCED, log 18). -/
def State.retire (s : State) : State :=
  let d := { s.d with gen := s.d.gen.map (·.retired s.d) }
  let s := s.breakAt d
  match d.gang with
  | .leader n =>
    let s := if d.forwards && d.gen.isNone then s.forward s.core n d.fwdOf else s
    s.setD d.retire
  | .follower _ => s.setD (if d.inStream then { d.retire with fwd := d.fwd.drop 1 } else d.retire)
  | _ => s.setD d.retire

/-- The desk that moves waits (R37 step 1 and the waits of the classes): nothing else changes, and its instruction issues again. -/
def State.hold (s : State) (w : Wait) : State := s.setD { s.d with wait := some w }

/-- The off-core references that a desk may wait at without a load under way (R15): IDLE, MRECV on an empty queue, BELL, and those that
are still to be performed. -/
def Desk.away15 (d : Desk) : Bool := d.wait == some .idle || d.wait == some .mrecv || d.wait == some .bell || d.wait == some .reference
/-- A desk is ready: occupied, not stopped, its off-core reference returned (R15). -/
def Desk.ready (d : Desk) : Bool := d.occ && !d.stopped && !d.parked && d.pend.isNone && d.cw.isNone && !d.away15
/-- A core whose desk 0 is a member of a gang issues from desk 0 alone (R18, R114). -/
def Core.ganged (c : Core) : Bool :=
  match (c.at 0).gang with | .leader _ | .follower _ | .detached _ => true | _ => false
/-- The next ready desk in ring order after one, if any (R15, R16). -/
def Core.nextReady (c : Core) (i : DeskId) : Option DeskId :=
  [i + 1, i + 2, i + 3, i].find? (fun j => (c.at j).ready && (!c.ganged || j == 0))
/-- A core idles: no desk of it is ready, and its current one is not (R16). -/
def State.idle (s : State) (c : CoreId) : Bool := let x := s.coreAt c; !(x.at x.desk).ready
/-- A desk has become ready: a core that idled until then resumes it (R16). -/
def State.wakes (s : State) (idle : Bool) (c : CoreId) (i : DeskId) : State :=
  let x := s.coreAt c
  if idle && (x.at i).ready && (!x.ganged || i == 0) then s.setCoreAt c { x with desk := i } else s
/-- The switch that follows an off-core reference (R15). -/
def State.switchDesk (s : State) : State :=
  let c := s.c
  match c.nextReady s.desk with
  | some j => s.setC { c with desk := j }
  | none => s

/-- A leader in its kernel's stream whose forwarding queue has no room waits before anything else (R18); the words of a run-ahead path
that are to be forwarded count. -/
def State.leaderFull (s : State) : Bool :=
  match s.d.gang with
  | .leader n => s.d.inStream && !s.d.exploring && s.forwardFull s.core n (match s.d.gen with | some g => g.sent.length | none => 0)
  | _ => false

/-- An instruction does not complete: it traps, with the line that failed its MAC poisoned (R401), or waits, as an off-core reference with
a switch (R15).  On a run-ahead path it is held until the path is resolved (R104). -/
def State.stopWith (s : State) (e : Stop) : State :=
  match e with
  | .wait .reference => (s.hold .reference).switchDesk
  | .wait w => s.hold w
  | .trap c x acc tf => if s.d.gen.isSome then s.hold .held else s.takeTrap c x acc tf false
  | .mac l x acc =>
    if s.d.gen.isSome then s.hold .held
    else ({ s with mem := s.mem.spoil l }).takeTrap 0x1E0 x acc none false

/-- Ends an instruction: it completes and retires, or it traps, or it waits.  On a run-ahead path an instruction that would trap is
held until the path is resolved (R104); a leader whose forwarding queue is full waits before anything else (R18). -/
def finish (f : State → Except Stop State) (s : State) : Host.Outcome State Fault Refusal :=
  if s.leaderFull then .next (s.hold .forward)
  else match f s with
  | .ok t => .next t.retire
  | .error e => .next (s.stopWith e)

/-- Ends an instruction that may wait with something done already: its own state then stands while it waits. -/
def finishHold (f : State → Except Stop (State × Option Wait)) (s : State) : Host.Outcome State Fault Refusal :=
  if s.leaderFull then .next (s.hold .forward)
  else match f s with
  | .ok (t, none) => .next t.retire
  | .ok (t, some w) => .next (t.hold w)
  | .error e => .next (s.stopWith e)

/-- Work of the desk that moves. -/
def onDesk (f : Desk → Except Stop Desk) (s : State) : Except Stop State :=
  match f s.d with | .ok d => .ok (s.setD d) | .error e => .error e
/-- Work of the core that moves, on one of its desks. -/
def onCore (f : Core → DeskId → Except Stop Core) (s : State) : Except Stop State :=
  match f s.c s.desk with | .ok c => .ok (s.setC c) | .error e => .error e
/-- An event that is not an instruction: it answers the state it leads to, or leaves all as it is where its condition does not
hold. -/
def event (f : State → Option State) (s : State) : Host.Outcome State Fault Refusal := .next ((f s).getD s)

/-- An instruction that a run-ahead path holds at issue (R104). -/
def heldBack (f : State → Except Stop State) (s : State) : Except Stop State :=
  if s.d.gen.isSome then .error (.wait .held) else f s
/-- Whether the execute stream may issue: on no run-ahead path but one past an access-stream push that waits (R100, R104). -/
def Desk.executes (d : Desk) : Bool :=
  match d.gen.map (fun g => g.kind) with
  | none | some (GenKind.behind _ false) => true
  | _ => false
/-- The flow of the program, which a path of the execute stream follows on shadow copies, is held on any other (R104). -/
def heldFlow (f : State → Except Stop State) (s : State) : Except Stop State :=
  if s.d.executes then f s else .error (.wait .held)
/-- A privileged instruction (R359): in user mode it traps with 0x003 and XVAL the word. -/
def privileged (f : State → Except Stop State) (s : State) : Except Stop State :=
  if s.d.user then .error (.trap 0x003 s.d.xword) else f s

end Sys2Proof.Machine
end

