-- ==== Sys2Proof/Machine/Operands.lean ====
section
/-! DEFINITION. Operand forms (R36 to R39): g and v registers, queue ports, predicates and guards, with the limits of R49 and the
poison of R365. -/

namespace Sys2Proof.Machine

/-! ### Registers -/

/-- The g file of the mode (R352). -/
def Desk.file (d : Desk) : Vector Word 32 := if d.user then d.gu else d.gs
/-- The poison of that file. -/
def Desk.filePoison (d : Desk) : BitVec 32 := if d.user then d.gup else d.gsp
/-- A g register; g0 reads zero (R36). -/
def Desk.getG (d : Desk) (r : GReg) : Word := if r = 0#5 then 0 else d.file[r.toNat]'r.isLt
/-- Its poison. -/
def Desk.poisonG (d : Desk) (r : GReg) : Bool := r != 0#5 && d.filePoison.getLsbD r.toNat
/-- A bit of a mask set or cleared. -/
def setBit {n : Nat} (m : BitVec n) (i : Nat) (b : Bool) : BitVec n :=
  if b then m ||| (1#n <<< i) else m &&& ~~~(1#n <<< i)
/-- Writes a g register with its poison; a write to g0 is discarded (R36). -/
def Desk.setG (d : Desk) (r : GReg) (x : Word) (bad : Bool) : Desk :=
  if r = 0#5 then d
  else if d.user then { d with gu := d.gu.set r.toNat x r.isLt, gup := setBit d.gup r.toNat bad }
  else { d with gs := d.gs.set r.toNat x r.isLt, gsp := setBit d.gsp r.toNat bad }
/-- A v register (R116). -/
def Desk.getV (d : Desk) (r : GReg) : Vec := d.v[r.toNat]'r.isLt
/-- Its poison. -/
def Desk.poisonV (d : Desk) (r : GReg) : Bool := d.vp.getLsbD r.toNat
/-- Writes a v register with its poison. -/
def Desk.setV (d : Desk) (r : GReg) (x : Vec) (bad : Bool) : Desk :=
  { d with v := d.v.set r.toNat x r.isLt, vp := setBit d.vp r.toNat bad }
/-- A predicate; p0 reads all ones (R91). -/
def Desk.getP (d : Desk) (p : PReg) : Word := if p = 0#3 then BitVec.allOnes 64 else d.p[p.toNat]'p.isLt
/-- Writes a predicate. -/
def Desk.setP (d : Desk) (p : PReg) (x : Word) : Desk := { d with p := d.p.set p.toNat x p.isLt }

/-! ### Guards (R39, R117) -/

/-- Sel(g, e): whether a guard code selects element `e`. -/
def Desk.sel (d : Desk) (g : Guard) (e : Nat) : Bool :=
  let p := d.getP (g.extractLsb' 0 3)
  if g.getLsbD 3 then !p.getLsbD e else p.getLsbD e
/-- The guard of a scalar instruction: bit 0 of its predicate. -/
def Desk.guard (d : Desk) (g : Guard) : Bool := d.sel g 0

/-! ### Ports and limits (R37, R49) -/

/-- Whether a field's number names a queue port. -/
def Desk.isPort (d : Desk) (r : GReg) : Bool := d.kern.queues && decide (28 ≤ r.toNat)
/-- The port of a number 28 to 31, as 0 to 3. -/
def portIx (r : GReg) : BitVec 2 := r.setWidth 2
/-- The limit of a g number (R49), in user mode only (R352). -/
def Desk.limG (d : Desk) (r : GReg) : Except Stop Unit :=
  if d.user && !d.isPort r && decide (d.kern.gregs ≤ r.toNat) then .error (.trap 0x006 (r.setWidth 64)) else .ok ()
/-- The limit of a v number (R49). -/
def Desk.limV (d : Desk) (r : GReg) : Except Stop Unit :=
  if d.user && !d.isPort r && decide (d.kern.vregs ≤ r.toNat) then .error (.trap 0x006 (0x100#64 ||| r.setWidth 64)) else .ok ()
/-- The limits of several g numbers, in field order. -/
def Desk.limsG (d : Desk) : List GReg → Except Stop Unit
  | [] => .ok ()
  | r :: rs => match d.limG r with | .error e => .error e | .ok _ => d.limsG rs
/-- The limits of several v numbers. -/
def Desk.limsV (d : Desk) : List GReg → Except Stop Unit
  | [] => .ok ()
  | r :: rs => match d.limV r with | .error e => .error e | .ok _ => d.limsV rs
/-- A pair that names g31 or includes a port is refused as an encoding (R38); XVAL is the word. -/
def Desk.pairOk (d : Desk) (r : GReg) (n : Nat) : Except Stop Unit :=
  if decide (31 < r.toNat + (n - 1)) || (d.kern.queues && decide (28 ≤ r.toNat + (n - 1))) then .error (.trap 0x001 d.xword) else .ok ()

/-- What an operand brought. -/
structure Opd (n : Nat) where
  /-- value -/
  val : BitVec n
  /-- poison -/
  bad : Bool
  /-- the desk after a pop -/
  d : Desk

/-- An entry popped on a run-ahead path is remembered (R105). -/
def Gen.tookG (g : Gen) (i : BitVec 2) (e : Entry 64) : Gen :=
  { g with popQ := g.popQ.set i.toNat ((g.popQ[i.toNat]'i.isLt) ++ [e]) i.isLt }
/-- The same for q4 to q7. -/
def Gen.tookV (g : Gen) (i : BitVec 2) (e : Entry 512) : Gen :=
  { g with popV := g.popV.set i.toNat ((g.popV[i.toNat]'i.isLt) ++ [e]) i.isLt }
/-- Reads a g operand; a port is popped, and waits when it holds no confirmed entry at its head (R37). -/
def Desk.popG (d : Desk) (r : GReg) : Except Stop (Opd 64) :=
  if d.isPort r then
    let i := portIx r
    match d.q[i.toNat]'i.isLt with
    | e :: rest =>
      if e.tent then .error (.wait (.port (i.setWidth 3) true))
      else .ok ⟨e.val, e.poison, { d with q := d.q.set i.toNat rest i.isLt, gen := d.gen.map (·.tookG i e) }⟩
    | [] => .error (.wait (.port (i.setWidth 3) true))
  else .ok ⟨d.getG r, d.poisonG r, d⟩
/-- Reads a v operand; a port is popped. -/
def Desk.popV (d : Desk) (r : GReg) : Except Stop (Opd 512) :=
  if d.isPort r then
    let i := portIx r
    match d.vq[i.toNat]'i.isLt with
    | e :: rest =>
      if e.tent then .error (.wait (.port (4#3 + i.setWidth 3) true))
      else .ok ⟨e.val, e.poison, { d with vq := d.vq.set i.toNat rest i.isLt, gen := d.gen.map (·.tookV i e) }⟩
    | [] => .error (.wait (.port (4#3 + i.setWidth 3) true))
  else .ok ⟨d.getV r, d.poisonV r, d⟩
/-- Room for a push to a g destination (R37: q0 to q3 hold 8 entries), or a place granted by a later pop (R411). -/
def Desk.roomG (d : Desk) (r : GReg) : Except Stop Unit :=
  if d.isPort r && decide (8 ≤ (d.q[(portIx r).toNat]'(portIx r).isLt).length) && !d.grant.getLsbD (portIx r).toNat then
    .error (.wait (.port ((portIx r).setWidth 3) false)) else .ok ()
/-- Room for a push to a v destination (R37: q4 to q7 hold 4 entries), or a place granted by a later pop (R411). -/
def Desk.roomV (d : Desk) (r : GReg) : Except Stop Unit :=
  if d.isPort r && decide (4 ≤ (d.vq[(portIx r).toNat]'(portIx r).isLt).length) && !d.grant.getLsbD (4 + (portIx r).toNat) then
    .error (.wait (.port (4#3 + (portIx r).setWidth 3) false)) else .ok ()
/-- Writes a g destination; a port is pushed. -/
def Desk.pushG (d : Desk) (r : GReg) (x : Word) (bad : Bool) : Desk :=
  if d.isPort r then
    let i := portIx r
    { d with q := d.q.set i.toNat ((d.q[i.toNat]'i.isLt) ++ [⟨x, bad, d.gen.isSome⟩]) i.isLt }
  else d.setG r x bad
/-- Writes a v destination; a port is pushed. -/
def Desk.pushV (d : Desk) (r : GReg) (x : Vec) (bad : Bool) : Desk :=
  if d.isPort r then
    let i := portIx r
    { d with vq := d.vq.set i.toNat ((d.vq[i.toNat]'i.isLt) ++ [⟨x, bad, d.gen.isSome⟩]) i.isLt }
  else d.setV r x bad

/-- XVAL for poison held in a g register (R365). -/
def badG (r : GReg) : Word := 0x8000000000000000#64 ||| r.setWidth 64
/-- XVAL for poison held in a v register (R365). -/
def badV (r : GReg) : Word := 0x8000000000000100#64 ||| r.setWidth 64
/-- A g operand used as an address, count, condition or the like: poison traps with 0x1C0 (R365). -/
def Desk.useG (d : Desk) (r : GReg) : Except Stop (Opd 64) :=
  match d.popG r with
  | .error e => .error e
  | .ok x => if x.bad then .error (.trap 0x1C0 (badG r)) else .ok x
/-- A v operand whose poison traps with 0x1C0 (R365, R412). -/
def Desk.useV (d : Desk) (r : GReg) : Except Stop (Opd 512) :=
  match d.popV r with
  | .error e => .error e
  | .ok x => if x.bad then .error (.trap 0x1C0 (badV r)) else .ok x

/-- Pops g operands in field order (R37): values with their poison. -/
def Desk.popsG (d : Desk) : List GReg → Except Stop (List (Word × Bool) × Desk)
  | [] => .ok ([], d)
  | r :: rs =>
    match d.popG r with
    | .error e => .error e
    | .ok x => match x.d.popsG rs with
      | .error e => .error e
      | .ok (ys, d) => .ok ((x.val, x.bad) :: ys, d)
/-- Pops v operands in field order (R37). -/
def Desk.popsV (d : Desk) : List GReg → Except Stop (List Nat × Bool × Desk)
  | [] => .ok ([], false, d)
  | r :: rs => do
    let x ← d.popV r
    let (ys, bad, d) ← x.d.popsV rs
    .ok (x.val.toNat :: ys, x.bad || bad, d)
/-- Every g destination port has room. -/
def Desk.roomsG (d : Desk) : List GReg → Except Stop Unit
  | [] => .ok ()
  | r :: rs => match d.roomG r with | .error e => .error e | .ok _ => d.roomsG rs
/-- Every v destination port has room. -/
def Desk.roomsV (d : Desk) : List GReg → Except Stop Unit
  | [] => .ok ()
  | r :: rs => match d.roomV r with | .error e => .error e | .ok _ => d.roomsV rs
/-- The first port of some destinations that has no room waits. -/
def Desk.rooms (d : Desk) (gs vs : List GReg) : Except Stop Unit :=
  match d.roomsG gs with | .error e => .error e | .ok _ => d.roomsV vs
/-- Step 1 of R37, before anything else that the instruction does: every source port holds its entries and, after the pops, every
destination port has room. -/
def Desk.await (d : Desk) (srcG srcV dstG dstV : List GReg) : Except Stop Unit :=
  match d.popsG srcG with
  | .error e => .error e
  | .ok (_, d) => match d.popsV srcV with
    | .error e => .error e
    | .ok (_, _, d) => d.rooms dstG dstV
/-- The first poisoned of some operands traps (R365). -/
def cleanG : List GReg → List (Word × Bool) → Except Stop Unit
  | r :: rs, x :: xs => if x.2 then .error (.trap 0x1C0 (badG r)) else cleanG rs xs
  | _, _ => .ok ()
/-- What a guarded instruction's g operands brought: whether its guard selects it, the values, whether any is poisoned, and the
desk after the pops. -/
structure Taken where
  /-- the guard selects it -/
  on : Bool
  /-- values in field order -/
  xs : List Word
  /-- some value is poisoned -/
  bad : Bool
  /-- the desk after the pops -/
  d : Desk
/-- The i-th value. -/
def Taken.x (t : Taken) (i : Nat) : Word := t.xs.getD i 0
/-- Takes operands under a guard (R37, R39): limits of these and of the further registers `more`, which it writes; pops; and, where the
guard selects the instruction, room for what it writes, and then the poison of the first `k` operands. -/
def Desk.take (d : Desk) (g : Guard) (rs more : List GReg) (k : Nat) : Except Stop Taken :=
  match d.limsG (rs ++ more) with
  | .error e => .error e
  | .ok _ => match d.popsG rs with
    | .error e => .error e
    | .ok (xs, d') =>
      let t : Taken := ⟨d.guard g, xs.map (·.1), xs.any (·.2), d'⟩
      if t.on then match d'.rooms more [] with
        | .error e => .error e
        | .ok _ => match cleanG (rs.take k) xs with | .error e => .error e | .ok _ => .ok t
      else .ok t

end Sys2Proof.Machine
end

