-- ==== Sys2Proof/Machine/Fetch.lean ====
section
/-! DEFINITION. Fetching an instruction's bytes (R29, R30, R377) and resolving a dictionary reference (R32, R33, R48). -/

namespace Sys2Proof.Machine

/-- A halfword of the instruction stream: translated for fetch; XVAL is the halfword whose page failed (R378).  A line that fails its
MAC traps (R401), and so does a poisoned one, whose address XVAL gives (R365). -/
def State.fetchHalf (s : State) (d : Desk) (va : Word) : Except Stop (State × BitVec 16) :=
  match s.xlate (s.who d) va accFetch with
  | .error f => .error (.trap f.cause va accFetch (some (f.info accFetch)))
  | .ok (s, t) =>
    if pteKind t.pte = 3#2 then .error (.trap 0x041 va accFetch)
    else
      let a := pageAddr t.pte t.log2 va
      match s.mem.macFail d.part (partOf t.pte t.log2 va 2) with
      | some l => .error (.mac l va accFetch)
      | none =>
        if s.mem.poison.contains (a / 64) then .error (.trap 0x1C0 (va / 64 * 64))
        else .ok (s, halfOf (cget s.mem.bytes a) (cget s.mem.bytes (a + 1)))

/-- The code word at an address: bit 0 of the first halfword gives the length (R29). -/
def State.fetchCode (s : State) (d : Desk) (va : Word) : Except Stop (State × Code) := do
  let (s, h) ← s.fetchHalf d va
  if h.getLsbD 0 then
    let (s, k) ← s.fetchHalf d (va + 2)
    .ok (s, .full (k ++ h))
  else .ok (s, .half h)

/-- Length in bytes. -/
def codeLen : Code → Nat
  | .half _ => 2
  | .full _ => 4
/-- XVAL of a code word that stands in memory (R48). -/
def codeXval : Code → Word
  | .half h => h.setWidth 64
  | .full w => w.setWidth 64

/-- Whether a 32-bit word's major uses [25:22] as a guard code or condition (R42). -/
def usesGuard (w : BitVec 32) : Bool :=
  let m := w.toNat / 2 % 64
  let f := w.toNat / 2 ^ 26
  m == 0x01 || m == 0x0A || m == 0x20 || m == 0x21 || (m == 0x23 && f != 48 && f != 49) || m == 0x25 || m == 0x26 ||
  (decide (0x28 ≤ m) && decide (m ≤ 0x2D)) || m == 0x34

/-- A word with bits [25:22] replaced (R33). -/
def putGuard (w : BitVec 32) (g : Guard) : BitVec 32 := w.extractLsb' 26 6 ++ g ++ w.extractLsb' 0 22

/-- XVAL of a dictionary reference (R48): the entry above, the reference below. -/
def dictXval (entry : BitVec 32) (h : BitVec 16) : Word := (entry ++ h).setWidth 64

/-- The dictionary entry of a desk: entries that the image does not fill are 0 (R32), and so is every entry under `.dict off` (R83). -/
def Desk.entry (d : Desk) (i : BitVec 10) : BitVec 32 := if d.kern.dict then d.kern.dictWords.getD i.toNat 0 else 0

/-- Resolves a reference (R33): the word that executes and its XVAL, or the cause and XVAL of the trap. -/
def resolveDict (entry : BitVec 32) (i : BitVec 10) (g : Guard) : Except (Cause × Word) (BitVec 32 × Word) :=
  let h : BitVec 16 := i ++ g ++ 2#2
  if !entry.getLsbD 0 || (g != 0#4 && !usesGuard entry) then .error (0x002, dictXval entry h)
  else if g = 8#4 then .error (0x001, dictXval entry h)
  else if g = 0#4 then .ok (entry, dictXval entry h)
  else .ok (putGuard entry g, dictXval (putGuard entry g) h)

/-- DICT_REF (R32, R33): the resolved word stands in the reference's place, at its address and with its length, and issues
next. -/
def execDictRef (i : BitVec 10) (g : Guard) (s : State) : Host.Outcome State Fault Refusal :=
  let d := s.d
  match resolveDict (d.entry i) i g with
  | .error (c, x) => if d.gen.isSome then .next (s.hold .held) else .next ((s.setD { d with dict := true, len := 2 }).takeTrap c x 0 none false)
  | .ok (w, x) => .next (s.setD { d with latch := some (w, false), dict := true, len := 2, xword := x })

/-- RESERVED_ENCODING (R48): precise, before any other effect and before any guard; on a run-ahead path it is held (R104). -/
def execReservedEncoding (_w : BitVec 32) (_full : Bool) (s : State) : Host.Outcome State Fault Refusal :=
  finish (fun s => .error (.trap 0x001 s.d.xword)) s

end Sys2Proof.Machine
end

