-- ==== Sys2Proof/Machine/Control.lean ====
section
/-! DEFINITION. Branches, jumps, loops, queue control, guard slots and run-ahead (R92 to R97, R101 to R107). -/

namespace Sys2Proof.Machine

/-! ### Branches and jumps (R92 to R94) -/

/-- A C-format target (R35). -/
def targetC (pc : Word) (o : BitVec 11) : Word := pc + (o.signExtend 64 <<< 1)
/-- A J-format target (R35). -/
def targetJ (pc : Word) (o : BitVec 20) : Word := pc + (o.signExtend 64 <<< 1)
/-- A branch condition (R92). -/
def cmpOp (c : BitVec 3) (x y : Word) : Bool :=
  if c = 0#3 then x == y
  else if c = 1#3 then x != y
  else if c = 2#3 then x.slt y
  else if c = 3#3 then !x.slt y
  else if c = 4#3 then x.ult y
  else !x.ult y
/-- A transfer: an odd target traps with 0x005 before anything is written (R30). -/
def Desk.jumpTo (d : Desk) (t : Word) (call : Bool) : Except Stop Desk :=
  if t.getLsbD 0 then .error (.trap 0x005 t) else .ok { d with jump := some (t, call) }

/-- A compare and branch (R92). -/
def branch (o : BitVec 11) (c : BitVec 3) (b a : GReg) (s : Desk) : Except Stop Desk := do
  s.limsG [a, b]
  s.await [a, b] [] [] []
  let x ← s.useG a
  let y ← x.d.useG b
  if cmpOp c x.val y.val then y.d.jumpTo (targetC s.pc o) false else .ok y.d

/-- B (R92); the likely bit changes only timing. -/
def execB (o : BitVec 11) (_l : BitVec 1) (c : BitVec 3) (b a : GReg) (s : State) := finish (onDesk (branch o c b a)) s

/-- The bits that BP considers: 64, 32, 16 or 8 (R93). -/
def bpBits (w : BitVec 2) (x : Word) : Nat × Nat := let n := 64 / 2 ^ w.toNat; (x.toNat % 2 ^ n, n)
/-- A branch on a predicate (R93). -/
def branchP (o : BitVec 11) (w : BitVec 2) (p : PReg) (f : Nat → Nat → Bool) (s : Desk) : Except Stop Desk :=
  let (x, n) := bpBits w (s.getP p)
  if f x n then s.jumpTo (targetC s.pc o) false else .ok s
/-- BP.any (R93). -/
def execBpAny (o : BitVec 11) (_l : BitVec 1) (w : BitVec 2) (p : PReg) (s : State) :=
  finish (onDesk (branchP o w p (fun x _ => x != 0))) s
/-- BP.all (R93). -/
def execBpAll (o : BitVec 11) (_l : BitVec 1) (w : BitVec 2) (p : PReg) (s : State) :=
  finish (onDesk (branchP o w p (fun x n => x == 2 ^ n - 1))) s
/-- BP.none (R93). -/
def execBpNone (o : BitVec 11) (_l : BitVec 1) (w : BitVec 2) (p : PReg) (s : State) :=
  finish (onDesk (branchP o w p (fun x _ => x == 0))) s

/-- The address of the next instruction in sequence (R29, R32). -/
def Desk.nextPc (d : Desk) : Word := d.pc + BitVec.ofNat 64 d.len
/-- A jump that links (R94); a destination other than g0 makes it a call (R96). -/
def jumpLink (t : Word) (d : GReg) (s : Desk) : Except Stop Desk := do
  s.limG d
  s.roomG d
  let s' ← s.jumpTo t (d != 0#5)
  .ok (s'.pushG d s.nextPc false)
/-- JAL (R94). -/
def execJal (o : BitVec 20) (d : GReg) (s : State) := finish (onDesk (fun x => jumpLink (targetJ x.pc o) d x)) s
/-- JR: gA is read before gD is written (R94). -/
def jumpReg (a d : GReg) (s : Desk) : Except Stop Desk := do
  s.limsG [a, d]
  s.await [a] [] [d] []
  let x ← s.useG a
  jumpLink x.val d x.d
/-- JR (R94). -/
def execJr (a d : GReg) (s : State) := finish (heldFlow (onDesk (jumpReg a d))) s

/-! ### Hardware loops (R95 to R97) -/

/-- Goes on at an address that a body's end or skip names: end checks of enclosing loops that share it apply (R95, R97). -/
def Desk.skipTo (d : Desk) (t : Word) : Desk := let d' := d.fall t; { d' with pc := d.pc, jump := some (d'.pc, false) }

/-- Whether opening a body [start, stop) from `pc` breaks the nesting with the other loop (R97). -/
def Loop.broken (o : Loop) (pc start stop : Word) : Bool :=
  let within (a lo hi : Word) : Bool := decide (lo.toNat ≤ a.toNat) && decide (a.toNat < hi.toNat)
  o.active && ((within pc o.start o.stop && decide (o.stop.toNat < stop.toNat)) ||
    (within o.at_ start stop && decide (stop.toNat < o.stop.toNat)))

/-- Opens a hardware loop (R95 to R97). -/
def openLoop (len : BitVec 14) (i : BitVec 1) (c : Word) (s : Desk) : Except Stop Desk :=
  let start := s.nextPc
  let stop := start + (len.setWidth 64 <<< 1)
  let o := if i = 0#1 then s.lc[1] else s.lc[0]
  if 2 ^ 32 ≤ c.toNat then .error (.trap 0x009 c)
  else if c = 0 then .ok (s.skipTo stop)
  else if o.broken s.pc start stop then .error (.trap 0x007 stop)
  else
    let l : Loop := ⟨c.setWidth 32, start, stop, true, s.pc⟩
    .ok { s with lc := if i = 0#1 then #v[l, s.lc[1]] else #v[s.lc[0], l], jump := some (start, true) }
/-- LOOP with its register count. -/
def loopReg (l : BitVec 14) (r : GReg) (i : BitVec 1) (s : Desk) : Except Stop Desk := do
  s.limG r
  let x ← s.useG r
  openLoop l i x.val x.d
/-- LOOP (R95). -/
def execLoop (l : BitVec 14) (r : GReg) (i : BitVec 1) (s : State) := finish (heldFlow (onDesk (loopReg l r i))) s
/-- LOOPI (R95). -/
def execLoopi (l : BitVec 14) (c : BitVec 10) (i : BitVec 1) (s : State) :=
  finish (heldFlow (onDesk (openLoop l i (c.setWidth 64)))) s

/-! ### Queue ports (R101, R102) -/

/-- A queue instruction needs queues enabled (R101). -/
def needQueues (s : Desk) : Except Stop Unit := if s.kern.queues then .ok () else .error (.trap 0x001 s.xword)
/-- QFLUSH: every entry of a port goes (R101). -/
def qflush (n : BitVec 3) (s : Desk) : Except Stop Desk := do
  needQueues s
  let i := n.setWidth 2
  .ok (if n.getLsbD 2 then { s with vq := s.vq.set i.toNat [] i.isLt } else { s with q := s.q.set i.toNat [] i.isLt })
/-- QFLUSH (R101). -/
def execQflush (n : BitVec 3) (s : State) := finish (heldBack (onDesk (qflush n))) s
/-- Confirmed entries of a port. -/
def Desk.confirmed (s : Desk) (n : BitVec 3) : Nat :=
  let i := n.setWidth 2
  if n.getLsbD 2 then ((s.vq[i.toNat]'i.isLt).filter (fun e => !e.tent)).length
  else ((s.q[i.toNat]'i.isLt).filter (fun e => !e.tent)).length
/-- QCNT (R101). -/
def qcnt (a : BitVec 3) (d : GReg) (s : Desk) : Except Stop Desk := do
  needQueues s
  s.limG d
  s.roomG d
  .ok (s.pushG d (BitVec.ofNat 64 (s.confirmed a)) false)
/-- QCNT (R101). -/
def execQcnt (a : BitVec 3) (d : GReg) (s : State) := finish (heldBack (onDesk (qcnt a d))) s

/-- Takes a trap on a desk that is not the one that moves: the desk moves for that trap. -/
def State.trapAt (s : State) (c : CoreId) (i : DeskId) (cause : Cause) (x : Word) : State :=
  ({ s with core := c, desk := i }).takeTrap cause x 0 none false

/-- The head of a port, if it is a confirmed entry. -/
def Desk.head (s : Desk) (q : BitVec 2) : Option (Entry 64) :=
  match s.q[q.toNat]'q.isLt with
  | e :: _ => if e.tent then none else some e
  | [] => none
/-- The entries of a port, by its number. -/
def Desk.portLen (d : Desk) (n : BitVec 3) : Nat :=
  let i := n.setWidth 2
  if n.getLsbD 2 then (d.vq[i.toNat]'i.isLt).length else (d.q[i.toNat]'i.isLt).length
/-- Whether a port has room. -/
def Desk.portRoom (d : Desk) (n : BitVec 3) : Bool := decide (d.portLen n < if n.getLsbD 2 then 4 else 8)
/-- The port that an instruction of a desk waits on, and whether to pop it: its own, that of a BRQ which another path runs ahead of, or
that of a push which the other stream runs ahead of (R102, R103, R411). -/
def Desk.portWait (d : Desk) : Option (BitVec 3 × Bool) :=
  match d.gen.map (fun g => g.kind) with
  | some (GenKind.brq q _ _ _ _ _ _) => if (d.head q).isNone then some (q.setWidth 3, true) else none
  | some (GenKind.behind n _) => if d.portRoom n then none else some (n, false)
  | none => match d.wait with
    | some (.port n pop) => some (n, pop)
    | _ => none
/-- QUEUE_WATCHDOG (R102): a desk that has waited on a port takes 0x0C8; the passing of 2^20 clk without a retirement of the desk
is the event itself. -/
def execQueueWatchdog (c : CoreId) (d : DeskId) (s : State) : Host.Outcome State Fault Refusal :=
  event (fun s =>
    match (s.deskAt c d).portWait with
    | some (n, pop) => some (s.trapAt c d 0x0C8 ((if pop then 0x100 else 0) ||| n.setWidth 64))
    | none => none) s

/-! ### Guard slots (R106, R107) -/

/-- PENDK (R106). -/
def pendk (n : BitVec 3) (s : Desk) : Except Stop Desk := .ok { s with k := s.k.set n.toNat .pending n.isLt }
/-- PENDK (R106). -/
def execPendk (n : BitVec 3) (s : State) := finish (heldBack (onDesk (pendk n))) s
/-- The slot that a guard-slot code names, as it stands: unguarded commands are true (R40, R107). -/
def Desk.slot (d : Desk) (k : Guard) : KSlot :=
  if k.getLsbD 3 then d.k[(k.extractLsb' 0 3).toNat]'(k.extractLsb' 0 3).isLt else .yes

/-! ### Run-ahead (R103 to R105) -/

/-- BRQ (R103): with a confirmed head it is an ordinary branch that does not pop the port; with an empty port it opens a run-ahead
generation on the path that the likely bit names.  gB is an operand of the compare, which is popped, and its poison met, before any
path is taken. -/
def brq (o : BitVec 11) (l : BitVec 1) (c : BitVec 3) (b : GReg) (q : BitVec 2) (s : Desk) : Except Stop Desk := do
  needQueues s
  s.limG b
  s.await [b] [] [] []
  match s.head q with
  | some e =>
    let y ← s.useG b
    if e.poison then .error (.trap 0x1C0 (badG (28#5 + q.setWidth 5)))
    else if cmpOp c e.val y.val then y.d.jumpTo (targetC s.pc o) false else .ok y.d
  | none =>
    let taken := targetC s.pc o
    let own := if s.isPort b then some (portIx b) else none
    let y ← (s.openGen (.brq q c 0 own taken s.nextPc (l == 1#1))).useG b
    let d := { y.d with gen := y.d.gen.map (fun g => { g with kind := .brq q c y.val own taken s.nextPc (l == 1#1) }) }
    if l = 1#1 then d.jumpTo taken false else .ok d
/-- BRQ (R103); a second BRQ on a run-ahead path is held (R104). -/
def execBrq (o : BitVec 11) (l : BitVec 1) (c : BitVec 3) (b : GReg) (q : BitVec 2) (s : State) :=
  finish (heldBack (onDesk (brq o l c b q))) s

/-- The desk whose BRQ has found its path wrong: the run-ahead work goes, gB's entry stays popped, and fetch goes on at the other path
(R105). -/
def Desk.mismatch (d : Desk) (own : Option (BitVec 2)) (taken fall : Word) (likely : Bool) : Desk :=
  let kept (g : Gen) : Gen :=
    let g := { g with taken := g.taken.drop 1 }
    match own with
    | some i => { g with popQ := g.popQ.set i.toNat ((g.popQ[i.toNat]'i.isLt).drop 1) i.isLt }
    | none => g
  let e := ({ d with gen := d.gen.map kept }).discardGen
  let e := { e with wait := none, icnt := e.icnt + 1 }
  if likely then e.fall fall else { e with jump := some (taken, false) }.advance
/-- What a generation held back until it is resolved: the breakpoint addresses at which instructions have retired, and the words that a
leader forwards (log 18). -/
def State.release (s : State) (c : CoreId) (i : DeskId) (breaks : List Word) (sent : List Fwd) : State :=
  let d := s.deskAt c i
  let s := breaks.foldl (fun s a => { ({ s with core := c, desk := i } : State).recordStop { d with pc := a } 1 0 with core := s.core, desk := s.desk }) s
  match d.gang with
  | .leader n => sent.foldl (fun s f => s.forward c n f) s
  | _ => s
/-- BRQ_RESOLVE (R105): the head has arrived.  On a match the generation is confirmed; on a mismatch it is discarded and the desk
goes to the other path, with BRQ alone retired. -/
def execBrqResolve (c : CoreId) (i : DeskId) (s : State) : Host.Outcome State Fault Refusal :=
  event (fun s =>
    let d := s.deskAt c i
    match d.gen with
    | some g => match g.kind with
      | .brq q cc rhs own taken fall likely =>
        match d.head q with
        | none => none
        | some e =>
          -- a poisoned condition: the generation is discarded, and BRQ traps when it executes again
          if e.poison then some (s.setDeskAt c i { d.discardGen with wait := none })
          else if cmpOp cc e.val rhs = likely then some ((s.release c i g.breaks g.sent).setDeskAt c i { d.confirmGen with wait := none })
          else some ((s.release c i (g.breaks.take 1 |>.filter (· == g.was.pc)) (g.sent.take 1)).setDeskAt c i (d.mismatch own taken fall likely))
      | .behind _ _ => none
    | none => none) s

end Sys2Proof.Machine
end

