-- ==== Sys2Proof/Machine/Vector.lean ====
section
/-! DEFINITION. The vector unit (R116 to R136) and the repetition buffer that feeds it (R98, R99).  Every vector instruction is the
work of one desk, so that a pass of the repetition buffer runs the same operation as the instruction itself. -/

namespace Sys2Proof.Machine

/-! ### Types and lanes (R41, R116) -/

/-- Width of an element. -/
def tyWidth (t : BitVec 3) : Nat := if t = 0#3 ∨ t = 5#3 then 32 else if t = 1#3 ∨ t = 2#3 ∨ t = 6#3 then 16 else 8
/-- The float format of a type code. -/
def tyFmt (t : BitVec 3) : Option Fmt :=
  if t = 0#3 then some .f32 else if t = 1#3 then some .bf16 else if t = 2#3 then some .f16
  else if t = 3#3 then some .e4m3 else if t = 4#3 then some .e5m2 else none
/-- Elements of a register. -/
def tyCount (t : BitVec 3) : Nat := 512 / tyWidth t
/-- Element `e` of a register or group. -/
def lane (w x e : Nat) : Nat := x / 2 ^ (w * e) % 2 ^ w
/-- A register or group from its elements, element 0 lowest. -/
def ofLanes (w : Nat) (xs : List Nat) : Nat := xs.foldr (fun x acc => x % 2 ^ w + 2 ^ w * acc) 0
/-- A signed element. -/
def slane (w x : Nat) : Int := if 2 ^ (w - 1) ≤ x then (x : Int) - 2 ^ w else x
/-- An integer wrapped to w bits. -/
def wrapW (w : Nat) (x : Int) : Nat := (x % 2 ^ w).toNat

/-! ### Elementwise results with rounding and flags (R57, R58, R62, R120) -/

/-- FRM as a rounding. -/
def Desk.rm (d : Desk) : Rm := ⟨d.frm.extractLsb' 0 3, d.frm.getLsbD 3, 0⟩
/-- A rounding with its generator bits: a stochastic one advances the generator (R57). -/
def drawRm (r : Rm) (seed : Word) : Rm × Word :=
  if r.mode = 4#3 then let x := srNext seed; ({ r with g := x.toNat / 2 ^ 48 }, x) else (r, seed)

/-- Results of a run of elements: their patterns in order, flags and generator. -/
structure Lanes where
  /-- elements in ascending order -/
  xs : List Nat
  /-- flags -/
  fl : FFlags
  /-- generator -/
  seed : Word
  deriving DecidableEq, Repr

/-- Each selected element takes `f`, each other its old value; elements ascend (R58, R117).  `adv` says that the instruction rounds
by `r` and so draws under stochastic rounding. -/
def lanesFrom (sel : Nat → Bool) (adv : Bool) (r : Rm) (old : Nat → Nat) (f : Rm → Nat → FRes) : Nat → Nat → Word → Lanes
  | 0, _, seed => ⟨[], 0, seed⟩
  | n + 1, e, seed =>
    if sel e then
      let (r', seed') := if adv then drawRm r seed else (r, seed)
      let x := f r' e
      let rest := lanesFrom sel adv r old f n (e + 1) seed'
      ⟨x.bits :: rest.xs, x.fl ||| rest.fl, rest.seed⟩
    else
      let rest := lanesFrom sel adv r old f n (e + 1) seed
      ⟨old e :: rest.xs, rest.fl, rest.seed⟩

/-- A desk with an instruction's flags and generator state (R61). -/
def Desk.fpDone (d : Desk) (l : Lanes) : Desk := { d with fflags := d.fflags ||| l.fl, srseed := l.seed }

/-- An elementwise instruction of v sources `srcs` (fields in order a, b) and destination d: `readD` where d is an operand; the old
destination is read where a guard makes the instruction merge (R118, R120). -/
def vecMap (t : BitVec 3) (g : Guard) (srcs : List GReg) (d : GReg) (readD adv : Bool)
    (f : Rm → (old : Nat) → (srcs : List Nat) → FRes) (s : Desk) : Except Stop Desk := do
  s.limsV (srcs ++ [d])
  let (xs, bad, s1) ← s.popsV srcs
  let useD := readD || g != 0#4
  let (o, badO, s2) ← if useD then (s1.popV d).map (fun x => (x.val.toNat, x.bad, x.d)) else .ok (0, false, s1)
  s2.roomV d
  let w := tyWidth t
  let l := lanesFrom (s.sel g) (adv && (tyFmt t).isSome) s.rm (lane w o) (fun r e => f r (lane w o e) (xs.map (fun x => lane w x e))) (tyCount t) 0 s.srseed
  .ok ((s2.pushV d (BitVec.ofNat 512 (ofLanes w l.xs)) (bad || badO)).fpDone l)

/-- A result with no flag. -/
def plain (x : Nat) : FRes := ⟨x, 0⟩
/-- First source. -/
def s0 (xs : List Nat) : Nat := xs.getD 0 0
/-- Second source. -/
def s1 (xs : List Nat) : Nat := xs.getD 1 0

/-- A binary lane operation by type: a float operation, or an integer one wrapped to the width (R121). -/
def arith2 (t : BitVec 3) (ff : Fmt → Rm → Nat → Nat → FRes) (fi : Int → Int → Int) (r : Rm) (x y : Nat) : FRes :=
  match tyFmt t with
  | some f => ff f r x y
  | none => let w := tyWidth t; plain (wrapW w (fi (slane w x) (slane w y)))
/-- A unary lane operation by type (R122). -/
def arith1 (t : BitVec 3) (ff : Fmt → Rm → Nat → FRes) (fi : Int → Int) (r : Rm) (x : Nat) : FRes :=
  match tyFmt t with
  | some f => ff f r x
  | none => let w := tyWidth t; plain (wrapW w (fi (slane w x)))

/-- The vector operations of majors 0x28 to 0x2D. -/
inductive VOp where
  /-- VADD -/ | add
  /-- VSUB -/ | sub
  /-- VMUL -/ | mul
  /-- VFMA -/ | fma
  /-- VFMS -/ | fms
  /-- VMIN -/ | min
  /-- VMAX -/ | max
  /-- VDIV -/ | div
  /-- VABS -/ | abs
  /-- VNEG -/ | neg
  /-- VSQRT -/ | sqrt
  /-- VRCP -/ | rcp
  /-- VRSQRT -/ | rsqrt
  /-- VEXP2 -/ | exp2
  /-- VLOG2 -/ | log2
  /-- VMOV -/ | mov
  /-- VACT -/ | act
  /-- VDACT -/ | dact
  /-- VCMP.eq -/ | cmpEq
  /-- VCMP.ne -/ | cmpNe
  /-- VCMP.lt -/ | cmpLt
  /-- VCMP.le -/ | cmpLe
  /-- VSEL -/ | sel
  /-- VNFIN -/ | nfin
  /-- VAND -/ | and
  /-- VOR -/ | or
  /-- VXOR -/ | xor
  /-- VNOT -/ | not
  /-- VSHL -/ | shl
  /-- VSHR -/ | shr
  /-- VSHA -/ | sha
  /-- VIOTA -/ | iota
  /-- VBCAST -/ | bcast
  /-- VEXTR -/ | extr
  /-- VINS -/ | ins
  /-- VPERM -/ | perm
  /-- VRED -/ | red
  /-- VSCAN -/ | scan
  /-- VDOT -/ | dot
  /-- VHAD -/ | had
  /-- VCVT -/ | cvt
  /-- VPACK -/ | pack
  /-- VUNPK -/ | unpk
  deriving DecidableEq, Repr

/-! ### Compares (R125, R127) -/

/-- The outcome and flags of a compare of two elements. -/
def cmpLane (t : BitVec 3) (op : VOp) (x y : Nat) : Bool × FFlags :=
  match tyFmt t with
  | some f =>
    let a := f.value x
    let b := f.value y
    let nan := a.isNan || b.isNan
    let eq := a.equal b
    let lt := !nan && !eq && a.below b
    let r := match op with
      | .cmpEq => eq
      | .cmpNe => !eq
      | .cmpLt => lt
      | _ => lt || eq
    (r, a.sigFlag ||| b.sigFlag)
  | none =>
    let w := tyWidth t
    let a := slane w x
    let b := slane w y
    let r := match op with
      | .cmpEq => a == b
      | .cmpNe => a != b
      | .cmpLt => decide (a < b)
      | _ => decide (a ≤ b)
    (r, 0)
/-- A predicate from its bits. -/
def ofBits (bs : List Bool) : Word := BitVec.ofNat 64 (bs.foldr (fun b acc => (if b then 1 else 0) + 2 * acc) 0)
/-- VCMP: selected bits take the outcome, other bits below c stay, bits from c up are 0; poison traps (R125, R412). -/
def vcmp (op : VOp) (t : BitVec 3) (g : Guard) (b a : GReg) (p : PReg) (s : Desk) : Except Stop Desk := do
  s.limsV [a, b]
  s.await [] [a, b] [] []
  let x ← s.useV a
  let y ← x.d.useV b
  let w := tyWidth t
  let r := (List.range (tyCount t)).map (fun e =>
    if s.sel g e then cmpLane t op (lane w x.val.toNat e) (lane w y.val.toNat e) else ((s.getP p).getLsbD e, 0))
  .ok { (y.d.setP p (ofBits (r.map (·.1)))) with fflags := s.fflags ||| r.foldl (fun a x => a ||| x.2) 0 }
/-- A NaN or an infinity. -/
def nonFinite (t : BitVec 3) (x : Nat) : Bool :=
  match tyFmt t with
  | some f => (match f.value x with | .num .. => false | _ => true)
  | none => false
/-- VNFIN (R127). -/
def vnfin (t : BitVec 3) (g : Guard) (a : GReg) (p : PReg) (s : Desk) : Except Stop Desk := do
  s.limsV [a]
  let x ← s.useV a
  let r := (List.range (tyCount t)).map (fun e => s.sel g e && nonFinite t (lane (tyWidth t) x.val.toNat e))
  .ok { (x.d.setP p (ofBits r)) with fflags := s.fflags ||| (if r.any id then flNF else 0) }

/-! ### Movement (R129) -/

/-- VEXTR: a g destination, bit 0 of the guard (R117, R129). -/
def vextr (t : BitVec 3) (g : Guard) (b a d : GReg) (s : Desk) : Except Stop Desk := do
  s.limV a
  s.limsG [b, d]
  let x ← s.popV a
  let y ← x.d.popG b
  if s.guard g then
    y.d.roomG d
    let w := tyWidth t
    let e := lane w x.val.toNat (y.val.toNat % tyCount t)
    let r : Word := if (tyFmt t).isSome then BitVec.ofNat 64 e else BitVec.ofInt 64 (slane w e)
    .ok (y.d.pushG d r (x.bad || y.bad))
  else .ok y.d
/-- VINS: the other elements keep their old values, so the destination is always read (R118, R129). -/
def vins (t : BitVec 3) (g : Guard) (b a d : GReg) (s : Desk) : Except Stop Desk := do
  s.limsG [a, b]
  s.limV d
  let x ← s.popG a
  let y ← x.d.popG b
  let o ← y.d.popV d
  o.d.roomV d
  let w := tyWidth t
  let ix := y.val.toNat % tyCount t
  let xs := (List.range (tyCount t)).map (fun e => if e == ix && s.sel g ix then x.val.toNat % 2 ^ w else lane w o.val.toNat e)
  .ok (o.d.pushV d (BitVec.ofNat 512 (ofLanes w xs)) (x.bad || y.bad || o.bad))
/-- VBCAST (R129). -/
def vbcast (t : BitVec 3) (g : Guard) (a d : GReg) (s : Desk) : Except Stop Desk := do
  s.limG a
  s.limV d
  let x ← s.popG a
  let o ← if g != 0#4 then x.d.popV d else .ok ⟨0, false, x.d⟩
  o.d.roomV d
  let w := tyWidth t
  let xs := (List.range (tyCount t)).map (fun e => if s.sel g e then x.val.toNat % 2 ^ w else lane w o.val.toNat e)
  .ok (o.d.pushV d (BitVec.ofNat 512 (ofLanes w xs)) (x.bad || o.bad))
/-- VPERM (R129). -/
def vperm (t : BitVec 3) (g : Guard) (b a d : GReg) (s : Desk) : Except Stop Desk := do
  s.limsV [a, b, d]
  let x ← s.popV a
  let y ← x.d.popV b
  let o ← if g != 0#4 then y.d.popV d else .ok ⟨0, false, y.d⟩
  o.d.roomV d
  let w := tyWidth t
  let xs := (List.range (tyCount t)).map (fun e =>
    if s.sel g e then lane w x.val.toNat (lane w y.val.toNat e % tyCount t) else lane w o.val.toNat e)
  .ok (o.d.pushV d (BitVec.ofNat 512 (ofLanes w xs)) (x.bad || y.bad || o.bad))

/-! ### Reductions (R68, R130) -/

/-- The input of a float reduction: an element as it stands, or the identity. -/
def redIn (f : Fmt) (sel : Bool) (x : Nat) : VF := if sel then ⟨f.value x, 0⟩ else ⟨.num true 0 0, 0⟩
/-- A float max or min node in the element type. -/
def mmNode (f : Fmt) (mx : Bool) (a b : FRes) : FRes :=
  let r := if mx then f.fmax a.bits b.bits else f.fmin a.bits b.bits
  ⟨r.bits, a.fl ||| b.fl ||| r.fl⟩
/-- The integer identity of max (-2^(w-1)) or min (2^(w-1) - 1). -/
def intIdent (w : Nat) (mx : Bool) : Int := if mx then -(2 ^ (w - 1) : Int) else 2 ^ (w - 1) - 1

/-- VRED's result in the low bits and its flags; op 0 sum, 1 max, 2 min. -/
def vredVal (t : BitVec 3) (op : Nat) (sel : Nat → Bool) (x : Nat) : Nat × FFlags :=
  let w := tyWidth t
  let es := List.range (tyCount t)
  match tyFmt t with
  | some f =>
    if op = 0 then
      match tree sumNode ⟨.num true 0 0, 0⟩ 7 (es.map (fun e => redIn f (sel e) (lane w x e))) with
      | r :: _ => (f32Bits r.v, r.fl)
      | [] => (0, 0)
    else
      let idn := f.signed (op = 1) f.inf
      match tree (mmNode f (op = 1)) (plain idn) 7 (es.map (fun e => plain (if sel e then lane w x e else idn))) with
      | r :: _ => (r.bits, r.fl)
      | [] => (0, 0)
  | none =>
    let xs := es.map (fun e => if sel e then slane w (lane w x e) else if op = 0 then 0 else intIdent w (op = 1))
    if op = 0 then (wrapW 32 (xs.foldl (· + ·) 0), 0)
    else (wrapW w (xs.foldl (fun a b => if op = 1 then max a b else min a b) (intIdent w (op = 1))), 0)
/-- VDOT's result and flags: exact products, then a sum tree (R68). -/
def vdotVal (t : BitVec 3) (sel : Nat → Bool) (x y : Nat) : Nat × FFlags :=
  let w := tyWidth t
  let es := List.range (tyCount t)
  match tyFmt t with
  | some f =>
    let ins := es.map (fun e => if sel e then
        let p := exMul (f.value (lane w x e)) (f.value (lane w y e)); (⟨p.v, p.nv⟩ : VF)
      else ⟨.num true 0 0, 0⟩)
    match tree sumNode ⟨.num true 0 0, 0⟩ 7 ins with
    | r :: _ => (f32Bits r.v, r.fl)
    | [] => (0, 0)
  | none =>
    (wrapW 32 ((es.map (fun e => if sel e then slane w (lane w x e) * slane w (lane w y e) else 0)).foldl (· + ·) 0), 0)
/-- VSCAN's elements and flags: element 0 is input 0 as it stands, y₀ = x₀ (R68, R130), so that a NaN there keeps its pattern (DEDUCED, log
99). -/
def vscanVal (t : BitVec 3) (op : Nat) (sel : Nat → Bool) (x : Nat) : List Nat × FFlags :=
  let w := tyWidth t
  let es := List.range (tyCount t)
  match tyFmt t with
  | some f =>
    let idn := if op = 0 then f.signed true 0 else f.signed (op = 1) f.inf
    let ins := es.map (fun e => if sel e then lane w x e else idn)
    let step (a : List Nat × FFlags) (y : Nat) : List Nat × FFlags :=
      match a.1 with
      | [] => ([y], a.2)
      | p :: _ =>
        let r := if op = 0 then f.add rne p y else if op = 1 then f.fmax p y else f.fmin p y
        (r.bits :: a.1, a.2 ||| r.fl)
    let r := ins.foldl step ([], 0)
    (r.1.reverse, r.2)
  | none =>
    let ins := es.map (fun e => if sel e then slane w (lane w x e) else if op = 0 then 0 else intIdent w (op = 1))
    let step (a : List Int) (y : Int) : List Int :=
      match a with
      | [] => [y]
      | p :: _ => (if op = 0 then slane w (wrapW w (p + y)) else if op = 1 then max p y else min p y) :: a
    (((ins.foldl step []).reverse).map (wrapW w), 0)

/-- An instruction that reads v sources and writes the whole destination. -/
def vecWhole (srcs : List GReg) (d : GReg) (f : Desk → List Nat → Nat × FFlags) (s : Desk) : Except Stop Desk := do
  s.limsV (srcs ++ [d])
  let (xs, bad, s1) ← s.popsV srcs
  s1.roomV d
  let (r, fl) := f s xs
  .ok { (s1.pushV d (BitVec.ofNat 512 r) bad) with fflags := s.fflags ||| fl }

/-! ### Groups (R118), conversions (R132) and blocks (R131, R133) -/

/-- The limits of a group's members, by their numbers, which may pass 31 (R49, R118). -/
def Desk.limGroup (s : Desk) (r : GReg) (n : Nat) : Except Stop Unit :=
  match ((List.range n).map (r.toNat + ·)).find? (fun k => s.user && !(s.kern.queues && decide (28 ≤ k ∧ k < 32)) && decide (s.kern.vregs ≤ k)) with
  | some k => .error (.trap 0x006 (BitVec.ofNat 64 (0x100 + k)))
  | none => .ok ()
/-- The alignment of a group of `n` registers, none of them a port (R118). -/
def Desk.alignGroup (s : Desk) (r : GReg) (n : Nat) : Except Stop Unit :=
  if n ≠ 1 ∧ (r.toNat % n ≠ 0 ∨ (s.kern.queues ∧ 28 < r.toNat + n)) then .error (.trap 0x089 (r.setWidth 64)) else .ok ()
/-- Both groups of an instruction: the register limits (R49) come before the alignment of either (R50), and a before d (log 114). -/
def Desk.groups (s : Desk) (a : GReg) (na : Nat) (d : GReg) (nd : Nat) : Except Stop Unit := do
  s.limGroup a na
  s.limGroup d nd
  s.alignGroup a na
  s.alignGroup d nd
/-- Reads a group as one number; a group of one may be a port. -/
def Desk.popGroup (s : Desk) (r : GReg) (n : Nat) : Except Stop (Nat × Bool × Desk) :=
  if n = 1 then (s.popV r).map (fun x => (x.val.toNat, x.bad, x.d))
  else
    let rs := (List.range n).map (fun i => r + BitVec.ofNat 5 i)
    .ok (ofLanes 512 (rs.map (fun i => (s.getV i).toNat)), rs.any s.poisonV, s)
/-- Writes a group; a group of one may be a port. -/
def Desk.pushGroup (s : Desk) (r : GReg) (n : Nat) (x : Nat) (bad : Bool) : Desk :=
  if n = 1 then s.pushV r (BitVec.ofNat 512 x) bad
  else (List.range n).foldl (fun s i => s.setV (r + BitVec.ofNat 5 i) (BitVec.ofNat 512 (lane 512 x i)) bad) s

/-- One converted element (R60, R132). -/
def cvtLane (src dst : BitVec 3) (r : Rm) (x : Nat) : FRes :=
  match tyFmt src, tyFmt dst with
  | some f, some h => floatToFloat f h r x
  | some f, none => let y := floatToInt r (tyWidth dst) (f.value x); ⟨wrapW (tyWidth dst) y.val, y.fl⟩
  | none, some h => intToFloat h r (slane (tyWidth src) x)
  | none, none => let y := satInt (tyWidth dst) (slane (tyWidth src) x) 0; ⟨wrapW (tyWidth dst) y.val, y.fl⟩
/-- VCVT (R132): the generator advances where the rounding that the word names is stochastic (log 115). -/
def vcvt (t : BitVec 3) (g : Guard) (rr : BitVec 2) (src : BitVec 3) (a d : GReg) (s : Desk) : Except Stop Desk := do
  let wd := tyWidth t
  let ws := tyWidth src
  let na := if wd < ws then ws / wd else 1
  let nd := if ws < wd then wd / ws else 1
  s.groups a na d nd
  let (x, bad, s1) ← s.popGroup a na
  let (o, badO, s2) ← if g != 0#4 then s1.popGroup d nd else .ok (0, false, s1)
  if nd = 1 then s2.roomV d else pure ()
  let mode : BitVec 3 := if rr = 0#2 then s.rm.mode else if rr = 1#2 then 0 else if rr = 2#2 then 1 else 4
  let l := lanesFrom (s.sel g) true { s.rm with mode := mode } (lane wd o) (fun r e => cvtLane src t r (lane ws x e)) (512 / min wd ws) 0 s.srseed
  .ok ((s2.pushGroup d nd (ofLanes wd l.xs) (bad || badO)).fpDone l)
/-- VHAD (R131): n = 16, 32 or 64 elements in 1, 2 or 4 registers. -/
def vhad (n a d : GReg) (s : Desk) : Except Stop Desk := do
  let k := 2 ^ n.toNat
  s.groups a k d k
  let (x, bad, s1) ← s.popGroup a k
  if k = 1 then s1.roomV d else pure ()
  let (ys, fl) := hadamard (4 + n.toNat) ((List.range (16 * k)).map (lane 32 x))
  .ok { (s1.pushGroup d k (ofLanes 32 ys) bad) with fflags := s.fflags ||| fl }
/-- The SX format of a type code 3 or 4 (R133). -/
def sxOf (t : BitVec 3) : Sx := if t = 3#3 then sx7 else sx3
/-- VPACK (R133). -/
def vpack (t : BitVec 3) (a d : GReg) (s : Desk) : Except Stop Desk := do
  let f := sxOf t
  let k := f.n / 16
  s.groups a k d 1
  let (x, bad, s1) ← s.popGroup a k
  s1.roomV d
  let (r, fl) := f.pack ((List.range f.n).map (fun e => Fmt.f32.value (lane 32 x e)))
  .ok { (s1.pushV d (BitVec.ofNat 512 r) bad) with fflags := s.fflags ||| fl }
/-- VUNPK (R133): a foreign code traps with 0x088 and leaves the destination.  Every element of a block is an FP32 value. -/
def vunpk (t : BitVec 3) (a d : GReg) (s : Desk) : Except Stop Desk := do
  let f := sxOf t
  let k := f.n / 16
  s.groups a 1 d k
  let (x, bad, s1) ← s.popGroup a 1
  match f.read x with
  | .error c => .error (.trap 0x088 (BitVec.ofNat 64 c))
  | .ok xs =>
    let rs := xs.map (Fmt.f32.ofVal rne)
    .ok { (s1.pushGroup d k (ofLanes 32 (rs.map (·.bits))) bad) with fflags := s.fflags ||| rs.foldl (fun a x => a ||| x.fl) 0 }

/-! ### The unit's one entry -/

/-- The activation of a code; the decoder lets no reserved code pass (R44). -/
def actFn (b : GReg) : ActFn := (ActFn.ofCode b.toNat).getD .relu
/-- A bit pattern shifted arithmetically. -/
def sarW (w x n : Nat) : Nat := wrapW w (slane w x / 2 ^ n)

/-- A vector instruction by its operation and fields. -/
def runV (op : VOp) (t : BitVec 3) (g : Guard) (b a d : GReg) (s : Desk) : Except Stop Desk :=
  let w := tyWidth t
  let f := (tyFmt t).getD .f32
  match op with
  | .add => vecMap t g [a, b] d false true (fun r _ x => arith2 t Fmt.add (· + ·) r (s0 x) (s1 x)) s
  | .sub => vecMap t g [a, b] d false true (fun r _ x => arith2 t Fmt.sub (· - ·) r (s0 x) (s1 x)) s
  | .mul => vecMap t g [a, b] d false true (fun r _ x => arith2 t Fmt.mul (· * ·) r (s0 x) (s1 x)) s
  | .fma => vecMap t g [a, b] d true true (fun r o x =>
      match tyFmt t with
      | some f => f.fma r false o (s0 x) (s1 x)
      | none => plain (wrapW w (slane w o + slane w (s0 x) * slane w (s1 x)))) s
  | .fms => vecMap t g [a, b] d true true (fun r o x =>
      match tyFmt t with
      | some f => f.fma r true o (s0 x) (s1 x)
      | none => plain (wrapW w (slane w o - slane w (s0 x) * slane w (s1 x)))) s
  | .min => vecMap t g [a, b] d false true (fun r _ x => arith2 t (fun f _ x y => f.fmin x y) Min.min r (s0 x) (s1 x)) s
  | .max => vecMap t g [a, b] d false true (fun r _ x => arith2 t (fun f _ x y => f.fmax x y) Max.max r (s0 x) (s1 x)) s
  | .div => vecMap t g [a, b] d false true (fun r _ x => f.div r (s0 x) (s1 x)) s
  | .abs => vecMap t g [a] d false true (fun r _ x => arith1 t (fun f _ x => f.abs x) (fun x => x.natAbs) r (s0 x)) s
  | .neg => vecMap t g [a] d false true (fun r _ x => arith1 t (fun f _ x => f.neg x) (fun x => -x) r (s0 x)) s
  | .sqrt => vecMap t g [a] d false true (fun r _ x => f.sqrt r (s0 x)) s
  | .rcp => vecMap t g [a] d false true (fun r _ x => f.rcp r (s0 x)) s
  | .rsqrt => vecMap t g [a] d false true (fun r _ x => f.rsqrt r (s0 x)) s
  | .exp2 => vecMap t g [a] d false true (fun r _ x => f.exp2 r (s0 x)) s
  | .log2 => vecMap t g [a] d false true (fun r _ x => f.log2 r (s0 x)) s
  | .mov => vecMap t g [a] d false false (fun _ _ x => plain (s0 x)) s
  | .act => vecMap t g [a] d false true (fun r _ x => f.act (actFn b) r (s0 x)) s
  | .dact => vecMap t g [a] d false true (fun r _ x => f.dact (actFn b) r (s0 x)) s
  | .cmpEq | .cmpNe | .cmpLt | .cmpLe => vcmp op t g b a (d.setWidth 3) s
  | .sel => do
    s.limsV [a, b, d]
    let (xs, bad, s') ← s.popsV [a, b]
    s'.roomV d
    let r := (List.range (tyCount t)).map (fun e => if s.sel g e then lane w (s0 xs) e else lane w (s1 xs) e)
    .ok (s'.pushV d (BitVec.ofNat 512 (ofLanes w r)) bad)
  | .nfin => vnfin t g a (d.setWidth 3) s
  | .and => vecMap t g [a, b] d false false (fun _ _ x => plain (s0 x &&& s1 x)) s
  | .or => vecMap t g [a, b] d false false (fun _ _ x => plain (s0 x ||| s1 x)) s
  | .xor => vecMap t g [a, b] d false false (fun _ _ x => plain (s0 x ^^^ s1 x)) s
  | .not => vecMap t g [a] d false false (fun _ _ x => plain (2 ^ w - 1 - s0 x)) s
  | .shl => vecMap t g [a, b] d false false (fun _ _ x => plain (s0 x * 2 ^ (s1 x % w) % 2 ^ w)) s
  | .shr => vecMap t g [a, b] d false false (fun _ _ x => plain (s0 x / 2 ^ (s1 x % w))) s
  | .sha => vecMap t g [a, b] d false false (fun _ _ x => plain (sarW w (s0 x) (s1 x % w))) s
  | .iota => do
    s.limV d
    let o ← if g != 0#4 then s.popV d else .ok ⟨0, false, s⟩
    o.d.roomV d
    let xs := (List.range (tyCount t)).map (fun e => if s.sel g e then e % 2 ^ w else lane w o.val.toNat e)
    .ok (o.d.pushV d (BitVec.ofNat 512 (ofLanes w xs)) o.bad)
  | .bcast => vbcast t g a d s
  | .extr => vextr t g b a d s
  | .ins => vins t g b a d s
  | .perm => vperm t g b a d s
  | .red => vecWhole [a] d (fun s x => vredVal t b.toNat (s.sel g) (s0 x)) s
  | .scan => vecWhole [a] d (fun s x => let (ys, fl) := vscanVal t b.toNat (s.sel g) (s0 x); (ofLanes w ys, fl)) s
  | .dot => vecWhole [a, b] d (fun s x => vdotVal t (s.sel g) (s0 x) (s1 x)) s
  | .had => vhad b a d s
  | .cvt => vcvt t g (b.extractLsb' 3 2) (b.extractLsb' 0 3) a d s
  | .pack => vpack t a d s
  | .unpk => vunpk t a d s

/-- A vector instruction belongs to the execute stream (R100). -/
def vector (op : VOp) (t : BitVec 3) (g : Guard) (b a d : GReg) (s : State) : Host.Outcome State Fault Refusal :=
  finish (fun s => if s.d.executes then onDesk (runV op t g b a d) s else .error (.wait .held)) s

/-! ### The instructions -/

/-- VADD (R121). -/
def execVadd (t : BitVec 3) (g : Guard) (b : GReg) (a : GReg) (d : GReg) (s : State) := vector .add t g b a d s
/-- VSUB (R121). -/
def execVsub (t : BitVec 3) (g : Guard) (b : GReg) (a : GReg) (d : GReg) (s : State) := vector .sub t g b a d s
/-- VMUL (R121). -/
def execVmul (t : BitVec 3) (g : Guard) (b : GReg) (a : GReg) (d : GReg) (s : State) := vector .mul t g b a d s
/-- VFMA (R121). -/
def execVfma (t : BitVec 3) (g : Guard) (b : GReg) (a : GReg) (d : GReg) (s : State) := vector .fma t g b a d s
/-- VFMS (R121). -/
def execVfms (t : BitVec 3) (g : Guard) (b : GReg) (a : GReg) (d : GReg) (s : State) := vector .fms t g b a d s
/-- VMIN (R121). -/
def execVmin (t : BitVec 3) (g : Guard) (b : GReg) (a : GReg) (d : GReg) (s : State) := vector .min t g b a d s
/-- VMAX (R121). -/
def execVmax (t : BitVec 3) (g : Guard) (b : GReg) (a : GReg) (d : GReg) (s : State) := vector .max t g b a d s
/-- VDIV (R121). -/
def execVdiv (t : BitVec 3) (g : Guard) (b : GReg) (a : GReg) (d : GReg) (s : State) := vector .div t g b a d s
/-- VABS (R122). -/
def execVabs (t : BitVec 3) (g : Guard) (a : GReg) (d : GReg) (s : State) := vector .abs t g 0 a d s
/-- VNEG (R122). -/
def execVneg (t : BitVec 3) (g : Guard) (a : GReg) (d : GReg) (s : State) := vector .neg t g 0 a d s
/-- VSQRT (R123). -/
def execVsqrt (t : BitVec 3) (g : Guard) (a : GReg) (d : GReg) (s : State) := vector .sqrt t g 0 a d s
/-- VRCP (R123). -/
def execVrcp (t : BitVec 3) (g : Guard) (a : GReg) (d : GReg) (s : State) := vector .rcp t g 0 a d s
/-- VRSQRT (R123). -/
def execVrsqrt (t : BitVec 3) (g : Guard) (a : GReg) (d : GReg) (s : State) := vector .rsqrt t g 0 a d s
/-- VEXP2 (R123). -/
def execVexp2 (t : BitVec 3) (g : Guard) (a : GReg) (d : GReg) (s : State) := vector .exp2 t g 0 a d s
/-- VLOG2 (R123). -/
def execVlog2 (t : BitVec 3) (g : Guard) (a : GReg) (d : GReg) (s : State) := vector .log2 t g 0 a d s
/-- VMOV (R122). -/
def execVmov (t : BitVec 3) (g : Guard) (a : GReg) (d : GReg) (s : State) := vector .mov t g 0 a d s
/-- VACT (R124). -/
def execVact (t : BitVec 3) (g : Guard) (f : GReg) (a : GReg) (d : GReg) (s : State) := vector .act t g f a d s
/-- VDACT (R124). -/
def execVdact (t : BitVec 3) (g : Guard) (f : GReg) (a : GReg) (d : GReg) (s : State) := vector .dact t g f a d s
/-- VCMP.eq (R125). -/
def execVcmpEq (t : BitVec 3) (g : Guard) (b : GReg) (a : GReg) (p : BitVec 3) (s : State) := vector .cmpEq t g b a (p.setWidth 5) s
/-- VCMP.ne (R125). -/
def execVcmpNe (t : BitVec 3) (g : Guard) (b : GReg) (a : GReg) (p : BitVec 3) (s : State) := vector .cmpNe t g b a (p.setWidth 5) s
/-- VCMP.lt (R125). -/
def execVcmpLt (t : BitVec 3) (g : Guard) (b : GReg) (a : GReg) (p : BitVec 3) (s : State) := vector .cmpLt t g b a (p.setWidth 5) s
/-- VCMP.le (R125). -/
def execVcmpLe (t : BitVec 3) (g : Guard) (b : GReg) (a : GReg) (p : BitVec 3) (s : State) := vector .cmpLe t g b a (p.setWidth 5) s
/-- VSEL (R126). -/
def execVsel (t : BitVec 3) (c : Guard) (b : GReg) (a : GReg) (d : GReg) (s : State) := vector .sel t c b a d s
/-- VNFIN (R127). -/
def execVnfin (t : BitVec 3) (g : Guard) (a : GReg) (p : BitVec 3) (s : State) := vector .nfin t g 0 a (p.setWidth 5) s
/-- VAND (R128). -/
def execVand (t : BitVec 3) (g : Guard) (b : GReg) (a : GReg) (d : GReg) (s : State) := vector .and t g b a d s
/-- VOR (R128). -/
def execVor (t : BitVec 3) (g : Guard) (b : GReg) (a : GReg) (d : GReg) (s : State) := vector .or t g b a d s
/-- VXOR (R128). -/
def execVxor (t : BitVec 3) (g : Guard) (b : GReg) (a : GReg) (d : GReg) (s : State) := vector .xor t g b a d s
/-- VNOT (R128). -/
def execVnot (t : BitVec 3) (g : Guard) (a : GReg) (d : GReg) (s : State) := vector .not t g 0 a d s
/-- VSHL (R128). -/
def execVshl (t : BitVec 3) (g : Guard) (b : GReg) (a : GReg) (d : GReg) (s : State) := vector .shl t g b a d s
/-- VSHR (R128). -/
def execVshr (t : BitVec 3) (g : Guard) (b : GReg) (a : GReg) (d : GReg) (s : State) := vector .shr t g b a d s
/-- VSHA (R128). -/
def execVsha (t : BitVec 3) (g : Guard) (b : GReg) (a : GReg) (d : GReg) (s : State) := vector .sha t g b a d s
/-- VIOTA (R128). -/
def execViota (t : BitVec 3) (g : Guard) (d : GReg) (s : State) := vector .iota t g 0 0 d s
/-- VBCAST (R129). -/
def execVbcast (t : BitVec 3) (g : Guard) (a : GReg) (d : GReg) (s : State) := vector .bcast t g 0 a d s
/-- VEXTR (R129). -/
def execVextr (t : BitVec 3) (g : Guard) (b : GReg) (a : GReg) (d : GReg) (s : State) := vector .extr t g b a d s
/-- VINS (R129). -/
def execVins (t : BitVec 3) (g : Guard) (b : GReg) (a : GReg) (d : GReg) (s : State) := vector .ins t g b a d s
/-- VPERM (R129). -/
def execVperm (t : BitVec 3) (g : Guard) (b : GReg) (a : GReg) (d : GReg) (s : State) := vector .perm t g b a d s
/-- VRED (R130). -/
def execVred (t : BitVec 3) (g : Guard) (o : GReg) (a : GReg) (d : GReg) (s : State) := vector .red t g o a d s
/-- VSCAN (R130). -/
def execVscan (t : BitVec 3) (g : Guard) (o : GReg) (a : GReg) (d : GReg) (s : State) := vector .scan t g o a d s
/-- VDOT (R130). -/
def execVdot (t : BitVec 3) (g : Guard) (b : GReg) (a : GReg) (d : GReg) (s : State) := vector .dot t g b a d s
/-- VHAD (R131). -/
def execVhad (n : GReg) (a : GReg) (d : GReg) (s : State) := vector .had 0 0 n a d s
/-- VCVT (R132). -/
def execVcvt (t : BitVec 3) (g : Guard) (r : BitVec 2) (s : BitVec 3) (a : GReg) (d : GReg) (x : State) := vector .cvt t g (r ++ s) a d x
/-- VPACK (R133). -/
def execVpack (t : BitVec 3) (a : GReg) (d : GReg) (s : State) := vector .pack t 0 0 a d s
/-- VUNPK (R133). -/
def execVunpk (t : BitVec 3) (a : GReg) (d : GReg) (s : State) := vector .unpk t 0 0 a d s

/-! ### Short forms (R31): the 32-bit equivalents with guard 0000 -/

/-- VADD.f32 (R31). -/
def execVaddF32S (s d : GReg) (x : State) := vector .add 0 0 s d d x
/-- VSUB.f32 (R31). -/
def execVsubF32S (s d : GReg) (x : State) := vector .sub 0 0 s d d x
/-- VMUL.f32 (R31). -/
def execVmulF32S (s d : GReg) (x : State) := vector .mul 0 0 s d d x
/-- VMAX.f32 (R31). -/
def execVmaxF32S (s d : GReg) (x : State) := vector .max 0 0 s d d x
/-- VMIN.f32 (R31). -/
def execVminF32S (s d : GReg) (x : State) := vector .min 0 0 s d d x
/-- VADD.bf16 (R31). -/
def execVaddBf16S (s d : GReg) (x : State) := vector .add 1 0 s d d x
/-- VMUL.bf16 (R31). -/
def execVmulBf16S (s d : GReg) (x : State) := vector .mul 1 0 s d d x
/-- VADD.i32 (R31). -/
def execVaddI32S (s d : GReg) (x : State) := vector .add 5 0 s d d x
/-- VSUB.i32 (R31). -/
def execVsubI32S (s d : GReg) (x : State) := vector .sub 5 0 s d d x
/-- VAND (R31). -/
def execVandS (s d : GReg) (x : State) := vector .and 5 0 s d d x
/-- VOR (R31). -/
def execVorS (s d : GReg) (x : State) := vector .or 5 0 s d d x
/-- VXOR (R31). -/
def execVxorS (s d : GReg) (x : State) := vector .xor 5 0 s d d x
/-- VMOV (R31). -/
def execVmovS (s d : GReg) (x : State) := vector .mov 5 0 0 s d x
/-- VABS.f32 (R31). -/
def execVabsF32S (s d : GReg) (x : State) := vector .abs 0 0 0 s d x
/-- VRELU.f32 (R31). -/
def execVreluF32S (s d : GReg) (x : State) := vector .act 0 0 0 s d x

end Sys2Proof.Machine
end

