-- ==== Sys2Proof/Machine/Rep.lean ====
section
/-! DEFINITION. The repetition buffer (R98, R99): recording, staggering, and the passes. -/

namespace Sys2Proof.Machine

/-- A vector word by its fields. -/
structure VIns where
  /-- operation -/
  op : VOp
  /-- type -/
  t : BitVec 3
  /-- guard or condition -/
  g : Guard
  /-- field b -/
  b : GReg
  /-- field a -/
  a : GReg
  /-- field d -/
  d : GReg
  deriving DecidableEq, Repr

/-- The operation of a V-format word by major and op3 (R43). -/
def vopCode (major op3 : Nat) : Option VOp :=
  let row : List VOp := match major with
    | 0x28 => [.add, .sub, .mul, .fma, .fms, .min, .max, .div]
    | 0x29 => [.abs, .neg, .sqrt, .rcp, .rsqrt, .exp2, .log2, .mov]
    | 0x2A => [.act, .dact, .cmpEq, .cmpNe, .cmpLt, .cmpLe, .sel, .nfin]
    | 0x2B => [.and, .or, .xor, .not, .shl, .shr, .sha, .iota]
    | 0x2C => [.bcast, .extr, .ins, .perm, .red, .scan, .dot, .had]
    | 0x2D => [.cvt, .pack, .unpk]
    | _ => []
  row[op3]?

/-- The fields a vector operation assigns: a reserved value makes the word a reserved encoding (R48, R119). -/
def VIns.ok (v : VIns) : Bool :=
  let b0 := v.b == 0#5
  let pd := v.d != 0#5 && decide (v.d.toNat < 8)
  match v.op with
  | .add | .sub | .mul | .fma | .fms | .min | .max | .dot => guardOk v.g && tyFI v.t
  | .div => guardOk v.g && tyF v.t
  | .abs | .neg => guardOk v.g && tyFI v.t && b0
  | .sqrt | .rcp | .rsqrt | .exp2 | .log2 => guardOk v.g && tyF v.t && b0
  | .mov | .not | .bcast => guardOk v.g && b0
  | .act => guardOk v.g && tyF v.t && decide (v.b.toNat ≤ 5)
  | .dact => guardOk v.g && tyF v.t && (decide (v.b.toNat ≤ 2) || v.b == 4#5)
  | .cmpEq | .cmpNe | .cmpLt | .cmpLe => guardOk v.g && tyFI v.t && pd
  | .sel => condOk v.g
  | .nfin => guardOk v.g && (tyF v.t || tyF8 v.t) && b0 && pd
  | .and | .or | .xor | .extr | .ins | .perm | .cvt => guardOk v.g
  | .shl | .shr | .sha => guardOk v.g && tyI v.t
  | .iota => guardOk v.g && tyI v.t && b0 && v.a == 0#5
  | .red | .scan => guardOk v.g && tyFI v.t && decide (v.b.toNat ≤ 2)
  | .had => v.g == 0#4 && v.t == 0#3 && decide (v.b.toNat ≤ 2)
  | .pack | .unpk => v.g == 0#4 && b0 && tyF8 v.t

/-- Whether field b names a register. -/
def VOp.readsB : VOp → Bool
  | .add | .sub | .mul | .fma | .fms | .min | .max | .div | .cmpEq | .cmpNe | .cmpLt | .cmpLe | .sel | .and | .or | .xor
  | .shl | .shr | .sha | .extr | .ins | .perm | .dot => true
  | _ => false
/-- Whether field a names a register. -/
def VOp.readsA : VOp → Bool
  | .iota => false
  | _ => true

/-- A V-format word, split. -/
def vopOf (w : BitVec 32) : Option VIns :=
  let f := (fF w).toNat
  match vopCode ((fM w).toNat / 2) (f / 8) with
  | some op => if w.getLsbD 0 then some ⟨op, BitVec.ofNat 3 f, fG w, fB w, fA w, fD w⟩ else none
  | none => none

/-- The 32-bit equivalent of a short form, and whether its vd stands for both d and a (R31). -/
def shortOf (h : BitVec 16) : Option (VIns × Bool) :=
  let s := h.extractLsb' 11 5
  let d := h.extractLsb' 6 5
  let two (op : VOp) (t : BitVec 3) : Option (VIns × Bool) := some (⟨op, t, 0, s, d, d⟩, true)
  let one (op : VOp) (t : BitVec 3) : Option (VIns × Bool) := some (⟨op, t, 0, 0, s, d⟩, false)
  if h.extractLsb' 0 2 ≠ 0#2 then none
  else match (h.extractLsb' 2 4).toNat with
  | 1 => two .add 0 | 2 => two .sub 0 | 3 => two .mul 0 | 4 => two .max 0 | 5 => two .min 0
  | 6 => two .add 1 | 7 => two .mul 1 | 8 => two .add 5 | 9 => two .sub 5
  | 10 => two .and 5 | 11 => two .or 5 | 12 => two .xor 5
  | 13 => one .mov 5 | 14 => one .abs 0 | 15 => one .act 0
  | _ => none

/-- A recorded instruction, split. -/
def RepWord.ins (r : RepWord) : Option VIns :=
  if r.short then (shortOf (r.word.setWidth 16)).map (·.1) else vopOf r.word
/-- Whether vd stands for both d and a. -/
def RepWord.both (r : RepWord) : Bool := r.short && (match shortOf (r.word.setWidth 16) with | some (_, b) => b | none => false)

/-- The instruction on pass `i` (R98): masked register fields moved forward by i × step modulo 32. -/
def Rep.stagger (r : Rep) (w : RepWord) (v : VIns) : VIns :=
  let k := BitVec.ofNat 5 (r.pass.toNat * r.step.toNat)
  let md := r.mask.getLsbD 0 || (w.both && r.mask.getLsbD 1)
  let ma := (if w.both then md else r.mask.getLsbD 1) && v.op.readsA
  let mb := r.mask.getLsbD 2 && v.op.readsB
  { v with d := if md then v.d + k else v.d, a := if ma then v.a + k else v.a, b := if mb then v.b + k else v.b }

/-- Records `n` instructions from an address: V-format words, short forms and references to V-format words; any other, and a reserved
encoding among them, traps with 0x008 and its address.  A fetch fault is REP's own (log 113). -/
def State.recordRep (s : State) (d : Desk) (va : Word) : Nat → Except Stop (State × List RepWord)
  | 0 => .ok (s, [])
  | n + 1 => do
    let (s, c) ← s.fetchCode d va
    let no : Except Stop RepWord := .error (.trap 0x008 va)
    let r ← match c with
      | .full w => if (vopOf w).any VIns.ok then .ok ⟨va, 4, false, false, w, w.setWidth 64⟩ else no
      | .half h =>
        if h.extractLsb' 0 2 = 2#2 then
          match resolveDict (d.entry (h.extractLsb' 6 10)) (h.extractLsb' 6 10) (h.extractLsb' 2 4) with
          | .ok (w, x) => if (vopOf w).any VIns.ok then .ok ⟨va, 2, true, false, w, x⟩ else no
          | .error _ => no
        else if (shortOf h).isSome then .ok ⟨va, 2, false, true, h.setWidth 32, h.setWidth 64⟩ else no
    let (s, rs) ← s.recordRep d (va + BitVec.ofNat 64 r.len) n
    .ok (s, r :: rs)

/-- The end of the recorded body. -/
def Rep.stop (r : Rep) : Word :=
  match r.words.getLast? with
  | some w => w.addr + BitVec.ofNat 64 w.len
  | none => 0

/-- What a leader forwards for a recorded instruction: its word, since its fetch unit passes it once (R18, R111). -/
def RepWord.fwd (r : RepWord) : Fwd := ⟨r.word, r.short, r.addr, r.len, r.dict, r.xval, false⟩
/-- A forwarded word as a recorded instruction. -/
def Fwd.rep (f : Fwd) : RepWord := ⟨f.addr, f.len, f.dict, f.half, f.word, f.xval⟩

/-- The recorded instructions of a REP: from memory, or, for an attached follower, from the words its leader forwards (R111).  A leader
waits until every forwarding queue has room for all of them (R18). -/
def State.repWords (s : State) (d : Desk) (n : Nat) : Except Stop (State × List RepWord) :=
  match d.gang with
  | .follower _ =>
    if !d.inStream then s.recordRep d d.nextPc n
    else if d.fwd.length ≤ n then .error (.wait .gangFollower)
    else .ok (s.setD { d with fwd := d.fwd.drop n, gen := d.gen.map (fun g => { g with taken := g.taken ++ d.fwd.take n }) },
      ((d.fwd.drop 1).take n).map Fwd.rep)
  | .leader k =>
    match s.recordRep d d.nextPc n with
    | .error e => .error e
    | .ok (s, ws) =>
      if d.forwards && (gangCores s.core k).any (fun c =>
          let f := s.deskAt c 0
          decide (f.gang = .follower s.core) && decide (32 < f.fwd.length + n + 1)) then .error (.wait .forward)
      else if d.forwards then
        let s := s.forward s.core k d.fwdOf
        .ok ((ws.foldl (fun s w => s.forward s.core k w.fwd) s).setD { d with sent := true }, ws)
      else .ok (s, ws)
  | _ => s.recordRep d d.nextPc n

/-- REP (R98). -/
def repStart (m : BitVec 3) (step a : GReg) (n : BitVec 4) (s : State) : Except Stop State := do
  let d := s.d
  d.limG a
  d.await [a] [] [] []
  if d.rep.active then .error (.wait .held)
  else
    let c ← d.useG a
    if 2 ^ 32 ≤ c.val.toNat then .error (.trap 0x009 c.val)
    else
      let (s, ws) ← (s.setD c.d).repWords c.d (n.toNat + 1)
      let r : Rep := { words := ws, step := step, mask := m, count := c.val, active := c.val != 0, user := d.user }
      let d := { s.d with rep := r }
      .ok (s.setD (if c.val = 0 then d.skipTo r.stop else d))
/-- REP (R98). -/
def execRep (m : BitVec 3) (s a : GReg) (n : BitVec 4) (x : State) := finish (heldFlow (repStart m s a n)) x

/-- Where a desk stands in its repetition buffer: the place of its pc among the recorded addresses, or past the last; nowhere while the
access stream runs ahead of the passes (R98), or in the other mode. -/
def Desk.repAt (d : Desk) : Option Nat :=
  if !d.rep.active || d.user != d.rep.user || !d.executes then none
  else match d.rep.words.findIdx? (fun w => w.addr == d.pc) with
    | some j => some j
    | none => if d.pc = d.rep.stop then some d.rep.words.length else none

/-- Runs one recorded instruction on the pass (R98, R99). -/
def repOne (w : RepWord) (s : Desk) : Except Stop Desk :=
  match w.ins with
  | none => .error (.trap 0x001 s.xword)
  | some v =>
    let v := s.rep.stagger w v
    if v.ok then runV v.op v.t v.g v.b v.a v.d s else .error (.trap 0x001 s.xword)

/-- The desk as it issues a recorded instruction. -/
def Desk.atWord (d : Desk) (j : Nat) (w : RepWord) : Desk :=
  { d with pc := w.addr, len := w.len, dict := w.dict, xword := w.xval, rep := { d.rep with idx := j } }

/-- The instructions of a pass from the j-th on: each retires; a trap is taken at its own address with the buffer kept (R99). -/
def State.repFrom (s : State) : Nat → List RepWord → State
  | _, [] =>
    let d := s.d
    let r : Rep := { d.rep with pass := d.rep.pass + 1, idx := 0 }
    if r.pass.toNat < r.count.toNat then
      s.setD { d with rep := r, pc := match r.words with | w :: _ => w.addr | [] => d.pc }
    else
      -- the last pass has retired: the body's end is reached, where enclosing loops may end (R95)
      let last := match d.rep.words.getLast? with | some w => w.addr | none => d.pc
      s.setD ({ d with rep := { r with active := false }, pc := last }.fall d.rep.stop)
  | j, w :: ws =>
    let d := s.d.atWord j w
    match repOne w d with
    | .ok d' =>
      ((s.breakAt d').setD { d' with wait := none, grant := 0, pc := w.addr + BitVec.ofNat 64 w.len, icnt := if d'.user then d'.icnt + 1 else d'.icnt }).repFrom (j + 1) ws
    | .error e => (s.setD d).stopWith e

/-- REP_PASS (R98): the pass under way of a desk goes on from where the desk stands. -/
def execRepPass (c : CoreId) (i : DeskId) (s : State) : Host.Outcome State Fault Refusal :=
  event (fun s =>
    let s := { s with core := c, desk := i }
    match s.d.repAt with
    | some j => some (s.repFrom j (s.d.rep.words.drop j))
    | none => none) s

end Sys2Proof.Machine
end

