-- ==== Sys2Proof/Machine/Gang.lean ====
section
/-! DEFINITION. Gangs (R18, R109 to R114): joining, forwarding, divergence and reconvergence. -/

namespace Sys2Proof.Machine

/-- A desk with another gang role. -/
def Desk.inGang (d : Desk) (r : GangRole) : Desk := { d with gang := r }

/-- Whether a core stands offered to a leader's launch (R109). -/
def State.offers (s : State) (c : CoreId) (l : Option Nat) : Bool :=
  let d := s.deskAt c 0
  decide (d.gang = .offered) && d.wait == some .gangFollower && d.launch == l

/-- A follower is taken (R109): its GANG retires, a port that it names popped (R37), and it will go on after it at UNGANG (R114). -/
def Desk.taken (d : Desk) (c : CoreId) : Desk :=
  let d := match d.popG ((d.fwdWord.1).extractLsb' 12 5) with | .ok x => x.d | .error _ => d
  let d' := d.retire
  { d' with gang := .follower c, gangPc := d'.pc, fwd := [] }

/-- GANG (R109, R110). -/
def gang (a : GReg) (s : State) : Except Stop (State × Option Wait) := do
  let d := s.d
  d.limG a
  d.await [a] [] [] []
  let x ← d.useG a
  let n := x.val.toNat
  let member := match d.gang with | .none | .offered => false | _ => true
  if s.desk != 0 || member then .error (.trap 0x011 d.xword)
  else if n = 0 then .ok (s.setD (d.inGang .offered), some .gangFollower)
  else if n = 1 ∨ 16 < n ∨ 15 < s.core.toNat % 16 + n - 1 then .error (.trap 0x010 x.val)
  else
    let fs := gangCores s.core n
    if fs.all (fun c => s.offers c d.launch) then
      let s := fs.foldl (fun s c => (s.breakOf c 0).setDeskAt c 0 ((s.deskAt c 0).taken s.core)) s
      .ok (s.setD { x.d with gang := .leader n, sent := true }, none)
    else .error (.wait .gangLeader)
/-- GANG (R109). -/
def execGang (a : GReg) (s : State) :=
  if s.d.gen.isSome then .next (s.hold .held) else finishHold (gang a) s

/-- The cores of a leader's gang, itself left out, as it stands. -/
def State.followers (s : State) : List CoreId :=
  match s.d.gang with | .leader n => gangCores s.core n | _ => []

/-- The leader forwards the instruction that it is about to wait at (R113, R114). -/
def State.sendNow (s : State) : State :=
  match s.d.gang with
  | .leader n => if s.d.forwards then (s.forward s.core n s.d.fwdOf).setD { s.d with sent := true } else s
  | _ => s

/-- UNGANG (R110, R114): the leader completes it when every follower waits at it. -/
def ungang (s : State) : Except Stop (State × Option Wait) :=
  match s.d.gang with
  | .leader _ =>
    let s := s.sendNow
    let fs := s.followers
    if fs.all (fun c => (s.deskAt c 0).wait == some .ungang) then
      let s := fs.foldl (fun s c =>
        let d := s.deskAt c 0
        (s.breakOf c 0).setDeskAt c 0 { d.retire with gang := .none, fwd := [], pc := d.gangPc }) s
      .ok (s.setD (s.d.inGang .none), none)
    else .ok (s, some .ungang)
  | .follower _ | .detached _ => .error (.wait .ungang)
  | _ => .error (.trap 0x011 s.d.xword)
/-- UNGANG (R114). -/
def execUngang (s : State) :=
  if s.d.gen.isSome then .next (s.hold .held) else finishHold ungang s

/-- BRD (R112): each member takes its own outcome; an attached follower whose outcome differs from the leader's detaches. -/
def brd (o : BitVec 11) (c : BitVec 3) (b a : GReg) (s : Desk) : Except Stop Desk := do
  let d ← branch o c b a s
  match s.gang, s.fwd with
  | .follower l, f :: _ =>
    .ok (if s.inStream && d.jump.isSome != f.taken then { d with gang := .detached l, fwd := [] } else d)
  | _, _ => .ok d
/-- BRD (R112). -/
def execBrd (o : BitVec 11) (_l : BitVec 1) (c : BitVec 3) (b a : GReg) (s : State) :=
  finish (heldBack (onDesk (brd o c b a))) s

/-- A forwarded word at which an attached follower may still detach (R112). -/
def Fwd.diverges (f : Fwd) : Bool := !f.half && f.word.toNat / 2 % 64 == 0x11
/-- Whether a member lets its leader pass a REJOIN of a label: detached, it waits at that label or at UNGANG; attached, no BRD that it
has not executed could detach it. -/
def Desk.arrived (d : Desk) (t : Word) : Bool :=
  match d.gang, d.wait with
  | .follower _, _ => !d.fwd.any (·.diverges)
  | .detached _, some (.rejoin x) => x == t
  | .detached _, some .ungang => true
  | _, _ => false
/-- The label of a detached follower that waits at another REJOIN (R113). -/
def Desk.strayed (d : Desk) (t : Word) : Option Word :=
  match d.gang, d.wait with
  | .detached _, some (.rejoin x) => if x == t then none else some x
  | _, _ => none

/-- A detached member goes on attached, at the label: its REJOIN retires, or its wait at UNGANG ends. -/
def Desk.rejoined (d : Desk) (l : CoreId) (t : Word) : Desk :=
  match d.gang, d.wait with
  | .detached _, some (.rejoin _) => { { d with jump := some (t, false) }.retire with gang := .follower l, fwd := [] }
  | .detached _, _ => { d with wait := none, latch := none, pc := t, gang := .follower l, fwd := [] }
  | _, _ => d
/-- Its REJOIN retires (R387). -/
def State.rejoinBreak (s : State) (c : CoreId) : State :=
  match (s.deskAt c 0).gang, (s.deskAt c 0).wait with
  | .detached _, some (.rejoin _) => s.breakOf c 0
  | _, _ => s

/-- REJOIN (R113): the leader completes it when every detached follower has arrived, and forwards it; an attached follower, which meets
it after its leader has passed it, and a core outside a gang jump; a detached follower waits for its leader. -/
def rejoin (o : BitVec 20) (s : State) : Except Stop (State × Option Wait) :=
  let t := targetJ s.d.pc o
  match s.d.gang with
  | .leader _ =>
    let fs := s.followers
    match fs.findSome? (fun c => (s.deskAt c 0).strayed t) with
    | some x => .error (.trap 0x013 x)
    | none =>
      if fs.all (fun c => (s.deskAt c 0).arrived t) then
        match s.d.jumpTo t false with
        | .error e => .error e
        | .ok d =>
          let s := (s.setD d).sendNow
          .ok (fs.foldl (fun s c => (s.rejoinBreak c).setDeskAt c 0 ((s.deskAt c 0).rejoined s.core t)) s, none)
      else .error (.wait (.rejoin t))
  | .detached _ => .error (.wait (.rejoin t))
  | _ => match s.d.jumpTo t false with
    | .ok d => .ok (s.setD d, none)
    | .error e => .error e
/-- REJOIN (R113). -/
def execRejoin (o : BitVec 20) (s : State) :=
  if s.d.gen.isSome then .next (s.hold .held) else finishHold (rejoin o) s

/-- GANG_FORWARD (R18, R111): the word at the head of a follower's forwarding queue stands in place of the one in memory, at the
leader's address, and issues next. -/
def execGangForward (c : CoreId) (s : State) : Host.Outcome State Fault Refusal :=
  event (fun s =>
    let d := s.deskAt c 0
    match d.gang, d.fwd with
    | .follower _, f :: _ =>
      if d.inStream && d.latch.isNone then
        some (s.setDeskAt c 0 { d with
          latch := some (f.word, f.half), pc := f.addr, len := f.len, dict := f.dict, xword := f.xval })
      else none
    | _, _ => none) s

/-- GANG_WATCHDOG (R110, R113): a gang or reconvergence wait has lasted 2^20 clk; a leader that traps so has ganged no core. -/
def execGangWatchdog (c : CoreId) (i : DeskId) (s : State) : Host.Outcome State Fault Refusal :=
  event (fun s =>
    let d := s.deskAt c i
    match d.wait with
    | some .gangLeader | some (.rejoin _) => some (s.trapAt c i 0x012 0)
    | some .gangFollower =>
      if decide (d.gang = .offered) then some ((s.setDeskAt c i (d.inGang .none)).trapAt c i 0x012 0) else none
    | _ => none) s

end Sys2Proof.Machine
end

