-- ==== Sys2Proof/Machine/Local.lean ====
section
/-! DEFINITION. The scratchpad (R145, R146), the tile table (R147 to R155) and the bit-stream unit (R137 to R143). -/

namespace Sys2Proof.Machine

/-- The region of a desk's launch (R17, R146): an access outside it traps with 0x045 and its address. -/
def Desk.inside (d : Desk) (ea n : Nat) : Bool := decide (d.base ≤ ea ∧ ea + n ≤ d.base + d.kern.scratch)

/-! ### Tiles against accesses (R151, R152) -/

/-- A tile's number of state. -/
def TileSt.code : TileSt → Nat
  | .empty => 0 | .filling => 1 | .ready => 2 | .draining => 3
/-- Whether a defined tile overlaps a run of bytes. -/
def Tile.overlaps (t : Tile) (off n : Nat) : Bool :=
  t.size != 0 && decide (t.base < off + n) && decide (off < t.base + t.size)
/-- FILLING with another producer. -/
def Tile.foreign (t : Tile) (self : BitVec 4) : Bool := decide (t.st = .filling) && t.prod != self
/-- This core's number in its cluster (R20). -/
def State.self (s : State) : BitVec 4 := s.core.setWidth 4
/-- The lowest tile that satisfies a test. -/
def Core.findTile (c : Core) (p : Tile → Bool) : Option Nat := c.tiles.toList.findIdx? p
/-- A read of local bytes waits for a tile that another core fills (R151). -/
def State.mayRead (s : State) (off n : Nat) : Except Stop Unit :=
  match s.c.findTile (fun t => t.overlaps off n && t.foreign s.self) with
  | some t => .error (.wait (.tile (BitVec.ofNat 6 t)))
  | none => .ok ()
/-- XVAL of a wrong tile state. -/
def tileXval (t : Nat) (st : TileSt) : Word := BitVec.ofNat 64 (t + st.code * 256)
/-- The lowest address of a run of bytes in the input region of a restartable share that runs on the core (R340). -/
def Core.protects (c : Core) (off n : Nat) : Option Nat :=
  c.desks.toList.findSome? (fun d =>
    let lo := d.base + d.kern.inOff
    let hi := lo + d.kern.inLen
    if d.occ && d.launch.isSome && d.kern.restart && (!d.exch || c.work.byBell) && decide (off < hi) && decide (lo < off + n)
    then some (max off lo) else none)
/-- A store of the core's own into a restartable share's input region traps (R340), and so does one into a tile that another core
fills, or that drains (R152).  A run of bytes is checked whole: 0x184 first, then the lowest-numbered tile (DEDUCED, log 139). -/
def State.mayWrite (s : State) (off n : Nat) : Except Stop Unit :=
  match s.c.protects off n with
  | some a => .error (.trap 0x184 (BitVec.ofNat 64 a))
  | none =>
  match s.c.findTile (fun t => t.overlaps off n && (t.foreign s.self || decide (t.st = .draining))) with
  | some t => .error (.trap 0x0C5 (tileXval t ((s.c.tiles.toList.getD t {}).st)))
  | none => .ok ()

/-- Writes the core and the desk that move. -/
def State.setCD (s : State) (c : Core) (d : Desk) : State := s.setC (c.put s.desk d)

/-! ### LDL, STL, VLDL, VSTL (R146) -/

/-- Bytes of a size code. -/
def sizeBytes (z : BitVec 3) : Nat := 2 ^ (z.toNat % 4)
/-- A scaled offset. -/
def scaled (o : BitVec 10) (n : Nat) : Word := o.signExtend 64 * BitVec.ofNat 64 n
/-- The address of a scratchpad access, with its bounds. -/
def localEa (b : GReg) (o : BitVec 10) (n : Nat) (acc : BitVec 2) (d : Desk) : Except Stop (Nat × Desk) := do
  let x ← d.useG b
  let ea := x.val + scaled o n
  if d.inside ea.toNat n then .ok (ea.toNat, x.d) else .error (.trap 0x045 ea acc)
/-- The value a load makes of bytes: sign-extended for sizes 0 to 3, zero-extended above. -/
def loadValue (z : BitVec 3) (bs : List Byte) : Word :=
  let x : Word := BitVec.ofNat 64 (leNat bs)
  if z.toNat < 4 then (BitVec.ofNat (8 * bs.length) (leNat bs)).signExtend 64 else x
/-- LDL (R146). -/
def ldl (o : BitVec 10) (z : BitVec 3) (b d : GReg) (s : State) : Except Stop State := do
  let n := sizeBytes z
  s.d.limsG [b, d]
  s.d.await [b] [] [d] []
  let (ea, k) ← localEa b o n accRead s.d
  s.mayRead ea n
  .ok (s.setD (k.pushG d (loadValue z (s.c.padRead ea n)) (s.c.padBad ea n)))
/-- VLDL (R146). -/
def vldl (o : BitVec 10) (b d : GReg) (s : State) : Except Stop State := do
  s.d.limG b
  s.d.limV d
  s.d.await [b] [] [] [d]
  let (ea, k) ← localEa b o 64 accRead s.d
  s.mayRead ea 64
  .ok (s.setD (k.pushV d (BitVec.ofNat 512 (leNat (s.c.padRead ea 64))) (s.c.padBad ea 64)))
/-- STL (R146): the base is field b, then the value (R37). -/
def stl (o : BitVec 10) (z : BitVec 3) (b d : GReg) (s : State) : Except Stop State := do
  let n := sizeBytes z
  s.d.limsG [b, d]
  s.d.await [b, d] [] [] []
  let (ea, k) ← localEa b o n accWrite s.d
  let x ← k.popG d
  s.mayWrite ea n
  .ok (s.setCD (s.c.padWrite ea (natLe x.val.toNat n) x.bad) x.d)
/-- VSTL (R146). -/
def vstl (o : BitVec 10) (b d : GReg) (s : State) : Except Stop State := do
  s.d.limG b
  s.d.limV d
  s.d.await [b] [d] [] []
  let (ea, k) ← localEa b o 64 accWrite s.d
  let x ← k.popV d
  s.mayWrite ea 64
  .ok (s.setCD (s.c.padWrite ea (natLe x.val.toNat 64) x.bad) x.d)

/-- LDL (R146); a run-ahead path runs it (R104). -/
def execLdl (o : BitVec 10) (z : BitVec 3) (b d : GReg) (s : State) := finish (ldl o z b d) s
/-- VLDL (R146). -/
def execVldl (o : BitVec 10) (b d : GReg) (s : State) := finish (vldl o b d) s
/-- STL (R146). -/
def execStl (o : BitVec 10) (z : BitVec 2) (b d : GReg) (s : State) := finish (heldBack (stl o (z.setWidth 3) b d)) s
/-- VSTL (R146). -/
def execVstl (o : BitVec 10) (b d : GReg) (s : State) := finish (heldBack (vstl o b d)) s

/-! ### Tile instructions (R148, R149) -/

/-- The entry of a tile. -/
def Core.tile (c : Core) (t : Nat) : Tile := c.tiles.toList.getD t {}
/-- Writes an entry. -/
def Core.setTile (c : Core) (t : BitVec 6) (x : Tile) : Core := { c with tiles := c.tiles.set t.toNat x t.isLt }
/-- The tile number of an operand, checked against `.tiles` (R147). -/
def tileNo (d : Desk) (x : Word) : Except Stop (BitVec 6) :=
  let t := x.setWidth 6
  if t.toNat < d.kern.tiles then .ok t else .error (.trap 0x0C4 (t.setWidth 64))
/-- A tile instruction of operands `rs`, a first: where the guard selects it, `f` gives the entry from the operands and the entry
as it stands. -/
def tileOp (g : Guard) (rs : List GReg) (f : State → BitVec 6 → Word → Tile → Except Stop Tile) (s : State) : Except Stop State := do
  let t ← s.d.take g rs [] rs.length
  if t.on then
    let n ← tileNo t.d (t.x 0)
    let e ← f s n (t.x 1) (s.c.tile n.toNat)
    .ok (s.setCD (s.c.setTile n e) t.d)
  else .ok (s.setD t.d)
/-- A wrong state. -/
def wrongTile (n : BitVec 6) (e : Tile) : Except Stop Tile := .error (.trap 0x0C5 (tileXval n.toNat e.st))

/-- TDEF's operand check and effect. -/
def tdef (s : State) (n : BitVec 6) (x : Word) (e : Tile) : Except Stop Tile :=
  let base := (x.extractLsb' 20 19).toNat
  let size := (x.extractLsb' 0 20).toNat
  let clash := (List.range 64).any (fun k => k != n.toNat && (s.c.tile k).overlaps base size)
  if x.extractLsb' 39 25 ≠ 0 ∨ base % 64 ≠ 0 ∨ size % 64 ≠ 0 ∨ 0x80000 < size ∨
      (size ≠ 0 ∧ (s.d.inside base size = false ∨ clash = true)) then .error (.trap 0x0C6 x)
  else if e.st ≠ .empty then wrongTile n e
  else .ok { e with base := base, size := size }
/-- TFILL -/
def tfill (_ : State) (n : BitVec 6) (x : Word) (e : Tile) : Except Stop Tile :=
  if 15 < x.toNat then .error (.trap 0x0C6 x)
  else if e.st ≠ .empty ∨ e.size = 0 then wrongTile n e
  else .ok { e with st := .filling, prod := x.setWidth 4 }
/-- TREADY -/
def tready (s : State) (n : BitVec 6) (_ : Word) (e : Tile) : Except Stop Tile :=
  if e.st = .filling ∧ e.prod = s.self then .ok { e with st := .ready } else wrongTile n e
/-- TDRAIN: it waits while the tile is FILLING (R151). -/
def tdrain (_ : State) (n : BitVec 6) (_ : Word) (e : Tile) : Except Stop Tile :=
  if e.st = .filling then .error (.wait (.tile n))
  else if e.st = .ready then .ok { e with st := .draining } else wrongTile n e
/-- TFREE -/
def tfree (_ : State) (n : BitVec 6) (_ : Word) (e : Tile) : Except Stop Tile :=
  if e.st = .filling then wrongTile n e else .ok { e with st := .empty }
/-- TWAIT -/
def twait (_ : State) (n : BitVec 6) (x : Word) (e : Tile) : Except Stop Tile :=
  if 3 < x.toNat then .error (.trap 0x0C6 x)
  else if e.st.code = x.toNat then .ok e else .error (.wait (.tile n))

/-- TDEF (R148). -/
def execTdef (g : Guard) (b a : GReg) (s : State) := finish (heldBack (tileOp g [a, b] tdef)) s
/-- TFILL (R148, R149). -/
def execTfill (g : Guard) (b a : GReg) (s : State) := finish (heldBack (tileOp g [a, b] tfill)) s
/-- TREADY (R148). -/
def execTready (g : Guard) (a : GReg) (s : State) := finish (heldBack (tileOp g [a] tready)) s
/-- TDRAIN (R148). -/
def execTdrain (g : Guard) (a : GReg) (s : State) := finish (heldBack (tileOp g [a] tdrain)) s
/-- TFREE (R148). -/
def execTfree (g : Guard) (a : GReg) (s : State) := finish (heldBack (tileOp g [a] tfree)) s
/-- TWAIT (R148). -/
def execTwait (g : Guard) (b a : GReg) (s : State) := finish (heldBack (tileOp g [a, b] twait)) s

/-- TSTAT's result (R147); PRODUCER reads 0 outside FILLING (DESIGN CHOICE, log 140). -/
def Tile.stat (e : Tile) : Word :=
  BitVec.ofNat 64 (e.st.code + (if e.size = 0 then 0 else 4) + (if e.st = .filling then e.prod.toNat * 256 else 0))
/-- TSTAT (R148). -/
def tstat (g : Guard) (a d : GReg) (s : State) : Except Stop State := do
  let t ← s.d.take g [a] [d] 1
  if t.on then
    let n ← tileNo t.d (t.x 0)
    .ok (s.setD (t.d.pushG d (s.c.tile n.toNat).stat false))
  else .ok (s.setD t.d)
/-- TSTAT (R148). -/
def execTstat (g : Guard) (a d : GReg) (s : State) := finish (heldBack (tstat g a d)) s

/-! ### Multicast (R150) -/

/-- A target that accepts: a core of the same launch whose tile is FILLING from this core. -/
def State.accepts (s : State) (x : Cast) (k : CoreId) : Bool :=
  let e := (s.coreAt k).tile x.tile.toNat
  (s.coreAt k).work.launch == s.c.work.launch && e.size != 0 && decide (e.st = .filling) && e.prod == s.self
/-- Targets that do not accept yet, as a mask. -/
def State.notAccepting (s : State) (x : Cast) : Word :=
  BitVec.ofNat 64 (((List.range 16).filter (fun k => x.mask.getLsbD k &&
    !s.accepts x (BitVec.ofNat 10 (s.core.toNat / 16 * 16 + k)))).foldl (fun a k => a + 2 ^ k) 0)
/-- A write of a copied run in 64-byte pieces, each with the poison of its source (R364). -/
def Core.padCopy (c : Core) (dst : Nat) : List (List Byte × Bool) → Core
  | [] => c
  | (bs, bad) :: t => (c.padWrite dst bs bad).padCopy (dst + bs.length) t
/-- A run of scratchpad bytes in 64-byte pieces with their poison. -/
def Core.padPieces (c : Core) (off : Nat) : Nat → List (List Byte × Bool)
  | 0 => []
  | k + 1 => (c.padRead off 64, c.padBad off 64) :: c.padPieces (off + 64) k
/-- TCAST delivers once every target accepts: every target is written at once, then READY. -/
def State.castDeliver (s : State) (x : Cast) : Except Stop State := do
  let ks := clusterCores s.core x.mask
  match ks.find? (fun k => decide (((s.coreAt k).tile x.tile.toNat).size < x.len)) with
  | some k => .error (.trap 0x0C6 (BitVec.ofNat 64 (k.toNat % 16 * 64 + x.tile.toNat)))
  | none =>
    match ks.findSome? (fun k => (s.coreAt k).protects ((s.coreAt k).tile x.tile.toNat).base x.len) with
    | some a => .error (.trap 0x184 (BitVec.ofNat 64 a))
    | none => pure ()
    s.mayRead x.src x.len
    let ps := s.c.padPieces x.src (x.len / 64)
    .ok (ks.foldl (fun s k =>
      let c := s.coreAt k
      let e := c.tile x.tile.toNat
      s.setCoreAt k ((c.padCopy e.base ps).setTile x.tile { e with st := .ready })) s)
/-- TCAST (R150); a nonzero g[b][63:22] is the first of the faults of its operands, with 0x0C6 and g[b] (DEDUCED, log 141). -/
def tcast (g : Guard) (b a d : GReg) (s : State) : Except Stop (State × Option Wait) := do
  let t ← s.d.take g [a, b, d] [] 3
  if !t.on then .ok (s.setD t.d, none)
  else
    let src := t.x 0
    let gb := t.x 1
    let len := t.x 2
    let mask := gb.extractLsb' 6 16
    let n := gb.setWidth 6
    if gb.extractLsb' 22 42 ≠ 0 ∨ len = 0 ∨ len.toNat % 64 ≠ 0 ∨ mask = 0 ∨ mask.getLsbD s.self.toNat then .error (.trap 0x0C6 gb)
    else if s.d.inside src.toNat len.toNat = false then .error (.trap 0x045 src)
    else if s.d.kern.tiles ≤ n.toNat then .error (.trap 0x0C4 (n.setWidth 64))
    else
      let x : Cast := ⟨src.toNat, len.toNat, mask, n, [a, b, d]⟩
      if s.notAccepting x ≠ 0 then .ok (s.setD { s.d with cast := some x }, some (.tile n))
      else match s.castDeliver x with
        | .ok s' => .ok (s'.setD t.d, none)
        | .error (.wait w) => .ok (s.setD { s.d with cast := some x }, some w)
        | .error e => .error e
/-- TCAST (R150). -/
def execTcast (g : Guard) (b a d : GReg) (s : State) :=
  if s.d.gen.isSome then .next (s.hold .held) else finishHold (tcast g b a d) s

/-- TCAST_DELIVERY (R150): every target of a waiting TCAST has accepted; the tiles are written and the TCAST issues again to
retire, or traps where a target is too small. -/
def execTcastDelivery (c : CoreId) (i : DeskId) (s : State) : Host.Outcome State Fault Refusal :=
  event (fun s =>
    let s := { s with core := c, desk := i }
    match s.d.cast with
    | none => none
    | some x =>
      if s.notAccepting x ≠ 0 then none
      else match s.castDeliver x with
        | .ok t => match t.d.popsG x.regs with
          | .ok (_, d) => some (t.setD d).retire
          | .error _ => none
        | .error (.wait _) => none
        | .error e => some (s.stopWith e)) s

/-- TILE_WATCHDOG (R153): a wait on a tile has lasted 2^20 clk; XVAL is the tile, or the mask of targets not accepting. -/
def execTileWatchdog (c : CoreId) (i : DeskId) (s : State) : Host.Outcome State Fault Refusal :=
  event (fun s =>
    let s := { s with core := c, desk := i }
    match s.d.wait, s.d.cast with
    | some (.tile _), some x => some (s.trapAt c i 0x0C7 (s.notAccepting x))
    | some (.tile t), none => some (s.trapAt c i 0x0C7 (t.setWidth 64))
    | _, _ => none) s

/-- Tiles FILLING or DRAINING, as a mask (R154). -/
def Core.busyTiles (c : Core) : Word :=
  BitVec.ofNat 64 (((List.range 64).filter (fun k => let st := (c.tile k).st; decide (st = .filling) || decide (st = .draining))).foldl
    (fun a k => a + 2 ^ k) 0)
/-- Every tile undefined and EMPTY (R147). -/
def Core.resetTiles (c : Core) : Core := { c with tiles := Vector.replicate 64 {} }

end Sys2Proof.Machine
end

