-- ==== Sys2Proof/Machine/Bits.lean ====
section
/-! DEFINITION. The bit-stream unit (R137 to R142) and the bit-field instructions (R143). -/

namespace Sys2Proof.Machine

/-! ### The buffer (R138, R139) -/

/-- Stream position. -/
def BitBuf.pos (b : BitBuf) : Int :=
  if b.mode = 2#2 then 8 * b.ptr.toNat + b.count.toNat else 8 * (b.ptr.toNat : Int) - b.count.toNat
/-- BBCNT as a register. -/
def BitBuf.cnt (b : BitBuf) : Word := b.mode.setWidth 64 <<< 8 ||| b.count.setWidth 64
/-- A state that R138 permits. -/
def BitBuf.sound (b : BitBuf) : Bool :=
  b.mode != 3#2 && decide (b.count.toNat ≤ 128) && decide (b.ptr.toNat ≤ b.stop.toNat) &&
  decide (b.buf.toNat < 2 ^ b.count.toNat) &&
  (if b.mode = 1#2 then decide (0 ≤ b.pos) && decide (b.ptr.toNat = min b.stop.toNat ((b.pos.toNat + 128) / 8))
   else if b.mode = 2#2 then decide (b.count.toNat ≤ 7) else true)
/-- The mode check (R139, R141 step 2). -/
def BitBuf.need (b : BitBuf) (modes : List (BitVec 2)) : Except Stop Unit :=
  if b.sound && (modes.isEmpty || modes.contains b.mode) then .ok () else .error (.trap 0x0D1 b.cnt)
/-- The lowest of `n` bytes from an offset that lies outside the region. -/
def Desk.outside (d : Desk) (off n : Nat) : Option Nat :=
  if n = 0 then none
  else if off < d.base then some off
  else if d.base + d.kern.scratch < off + n then some (max off (d.base + d.kern.scratch)) else none

/-- Read mode: P moves to `p`, keeping the bytes already held, and the buffer refills (R138): bounds, the end of the stream, tiles and
poison in the order of R141.  BBINIT moves so too, and traps with 0x0D0 where its start lies past an END that reads 0 (DEDUCED, log 102). -/
def bbMove (s : State) (b : BitBuf) (p : Nat) (fresh : Bool) : Except Stop BitBuf := do
  let ptr := if fresh then p / 8 else b.ptr.toNat
  let lo := ptr
  let hi := min b.stop.toNat ((p + 128) / 8)
  match s.d.outside lo (hi - lo) with
  | some x => .error (.trap 0x045 (BitVec.ofNat 64 x))
  | none =>
    if 8 * b.stop.toNat < p then .error (.trap 0x0D0 (BitVec.ofNat 64 p))
    else
      if lo < hi then s.mayRead lo (hi - lo) else pure ()
      match if lo < hi then s.c.padBadAt lo (hi - lo) else none with
      | some u => .error (.trap 0x1C0 (BitVec.ofNat 64 (64 * u)))
      | none =>
        let held := if fresh then 0 else b.buf.toNat / 2 ^ (p - b.pos.toNat)
        let got := leNat (s.c.padRead lo (hi - lo))
        let new := if p ≤ 8 * lo then got * 2 ^ (8 * lo - p) else got / 2 ^ (p - 8 * lo)
        let ptr' := max ptr hi
        .ok { b with mode := 1, buf := BitVec.ofNat 128 (held + new), ptr := BitVec.ofNat 19 ptr', count := BitVec.ofNat 8 (8 * ptr' - p) }

/-- A bit-stream instruction: operands under its guard, the mode, then its own work (R141). -/
def bbOp (g : Guard) (rs more : List GReg) (modes : List (BitVec 2)) (f : State → Taken → Except Stop State) (s : State) :
    Except Stop State := do
  let t ← s.d.take g rs more rs.length
  if t.on then
    t.d.bb.need modes
    f s t
  else .ok (s.setD t.d)
/-- The n operand of a reader or writer. -/
def bbN (x : Word) (hi : Nat) : Except Stop Nat := if 1 ≤ x.toNat ∧ x.toNat ≤ hi then .ok x.toNat else .error (.trap 0x0D2 x)

/-- The bounds of a stream (R140, R141 steps 3 and 4); XVAL of 0x045 is the end wherever that lies above the region (DEDUCED, log 102). -/
def bbBounds (d : Desk) (start stop : Word) : Except Stop Unit :=
  if stop.toNat < start.toNat then .error (.trap 0x0D2 start)
  else if start.toNat < d.base then .error (.trap 0x045 start)
  else if d.base + d.kern.scratch < stop.toNat then .error (.trap 0x045 stop) else .ok ()
/-- BBINIT (R140). -/
def bbinit (s : State) (t : Taken) : Except Stop State := do
  bbBounds t.d (t.x 0) (t.x 1)
  let b ← bbMove s { t.d.bb with stop := (t.x 1).setWidth 19, buf := 0 } (8 * (t.x 0).toNat) true
  .ok (s.setD { t.d with bb := b })
/-- BBINITW (R140). -/
def bbinitw (s : State) (t : Taken) : Except Stop State := do
  bbBounds t.d (t.x 0) (t.x 1)
  .ok (s.setD { t.d with bb := ⟨0, 2, 0, (t.x 0).setWidth 19, (t.x 1).setWidth 19⟩ })
/-- peek(n) (R140). -/
def BitBuf.peek (b : BitBuf) (n : Nat) : Nat := b.buf.toNat % 2 ^ n
/-- BBPEEK (R140). -/
def bbpeek (d : GReg) (s : State) (t : Taken) : Except Stop State := do
  let n ← bbN (t.x 0) 32
  .ok (s.setD (t.d.pushG d (BitVec.ofNat 64 (t.d.bb.peek n)) false))
/-- BBGET (R140). -/
def bbget (d : GReg) (s : State) (t : Taken) : Except Stop State := do
  let n ← bbN (t.x 0) 32
  let b ← bbMove s t.d.bb (t.d.bb.pos.toNat + n) false
  .ok (s.setD { (t.d.pushG d (BitVec.ofNat 64 (t.d.bb.peek n)) false) with bb := b })
/-- BBSKIP (R140). -/
def bbskip (s : State) (t : Taken) : Except Stop State := do
  let b ← bbMove s t.d.bb (t.d.bb.pos.toNat + (t.x 0).toNat) false
  .ok (s.setD { t.d with bb := b })
/-- BBSEEK (R140). -/
def bbseek (s : State) (t : Taken) : Except Stop State := do
  let b ← bbMove s t.d.bb (t.x 0).toNat true
  .ok (s.setD { t.d with bb := b })
/-- BBPOS (R140). -/
def bbpos (d : GReg) (s : State) (t : Taken) : Except Stop State := do
  .ok (s.setD (t.d.pushG d (BitVec.ofInt 64 t.d.bb.pos) false))
/-- BBLUT (R140): a table entry in a poisoned unit poisons gD (R141). -/
def bblut (d : GReg) (s : State) (t : Taken) : Except Stop State := do
  let n ← bbN (t.x 1) 16
  let ea := t.x 0 + BitVec.ofNat 64 (2 * t.d.bb.peek n)
  if (t.x 0).getLsbD 0 then .error (.trap 0x0D2 (t.x 0))
  else match t.d.outside ea.toNat 2 with
  | some _ => .error (.trap 0x045 ea)
  | none =>
    s.mayRead ea.toNat 2
    .ok (s.setD (t.d.pushG d (BitVec.ofNat 64 (leNat (s.c.padRead ea.toNat 2))) (s.c.padBad ea.toNat 2)))
/-- BBPUT (R140): each completed byte is stored as STL.b stores it. -/
def bbput (s : State) (t : Taken) : Except Stop State := do
  let n ← bbN (t.x 1) 64
  let b := t.d.bb
  let total := b.count.toNat + n
  let full := total / 8
  let bits := b.buf.toNat + (t.x 0).toNat % 2 ^ n * 2 ^ b.count.toNat
  match t.d.outside b.ptr.toNat full with
  | some x => .error (.trap 0x045 (BitVec.ofNat 64 x) accWrite)
  | none =>
    if b.stop.toNat < b.ptr.toNat + full then .error (.trap 0x0D0 (BitVec.ofInt 64 (b.pos + n)))
    else
      if full ≠ 0 then s.mayWrite b.ptr.toNat full else pure ()
      let bb : BitBuf := { b with buf := BitVec.ofNat 128 (bits / 2 ^ (8 * full)), count := BitVec.ofNat 8 (total - 8 * full), ptr := b.ptr + BitVec.ofNat 19 full }
      .ok (s.setCD (s.c.padWrite b.ptr.toNat (natLe bits full) false) { t.d with bb := bb })
/-- BBFLUSH (R140). -/
def bbflush (s : State) (t : Taken) : Except Stop State :=
  let b := t.d.bb
  if b.count = 0 then .ok (s.setD t.d)
  else match t.d.outside b.ptr.toNat 1 with
  | some x => .error (.trap 0x045 (BitVec.ofNat 64 x) accWrite)
  | none =>
    if b.ptr = b.stop then .error (.trap 0x0D0 (BitVec.ofNat 64 (8 * (b.stop.toNat + 1))))
    else do
      s.mayWrite b.ptr.toNat 1
      .ok (s.setCD (s.c.padWrite b.ptr.toNat (natLe b.buf.toNat 1) false) { t.d with bb := { b with buf := 0, count := 0, ptr := b.ptr + 1 } })

/-- BBINIT (R140). -/
def execBbinit (g : Guard) (b a : GReg) (s : State) := finish (heldBack (bbOp g [a, b] [] [] bbinit)) s
/-- BBINITW (R140). -/
def execBbinitw (g : Guard) (b a : GReg) (s : State) := finish (heldBack (bbOp g [a, b] [] [] bbinitw)) s
/-- BBPEEK (R140). -/
def execBbpeek (g : Guard) (b d : GReg) (s : State) := finish (heldBack (bbOp g [b] [d] [1] (bbpeek d))) s
/-- BBGET (R140). -/
def execBbget (g : Guard) (b d : GReg) (s : State) := finish (heldBack (bbOp g [b] [d] [1] (bbget d))) s
/-- BBSKIP (R140). -/
def execBbskip (g : Guard) (b : GReg) (s : State) := finish (heldBack (bbOp g [b] [] [1] bbskip)) s
/-- BBSEEK (R140). -/
def execBbseek (g : Guard) (a : GReg) (s : State) := finish (heldBack (bbOp g [a] [] [1] bbseek)) s
/-- BBPOS (R140). -/
def execBbpos (g : Guard) (d : GReg) (s : State) := finish (heldBack (bbOp g [] [d] [1, 2] (bbpos d))) s
/-- BBLUT (R140). -/
def execBblut (g : Guard) (b a d : GReg) (s : State) := finish (heldBack (bbOp g [a, b] [d] [1] (bblut d))) s
/-- BBPUT (R140). -/
def execBbput (g : Guard) (b a : GReg) (s : State) := finish (heldBack (bbOp g [a, b] [] [2] bbput)) s
/-- BBFLUSH (R140). -/
def execBbflush (g : Guard) (s : State) := finish (heldBack (bbOp g [] [] [2] bbflush)) s

/-! ### Fields, funnels and reversal (R143) -/

/-- mask(m): m low ones, all ones from 64 up. -/
def lowMask (m : Nat) : Word := BitVec.ofNat 64 (2 ^ min m 64 - 1)
/-- BFX's value. -/
def bfx (x b : Word) : Word :=
  let len := b.toNat % 256
  let pos := b.toNat / 256 % 256
  if pos ≤ 63 then x >>> pos &&& lowMask len else 0
/-- BFI's value. -/
def bfi (old x b : Word) : Word :=
  let len := b.toNat % 256
  let pos := b.toNat / 256 % 256
  if pos ≤ 63 then (old &&& ~~~(lowMask len <<< pos)) ||| ((x &&& lowMask len) <<< pos) else old
/-- FSHL's value. -/
def fshl (old x b : Word) : Word := ((old ++ x) <<< (b.toNat % 64)).extractLsb' 64 64
/-- FSHR's value. -/
def fshr (old x b : Word) : Word := ((x ++ old) >>> (b.toNat % 64)).setWidth 64
/-- Bit reversal. -/
def bitRev (x : Word) : Word := BitVec.ofNat 64 ((List.range 64).foldl (fun a i => 2 * a + x.toNat / 2 ^ i % 2) 0)
/-- A field instruction: every operand's poison reaches the result; BITS instructions are held on a run-ahead path (R142). -/
def field (g : Guard) (rs : List GReg) (d : GReg) (f : Taken → Word) (s : Desk) : Except Stop Desk := do
  let t ← s.take g rs [d] 0
  if t.on then
    .ok (t.d.pushG d (f t) t.bad)
  else .ok t.d
/-- BFX (R143). -/
def execBfx (g : Guard) (b a d : GReg) (s : State) := finish (heldBack (onDesk (field g [a, b] d (fun t => bfx (t.x 0) (t.x 1))))) s
/-- BFI (R143). -/
def execBfi (g : Guard) (b a d : GReg) (s : State) := finish (heldBack (onDesk (field g [a, b, d] d (fun t => bfi (t.x 2) (t.x 0) (t.x 1))))) s
/-- FSHL (R143). -/
def execFshl (g : Guard) (b a d : GReg) (s : State) := finish (heldBack (onDesk (field g [a, b, d] d (fun t => fshl (t.x 2) (t.x 0) (t.x 1))))) s
/-- FSHR (R143). -/
def execFshr (g : Guard) (b a d : GReg) (s : State) := finish (heldBack (onDesk (field g [a, b, d] d (fun t => fshr (t.x 2) (t.x 0) (t.x 1))))) s
/-- BREV (R143). -/
def execBrev (g : Guard) (a d : GReg) (s : State) := finish (heldBack (onDesk (field g [a] d (fun t => bitRev (t.x 0))))) s

end Sys2Proof.Machine
end

