-- ==== Sys2Proof/Machine/Memory.lean ====
section
/-! DEFINITION. Global loads and stores, the store queue, the L1 and its generations, fences and prefetch (R187 to R210, R15). -/

namespace Sys2Proof.Machine

/-! ### The L1 (R157, R190, R191) -/

/-- The core that holds a 32-byte line for another: line address bits [8:5] select the slice of a fused L1 (R157). -/
def State.slice (s : State) (c : CoreId) (line : Nat) : CoreId := (s.l1Cores c).getD (line % 16) c
/-- The set of an L1 that holds a 32-byte line: the line number modulo the 256 sets, in a fused L1 past the bits that select the slice, so
that all 1 MiB is in use.  The manual gives the sizes and not the index (DESIGN CHOICE, log 9). -/
def State.l1Set (s : State) (c : CoreId) (line : Nat) : Nat := if (s.l1Cores c).length = 16 then line / 16 % 256 else line % 256
/-- The generation that a core reads (R191, R195). -/
def State.l1Gen (s : State) (c : CoreId) : BitVec 8 := (s.coreAt ((s.l1Cores c).headD c)).l1gen
/-- A generation bump (R191): no line filled before it hits again. -/
def State.bumpL1 (s : State) (c : CoreId) : State :=
  let g := s.l1Gen c + 1
  (s.l1Cores c).foldl (fun s k => s.setCoreAt k { s.coreAt k with l1gen := g, l1 := [] }) s
/-- The copy that an L1 holds of a 32-byte line, if it still holds it. -/
def State.l1Find (s : State) (c : CoreId) (line : Nat) : Option L1Line :=
  let x := s.coreAt (s.slice c line)
  if Config.chance s.tick line then x.l1.find? (fun l => l.line == line && l.gen == x.l1gen) else none
/-- The lines of an L1 set that stay when one is filled: 64 KiB in 8 ways of 256 sets (R11). -/
def l1Keep (mine : L1Line → Bool) : Nat → List L1Line → List L1Line
  | _, [] => []
  | n, l :: ls => if mine l then (if n = 0 then l1Keep mine 0 ls else l :: l1Keep mine (n - 1) ls) else l :: l1Keep mine n ls
/-- A line is filled into an L1, beside at most 7 others of its set. -/
def State.l1Fill (s : State) (c : CoreId) (line : Nat) : State :=
  let k := s.slice c line
  let x := s.coreAt k
  let l : L1Line := ⟨line, x.l1gen, BitVec.ofNat 256 (leNat (creads s.mem.bytes (line * 32) 32)), s.mem.poison.contains (line / 2), s.tick⟩
  s.setCoreAt k { x with l1 := l :: l1Keep (fun y => s.l1Set c y.line == s.l1Set c line) 7 (x.l1.filter (·.line != line)) }
/-- An L1 may come to hold a line at any moment, so that a load returns what the location held at any moment that R190 allows (log 9); a
line that fails its MAC is not filled. -/
def State.l1Chance (s : State) (c : CoreId) : State :=
  let line := Config.pickAt s.tick 9 % 2 ^ 47
  if s.mem.macBad false (line / 2) (tget? s.mem.keyOf (line / 2)) then s else s.l1Fill c line
/-- The 32-byte lines of a run of bytes. -/
def lines32 (pa n : Nat) : List Nat := (List.range ((pa % 32 + n + 31) / 32)).map (fun i => pa / 32 + i)
/-- A core's own copies of what it writes go (R190). -/
def State.l1Drop (s : State) (c : CoreId) (ps : List Part) : State :=
  (ps.flatMap (fun p => lines32 p.pa.toNat p.n)).foldl (fun s line =>
    let k := s.slice c line
    let x := s.coreAt k
    s.setCoreAt k { x with l1 := x.l1.filter (·.line != line) }) s

/-- A byte of a 32-byte line. -/
def L1Line.byte (l : L1Line) (i : Nat) : Byte := l.data.extractLsb' (8 * i) 8
/-- Whether a part may be served by an L1 (R190). -/
def Part.cacheable (p : Part) : Bool := p.kind != 1#2
/-- A part's bytes from the L1, where it holds every line of it; an aligned 64-byte read, which is single-copy atomic, takes both lines
from one moment (R188). -/
def State.l1Part (s : State) (c : CoreId) (p : Part) : Option (List Byte × Bool) :=
  let ls := (lines32 p.pa.toNat p.n).map (s.l1Find c)
  let at_ := ls.filterMap (·.map (·.at_))
  if p.cacheable && ls.all (·.isSome) && (p.n != 64 || at_.all (fun t => at_.head? == some t)) then
    let ls := ls.filterMap id
    some ((List.range p.n).map (fun i =>
      let a := p.pa.toNat + i
      match ls.find? (fun l => l.line == a / 32) with | some l => l.byte (a % 32) | none => 0), ls.any (·.poison))
  else none

/-! ### Order among a desk's own accesses (R198) -/

/-- The desk that issued something a unit keeps. -/
def State.ownerOf (s : State) (c : CoreId) (i : DeskId) : Owner :=
  let d := s.deskAt c i
  ⟨d.launch, d.ctxid, c, i⟩
/-- Whether two records name one issuer: a context of a launch, or a desk that runs none. -/
def Owner.same (a b : Owner) : Bool :=
  a.launch == b.launch && a.ctx == b.ctx && (a.launch.isSome || (a.core == b.core && a.desk == b.desk))
/-- The place of an access kind in the fence table: loads, stores, engine commands, near-memory operations (R194). -/
inductive FenceKind where
  /-- l -/
  | l
  /-- s -/
  | s
  /-- e -/
  | e
  /-- n -/
  | n
  deriving DecidableEq, Repr
/-- Its number. -/
def FenceKind.ix : FenceKind → Fin 4
  | .l => 0 | .s => 1 | .e => 2 | .n => 3
/-- Whether a later access of a kind may be performed: what the desk's fences order before it has been (R194). -/
def State.fenceClear (s : State) (c : CoreId) (i : DeskId) (k : FenceKind) : Bool :=
  let o := s.ownerOf c i
  let m := (s.deskAt c i).fences[k.ix]
  s.sys.cards.all (fun q => q.2.all (fun x => !(x.owner.same o) || decide (m.1 ≤ x.seq) || x.readsDone)) &&
  s.sys.nm.all (fun x => !(x.owner.same o) || decide (m.2.1 ≤ x.seq)) &&
  (s.coreAt c).key.held.all (fun x => x.desk != i || x.bind == .no || decide (m.2.2 ≤ x.seq))
/-- An access that waits for a fence of the desk that moves. -/
def State.pastFences (s : State) (ks : List FenceKind) : Except Stop Unit :=
  if ks.all (s.fenceClear s.core s.desk) then .ok () else .error (.wait .memory)

/-- Two parts share a byte. -/
def Part.meets (p q : Part) : Bool := decide (p.pa.toNat < q.pa.toNat + q.n) && decide (q.pa.toNat < p.pa.toNat + p.n)
/-- A queued write shares a byte with a part. -/
def StoreOp.meets (o : StoreOp) (p : Part) : Bool := o.parts.any (·.meets p)
/-- Writes that a desk's queue still holds. -/
def Desk.queued (d : Desk) : List StoreOp := d.sq.flatMap (·.ops)
/-- A key command that may still write: one that has not bound false (R107, R298). -/
def KCmd.live (x : KCmd) : Bool := x.bind != .no
/-- A desk's queued writes, key additions and resolved key commands have all been performed. -/
def State.storesOut (s : State) (c : CoreId) (i : DeskId) : Bool :=
  (s.deskAt c i).sq.isEmpty && !(s.coreAt c).key.adds.any (·.desk == i) &&
  !(s.coreAt c).key.held.any (fun x => x.desk == i && x.bind == .yes)
/-- A desk's writes have all been performed, those of its held key commands among them (R284): a release comes after every one. -/
def State.storesDone (s : State) (c : CoreId) (i : DeskId) : Bool :=
  s.storesOut c i && (s.coreAt c).key.held.all (fun x => x.desk != i || !x.live)
/-- A write at its home comes after the reads of the desk's earlier key commands (R198 item 5, R284). -/
def State.writeClear (s : State) : Except Stop Unit :=
  if s.c.key.held.all (fun x => x.desk != s.desk || !x.live) then .ok () else .error (.wait .memory)
/-- The desk that moves waits until its stores are performed: it releases. -/
def State.released (s : State) : Except Stop Unit :=
  if s.storesDone s.core s.desk then .ok () else .error (.wait .memory)
/-- The accesses under way that touch a line: loads not returned and stores queued, with what they carry. -/
def State.underWay (s : State) (line : Nat) (ms : Bool) : Option Carry :=
  s.cores.findSome? (fun x => x.2.desks.toList.findSome? (fun d =>
    let hit (p : Part) : Bool := p.ms == ms && (linesOf p.pa.toNat p.n (p.n + 1)).any (fun l => l.1 == line)
    let of (va : Word) (ef : Bool) (ps : List Part) : Option Carry := (ps.find? hit).map (fun p => (s.carry d.part va ef).via p)
    (match d.pend with
      | some p => p.units.findSome? (fun l => of l.va p.ef l.parts)
      | none => none) <|> d.sq.findSome? (fun it => it.ops.findSome? (fun o => of o.va it.ef o.parts))))
/-- A request with MS = 0 waits at the bank while a memory-side request of its line, which the bank has forwarded, is not yet
performed (R208). -/
def State.msBusy (s : State) (p : Part) : Bool :=
  !s.mem.msOut.isEmpty && !p.ms &&
  (linesOf p.pa.toNat p.n (p.n + 1)).any (fun l => s.mem.msOut.contains l.1 && (s.underWay l.1 true).isSome)
/-- A read-modify-write of the desk that moves may be performed at its home: a release after everything before it. -/
def State.releasedAt (s : State) (ps : List Part) : Except Stop Unit :=
  if s.storesDone s.core s.desk && !ps.any s.msBusy then .ok () else .error (.wait .memory)
/-- What the desk's key commands below a place are still to write (R284, R298). -/
def Core.keyOuts (c : Core) (i : DeskId) (keys : Nat) : List Part :=
  (c.key.adds.filter (fun x => x.desk == i && decide (x.seq < keys))).flatMap (·.outs) ++
  (c.key.held.filter (fun x => x.desk == i && x.live && decide (x.seq < keys))).flatMap (·.outs)
/-- Whether the writes before it let a part be read (R190, R198 items 1 and 6, R200, R303): those of the desk, queued or left by a key
command, and, for a load that an L1 may serve, those queued by every desk of the core.  A read of a key command comes before what
the desk issued later. -/
def State.readClear (s : State) (c : CoreId) (i : DeskId) (home : Bool) (p : Part) (at_ : Option Nat := none) : Bool :=
  let k := at_.getD (s.coreAt c).key.next
  let queued (d : Desk) : List Part := ((d.sq.filter (fun it => decide (it.keys ≤ k))).flatMap (·.ops)).flatMap (·.parts)
  let own := queued (s.deskAt c i) ++ (s.coreAt c).keyOuts i k
  !s.msBusy p &&
  (if p.kind = 1#2 then own.all (fun q => q.kind != 1#2 && !q.meets p)
  else if p.kind = 2#2 then true
  else own.all (fun q => !q.meets p) &&
    (home || (s.coreAt c).desks.toList.all (fun d => (queued d).all (fun q => !q.meets p))))

/-- The desk's earlier writes let these parts be read at their home (R198). -/
def State.homeClear (s : State) (ps : List Part) (at_ : Option Nat := none) : Except Stop Unit :=
  if s.fenceClear s.core s.desk .l && ps.all (fun p => s.readClear s.core s.desk true p at_) then .ok () else .error (.wait .memory)
/-! ### Loads (R189, R190) -/

/-- Makes one read: from the L1 where it may and can, else from its home, which fills the L1 (R190); a line that fails its MAC traps
(R401). -/
def State.readUnit (s : State) (c : CoreId) (part : PartId) (p : Pending) (l : LoadUnit) : Except Stop (State × List Byte × Bool) :=
  let hits := if p.home then [] else l.parts.filterMap (s.l1Part c)
  if !p.home && hits.length == l.parts.length then .ok (s, hits.flatMap (·.1), hits.any (·.2))
  else match s.readMac part l.va l.parts p.ef accRead with
    | .error e => .error e
    | .ok (s, bs, bad) =>
      if p.home then .ok (s, bs, bad)
      else .ok (((l.parts.filter (·.cacheable)).flatMap (fun q => lines32 q.pa.toNat q.n)).foldl (fun s x => s.l1Fill c x) s, bs, bad)
/-- Makes reads in order. -/
def State.readUnits (s : State) (c : CoreId) (part : PartId) (p : Pending) : List LoadUnit → Except Stop (State × Pending)
  | [] => .ok (s, { p with units := [] })
  | l :: ls =>
    match s.readUnit c part p l with
    | .error e => .error e
    | .ok (s, bs, bad) => s.readUnits c part { p with got := p.got ++ [(l.bit, bs)], bad := p.bad || bad } ls
/-- Lanes put into a vector. -/
def putLanes (v : Vec) : List (Nat × List Byte) → Vec
  | [] => v
  | (k, bs) :: t =>
    let w := 8 * bs.length
    let mask : Vec := BitVec.ofNat 512 (2 ^ w - 1) <<< k
    putLanes ((v &&& ~~~mask) ||| (BitVec.ofNat 512 (leNat bs) <<< k)) t
/-- A load of the desk that moves returns (R190): every value is fixed, its operands are popped, its destination is written. -/
def State.completeLoad (s : State) (p : Pending) : Except Stop State := do
  let (s, p) ← s.readUnits s.core s.d.part p p.units
  let d := { s.d with pend := none }
  let (_, d) ← d.popsG p.gs
  let (_, _, d) ← d.popsV p.vs
  if p.vec then
    let (o, badO, d) ← if p.merge then (d.popV p.dst).map (fun x => (x.val, x.bad, x.d)) else .ok (0, false, d)
    d.roomV p.dst
    .ok (s.setD (d.pushV p.dst (putLanes o p.got) (p.bad || badO)))
  else
    d.roomG p.dst
    let bs := p.got.flatMap (·.2)
    .ok (s.setD (d.pushG p.dst (if p.signed then loadValue 0 bs else BitVec.ofNat 64 (leNat bs)) p.bad))
/-- Whether what precedes a load lets one of its reads be made. -/
def State.unitClear (s : State) (c : CoreId) (i : DeskId) (p : Pending) (l : LoadUnit) : Bool :=
  s.fenceClear c i .l && l.parts.all (fun q => s.readClear c i p.home q)
/-- Whether what precedes a load lets it be performed. -/
def State.loadClear (s : State) (c : CoreId) (i : DeskId) (p : Pending) : Bool := p.units.all (s.unitClear c i p)
/-- The read that a load makes next: of the lanes in any order, and of a misaligned lane its lowest byte left (R188, R192). -/
def Pending.pick (p : Pending) (tick : Nat) : Option LoadUnit :=
  match p.units with
  | [] => none
  | [l] => some l
  | ls => ls[Config.pickAt tick 1 % ls.length]?.bind (fun l => ls.find? (·.lane == l.lane))

/-- The bytes of parts, each as a part of its own, in ascending address order. -/
def byteParts (ps : List Part) : List Part :=
  ps.flatMap (fun p => (List.range p.n).map (fun i => { p with pa := p.pa + BitVec.ofNat 52 i, n := 1 }))
/-- The reads of a lane (R188): one, or, where it is misaligned, one for each byte. -/
def unitsOf (va : Word) (n bit lane : Nat) (ps : List Part) : List LoadUnit :=
  if va.toNat % n = 0 then [⟨va, ps, bit, lane⟩]
  else (byteParts ps).zipIdx.map (fun x => ⟨va + BitVec.ofNat 64 x.2, [x.1], bit + 8 * x.2, lane⟩)
/-- Translates the lanes of a load (R189, R192): the lowest faulting lane gives the fault.  A load of a strongly ordered page is held
on a run-ahead path (R104). -/
def State.loadLanes (s : State) (d : Desk) (n : Nat) : List (Word × Nat) → Except Stop (State × List LoadUnit)
  | [] => .ok (s, [])
  | (va, bit) :: t =>
    match s.access (s.who d) va n accRead with
    | .error e => .error e
    | .ok (s, ps) =>
      if d.gen.isSome && ps.any (fun p => p.kind == 1#2) then .error (.wait .held)
      else match s.loadLanes d n t with
        | .error e => .error e
        | .ok (s, ls) => .ok (s, unitsOf va n bit (bit / (8 * n)) ps ++ ls)

/-- The desk waits for its off-core reference, and the core switches (R15). -/
def State.issueLoad (s : State) (p : Pending) : State :=
  ((s.setD { s.d with pend := some p, wait := some .memory }).switchDesk)
/-- Ends the issue of a load: none where its guard leaves it out.  A vector load whose every lane hits the L1 completes at once; every
other load is an off-core reference (R15, R189, R192). -/
def finishLoad (f : State → Except Stop (State × Option Pending)) (s : State) : Host.Outcome State Fault Refusal :=
  if s.leaderFull then .next (s.hold .forward)
  else match f s with
  | .error e => .next (s.stopWith e)
  | .ok (t, none) => .next t.retire
  | .ok (t, some p) =>
    if p.vec && !p.home && t.loadClear t.core t.desk p && p.units.all (fun l => l.parts.all (fun q => (t.l1Part t.core q).isSome)) then
      match t.completeLoad p with
      | .ok t => .next t.retire
      | .error e => .next (s.stopWith e)
    else .next (t.issueLoad p)

/-- The qualifier bits (R45). -/
def qByp (q : BitVec 2) : Bool := q.getLsbD 0
/-- .ef -/
def qEf (q : BitVec 2) : Bool := q.getLsbD 1

/-- LD (R189). -/
def ld (o : BitVec 10) (q : BitVec 2) (z : BitVec 3) (b d : GReg) (s : State) : Except Stop (State × Option Pending) := do
  s.d.limsG [b, d]
  s.d.await [b] [] [d] []
  let x ← s.d.useG b
  let n := sizeBytes z
  let (s', ls) ← s.loadLanes s.d n [(x.val + scaled o n, 0)]
  .ok (s', some { dst := d, vec := false, units := ls, signed := decide (z.toNat < 4), home := qByp q, ef := qEf q,
                  merge := false, gs := [b], vs := [], tent := s.d.gen.isSome })
/-- VLD (R189). -/
def vld (o : BitVec 10) (q : BitVec 2) (b d : GReg) (s : State) : Except Stop (State × Option Pending) := do
  s.d.limG b
  s.d.limV d
  s.d.await [b] [] [] [d]
  let x ← s.d.useG b
  let (s', ls) ← s.loadLanes s.d 64 [(x.val + scaled o 64, 0)]
  .ok (s', some { dst := d, vec := true, units := ls, signed := false, home := qByp q, ef := qEf q,
                  merge := false, gs := [b], vs := [], tent := s.d.gen.isSome })
/-- LD (R189). -/
def execLd (o : BitVec 10) (q : BitVec 2) (z : BitVec 3) (b d : GReg) (s : State) := finishLoad (ld o q z b d) s
/-- VLD (R189). -/
def execVld (o : BitVec 10) (q : BitVec 2) (b d : GReg) (s : State) := finishLoad (vld o q b d) s

/-- Lanes that a guard selects, of c lanes (R117). -/
def Desk.lanes (d : Desk) (g : Guard) (c : Nat) : List Nat := (List.range c).filter (d.sel g)
/-- The address of a strided lane (R192). -/
def strideEa (a b : Word) (e : Nat) : Word := a + BitVec.ofNat 64 e * b
/-- The address of a gather or scatter lane (R192). -/
def gatherEa (a : Word) (v : Vec) (e : Nat) : Word := a + (v.extractLsb' (32 * e) 32).signExtend 64
/-- VLDS (R192). -/
def vlds (g : Guard) (b a d : GReg) (s : State) : Except Stop (State × Option Pending) := do
  s.d.limsG [a, b]
  s.d.limV d
  s.d.await [a, b] (if g = 0#4 then [] else [d]) [] [d]
  let x ← s.d.useG a
  let y ← x.d.useG b
  let (s', ls) ← s.loadLanes s.d 4 ((s.d.lanes g 16).map (fun e => (strideEa x.val y.val e, 32 * e)))
  .ok (s', some { dst := d, vec := true, units := ls, signed := false, home := false, ef := false,
                  merge := g != 0#4, gs := [a, b], vs := [], tent := s.d.gen.isSome })
/-- VGATH.w and VGATH.d: c lanes of n bytes (R192). -/
def vgath (c n : Nat) (g : Guard) (b a d : GReg) (s : State) : Except Stop (State × Option Pending) := do
  s.d.limG a
  s.d.limsV [b, d]
  s.d.await [a] (if g = 0#4 then [b] else [b, d]) [] [d]
  let x ← s.d.useG a
  let y ← x.d.useV b
  let (s', ls) ← s.loadLanes s.d n ((s.d.lanes g c).map (fun e => (gatherEa x.val y.val e, 8 * n * e)))
  .ok (s', some { dst := d, vec := true, units := ls, signed := false, home := false, ef := false,
                  merge := g != 0#4, gs := [a], vs := [b], tent := s.d.gen.isSome })
/-- VLDS (R192). -/
def execVlds (g : Guard) (b a d : GReg) (s : State) := finishLoad (vlds g b a d) s
/-- VGATH.w (R192). -/
def execVgathW (g : Guard) (b a d : GReg) (s : State) := finishLoad (vgath 16 4 g b a d) s
/-- VGATH.d (R192). -/
def execVgathD (g : Guard) (b a d : GReg) (s : State) := finishLoad (vgath 8 8 g b a d) s

/-- A scope code 0 to 4 (R193, R202). -/
def scopeOf (n : Nat) : Scope := match n with | 0 => .core | 1 => .cluster | 2 => .die | 3 => .device | _ => .system
/-- LDA (R193): it reads its home; later accesses of the desk are performed after it. -/
def lda (g : Guard) (_b a d : GReg) (s : State) : Except Stop (State × Option Pending) := do
  let t ← s.d.take g [a] [d] 1
  if !t.on then .ok (s.setD t.d, none)
  else if (t.x 0).toNat % 8 ≠ 0 then .error (.trap 0x043 (t.x 0) accRead)
  else
    let (s', ls) ← s.loadLanes s.d 8 [(t.x 0, 0)]
    .ok (s', some { dst := d, vec := false, units := ls, signed := false, home := true, ef := false,
                    merge := false, gs := [a], vs := [], tent := false })
/-- LDA (R193); it is held on a run-ahead path (R104). -/
def execLda (g : Guard) (b a d : GReg) (s : State) :=
  if s.d.gen.isSome then .next (s.hold .held) else finishLoad (lda g b a d) s

/-! ### Atomic operations at a home (R230 to R234) -/

/-- F of R231 and R232 on an old value and an operand of `n` bytes. -/
def amoF (op : Nat) (n old x : Nat) : Nat :=
  let w := 8 * n
  let sg (y : Nat) : Int := (BitVec.ofNat w y).toInt
  match op with
  | 0 => (old + x) % 2 ^ w
  | 1 => old &&& x
  | 2 => old ||| x
  | 3 => old ^^^ x
  | 4 => if sg x < sg old then x else old
  | 5 => if sg old < sg x then x else old
  | 6 => min old x
  | 7 => max old x
  | 8 => x
  | 9 => amoFadd old x
  | 10 => amoFmm true old x
  | _ => amoFmm false old x
where
  /-- fadd (R232): rounded to nearest, even; a NaN operand or ∞ - ∞ gives the default NaN. -/
  amoFadd (a b : Nat) : Nat := (Fmt.f32.add rne a b).bits
  /-- fmin and fmax (R232): -0 lies below +0; a NaN gives way to the other operand. -/
  amoFmm (lo : Bool) (a b : Nat) : Nat :=
    let nan (x : Nat) : Bool := decide (0x7F800000 < x % 2 ^ 31)
    let key (x : Nat) : Int := if x < 2 ^ 31 then (x : Int) else -(x - 2 ^ 31 : Int) - 1
    if nan a && nan b then 0x7FC00000
    else if nan a then b
    else if nan b then a
    else if lo then (if key b < key a then b else a) else (if key a < key b then b else a)
/-- The operation and the width of an ATOM code: 16 and above are the 4-byte forms, and floats are 4 bytes wide (R230). -/
def amoCode (op : Nat) : Nat × Nat := if 16 ≤ op then (op - 16, 4) else (op, if 9 ≤ op then 4 else 8)

/-- Combines a value with a location at its home (R230, R233): the write is poisoned where the operand or the old line is. -/
def State.combine (s : State) (part : PartId) (va : Word) (ps : List Part) (op x : Nat) (bad : Bool) : State × Nat × Bool :=
  let (s, bs, badOld) := s.readHome part va ps false
  let n := bs.length
  (s.updateHome part va ps (bad || badOld) (natLe (amoF op n (leNat bs) x) n), leNat bs, badOld)

/-- A fault at a lane of a vector atomic: a translation failure is cause 0x049 (R234). -/
def asLane (e : Stop) : Stop :=
  match e with
  | .trap c x acc tf => .trap (if c = 0x040 ∨ c = 0x042 ∨ c = 0x044 then 0x049 else c) x acc tf
  | e => e
/-- A wait for the order of accesses is over. -/
def isClear (x : Except Stop Unit) : Bool := match x with | .ok _ => true | .error _ => false
/-- Performs a lane of the VAMO of the desk that moves (R234): none where what precedes it has not been performed. -/
def State.vamoLane (s : State) (p : Pending) (op : BitVec 4) (data : Vec) (l : LoadUnit) : Except Stop (Option (State × Pending)) :=
  match s.access (s.who s.d) l.va 4 accRmw with
  | .error e => .error (asLane e)
  | .ok (s, ps) =>
    if !isClear (s.homeClear ps) || !isClear s.writeClear || !isClear (s.pastFences (if ps.any (·.ms) then [.l, .s, .n] else [.l, .s])) then .ok none
    else match s.macFail s.d.part ps with
    | some x => .error (.mac x l.va accRmw)
    | none =>
      let (s, old, bad) := (s.l1Drop s.core ps).combine s.d.part l.va ps op.toNat (data.toNat / 2 ^ l.bit % 2 ^ 32) false
      .ok (some (s, { p with units := p.units.drop 1, got := p.got ++ [(l.bit, natLe old 4)], bad := p.bad || bad }))
/-- A VAMO of the desk stops at a lane: the lanes below it stand, with their old values in vD, and VPROG names it (R234). -/
def Desk.vamoStop (d : Desk) (p : Pending) (data : Vec) (lane : Nat) : Desk :=
  let k := { d with pend := none, vprog := BitVec.ofNat 64 lane }
  if p.got.isEmpty || k.isPort p.dst then k else k.setV p.dst (putLanes data p.got) p.bad
/-- A VAMO whose lanes are all performed returns their old values. -/
def Desk.vamoDone (d : Desk) (p : Pending) (data : Vec) : Except Stop Desk := do
  let (_, d) ← d.popsG p.gs
  let (_, _, d) ← d.popsV p.vs
  .ok { d.pushV p.dst (putLanes data p.got) p.bad with pend := none, vprog := 0 }
/-- The next lane of a VAMO. -/
def State.vamoNext (s : State) (p : Pending) (op : BitVec 4) (data : Vec) (l : LoadUnit) : Option State :=
  match s.vamoLane p op data l with
  | .error e => some ((s.setD (s.d.vamoStop p data l.lane)).stopWith e)
  | .ok none => none
  | .ok (some (t, q)) =>
    if !q.units.isEmpty then some (t.setD { t.d with pend := some q })
    else match t.d.vamoDone q data with
      | .ok d => some (t.setD d).retire
      | .error _ => none

/-- LOAD_RETURN (R190, R234): a read that what precedes it lets be made is made, and with the last one the load's value returns; a line
that fails its MAC traps at the load (R401). -/
def execLoadReturn (c : CoreId) (i : DeskId) (s : State) : Host.Outcome State Fault Refusal :=
  event (fun s =>
    let s := { s with core := c, desk := i }
    match s.d.pend with
    | none => none
    | some p => match p.pick s.tick with
      | none => none
      | some l =>
        let idle := s.idle c
        match p.amo with
        | some (op, data) => (p.units.head?.bind (s.vamoNext p op data)).map (·.wakes idle c i)
        | none =>
        if !s.unitClear c i p l then none
        else
          let rest := p.units.erase l
          let r := if rest.isEmpty then s.completeLoad p
            else (s.readUnits c s.d.part p [l]).map (fun x => x.1.setD { x.1.d with pend := some { x.2 with units := rest } })
          match r with
          | .ok t => some (if rest.isEmpty then t.retire.wakes idle c i else t)
          | .error (.wait _) => none
          | .error e => some (((s.setD { s.d with pend := none }).stopWith e).wakes idle c i)) s

/-- DESK_RESUME (R16): a core whose desk is not ready goes on with the next ready desk in ring order. -/
def execDeskResume (c : CoreId) (s : State) : Host.Outcome State Fault Refusal :=
  event (fun s =>
    let x := s.coreAt c
    if (x.at x.desk).ready && (!x.ganged || x.desk == 0) then none
    else (x.nextReady x.desk).map (fun j => s.setCoreAt c { x with desk := j })) s

/-- An off-core reference that waits for what precedes it has issued all the same (R15, R233). -/
def asRef {α : Type} (x : Except Stop α) : Except Stop α :=
  match x with
  | .error (.wait .memory) | .error (.wait .key) => .error (.wait .reference)
  | x => x
/-- Ends an instruction that may have been an off-core reference whose value is already back: the core then switches (R15), as it does
where the reference still waits to be performed. -/
def finishRef (f : State → Except Stop (State × Bool)) (s : State) : Host.Outcome State Fault Refusal :=
  if s.leaderFull then .next (s.hold .forward)
  else match asRef (f s) with
  | .ok (t, ref) => .next (if ref then t.retire.switchDesk else t.retire)
  | .error e => .next (s.stopWith e)
/-- The same, held on a run-ahead path (R104). -/
def heldRef (f : State → Except Stop (State × Bool)) (s : State) : Host.Outcome State Fault Refusal :=
  if s.d.gen.isSome then .next (s.hold .held) else finishRef f s

/-! ### Stores (R189, R192, R193) -/

/-- A store enters the desk's queue, or stalls at a full one (R189); one without a write has no effect. -/
def State.enqueue (s : State) (d : Desk) (it : StoreItem) : Except Stop State :=
  if it.ops.isEmpty then .ok (s.setD d)
  else if 16 ≤ d.sq.length then .error (.wait .memory)
  else .ok (s.setD { d with sq := d.sq ++ [{ it with keys := s.c.key.next }] })
/-- The writes of a plain access (R188): one, or, where it is misaligned, one for each byte in ascending address order. -/
def StoreOp.split (o : StoreOp) : List StoreOp :=
  if o.va.toNat % o.bytes.length = 0 then [o]
  else ((byteParts o.parts).zip o.bytes).zipIdx.map (fun x => ⟨o.va + BitVec.ofNat 64 x.2, [x.1.1], [x.1.2], o.poison⟩)
/-- Translates the writes of a store: the lowest faulting lane gives the fault (R192). -/
def State.storeOps (s : State) (d : Desk) (acc : BitVec 2) : List (Word × List Byte × Bool) → Except Stop (State × List StoreOp)
  | [] => .ok (s, [])
  | (va, bs, bad) :: t =>
    match s.access (s.who d) va bs.length acc with
    | .error e => .error e
    | .ok (s, ps) => match s.storeOps d acc t with
      | .error e => .error e
      | .ok (s, os) => .ok (s, StoreOp.split ⟨va, ps, bs, bad⟩ ++ os)
/-- A plain store of some writes. -/
def State.store (s : State) (d : Desk) (ef : Bool) (ws : List (Word × List Byte × Bool)) : Except Stop State := do
  let (s', ops) ← s.storeOps s.d accWrite ws
  s'.enqueue d { kind := .plain, ops := ops, ef := ef, release := none, part := d.part }
/-- ST (R189): the base is field b, then the value. -/
def st (o : BitVec 10) (q : BitVec 2) (z : BitVec 3) (b d : GReg) (s : State) : Except Stop State := do
  s.d.limsG [b, d]
  s.d.await [b, d] [] [] []
  let x ← s.d.useG b
  let y ← x.d.popG d
  let n := sizeBytes z
  s.store y.d (qEf q) [(x.val + scaled o n, natLe y.val.toNat n, y.bad)]
/-- VST (R189). -/
def vst (o : BitVec 10) (q : BitVec 2) (b d : GReg) (s : State) : Except Stop State := do
  s.d.limG b
  s.d.limV d
  s.d.await [b] [d] [] []
  let x ← s.d.useG b
  let y ← x.d.popV d
  s.store y.d (qEf q) [(x.val + scaled o 64, natLe y.val.toNat 64, y.bad)]
/-- ST (R189). -/
def execSt (o : BitVec 10) (q : BitVec 2) (z : BitVec 3) (b d : GReg) (s : State) := finish (heldBack (st o q z b d)) s
/-- VST (R189). -/
def execVst (o : BitVec 10) (q : BitVec 2) (b d : GReg) (s : State) := finish (heldBack (vst o q b d)) s
/-- The bytes of a lane. -/
def laneBytes (v : Vec) (n e : Nat) : List Byte := natLe (v.toNat / 2 ^ (8 * n * e)) n
/-- VSTS (R192). -/
def vsts (g : Guard) (b a d : GReg) (s : State) : Except Stop State := do
  s.d.limsG [a, b]
  s.d.limV d
  s.d.await [a, b] [d] [] []
  let x ← s.d.useG a
  let y ← x.d.useG b
  let v ← y.d.popV d
  s.store v.d false ((s.d.lanes g 16).map (fun e => (strideEa x.val y.val e, laneBytes v.val 4 e, v.bad)))
/-- VSCAT.w and VSCAT.d (R192). -/
def vscat (c n : Nat) (g : Guard) (b a d : GReg) (s : State) : Except Stop State := do
  s.d.limG a
  s.d.limsV [b, d]
  s.d.await [a] [b, d] [] []
  let x ← s.d.useG a
  let y ← x.d.useV b
  let v ← y.d.popV d
  s.store v.d false ((s.d.lanes g c).map (fun e => (gatherEa x.val y.val e, laneBytes v.val n e, v.bad)))
/-- VSTS (R192). -/
def execVsts (g : Guard) (b a d : GReg) (s : State) := finish (heldBack (vsts g b a d)) s
/-- VSCAT.w (R192). -/
def execVscatW (g : Guard) (b a d : GReg) (s : State) := finish (heldBack (vscat 16 4 g b a d)) s
/-- VSCAT.d (R192). -/
def execVscatD (g : Guard) (b a d : GReg) (s : State) := finish (heldBack (vscat 8 8 g b a d)) s
/-- STR (R193). -/
def str (g : Guard) (b a : GReg) (d : BitVec 5) (s : State) : Except Stop State := do
  let t ← s.d.take g [a, b] [] 1
  if !t.on then .ok (s.setD t.d)
  else if (t.x 0).toNat % 8 ≠ 0 then .error (.trap 0x043 (t.x 0) accWrite)
  else
    let (s', ops) ← s.storeOps s.d accWrite [(t.x 0, natLe (t.x 1).toNat 8, t.bad)]
    s'.enqueue t.d { kind := .plain, ops := ops, ef := false, release := some (scopeOf d.toNat), part := t.d.part }
/-- STR (R193). -/
def execStr (g : Guard) (b a : GReg) (d : BitVec 5) (s : State) := finish (heldBack (str g b a d)) s

/-! ### Performing stores (R188, R198, R230 to R233, R246) -/

/-- Whether a queued store may be performed (R198): a release only after everything before it; strongly ordered writes and writes of
one byte in order; after the reads of the key commands before it; and what the desk's fences ask. -/
def State.storeClear (s : State) (c : CoreId) (i : DeskId) (k : Nat) (it : StoreItem) : Bool :=
  let x := s.coreAt c
  let before := (((x.at i).sq.take k).flatMap (·.ops)).flatMap (·.parts) ++ x.keyOuts i it.keys
  let ps := (it.ops.take 1).flatMap (·.parts)
  s.fenceClear c i .s && (it.kind == .plain || !ps.any (·.ms) || s.fenceClear c i .n) && !ps.any s.msBusy &&
  x.key.held.all (fun h => h.desk != i || !h.live || decide (it.keys ≤ h.seq)) &&
  (it.release.isNone || (k == 0 && x.key.adds.all (fun a => a.desk != i || decide (it.keys ≤ a.seq)))) &&
  ps.all (fun p => before.all (fun q => !(p.kind == 1#2 && q.kind == 1#2) && (p.kind == 2#2 || !q.meets p)))

/-- Whether a write reads a line that fails its MAC: one that does not cover the line. -/
def State.macPart (s : State) (part : PartId) (ps : List Part) : Bool :=
  ps.any (fun p => (linesOf p.pa.toNat p.n (p.n + 1)).any (fun l => decide (l.2.2 < 64) && s.mem.macBad p.ms l.1 (keyFor p part)))
/-- One write of a store is applied at its home.  Where the line that it reads fails its MAC, its desk, whose store has retired, learns of it at
its next boundary (R401, log 133). -/
def State.applyStore (s : State) (c : CoreId) (i : DeskId) (it : StoreItem) (o : StoreOp) : State :=
  let s := s.l1Drop c o.parts
  let d := s.deskAt c i
  match it.kind with
  | .plain =>
    let t := s.writeHome it.part o.va o.parts it.ef o.poison o.bytes
    if s.macPart it.part o.parts then t.setDeskAt c i (d.report 0x1E0 o.va) else t
  | .ared op =>
    match s.macFail it.part o.parts with
    | some l => (s.spoilAt (some l)).setDeskAt c i (d.report 0x1E0 o.va)
    | none => (s.combine it.part o.va o.parts (amoCode op.toNat).1 (leNat o.bytes) o.poison).1
  | .cadd =>
    match s.macFail it.part o.parts with
    | some l => (s.spoilAt (some l)).setDeskAt c i (d.report 0x1E0 o.va)
    | none =>
      let (s, bs, bad) := s.readHome it.part o.va o.parts false
      -- the CADD has retired: it writes nothing, and its desk learns of the poison at its next boundary (R245, R356)
      if bad then s.setDeskAt c i (d.report 0x1C0 o.va)
      else s.updateHome it.part o.va o.parts false (natLe (counterSum (leNat bs) (leNat o.bytes)) 8)

/-- STORE_PERFORM (R188, R189): the next write of a queued store is applied at its home. -/
def execStorePerform (c : CoreId) (i : DeskId) (k : Nat) (s : State) : Host.Outcome State Fault Refusal :=
  event (fun s =>
    let d := s.deskAt c i
    match d.sq[k]? with
    | none => none
    | some it =>
      if !s.storeClear c i k it then none
      else
        let rest := it.ops.drop 1
        let sq := if rest.isEmpty then d.sq.eraseIdx k else d.sq.set k { it with ops := rest }
        let s := s.setDeskAt c i { d with sq := sq }
        match it.ops with
        | o :: _ => some (s.applyStore c i it o)
        | [] => some s) s

/-! ### Fences, generations, prefetch (R194 to R196) -/

/-- The fence table after a FENCE of kinds k, with the next card, near-memory and key command. -/
def Desk.fenced (d : Desk) (k : BitVec 4) (cards nms keys : Nat) : Desk :=
  { d with fences := d.fences.mapFinIdx (fun i m _ => if k.getLsbD i then
      (if k.getLsbD 2 then cards else m.1, if k.getLsbD 3 then nms else m.2.1, if k.getLsbD 0 || k.getLsbD 1 then keys else m.2.2) else m) }
/-- FENCE (R194): one that selects stores waits until the desk's stores are performed, one that selects near-memory operations until
its reductions on memory-side pages are; for engine and near-memory commands, and key commands whose slot is pending (R284), it orders the
later accesses that it selects. -/
def fence (g : Guard) (k : BitVec 4) (_sc : BitVec 5) (s : State) : Except Stop State :=
  if !s.d.guard g || k = 0#4 then .ok s
  else if k.getLsbD 1 && !s.storesOut s.core s.desk then .error (.wait .memory)
  else if k.getLsbD 3 && s.d.sq.any (fun it => it.kind != .plain && it.ops.any (fun o => o.parts.any (·.ms))) then .error (.wait .memory)
  else .ok (s.setD (s.d.fenced k s.sys.cardSeq s.sys.nmSeq s.c.key.next))
/-- FENCE (R194). -/
def execFence (g : Guard) (k : BitVec 4) (sc : BitVec 5) (s : State) := finish (heldBack (fence g k sc)) s
/-- L1GEN (R195). -/
def execL1gen (s : State) := finish (heldBack (fun s => .ok (s.bumpL1 s.core))) s

/-- A line that PREF asks its bank for, where its page is readable, of a kind other than 11, and not memory-side. -/
def State.prefLine (s : State) (d : Desk) (va : Word) : State :=
  match s.access (s.who d) va 1 accRead with
  | .error _ => s
  | .ok (s', ps) =>
    match ps with
    | p :: _ => if p.ms then s else { s' with mem := { s'.mem with asked := s'.mem.asked ++ [(p.pa.toNat / 64, (s'.carry d.part va false).via p)] } }
    | [] => s
/-- PREF (R196): poisoned operands fetch nothing. -/
def pref (g : Guard) (b a : GReg) (s : State) : Except Stop State := do
  let t ← s.d.take g [a, b] [] 0
  if !t.on || t.bad then .ok (s.setD t.d)
  else
    let n := min (t.x 1).toNat 65536
    let first : Word := t.x 0 &&& ~~~63#64
    let k := if n = 0 then 0 else ((t.x 0).toNat % 64 + n + 63) / 64
    .ok (((List.range k).foldl (fun s i => s.prefLine s.d (first + BitVec.ofNat 64 (64 * i))) s).setD t.d)
/-- PREF (R196). -/
def execPref (g : Guard) (b a : GReg) (s : State) := finish (heldBack (pref g b a)) s

/-! ### What the banks and the walker do between (R208, R213, R217, R378) -/

/-- L2_FILL (R213): a line that an access under way or a prefetch asks for is filled into its bank, once no memory-side request of it is
outstanding (R208).  A line that fails its MAC is left to the access that will read it; a prefetch of one poisons it (R401). -/
def execL2Fill (pa : PAddr) (s : State) : Host.Outcome State Fault Refusal :=
  event (fun s =>
    let line := pa.toNat / 64
    let rest := { s with mem := { s.mem with asked := s.mem.asked.filter (·.1 != line) } }
    let asked := (s.mem.asked.find? (·.1 == line)).map (·.2)
    if s.mem.msOut.contains line && (s.underWay line true).isSome then none
    else if (s.mem.tag line).isSome then (if asked.isSome then some rest else none)
    else match s.underWay line false, asked with
      | some c, _ => if s.mem.macBad false line c.key then none else some { rest with mem := rest.mem.fill line c true }
      | none, some c => some { rest with mem := if s.mem.macBad false line c.key then rest.mem.spoil line else rest.mem.fill line c }
      | none, none => none) s
/-- TWIN_STEP (R216, R217): an eligible line is looked up. -/
def execTwinStep (pa : PAddr) (s : State) : Host.Outcome State Fault Refusal :=
  event (fun s => some { s with mem := s.mem.twin (pa.toNat / 64) }) s
/-- Whether a memory-side request of a line has left its core: what precedes it in order has been performed. -/
def State.msReady (s : State) (line : Nat) : Bool :=
  let hit (q : Part) : Bool := q.ms && (linesOf q.pa.toNat q.n (q.n + 1)).any (fun l => l.1 == line)
  s.cores.any (fun x => [0, 1, 2, 3].any (fun i =>
    let c : CoreId := BitVec.ofNat _ x.1
    let d := x.2.at i
    (match d.pend with
      | some p => p.units.any (fun l => l.parts.any hit && s.unitClear c i p l)
      | none => false) ||
    d.sq.zipIdx.any (fun y => ((y.1.ops.take 1).flatMap (·.parts)).any hit && s.storeClear c i y.2 y.1)))
/-- MS_REQUEST_FORWARD (R207, R208): a bank that holds a copy of a line with a memory-side request lets it go, and forwards the
request, which is outstanding until it is performed. -/
def execMsRequestForward (pa : PAddr) (s : State) : Host.Outcome State Fault Refusal :=
  event (fun s =>
    let line := pa.toNat / 64
    if s.msReady line then
      let m := s.mem.expel line
      some { s with mem := { m with msOut := insN m.msOut line } }
    else none) s
/-- Walks under way of a die that are no other's (R383). -/
def State.runs (s : State) (die : BitVec 2) : List WalkRun :=
  s.cores.flatMap (fun k => if k.1 / 256 = die.toNat then (k.2.desks.toList.filterMap (·.walk)).filter (fun r => !r.joined) else [])
/-- The walk under way that a miss joins: of its die, of the same page and kind (R383). -/
def State.runOf (s : State) (w : Who) (va : Word) (acc : BitVec 2) : Option WalkRun := (s.runs w.site.die).find? (·.of w va acc)
/-- WALK (R378, R380, R383): a walk for a desk's instruction forms a translation and sets A, and D on a write; a walk that fails fills no
cache (R382).  A miss joins a walk under way of the same page and kind; a die walks for 64 at most. -/
def execWalk (c : CoreId) (i : DeskId) (va : Word) (acc : BitVec 2) (s : State) : Host.Outcome State Fault Refusal :=
  event (fun s =>
    let d := s.deskAt c i
    let w := s.whoAt c d
    let put (s : State) (r : WalkRun) : State := s.setDeskAt c i { d with walk := some r }
    if !d.occ || d.walk.isSome then none
    else match s.runOf w va acc with
    | some r => some (put s { r with joined := true })
    | none =>
      let r : WalkRun := ⟨w.part, w.root, va.toNat / 4096, acc, none, (0, 0), false⟩
      if 64 ≤ (s.runs w.site.die).length then none
      else match s.walked w va acc with
      | .ok (s, t) => some (put s { r with found := some t })
      | .error f => some (put s { r with fail := (f.reason, f.level) })) s

end Sys2Proof.Machine
end

