-- ==== Sys2Proof/Machine/Versioned.lean ====
section
/-! DEFINITION. Versioned lines, snapshots, retention and L2 statistics (R211 to R228). -/

namespace Sys2Proof.Machine

/-- The address of a versioned instruction, checked in the order of R222: alignment, translation, ordering kind, footprints, MS. -/
def State.verAccess (s : State) (ea : Word) (acc : BitVec 2) : Except Stop (State × List Part) :=
  if ea.toNat % 8 ≠ 0 then .error (.trap 0x043 ea acc)
  else match s.access (s.who s.d) ea 8 acc with
    | .error e => .error e
    | .ok (s, ps) => if ps.any (·.ms) then .error (.trap 0x046 ea acc) else .ok (s, ps)
/-- The version of the line of a part. -/
def MemSys.version (m : MemSys) (ps : List Part) : BitVec 32 :=
  match ps with
  | p :: _ => match m.tag (p.pa.toNat / 64) with | some t => t.version | none => 0
  | [] => 0
/-- The physical line of an access. -/
def lineOfParts (ps : List Part) : Nat := match ps with | p :: _ => p.pa.toNat / 64 | [] => 0

/-- LDVS records a line, named by its virtual address (R222), in the snapshot set (R223): a line recorded already keeps its first version; a ninth traps. -/
def Desk.record (d : Desk) (ea : Word) (line : Nat) (v : BitVec 32) : Except Stop Desk :=
  if d.snaps.any (fun x => x.vline == ea.extractLsb' 6 51) then .ok d
  else if 8 ≤ d.snaps.length then .error (.trap 0x047 ea accRead)
  else .ok { d with snaps := d.snaps ++ [⟨v, BitVec.ofNat 46 line, ea.extractLsb' 6 51⟩] }

/-- LDV and LDVS (R222). -/
def ldv (rec : Bool) (g : Guard) (a d : GReg) (s : State) : Except Stop (State × Bool) := do
  s.d.pairOk d 2
  let t ← s.d.take g [a] [d, d + 1] 1
  if !t.on then .ok (s.setD t.d, false)
  else
    let ea := t.x 0
    let (s, ps) ← s.verAccess ea accRead
    s.homeClear ps
    let (s, bs, bad) ← s.readMac t.d.part ea ps false accRead
    let v := s.mem.version ps
    let k ← if rec then t.d.record ea (lineOfParts ps) v else .ok t.d
    .ok (s.setD ((k.setG d (BitVec.ofNat 64 (leNat bs)) bad).setG (d + 1) (v.setWidth 64) false), true)
/-- LDV (R222). -/
def execLdv (g : Guard) (a d : GReg) (s : State) := heldRef (ldv false g a d) s
/-- LDVS (R222, R223). -/
def execLdvs (g : Guard) (a d : GReg) (s : State) := heldRef (ldv true g a d) s
/-- LVER (R222): it stalls without a switch. -/
def lver (g : Guard) (a d : GReg) (s : State) : Except Stop State := do
  let t ← s.d.take g [a] [d] 1
  if !t.on then .ok (s.setD t.d)
  else
    t.d.roomG d
    let (s, ps) ← s.verAccess (t.x 0) accRead
    s.homeClear ps
    let (s, _, _) ← s.readMac t.d.part (t.x 0) ps false accRead
    .ok (s.setD (t.d.pushG d ((s.mem.version ps).setWidth 64) false))
/-- LVER (R222). -/
def execLver (g : Guard) (a d : GReg) (s : State) := finish (heldBack (lver g a d)) s

/-- VCAS (R222): an acquire, and a release when it succeeds, so it comes after the desk's stores. -/
def vcas (g : Guard) (b a d : GReg) (s : State) : Except Stop (State × Bool) := do
  s.d.pairOk d 2
  let t ← s.d.take g [a, b, d] [d + 1] 1
  if !t.on then .ok (s.setD t.d, false)
  else
    let k := t.d
    if s.d.poisonG d then .error (.trap 0x1C0 (badG d))
    else
      let ea := t.x 0
      let (s, ps) ← s.verAccess ea accRmw
      s.releasedAt ps
      s.pastFences [.l, .s]
      let (s, _, _) ← s.readMac k.part ea ps false accRmw
      let cur := s.mem.version ps
      if cur = (t.x 2).setWidth 32 then
        let s := (s.l1Drop s.core ps).updateHome k.part ea ps t.bad (natLe (t.x 1).toNat 8)
        .ok (s.setD ((k.setG d 1 false).setG (d + 1) ((s.mem.version ps).setWidth 64) false), true)
      else .ok (s.setD ((k.setG d 0 false).setG (d + 1) (cur.setWidth 64) false), true)
/-- VCAS (R222). -/
def execVcas (g : Guard) (b a d : GReg) (s : State) := heldRef (vcas g b a d) s

/-- The check of one snapshot slot (R223): its virtual line translated afresh, and its version at the home. -/
def State.snapOk (s : State) (x : Snap) : State × Bool :=
  let va : Word := x.vline.setWidth 64 <<< 6
  match s.span (s.who s.d) va va accRead 2 64 with
  | .error _ => (s, false)
  | .ok (s, ps) =>
    match ps with
    | p :: _ =>
      let s := { s with mem := s.mem.reach p.ms (p.pa.toNat / 64) ((s.carry s.d.part va false).via p) }
      (s, !p.ms && p.pa.toNat / 64 == x.pline.toNat && s.mem.version [p] == x.version)
    | [] => (s, false)
/-- The check of a slot is an access to the bytes of its line: the desk's earlier stores to them come first (R198, DEDUCED, log 12). -/
def State.snapClear (s : State) (x : Snap) : Except Stop Unit :=
  let va : Word := x.vline.setWidth 64 <<< 6
  match s.span (s.who s.d) va va accRead 2 64 with
  | .error _ => .ok ()
  | .ok (s, ps) => s.homeClear ps
/-- VALSET (R223). -/
def valset (g : Guard) (d : GReg) (s : State) : Except Stop State := do
  s.d.limG d
  if !s.d.guard g then .ok s
  else
    s.d.roomG d
    s.d.snaps.forM s.snapClear
    let (s, ok) := s.d.snaps.foldl (fun (r : State × Bool) x => let (s, b) := r.1.snapOk x; (s, r.2 && b)) (s, true)
    .ok (s.setD ({ s.d with snaps := [] }.pushG d (if ok then 1 else 0) false))
/-- VALSET (R223). -/
def execValset (g : Guard) (d : GReg) (s : State) := finish (heldBack (valset g d)) s
/-- VCLR (R223). -/
def execVclr (g : Guard) (s : State) :=
  finish (heldBack (onDesk (fun d => .ok (if d.guard g then { d with snaps := [] } else d)))) s

/-- L2RET (R224): length, wrap and way count are checked; the range is widened to whole lines. -/
def l2ret (g : Guard) (b a : GReg) (n : BitVec 3) (s : State) : Except Stop State := do
  let t ← s.d.take g [a, b] [] 2
  if !t.on then .ok (s.setD t.d)
  else
    let base := (t.x 0).toNat
    let len := (t.x 1).toNat
    let p := s.partAt t.d.part
    if len < 64 ∨ 2 ^ 36 < len ∨ 2 ^ 57 < base + len then .error (.trap 0x04B (t.x 1))
    else if p.ways.getD n.toNat 0 = 0 then .error (.trap 0x04B (n.setWidth 64))
    else
      let lo := base / 64 * 64
      let hi := (base + len + 63) / 64 * 64
      .ok ((s.setPart t.d.part { p with ret := tset p.ret n.toNat (lo, hi - lo) }).setD t.d)
/-- L2RET (R224). -/
def execL2ret (g : Guard) (b a : GReg) (n : BitVec 3) (s : State) := finish (heldBack (l2ret g b a n)) s
/-- The lines of a partition's slot become ordinary (R224). -/
def MemSys.unpin (m : MemSys) (p : PartId) (slot : Nat) : MemSys :=
  { m with banks := m.banks.map (fun b => (b.1, { b.2 with
      tags := b.2.tags.map (fun t => if t.part == some p && t.rslot == slot then { t with rslot := 0 } else t) })) }
/-- UNPIN (R224). -/
def unpin (g : Guard) (n : BitVec 3) (s : State) : Except Stop State :=
  if !s.d.guard g then .ok s
  else
    let p := s.partAt s.d.part
    if (tget? p.ret n.toNat).isNone then .ok s
    else
      let s := s.setPart s.d.part { p with ret := tdel p.ret n.toNat }
      .ok { s with mem := s.mem.unpin s.d.part (n.toNat + 1) }
/-- UNPIN (R224). -/
def execUnpin (g : Guard) (n : BitVec 3) (s : State) := finish (heldBack (unpin g n)) s

/-- The tags of a partition, each with its bank. -/
def MemSys.tagsOf (m : MemSys) (p : PartId) : List (Nat × Bank × L2Tag) :=
  m.banks.flatMap (fun b => (b.2.tags.filter (·.part == some p)).map (fun t => (b.1, b.2, t)))
/-- A statistic of a partition (R226). -/
def MemSys.stat (m : MemSys) (p : PartId) (n : Nat) : Word :=
  let ts := m.tagsOf p
  let x := tget m.stats p.toNat {}
  match n with
  | 0 => BitVec.ofNat 64 ts.length
  | 1 => BitVec.ofNat 64 ((ts.filterMap (fun t => t.2.2.entry.map (fun e => (t.1, e)))).eraseDups).length
  | 2 => BitVec.ofNat 64 (ts.filter (fun t => match t.2.2.entry with
      | none => true
      | some e => decide (2 ≤ (tget t.2.1.entries e {}).count))).length
  | 3 => x.unshare
  | 4 => x.collide
  | 5 => x.split
  | 6 => x.retHit
  | _ => x.retOver
/-- The banks as a reading finds them: a pending twinning step counts as done or not, chosen for each line (R226). -/
def MemSys.asRead (m : MemSys) (tick : Nat) : MemSys :=
  (m.banks.flatMap (fun b => b.2.tags)).foldl (fun m t => if t.due && Config.chance tick t.line then m.twin t.line else m) m
/-- L2STAT (R226): after every earlier access of the desk. -/
def l2stat (g : Guard) (b d : GReg) (s : State) : Except Stop State := do
  let t ← s.d.take g [b] [d] 1
  if !t.on then .ok (s.setD t.d)
  else if 7 < (t.x 0).toNat then .error (.trap 0x04B (t.x 0))
  else
    t.d.roomG d
    s.released
    .ok (s.setD (t.d.pushG d ((s.mem.asRead s.tick).stat t.d.part (t.x 0).toNat) false))
/-- L2STAT (R226). -/
def execL2stat (g : Guard) (b d : GReg) (s : State) := finish (heldBack (l2stat g b d)) s

end Sys2Proof.Machine
end

