-- ==== Sys2Proof/Machine/Atomic.lean ====
section
/-! DEFINITION. Scalar and vector atomics (R229 to R234). -/

namespace Sys2Proof.Machine

/-! ### AMO and CAS (R230, R231) -/

/-- The value that an atomic returns (R231). -/
def amoOld (op : Nat) (old : Nat) : Word :=
  if op = 22 ∨ op = 23 ∨ (9 ≤ op ∧ op ≤ 11) then BitVec.ofNat 64 old
  else if 16 ≤ op then (BitVec.ofNat 32 old).signExtend 64
  else BitVec.ofNat 64 old
/-- Whether an order code releases (R229). -/
def ordRel (o : BitVec 2) : Bool := o.getLsbD 1
/-- A scope code of ATOM and CADD: 0 cluster to 3 system. -/
def atomScope (sc : BitVec 2) : Scope := scopeOf (sc.toNat + 1)
/-- An atomic location: alignment, translation for read and write, ordering kind, footprints (R230); a release comes after every
earlier store of the desk, any other after those that R198 orders. -/
def State.atomAccess (s : State) (ea : Word) (n : Nat) (rel : Bool) : Except Stop (State × List Part) :=
  if ea.toNat % n ≠ 0 then .error (.trap 0x043 ea accRmw)
  else match s.access (s.who s.d) ea n accRmw with
    | .error e => .error e
    | .ok (s, ps) =>
      match (if rel then s.releasedAt ps else match s.homeClear ps with | .error e => .error e | .ok _ => s.writeClear) with
      | .error e => .error e
      | .ok _ => match s.pastFences (if ps.any (·.ms) then [.l, .s, .n] else [.l, .s]) with
        | .error e => .error e
        | .ok _ => match s.macFail s.d.part ps with
          | some l => .error (.mac l ea accRmw)
          | none => .ok (s, ps)

/-- AMO of an operation code (R230). -/
def amo (op : Nat) (o : BitVec 2) (b a d : GReg) (s : State) : Except Stop (State × Bool) := do
  let t ← s.d.take 0 [a, b] [d] 1
  let ea := t.x 0
  let n := (amoCode op).2
  let (s', ps) ← s.atomAccess ea n (ordRel o)
  let (s', old, bad) := (s'.l1Drop s'.core ps).combine t.d.part ea ps (amoCode op).1 ((t.x 1).toNat % 2 ^ (8 * n)) t.bad
  .ok (s'.setD (t.d.pushG d (amoOld op old) bad), true)
/-- CAS of `n` bytes (R230): one that fails writes nothing. -/
def cas (n : Nat) (o : BitVec 2) (b a d : GReg) (s : State) : Except Stop (State × Bool) := do
  s.d.limsG [a, b, d]
  s.d.await [a, b, d] [] [d] []
  let x ← s.d.useG a
  let y ← x.d.popG b
  let z ← y.d.useG d
  let ea := x.val
  let (s', ps) ← s.atomAccess ea n (ordRel o)
  let (s', bs, badOld) := (s'.l1Drop s'.core ps).readHome z.d.part ea ps false
  let old := leNat bs
  let w := 2 ^ (8 * n)
  let s' := if old = z.val.toNat % w then
      s'.updateHome z.d.part ea ps (y.bad || badOld) (natLe (y.val.toNat % w) n) else s'
  .ok (s'.setD (z.d.pushG d (if n = 4 then (BitVec.ofNat 32 old).signExtend 64 else BitVec.ofNat 64 old) badOld), true)
/-- ARED of an operation code (R230, R233): it enters the store queue and retires. -/
def aredOp (op : Nat) (sc o : BitVec 2) (b a : GReg) (s : State) : Except Stop State := do
  let t ← s.d.take 0 [a, b] [] 1
  let ea := t.x 0
  let n := (amoCode op).2
  if ea.toNat % n ≠ 0 then .error (.trap 0x043 ea accRmw)
  else
    let (s', ops) ← s.storeOps s.d accRmw [(ea, natLe (t.x 1).toNat n, t.bad)]
    s'.enqueue t.d { kind := .ared (BitVec.ofNat 5 op), ops := ops, ef := false, release := if ordRel o then some (atomScope sc) else none, part := t.d.part }

/-- AMO, operation 0 (R231). -/
def execAmoAdd (_sc o : BitVec 2) (b a d : GReg) (s : State) := heldRef (amo 0 o b a d) s
/-- AMO, operation 1 (R231). -/
def execAmoAnd (_sc o : BitVec 2) (b a d : GReg) (s : State) := heldRef (amo 1 o b a d) s
/-- AMO, operation 2 (R231). -/
def execAmoOr (_sc o : BitVec 2) (b a d : GReg) (s : State) := heldRef (amo 2 o b a d) s
/-- AMO, operation 3 (R231). -/
def execAmoXor (_sc o : BitVec 2) (b a d : GReg) (s : State) := heldRef (amo 3 o b a d) s
/-- AMO, operation 4 (R231). -/
def execAmoMin (_sc o : BitVec 2) (b a d : GReg) (s : State) := heldRef (amo 4 o b a d) s
/-- AMO, operation 5 (R231). -/
def execAmoMax (_sc o : BitVec 2) (b a d : GReg) (s : State) := heldRef (amo 5 o b a d) s
/-- AMO, operation 6 (R231). -/
def execAmoMinU (_sc o : BitVec 2) (b a d : GReg) (s : State) := heldRef (amo 6 o b a d) s
/-- AMO, operation 7 (R231). -/
def execAmoMaxU (_sc o : BitVec 2) (b a d : GReg) (s : State) := heldRef (amo 7 o b a d) s
/-- AMO, operation 8 (R231). -/
def execAmoSwap (_sc o : BitVec 2) (b a d : GReg) (s : State) := heldRef (amo 8 o b a d) s
/-- AMO, operation 9 (R231). -/
def execAmoFadd (_sc o : BitVec 2) (b a d : GReg) (s : State) := heldRef (amo 9 o b a d) s
/-- AMO, operation 10 (R231). -/
def execAmoFmin (_sc o : BitVec 2) (b a d : GReg) (s : State) := heldRef (amo 10 o b a d) s
/-- AMO, operation 11 (R231). -/
def execAmoFmax (_sc o : BitVec 2) (b a d : GReg) (s : State) := heldRef (amo 11 o b a d) s
/-- AMO, operation 16 (R231). -/
def execAmoAddW (_sc o : BitVec 2) (b a d : GReg) (s : State) := heldRef (amo 16 o b a d) s
/-- AMO, operation 17 (R231). -/
def execAmoAndW (_sc o : BitVec 2) (b a d : GReg) (s : State) := heldRef (amo 17 o b a d) s
/-- AMO, operation 18 (R231). -/
def execAmoOrW (_sc o : BitVec 2) (b a d : GReg) (s : State) := heldRef (amo 18 o b a d) s
/-- AMO, operation 19 (R231). -/
def execAmoXorW (_sc o : BitVec 2) (b a d : GReg) (s : State) := heldRef (amo 19 o b a d) s
/-- AMO, operation 20 (R231). -/
def execAmoMinW (_sc o : BitVec 2) (b a d : GReg) (s : State) := heldRef (amo 20 o b a d) s
/-- AMO, operation 21 (R231). -/
def execAmoMaxW (_sc o : BitVec 2) (b a d : GReg) (s : State) := heldRef (amo 21 o b a d) s
/-- AMO, operation 22 (R231). -/
def execAmoMinUW (_sc o : BitVec 2) (b a d : GReg) (s : State) := heldRef (amo 22 o b a d) s
/-- AMO, operation 23 (R231). -/
def execAmoMaxUW (_sc o : BitVec 2) (b a d : GReg) (s : State) := heldRef (amo 23 o b a d) s
/-- AMO, operation 24 (R231). -/
def execAmoSwapW (_sc o : BitVec 2) (b a d : GReg) (s : State) := heldRef (amo 24 o b a d) s
/-- CAS (R230). -/
def execCas (_sc o : BitVec 2) (b a d : GReg) (s : State) := heldRef (cas 8 o b a d) s
/-- CAS.w (R230). -/
def execCasW (_sc o : BitVec 2) (b a d : GReg) (s : State) := heldRef (cas 4 o b a d) s
/-- ARED, operation 0 (R231). -/
def execAredAdd (sc o : BitVec 2) (b a : GReg) (s : State) := finish (heldBack (aredOp 0 sc o b a)) s
/-- ARED, operation 1 (R231). -/
def execAredAnd (sc o : BitVec 2) (b a : GReg) (s : State) := finish (heldBack (aredOp 1 sc o b a)) s
/-- ARED, operation 2 (R231). -/
def execAredOr (sc o : BitVec 2) (b a : GReg) (s : State) := finish (heldBack (aredOp 2 sc o b a)) s
/-- ARED, operation 3 (R231). -/
def execAredXor (sc o : BitVec 2) (b a : GReg) (s : State) := finish (heldBack (aredOp 3 sc o b a)) s
/-- ARED, operation 4 (R231). -/
def execAredMin (sc o : BitVec 2) (b a : GReg) (s : State) := finish (heldBack (aredOp 4 sc o b a)) s
/-- ARED, operation 5 (R231). -/
def execAredMax (sc o : BitVec 2) (b a : GReg) (s : State) := finish (heldBack (aredOp 5 sc o b a)) s
/-- ARED, operation 6 (R231). -/
def execAredMinU (sc o : BitVec 2) (b a : GReg) (s : State) := finish (heldBack (aredOp 6 sc o b a)) s
/-- ARED, operation 7 (R231). -/
def execAredMaxU (sc o : BitVec 2) (b a : GReg) (s : State) := finish (heldBack (aredOp 7 sc o b a)) s
/-- ARED, operation 8 (R231). -/
def execAredSwap (sc o : BitVec 2) (b a : GReg) (s : State) := finish (heldBack (aredOp 8 sc o b a)) s
/-- ARED, operation 9 (R231). -/
def execAredFadd (sc o : BitVec 2) (b a : GReg) (s : State) := finish (heldBack (aredOp 9 sc o b a)) s
/-- ARED, operation 10 (R231). -/
def execAredFmin (sc o : BitVec 2) (b a : GReg) (s : State) := finish (heldBack (aredOp 10 sc o b a)) s
/-- ARED, operation 11 (R231). -/
def execAredFmax (sc o : BitVec 2) (b a : GReg) (s : State) := finish (heldBack (aredOp 11 sc o b a)) s
/-- ARED, operation 16 (R231). -/
def execAredAddW (sc o : BitVec 2) (b a : GReg) (s : State) := finish (heldBack (aredOp 16 sc o b a)) s
/-- ARED, operation 17 (R231). -/
def execAredAndW (sc o : BitVec 2) (b a : GReg) (s : State) := finish (heldBack (aredOp 17 sc o b a)) s
/-- ARED, operation 18 (R231). -/
def execAredOrW (sc o : BitVec 2) (b a : GReg) (s : State) := finish (heldBack (aredOp 18 sc o b a)) s
/-- ARED, operation 19 (R231). -/
def execAredXorW (sc o : BitVec 2) (b a : GReg) (s : State) := finish (heldBack (aredOp 19 sc o b a)) s
/-- ARED, operation 20 (R231). -/
def execAredMinW (sc o : BitVec 2) (b a : GReg) (s : State) := finish (heldBack (aredOp 20 sc o b a)) s
/-- ARED, operation 21 (R231). -/
def execAredMaxW (sc o : BitVec 2) (b a : GReg) (s : State) := finish (heldBack (aredOp 21 sc o b a)) s
/-- ARED, operation 22 (R231). -/
def execAredMinUW (sc o : BitVec 2) (b a : GReg) (s : State) := finish (heldBack (aredOp 22 sc o b a)) s
/-- ARED, operation 23 (R231). -/
def execAredMaxUW (sc o : BitVec 2) (b a : GReg) (s : State) := finish (heldBack (aredOp 23 sc o b a)) s
/-- ARED, operation 24 (R231). -/
def execAredSwapW (sc o : BitVec 2) (b a : GReg) (s : State) := finish (heldBack (aredOp 24 sc o b a)) s

/-! ### Vector atomics (R234) -/

/-- A vector atomic's operands as checked before its first lane: base and offsets, the desk after the pops, and the data. -/
structure VAtom where
  /-- g[a] -/
  base : Word
  /-- vB -/
  offs : Vec
  /-- vD -/
  data : Vec
  /-- desk after the pops -/
  d : Desk
  /-- lanes still to perform -/
  lanes : List Nat
  /-- vD is poisoned, which no selected lane meets -/
  bad : Bool
/-- A lane's address. -/
def VAtom.ea (x : VAtom) (e : Nat) : Word := gatherEa x.base x.offs e
/-- Ports, and the poison and alignment of every selected lane (R37, R234): none selected meets neither. -/
def vatom (dst : List GReg) (g : Guard) (b a d : GReg) (s : State) : Except Stop VAtom := do
  s.d.limG a
  s.d.limsV [b, d]
  s.d.await [a] [b, d] [] dst
  let none_ := (s.d.lanes g 16).isEmpty
  let x ← if none_ then s.d.popG a else s.d.useG a
  let y ← if none_ then x.d.popV b else x.d.useV b
  let z ← if none_ then y.d.popV d else y.d.useV d
  let t : VAtom := ⟨x.val, y.val, z.val, z.d, (s.d.lanes g 16).filter (fun e => decide (s.d.vprog.toNat ≤ e)), z.bad⟩
  match (s.d.lanes g 16).find? (fun e => (t.ea e).toNat % 4 != 0) with
  | some e => .error (.trap 0x043 (t.ea e) accRmw)
  | none => .ok t
/-- VAMO (R234): its lanes are performed one after another while its desk waits for the off-core reference. -/
def vamo (op : Nat) (g : Guard) (b a d : GReg) (s : State) : Except Stop (State × Option Pending) := do
  let t ← vatom [d] g b a d s
  if t.lanes.isEmpty then .ok (s.setD { t.d.pushV d t.data t.bad with vprog := 0 }, none)
  else .ok (s, some {
    dst := d, vec := true, units := t.lanes.map (fun e => ⟨t.ea e, [], 32 * e, e⟩), signed := false, home := true, ef := false, merge := false
    gs := [a], vs := [b, d], tent := false, amo := some (BitVec.ofNat 4 op, t.data) })
/-- A VAMO is held on a run-ahead path (R104). -/
def heldLoad (f : State → Except Stop (State × Option Pending)) (s : State) : Host.Outcome State Fault Refusal :=
  if s.d.gen.isSome then .next (s.hold .held) else finishLoad f s
/-- Ends a VARED. -/
def finishLanes (f : State → Except Stop (State × Option Stop)) (s : State) : Host.Outcome State Fault Refusal :=
  if s.d.gen.isSome then .next (s.hold .held)
  else if s.leaderFull then .next (s.hold .forward)
  else match f s with
  | .error e => .next (s.stopWith e)
  | .ok (t, some e) => .next (t.stopWith e)
  | .ok (t, none) => .next t.retire
/-- The lanes of a VARED up to the first that faults, translated. -/
def State.varedOps (s : State) (t : VAtom) : List Nat → State × List StoreOp × Option (Nat × Stop)
  | [] => (s, [], none)
  | e :: es =>
    match s.access (s.who s.d) (t.ea e) 4 accRmw with
    | .error x => (s, [], some (e, asLane x))
    | .ok (s, ps) =>
      let (s, os, f) := s.varedOps t es
      (s, ⟨t.ea e, ps, natLe (t.data.toNat / 2 ^ (32 * e) % 2 ^ 32) 4, false⟩ :: os, f)
/-- VARED (R234): one store of its lanes in ascending order. -/
def vared (op : Nat) (g : Guard) (b a d : GReg) (s : State) : Except Stop (State × Option Stop) := do
  let t ← vatom [] g b a d s
  let (s', os, f) := s.varedOps t t.lanes
  let it : StoreItem := {
    kind := .ared (BitVec.ofNat 5 (if op < 9 then op + 16 else op)), ops := os, ef := false, release := none, part := s.d.part }
  match f with
  | some (e, x) =>
    let s' ← s'.enqueue s.d it
    .ok (s'.setD { s'.d with vprog := BitVec.ofNat 64 e }, some x)
  | none =>
    let s' ← s'.enqueue { t.d with vprog := 0 } it
    .ok (s', none)

/-- VAMO, operation 0 (R234). -/
def execVamoAdd (g : Guard) (b a d : GReg) (s : State) := heldLoad (vamo 0 g b a d) s
/-- VAMO, operation 1 (R234). -/
def execVamoAnd (g : Guard) (b a d : GReg) (s : State) := heldLoad (vamo 1 g b a d) s
/-- VAMO, operation 2 (R234). -/
def execVamoOr (g : Guard) (b a d : GReg) (s : State) := heldLoad (vamo 2 g b a d) s
/-- VAMO, operation 3 (R234). -/
def execVamoXor (g : Guard) (b a d : GReg) (s : State) := heldLoad (vamo 3 g b a d) s
/-- VAMO, operation 4 (R234). -/
def execVamoMin (g : Guard) (b a d : GReg) (s : State) := heldLoad (vamo 4 g b a d) s
/-- VAMO, operation 5 (R234). -/
def execVamoMax (g : Guard) (b a d : GReg) (s : State) := heldLoad (vamo 5 g b a d) s
/-- VAMO, operation 6 (R234). -/
def execVamoMinU (g : Guard) (b a d : GReg) (s : State) := heldLoad (vamo 6 g b a d) s
/-- VAMO, operation 7 (R234). -/
def execVamoMaxU (g : Guard) (b a d : GReg) (s : State) := heldLoad (vamo 7 g b a d) s
/-- VAMO, operation 8 (R234). -/
def execVamoSwap (g : Guard) (b a d : GReg) (s : State) := heldLoad (vamo 8 g b a d) s
/-- VAMO, operation 9 (R234). -/
def execVamoFadd (g : Guard) (b a d : GReg) (s : State) := heldLoad (vamo 9 g b a d) s
/-- VAMO, operation 10 (R234). -/
def execVamoFmin (g : Guard) (b a d : GReg) (s : State) := heldLoad (vamo 10 g b a d) s
/-- VAMO, operation 11 (R234). -/
def execVamoFmax (g : Guard) (b a d : GReg) (s : State) := heldLoad (vamo 11 g b a d) s
/-- VARED, operation 0 (R234). -/
def execVaredAdd (g : Guard) (b a d : GReg) (s : State) := finishLanes (vared 0 g b a d) s
/-- VARED, operation 1 (R234). -/
def execVaredAnd (g : Guard) (b a d : GReg) (s : State) := finishLanes (vared 1 g b a d) s
/-- VARED, operation 2 (R234). -/
def execVaredOr (g : Guard) (b a d : GReg) (s : State) := finishLanes (vared 2 g b a d) s
/-- VARED, operation 3 (R234). -/
def execVaredXor (g : Guard) (b a d : GReg) (s : State) := finishLanes (vared 3 g b a d) s
/-- VARED, operation 4 (R234). -/
def execVaredMin (g : Guard) (b a d : GReg) (s : State) := finishLanes (vared 4 g b a d) s
/-- VARED, operation 5 (R234). -/
def execVaredMax (g : Guard) (b a d : GReg) (s : State) := finishLanes (vared 5 g b a d) s
/-- VARED, operation 6 (R234). -/
def execVaredMinU (g : Guard) (b a d : GReg) (s : State) := finishLanes (vared 6 g b a d) s
/-- VARED, operation 7 (R234). -/
def execVaredMaxU (g : Guard) (b a d : GReg) (s : State) := finishLanes (vared 7 g b a d) s
/-- VARED, operation 8 (R234). -/
def execVaredSwap (g : Guard) (b a d : GReg) (s : State) := finishLanes (vared 8 g b a d) s
/-- VARED, operation 9 (R234). -/
def execVaredFadd (g : Guard) (b a d : GReg) (s : State) := finishLanes (vared 9 g b a d) s
/-- VARED, operation 10 (R234). -/
def execVaredFmin (g : Guard) (b a d : GReg) (s : State) := finishLanes (vared 10 g b a d) s
/-- VARED, operation 11 (R234). -/
def execVaredFmax (g : Guard) (b a d : GReg) (s : State) := finishLanes (vared 11 g b a d) s

end Sys2Proof.Machine
end

