-- ==== Sys2Proof/Machine/MxUnit.lean ====
section
/-! DEFINITION. The matrix unit's arithmetic and operands (R160 to R168, R180, R183): layouts, element positions, semiring cells, run
sums, the epilogue and row statistics. -/

namespace Sys2Proof.Machine

/-! ### Layouts (R161, R162) -/

/-- A layout word, split. -/
structure Lay where
  /-- FORMAT -/
  fmt : Nat
  /-- ORDER -/
  order : Nat
  /-- T -/
  t : Bool
  /-- STRIDE -/
  stride : Nat
  /-- storage rows -/
  rows : Nat
  /-- storage columns -/
  cols : Nat
  deriving DecidableEq, Repr

/-- Splits a layout word. -/
def layOf (w : Word) : Lay :=
  ⟨(w.extractLsb' 32 4).toNat, (w.extractLsb' 36 2).toNat, w.getLsbD 38, (w.extractLsb' 40 24).toNat,
   (w.extractLsb' 0 16).toNat + 1, (w.extractLsb' 16 16).toNat + 1⟩
/-- Width of an element in bits; an SX element has none of its own. -/
def fmtBits (f : Nat) : Nat := [32, 16, 16, 8, 8, 8, 4, 0, 0, 32, 1].getD f 0
/-- Family of a format (R165). -/
def fmtFam (f : Nat) : Fam := if f = 5 ∨ f = 6 ∨ f = 9 then .i else if f = 10 then .b else .f
/-- Panel size (R159, R160). -/
def fmtPanel (f : Nat) : Nat := [16, 16, 16, 32, 32, 32, 64, 32, 64, 16, 64].getD f 16
/-- SX7 or SX3. -/
def Lay.sx (l : Lay) : Bool := l.fmt == 7 || l.fmt == 8
/-- Elements of an SX block. -/
def Lay.blk (l : Lay) : Nat := if l.fmt = 7 then 64 else 128
/-- Rows and columns of the view. -/
def Lay.vr (l : Lay) : Nat := if l.t then l.cols else l.rows
/-- Columns of the view. -/
def Lay.vc (l : Lay) : Nat := if l.t then l.rows else l.cols
/-- The float format of an operand format. -/
def mxFmt (f : Nat) : Option Fmt :=
  if f = 0 then some .f32 else if f = 1 then some .bf16 else if f = 2 then some .f16
  else if f = 3 then some .e4m3 else if f = 4 then some .e5m2 else none
/-- A local operand address (R161). -/
def isLocal (a : Word) : Bool := a.extractLsb' 60 4 == 0xC#4 && a.extractLsb' 19 41 == 0#41
/-- The scratchpad offset of a local operand address. -/
def localOff (a : Word) : Nat := (a.extractLsb' 0 19).toNat
/-- A power of two of at least 4. -/
def pow2ge4 (n : Nat) : Bool := decide (4 ≤ n) && n == 2 ^ n.log2
/-- The layout word and address checks of R162, cause 0x086. -/
def layOk (w a : Word) : Bool :=
  let l := layOf w
  let align := if l.order = 2 then 64 else max 1 (fmtBits l.fmt / 8)
  decide (l.fmt ≤ 10) && l.order != 3 && !w.getLsbD 39 && (l.sx == (l.order == 2)) &&
  (match l.order with
   | 0 => l.rows == 1 || decide (l.cols ≤ l.stride)
   | 1 => l.stride == 0 && pow2ge4 l.rows && pow2ge4 l.cols
   | _ => l.cols % l.blk == 0 && l.stride % l.blk == 0) &&
  a.toNat % align == 0

/-- Interleaves the low `m` bits of a row and a column index (R162). -/
def zBits (rho gam : Nat) : Nat → Nat
  | 0 => 0
  | m + 1 => zBits rho gam m + rho / 2 ^ m % 2 * 2 ^ (2 * m + 1) + gam / 2 ^ m % 2 * 2 ^ (2 * m)
/-- The element index of storage element (r, c) in orders 00 and 01. -/
def Lay.index (l : Lay) (r c : Nat) : Nat :=
  if l.order = 1 then
    let a := (l.rows / 4).log2
    let b := (l.cols / 4).log2
    let m := min a b
    let leaf := zBits (r / 4) (c / 4) m + (if b < a then r / 4 / 2 ^ m else c / 4 / 2 ^ m) * 2 ^ (2 * m)
    leaf * 16 + r % 4 * 4 + c % 4
  else r * l.stride + c
/-- Where a view element lies: byte offset from the address, bit in it (or element of an SX block), and bytes. -/
def Lay.at (l : Lay) (i j : Nat) : Nat × Nat × Nat :=
  let (r, c) := if l.t then (j, i) else (i, j)
  if l.order = 2 then (64 * (r * l.stride / l.blk + c / l.blk), c % l.blk, 64)
  else
    let bit := l.index r c * fmtBits l.fmt
    (bit / 8, bit % 8, max 1 (fmtBits l.fmt / 8))
/-- Bytes from the address that the storage spans. -/
def Lay.bytes (l : Lay) : Nat :=
  if l.order = 2 then 64 * ((l.rows - 1) * l.stride / l.blk + l.cols / l.blk)
  else if l.order = 1 then (l.rows * l.cols * fmtBits l.fmt + 7) / 8
  else (((l.rows - 1) * l.stride + l.cols) * fmtBits l.fmt + 7) / 8

/-! ### Element values -/

/-- An operand element: an exact float, or an integer (0 and 1 for Booleans). -/
inductive El where
  /-- float -/
  | f (x : FVal)
  /-- integer or Boolean -/
  | n (x : Int)
  deriving DecidableEq, Repr
/-- As a float. -/
def El.fv : El → FVal
  | .f x => x
  | .n x => .num (x < 0) x.natAbs 0
/-- As an integer. -/
def El.iv : El → Int
  | .n x => x
  | .f _ => 0
/-- The value of an element from the bytes that hold it; an SX block with a foreign code gives none (R64). -/
def Lay.value (l : Lay) (k : Nat) (bs : List Byte) : Option El :=
  let x := leNat bs
  if l.sx then
    match (if l.fmt = 7 then sx7 else sx3).read x with
    | .ok xs => some (.f (xs.getD k (.num false 0 0)))
    | .error _ => none
  else
    let w := fmtBits l.fmt
    let v := x / 2 ^ k % 2 ^ w
    match mxFmt l.fmt with
    | some f => some (.f (f.value v))
    | none => some (.n (if l.fmt = 10 then (v : Int) else slane w v))

/-! ### Memory of the unit (R161, R171, R177) -/

/-- A desk as a maker, at a site. -/
def Desk.maker (d : Desk) (site : Site) : Maker := ⟨d.part, d.user, d.launch, site⟩
/-- A translation failure of an operand access is cause 0x080 (R177); other faults keep theirs. -/
def asOperand (e : Stop) : Stop :=
  match e with
  | .trap c x acc tf => .trap (if c = 0x040 ∨ c = 0x042 ∨ c = 0x044 then 0x080 else c) x acc tf
  | e => e
/-- An access by the unit. -/
def State.mxAccess (s : State) (m : Maker) (va : Word) (n : Nat) (acc : BitVec 2) : Except Stop (State × List Part) :=
  match s.access (s.whoOf m) va n acc with
  -- a request of a line with memory-side requests outstanding waits at its bank (R208)
  | .ok r => if r.2.any r.1.msBusy then .error (.wait .memory) else .ok r
  | .error e => .error (asOperand e)
/-- Reads bytes at an operand address plus an offset, from the core that moves. -/
def State.mxRead (s : State) (m : Maker) (a : Word) (off n : Nat) : Except Stop (State × List Byte × Bool) :=
  if isLocal a then
    match s.mayRead (localOff a + off) n with
    | .error e => .error e
    | .ok _ => .ok (s, s.c.padRead (localOff a + off) n, s.c.padBad (localOff a + off) n)
  else
    let va := a + BitVec.ofNat 64 off
    match s.mxAccess m va n accRead with
    | .error e => .error e
    | .ok (s, ps) => s.readMac m.part va ps false accRead
/-- Reads a view element. -/
def State.mxElem (s : State) (m : Maker) (a : Word) (l : Lay) (i j : Nat) : Except Stop (State × El × Bool) :=
  let (off, k, n) := l.at i j
  match s.mxRead m a off n with
  | .error e => .error e
  | .ok (s, bs, bad) =>
    match l.value k bs with
    | some x => .ok (s, x, bad)
    | none => .error (.trap 0x088 (a + BitVec.ofNat 64 off))
/-- Reads view elements in order. -/
def State.mxElems (s : State) (m : Maker) (a : Word) (l : Lay) : List (Nat × Nat) → Except Stop (State × List El × Bool)
  | [] => .ok (s, [], false)
  | p :: ps =>
    match s.mxElem m a l p.1 p.2 with
    | .error e => .error e
    | .ok (s, x, bad) =>
      match s.mxElems m a l ps with
      | .error e => .error e
      | .ok (s, xs, b) => .ok (s, x :: xs, bad || b)
/-- A write that the unit has to make: an address, and its bytes. -/
structure MxWrite where
  /-- operand address -/
  a : Word
  /-- offset -/
  off : Nat
  /-- bytes -/
  bytes : List Byte
  /-- bits written in a single byte, for elements narrower than a byte -/
  mask : BitVec 8 := 0xFF
/-- Checks the writes of a row before any of them is made (R177). -/
def State.mxCheck (s : State) (m : Maker) : List MxWrite → Except Stop (State × List (List Part))
  | [] => .ok (s, [])
  | w :: ws =>
    let here : Except Stop (State × List Part) :=
      if isLocal w.a then
        match s.mayWrite (localOff w.a + w.off) w.bytes.length with | .error e => .error e | .ok _ => .ok (s, [])
      else s.mxAccess m (w.a + BitVec.ofNat 64 w.off) w.bytes.length accWrite
    match here with
    | .error e => .error e
    | .ok (s, ps) => match s.mxCheck m ws with | .error e => .error e | .ok (s, pss) => .ok (s, ps :: pss)
/-- The bytes a write leaves, where it covers only some bits of a byte. -/
def mergeBits (w : MxWrite) (old : List Byte) : List Byte :=
  if w.mask = 0xFF then w.bytes
  else List.zipWith (fun o n => (o &&& ~~~w.mask) ||| (n &&& w.mask)) old w.bytes
/-- Makes a checked write. -/
def State.mxWrite (s : State) (m : Maker) (bad : Bool) (w : MxWrite) (ps : List Part) : State :=
  if isLocal w.a then
    let off := localOff w.a + w.off
    s.setC (s.c.padWrite off (mergeBits w (s.c.padRead off w.bytes.length)) bad)
  else
    let va := w.a + BitVec.ofNat 64 w.off
    let s := s.l1Drop s.core ps
    let (s, old, _) := if w.mask = 0xFF then (s, [], false) else s.readHome m.part va ps false
    if w.mask = 0xFF then s.writeHome m.part va ps false bad w.bytes else s.updateHome m.part va ps bad (mergeBits w old)

/-! ### Cells (R69, R70, R165, R180) -/

/-- An integer brought into INT32 by saturation or wrap, and how many saturations that took. -/
def fit32 (sat : Bool) (x : Int) : Int × Nat :=
  if -(2 ^ 31) ≤ x ∧ x < 2 ^ 31 then (x, 0)
  else if sat then ((satInt 32 x 0).val, 1) else (slane 32 (wrapW 32 x), 0)
/-- A list in pieces of `n`. -/
def chunks {α : Type} (n : Nat) : Nat → List α → List (List α)
  | 0, _ => []
  | _, [] => []
  | k + 1, xs => xs.take n :: chunks n k (xs.drop n)
/-- Exact sum of float products; an empty one is +0. -/
def exSum : List FVal → FVal
  | [] => .num false 0 0
  | x :: xs => xs.foldl (fun a y => (exAdd false a y).v) x
/-- A cell's new element and its saturations, and whether a negative input to max-times made it (R70). -/
structure Cell where
  /-- element -/
  v : BitVec 32
  /-- saturations -/
  sats : Nat := 0
  /-- it counts as a NaN result -/
  nan : Bool := false
/-- A negative number. -/
def FVal.negative : FVal → Bool
  | .nan _ => false
  | .inf n => n
  | .num n m _ => n && m != 0
/-- Plus-times. -/
def cellPt (fam : Fam) (p : Nat) (sat : Bool) (xs : List (El × El)) (c : BitVec 32) : Cell :=
  let ps := chunks p (xs.length + 1) xs
  match fam with
  | .f =>
    let r := ps.foldl (fun c q =>
      let t := Fmt.f32.ofVal rne (exSum (q.map (fun x => (exMul x.1.fv x.2.fv).v)))
      (Fmt.f32.add rne c t.bits).bits) c.toNat
    ⟨BitVec.ofNat 32 r, 0, (Fmt.f32.value r).isNan⟩
  | _ =>
    let r := ps.foldl (fun (c : Int × Nat) q =>
      let t := fit32 sat ((q.map (fun x => x.1.iv * x.2.iv)).foldl (· + ·) 0)
      let u := fit32 sat (c.1 + t.1)
      (u.1, c.2 + t.2 + u.2)) (c.toInt, 0)
    ⟨BitVec.ofInt 32 r.1, r.2, false⟩
/-- One step of min-plus (1), max-plus (2) or max-times (3). -/
def cellStep (sr : Nat) (fam : Fam) (c : Cell) (x : El × El) : Cell :=
  match fam with
  | .f =>
    if sr = 3 ∧ (x.1.fv.negative ∨ x.2.fv.negative) then { c with v := 0x7FC00000, nan := true }
    else
      let t := Fmt.f32.ofVal rne (if sr = 3 then (exMul x.1.fv x.2.fv).v else (exAdd false x.1.fv x.2.fv).v)
      let r := if sr = 1 then Fmt.f32.fmin c.v.toNat t.bits else Fmt.f32.fmax c.v.toNat t.bits
      let v := if c.nan then (0x7FC00000 : BitVec 32) else BitVec.ofNat 32 r.bits
      { c with v := v }
  | _ =>
    let t := fit32 true (if sr = 3 then x.1.iv * x.2.iv else x.1.iv + x.2.iv)
    if c.nan then { c with sats := c.sats + t.2 }
    else if sr = 3 ∧ (x.1.iv < 0 ∨ x.2.iv < 0) then { v := 0x80000000, sats := c.sats + t.2, nan := true }
    else
      let o := c.v.toInt
      { c with v := BitVec.ofInt 32 (if sr = 1 then min o t.1 else max o t.1), sats := c.sats + t.2 }
/-- A cell over its row and column. -/
def cellOf (sr : Nat) (fam : Fam) (p : Nat) (sat : Bool) (xs : List (El × El)) (c : BitVec 32) : Cell :=
  if fam = .b then ⟨if c != 0 || xs.any (fun x => x.1.iv == 1 && x.2.iv == 1) then 1 else 0, 0, false⟩
  else if sr = 0 then cellPt fam p sat xs c
  else
    let r := xs.foldl (cellStep sr fam) ⟨c, 0, false⟩
    { r with nan := r.nan || (decide (fam = .f) && (Fmt.f32.value r.v.toNat).isNan) }
/-- The identity of a semiring (R70). -/
def mxIdentity (sr : Nat) (fam : Fam) : BitVec 32 :=
  match sr, fam with
  | 1, .f => 0x7F800000 | 1, _ => 0x7FFFFFFF
  | 2, .f => 0xFF800000 | 2, _ => 0x80000000
  | _, _ => 0
/-- The run sum of a column over its rows in order (R166), and the saturations that it took (R180). -/
def runSum (fam : Fam) (sat : Bool) (xs : List El) : El × Nat :=
  match fam with
  | .f => (.f (Fmt.f32.value (xs.foldl (fun u x => (Fmt.f32.ofVal rne (exAdd false (Fmt.f32.value u) x.fv).v).bits) 0)), 0)
  | _ =>
    let r := xs.foldl (fun (u : Int × Nat) x => let t := fit32 sat (u.1 + x.iv); (t.1, u.2 + t.2)) (0, 0)
    (.n r.1, r.2)

/-! ### Masks and counters (R180, R181, R183) -/

/-- Whether an output element is live. -/
def MMask.live : MMask → Nat → Nat → Bool
  | .row m, i, _ => m.getLsbD i
  | .blk m, i, j => m.getLsbD (8 * (i / 16) + j / 16)
/-- All ones. -/
def MMask.full : MMask → Bool
  | .row m => m == BitVec.allOnes 128
  | .blk m => m == BitVec.allOnes 64
/-- Adds to a counter: it stays at its top, and crossing a nonzero threshold raises its flag once per MTHR. -/
def Slot.count (s : Slot) (k : Nat) (n : Nat) : Slot :=
  if h : k < 3 then
    let old := s.cnt[k]
    let new := BitVec.ofNat 32 (min (old.toNat + n) (2 ^ 32 - 1))
    let t := s.thr[k].toNat
    let cross := t != 0 && !s.crossed.getLsbD k && decide (old.toNat < t) && decide (t ≤ new.toNat)
    { s with cnt := s.cnt.set k new h, crossed := if cross then setBit s.crossed k true else s.crossed,
             flags := if cross then setBit s.flags k true else s.flags }
  else s
/-- An element of a slot. -/
def Slot.el (s : Slot) (i j : Nat) : BitVec 32 := tget s.cells (128 * i + j) 0
/-- A slot takes a kind and a shape.  Elements outside the shape go: the manual says that a masked element keeps its old value (R183) and
not what stands outside a shape (DESIGN CHOICE, log 131). -/
def Slot.shape (s : Slot) (k : Fam) (m n : Nat) : Slot :=
  { s with kind := some k, m := m, n := n, cells := s.cells.filter (fun x => decide (x.1 / 128 < m) && decide (x.1 % 128 < n)) }

/-! ### The epilogue (R168) -/

/-- A value rounded to FP32, as a value. -/
def toF32 (x : FVal) : FVal := Fmt.f32.value (Fmt.f32.ofVal rne x).bits
/-- An element as its exact value. -/
def Slot.exact (s : Slot) (i j : Nat) : FVal :=
  if s.kind = some .f then Fmt.f32.value (s.el i j).toNat else (El.n (s.el i j).toInt).fv
/-- The stages of the epilogue: y. -/
def epilogue (e : Option Epilogue) (bias : BitVec 32) (x : FVal) : FVal :=
  match e with
  | none => x
  | some e =>
    let x := if e.ctl.getLsbD 0 then toF32 (exMul x (Fmt.f32.value e.scale.toNat)).v else x
    let x := if e.ctl.getLsbD 1 then toF32 (exAdd false x (Fmt.f32.value bias.toNat)).v else x
    let a := (e.ctl.extractLsb' 3 3).toNat
    match (if a = 0 then none else ActFn.ofCode (a - 1)) with
    | some fn => Fmt.f32.value (Fmt.f32.act fn rne (Fmt.f32.ofVal rne x).bits).bits
    | none => x
/-- An output element: its bits, and what it adds to SAT and NAN (R180). -/
structure OutEl where
  /-- pattern -/
  bits : Nat
  /-- SAT -/
  sats : Nat := 0
  /-- NAN -/
  nans : Nat := 0
/-- The output conversion (R60, R168). -/
def outEl (fmt : Nat) (r : Rm) (y : FVal) : OutEl :=
  match mxFmt fmt with
  | some f =>
    let x := f.ofVal r y
    let infIn := match y with | .inf _ => true | _ => false
    ⟨x.bits, if f.is8 && r.sat && (x.fl &&& flOF != 0 || infIn) then 1 else 0, if (f.value x.bits).isNan then 1 else 0⟩
  | none =>
    if fmt = 10 then ⟨match y with | .num _ 0 _ => 0 | _ => 1, 0, 0⟩
    else
      let w := fmtBits fmt
      let x := floatToInt r w y
      ⟨wrapW w x.val, if x.fl &&& flNV != 0 && !y.isNan then 1 else 0, 0⟩
/-- Row statistics over the FP32 values of a row, none where masked (R168, R183): m and s. -/
def rowStats (row : List (Option FVal)) : Option (Nat × Nat) :=
  let ys := row.map (Option.map (fun y => (Fmt.f32.ofVal rne y).bits))
  match ys.filterMap id with
  | [] => none
  | y :: t =>
    let m := t.foldl (fun a b => (Fmt.f32.fmax a b).bits) y
    if (Fmt.f32.value m).isNan then some (m, Fmt.f32.nan)
    else if m = 0xFF800000 then some (m, 0)
    else
      let ws := ys.map (fun o => match o with
        | some v => Fmt.f32.value (Fmt.f32.exp2 rne (Fmt.f32.sub rne v m).bits).bits
        | none => .num true 0 0)
      match tree sumNode ⟨.num true 0 0, 0⟩ 8 (ws.map (fun v => (⟨v, 0⟩ : VF))) with
      | r :: _ => some (m, f32Bits r.v)
      | [] => none

end Sys2Proof.Machine
end

