-- ==== Sys2Proof/Machine/Matrix.lean ====
section
/-! DEFINITION. Matrix commands (R159, R163 to R185): checks at issue, the queue, starts, block commits, completions, recorded faults and
their reports. -/

namespace Sys2Proof.Machine

/-! ### Commands -/

/-- MMA or MMAS. -/
def MCmd.isMm (c : MCmd) : Bool := match c.op with | .mma _ | .mmas => true | _ => false
/-- MZERO, MLDC or MOUT. -/
def MCmd.isAux (c : MCmd) : Bool := match c.op with | .mzero | .mldc | .mout => true | _ => false
/-- A held MSEND, which acts on no slot. -/
def MCmd.isSend (c : MCmd) : Bool := match c.op with | .msend .. => true | _ => false
/-- Whether a command acts on a slot. -/
def MCmd.on (c : MCmd) (n : BitVec 2) : Bool := c.slot == n && !c.isSend
/-- The semiring of a product. -/
def MCmd.sr (c : MCmd) : Nat := match c.op with | .mma sr => sr.toNat | _ => 0
/-- Rows, columns and depth of a product: M, N and K or S (R165, R166). -/
def MCmd.dims (c : MCmd) : Nat × Nat × Nat :=
  let l := layOf c.la
  let r := layOf c.lb
  match c.op with
  | .mmas => (l.vc, r.vc, r.vr)
  | _ => (l.vr, r.vc, l.vc)
/-- Panel size of a product (R160, R166). -/
def MCmd.panel (c : MCmd) : Nat :=
  match c.op with
  | .mmas => 16
  | _ => min (fmtPanel (layOf c.la).fmt) (fmtPanel (layOf c.lb).fmt)
/-- The shape word of MZERO: kind, rows and columns (R167). -/
def shapeOf (w : Word) : Option Fam × Nat × Nat :=
  (match (w.extractLsb' 32 2).toNat with | 0 => some .f | 1 => some .i | 2 => some .b | _ => none,
   (w.extractLsb' 0 16).toNat + 1, (w.extractLsb' 16 16).toNat + 1)
/-- A slot as a command leaves it, as far as the checks at issue look (R165): kind, shape, mask and epilogue. -/
def Slot.after (s : Slot) (c : MCmd) : Slot :=
  match c.op with
  | .mma _ | .mmas => { s with kind := some (fmtFam (layOf c.la).fmt), m := c.dims.1, n := c.dims.2.1 }
  | .mzero => { s with kind := (shapeOf c.a).1, m := (shapeOf c.a).2.1, n := (shapeOf c.a).2.2 }
  | .mldc => { s with kind := some (fmtFam (layOf c.la).fmt), m := (layOf c.la).vr, n := (layOf c.la).vc }
  | .mepi e => if c.bind = .no then s else { s with epi := some e }
  | .mmask m => if c.bind = .no then s else { s with mask := m }
  | _ => s
/-- The slot as the commands before a place of the queue leave it, each taken as completing and a guarded one as binding true (R165); the
mask and the epilogue of one that has bound false are not set. -/
def Mx.project (q : Mx) (n : BitVec 2) (i : Nat) : Slot :=
  ((q.queue.take i).filter (fun c => c.on n)).foldl Slot.after (q.slots[n.toNat]'n.isLt)
/-- The epilogues that a command at a place of the queue may find on a slot: a MEPI bound false sets none, and one whose guard is pending
may or may not set its own. -/
def Mx.epis (q : Mx) (n : BitVec 2) (i : Nat) : List (Option Epilogue) :=
  ((q.queue.take i).filter (fun c => c.on n)).foldl (fun es c => match c.op, c.bind with
    | .mepi e, .yes => [some e]
    | .mepi e, .slot _ => some e :: es
    | _, _ => es) [(q.slots[n.toNat]'n.isLt).epi]
/-- An MOUT of a desk that rounds stochastically, or may, is not complete yet (R168). -/
def Mx.srPending (q : Mx) (d : DeskId) : Bool :=
  q.queue.zipIdx.any (fun c => match c.1.op with
    | .mout => c.1.desk == d && c.1.bind != .no && (q.epis c.1.slot c.2).any (fun e => match e with | some e => e.mode == 4#3 | none => false)
    | _ => false)
/-- A run of operand bytes: whether the address may name the scratchpad, address and bytes. -/
abbrev Span := Bool × Word × Nat
/-- Entries of the bias vector of a slot of `m` rows and `n` columns (R167). -/
def biasCount (e : Epilogue) (m n : Nat) : Nat := if e.ctl.getLsbD 9 then m else n
/-- What a command reads, under the epilogues that it may find. -/
def MCmd.reads (c : MCmd) (es : List (Option Epilogue)) : List Span :=
  let l := layOf c.la
  let r := layOf c.lb
  match c.op with
  | .mma _ => [(true, c.a, l.bytes), (true, c.b, r.bytes)]
  | .mmas => [(true, c.a, l.bytes), (true, c.b, r.bytes), (true, c.runs, 16 + 16 * r.vr)]
  | .mldc => [(true, c.a, l.bytes)]
  | .mout => es.filterMap (fun e => match e with
    | some e => if e.ctl.getLsbD 1 then some (false, e.bias, 4 * biasCount e l.vr l.vc) else none
    | none => none)
  | _ => []
/-- What a command writes. -/
def MCmd.writes (c : MCmd) (es : List (Option Epilogue)) : List Span :=
  let l := layOf c.la
  match c.op with
  | .mout => (true, c.a, l.bytes) :: es.filterMap (fun e => match e with
    | some e => if e.ctl.getLsbD 2 then some (false, e.stats, 8 * l.vr) else none
    | none => none)
  | _ => []
/-- The pages of a run of bytes: address and bytes in each. -/
def pagesOf (va : Word) (n : Nat) : Nat → List (Word × Nat)
  | 0 => []
  | k + 1 => if n = 0 then [] else
    let m := min n (4096 - va.toNat % 4096)
    (va, m) :: pagesOf (va + BitVec.ofNat 64 m) (n - m) k
/-- A run of places: the space that it lies in, first and last + 1.  Space 0 is the scratchpad, 1 physical memory, any other a partition's
root. -/
abbrev Place := Nat × Nat × Nat
/-- The places that a run of bytes may be at: its virtual addresses, mapped or not, and physical ones, through any translation that a cache
may hold, and that of the tables (R382). -/
def State.places (s : State) (m : Maker) (x : Span) : List Place :=
  let (pad, a, n) := x
  if pad && isLocal a then [(0, localOff a, localOff a + n)]
  else
    let w := s.whoOf m
    (2 + w.part.toNat * 2 ^ 64 + w.root.toNat, a.toNat, a.toNat + n) :: (pagesOf a n (n / 4096 + 2)).flatMap (fun p =>
      let at_ (pte : Word) (k : Nat) : Place := let pa := pageAddr pte k p.1; (1, pa, pa + p.2)
      ((w.site.tlbs.flatMap (fun k => tget s.mem.tlbs k [])).filter (·.covers w p.1 accRead)).map (fun t => at_ t.pte t.log2) ++
      (match s.mem.walk (s.partAt m.part).conf (fun _ => s.mem.pte) w.root p.1 accRead with
        | .ok l => [at_ l.pte l.log2]
        | .error _ => match s.mem.walk (s.partAt m.part).conf (fun _ => s.mem.pte) w.root p.1 accWrite with
          | .ok l => [at_ l.pte l.log2]
          | .error _ => []))
/-- Two places share a byte. -/
def meets (x y : Place) : Bool := x.1 == y.1 && decide (x.2.1 < y.2.2) && decide (y.2.1 < x.2.2)

/-! ### The queue (R159, R107) -/

/-- Whether the command at a place may start. -/
def Mx.mayStart (q : Mx) (i : Nat) (c : MCmd) : Bool :=
  c.st == .queued &&
  (match c.bind with | .slot _ => false | _ => true) &&
  (q.queue.take i).all (fun x => (match x.bind with | .slot _ => false | _ => true) && !x.on c.slot) &&
  (!c.isMm || !q.queue.any (fun x => x.isMm && x.st == .running)) &&
  (!c.isAux || !q.queue.any (fun x => x.isAux && x.st == .running))
/-- Whether a command at a place of a queue reads no byte that an earlier one is still to write (R159, R171). -/
def State.mxInOrder (s : State) (q : Mx) (i : Nat) (c : MCmd) : Bool :=
  let reads := (c.reads (q.epis c.slot i)).flatMap (s.places c.maker)
  reads.isEmpty || (q.queue.take i).zipIdx.all (fun x =>
    ((if x.1.bind = .no then [] else x.1.writes (q.epis x.1.slot x.2)).flatMap (s.places x.1.maker)).all (fun w => reads.all (fun r => !meets w r)))
/-- The first command on a slot, with its place. -/
def Mx.first (q : Mx) (n : BitVec 2) : Option (Nat × MCmd) :=
  match q.queue.findIdx? (fun c => c.on n) with
  | some i => (q.queue[i]?).map (fun c => (i, c))
  | none => none
/-- Changes the first command on a slot; none removes it. -/
def Mx.upd (q : Mx) (n : BitVec 2) (f : MCmd → Option MCmd) : Mx :=
  match q.first n with
  | some (i, c) =>
    { q with queue := q.queue.take i ++ (match f c with | some c => [c] | none => []) ++ q.queue.drop (i + 1) }
  | none => q
/-- A slot. -/
def Mx.slot (q : Mx) (n : BitVec 2) : Slot := q.slots[n.toNat]'n.isLt
/-- Writes a slot. -/
def Mx.setSlot (q : Mx) (n : BitVec 2) (s : Slot) : Mx := { q with slots := q.slots.set n.toNat s n.isLt }
/-- Writes the matrix unit of the core that moves. -/
def State.setMx (s : State) (q : Mx) : State := s.setC { s.c with mx := q }
/-- A command enters the queue, or its desk stalls at a full one (R159). -/
def State.mxPush (s : State) (d : Desk) (c : MCmd) : Except Stop State :=
  let q := s.c.mx
  if 16 ≤ q.queue.length then .error (.wait .matrix)
  else .ok (s.setCD { s.c with mx := { q with queue := q.queue ++ [{ c with seq := q.next }], next := q.next + 1 } } d)
/-- How a command binds at issue (R107). -/
def bindOf (d : Desk) (k : Guard) : Bind :=
  match d.slot k with | .yes => .yes | .no => .no | .pending => .slot (k.extractLsb' 0 3)

/-! ### Checks at issue (R170) -/

/-- A layout word's check. -/
def needLay (w a : Word) : Except Stop Unit := if layOk w a then .ok () else .error (.trap 0x086 w)
/-- The region check of an operand; XVAL is its scratchpad offset. -/
def needLocal (d : Desk) (a : Word) (n : Nat) (acc : BitVec 2) : Except Stop Unit :=
  if isLocal a && !d.inside (localOff a) n then .error (.trap 0x045 (BitVec.ofNat 64 (localOff a)) acc) else .ok ()
/-- Whether a semiring takes two formats (R165). -/
def pairsOk (sr f g : Nat) : Bool :=
  if sr = 0 then decide (fmtFam f = fmtFam g) && decide (fmtFam f ≠ .b)
  else if sr = 4 then f == 10 && g == 10
  else f == g && (f == 0 || f == 9)
/-- Whether a semiring takes a format with some other (R165). -/
def takesFmt (sr f : Nat) : Bool := if sr = 0 then decide (fmtFam f ≠ .b) else if sr = 4 then f == 10 else f == 0 || f == 9
/-- XVAL of 0x081 for a product: MMA names A's layout (R165); where only B's columns or depth are at fault in an MMAS, or only its columns
differ from the slot's, B's word is the first at fault (R170, log 118). -/
def MCmd.shapeXval (c : MCmd) (sl : Slot) : Word :=
  let (m, n, k) := c.dims
  let seg := match c.op with | .mmas => true | _ => false
  if !seg && ((layOf c.lb).vr != k || decide (128 < m) || decide (128 < n) || decide (65536 < k)) then c.la
  else if 128 < m then c.la
  else if 128 < n ∨ 65536 < k then c.lb
  else if sl.m ≠ m then c.la else c.lb
/-- The checks of a product, the slot as earlier commands leave it being `p`. -/
def mmCheck (d : Desk) (p : Slot) (c : MCmd) : Except Stop Unit := do
  needLay c.la c.a
  needLay c.lb c.b
  let l := layOf c.la
  let r := layOf c.lb
  let seg := match c.op with | .mmas => true | _ => false
  if l.sx && (l.t || seg) then .error (.trap 0x086 c.la)
  else if r.sx && (!r.t || seg) then .error (.trap 0x086 c.lb)
  else if !pairsOk c.sr l.fmt r.fmt then
    .error (.trap 0x082 (if takesFmt c.sr l.fmt then c.lb else c.la))
  else
    let (m, n, k) := c.dims
    if c.acc && p.kind.isSome && p.kind != some (fmtFam l.fmt) then .error (.trap 0x082 (c.slot.setWidth 64))
    else if (!seg && r.vr != k) || decide (128 < m) || decide (128 < n) || decide (65536 < k) ||
        (c.acc && p.kind.isSome && (p.m != m || p.n != n)) then .error (.trap 0x081 (c.shapeXval p))
    else
      needLocal d c.a l.bytes accRead
      needLocal d c.b r.bytes accRead
      if seg then needLocal d c.runs (16 + 16 * r.vr) accRead else pure ()
/-- MZERO's checks. -/
def mzeroCheck (w : Word) : Except Stop Unit :=
  let (k, m, n) := shapeOf w
  if w.extractLsb' 34 30 ≠ 0 ∨ k = none then .error (.trap 0x086 w)
  else if 128 < m ∨ 128 < n then .error (.trap 0x081 w) else .ok ()
/-- MLDC's checks. -/
def mldcCheck (d : Desk) (c : MCmd) : Except Stop Unit := do
  needLay c.la c.a
  let l := layOf c.la
  if l.fmt ≠ 0 ∧ l.fmt ≠ 9 ∧ l.fmt ≠ 10 then .error (.trap 0x082 c.la)
  else if 128 < l.vr ∨ 128 < l.vc then .error (.trap 0x081 c.la)
  else needLocal d c.a l.bytes accRead
/-- MOUT's checks, the slot as earlier commands leave it being `p`. -/
def moutCheck (d : Desk) (p : Slot) (c : MCmd) : Except Stop Unit := do
  needLay c.la c.a
  let l := layOf c.la
  if l.sx && (l.t || p.n % l.blk != 0 || !p.mask.full) then .error (.trap 0x086 c.la)
  else if p.kind = none then .error (.trap 0x082 (c.slot.setWidth 64))
  else if p.kind = some .b ∧ l.fmt ≠ 5 ∧ l.fmt ≠ 9 ∧ l.fmt ≠ 10 then .error (.trap 0x082 c.la)
  else if l.vr ≠ p.m ∨ l.vc ≠ p.n then .error (.trap 0x081 c.la)
  else needLocal d c.a l.bytes accWrite

/-- Operands of an MX command: pairs and triples hold no port (R38, R163); every named register is read and clean (R164). -/
def mxTake (d : Desk) (groups : List (GReg × Nat)) : Except Stop Taken := do
  groups.foldlM (fun _ g => if g.2 = 1 then .ok () else d.pairOk g.1 g.2) ()
  let rs := groups.flatMap (fun g => (List.range g.2).map (fun i => g.1 + BitVec.ofNat 5 i))
  d.take 0 rs [] rs.length

/-- The slot as every command in the queue leaves it. -/
def State.mxAhead (s : State) (n : BitVec 2) : Slot := s.c.mx.project n s.c.mx.queue.length

/-- MMA in a semiring (R165). -/
def mma (sr : BitVec 3) (k : Guard) (b a : GReg) (sat acc : BitVec 1) (n : BitVec 2) (s : State) : Except Stop State := do
  let t ← mxTake s.d [(a, 2), (b, 2)]
  let c : MCmd := { op := .mma sr, slot := n, acc := acc == 1, sat := sat == 1, a := t.x 0, la := t.x 1, b := t.x 2, lb := t.x 3,
                    bind := bindOf s.d k, desk := s.desk, maker := s.d.maker (.matrix s.core), seq := 0 }
  mmCheck s.d (s.mxAhead n) c
  s.mxPush t.d c
/-- MMA plus-times (R165). -/
def execMmaPt (k : Guard) (b a : GReg) (sat acc : BitVec 1) (n : BitVec 2) (s : State) := finish (heldBack (mma 0 k b a sat acc n)) s
/-- MMA min-plus (R165, R70). -/
def execMmaMinp (k : Guard) (b a : GReg) (sat acc : BitVec 1) (n : BitVec 2) (s : State) := finish (heldBack (mma 1 k b a sat acc n)) s
/-- MMA max-plus (R165, R70). -/
def execMmaMaxp (k : Guard) (b a : GReg) (sat acc : BitVec 1) (n : BitVec 2) (s : State) := finish (heldBack (mma 2 k b a sat acc n)) s
/-- MMA max-times (R165, R70). -/
def execMmaMaxt (k : Guard) (b a : GReg) (sat acc : BitVec 1) (n : BitVec 2) (s : State) := finish (heldBack (mma 3 k b a sat acc n)) s
/-- MMA or-and (R165, R70). -/
def execMmaOrand (k : Guard) (b a : GReg) (sat acc : BitVec 1) (n : BitVec 2) (s : State) := finish (heldBack (mma 4 k b a sat acc n)) s

/-- MMAS (R166). -/
def mmas (k : Guard) (b a : GReg) (sat acc : BitVec 1) (n : BitVec 2) (s : State) : Except Stop State := do
  let t ← mxTake s.d [(a, 2), (b, 3)]
  let c : MCmd := { op := .mmas, slot := n, acc := acc == 1, sat := sat == 1, a := t.x 0, la := t.x 1, b := t.x 2, lb := t.x 3,
                    runs := t.x 4, bind := bindOf s.d k, desk := s.desk, maker := s.d.maker (.matrix s.core), seq := 0 }
  mmCheck s.d (s.mxAhead n) c
  s.mxPush t.d c
/-- MMAS (R166). -/
def execMmas (k : Guard) (b a : GReg) (sat acc : BitVec 1) (n : BitVec 2) (s : State) := finish (heldBack (mmas k b a sat acc n)) s

/-- MZERO (R167). -/
def mzero (k : Guard) (a : GReg) (n : BitVec 2) (s : State) : Except Stop State := do
  let t ← mxTake s.d [(a, 1)]
  mzeroCheck (t.x 0)
  s.mxPush t.d { op := .mzero, slot := n, a := t.x 0, bind := bindOf s.d k, desk := s.desk, maker := s.d.maker (.matrix s.core), seq := 0 }
/-- MZERO (R167). -/
def execMzero (k : Guard) (a : GReg) (n : BitVec 2) (s : State) := finish (heldBack (mzero k a n)) s
/-- MLDC (R167). -/
def mldc (k : Guard) (a : GReg) (n : BitVec 2) (s : State) : Except Stop State := do
  let t ← mxTake s.d [(a, 2)]
  let c : MCmd := { op := .mldc, slot := n, a := t.x 0, la := t.x 1, bind := bindOf s.d k, desk := s.desk, maker := s.d.maker (.matrix s.core), seq := 0 }
  mldcCheck s.d c
  s.mxPush t.d c
/-- MLDC (R167). -/
def execMldc (k : Guard) (a : GReg) (n : BitVec 2) (s : State) := finish (heldBack (mldc k a n)) s

/-! ### Reports (R178, R179) -/

/-- The first report pending on a slot, and the slot once it is taken. -/
def Slot.report (s : Slot) (n : BitVec 2) : Option (Slot × Recorded) :=
  let flag (k : Nat) (sel : Nat) (c : BitVec 32) : Slot × Recorded :=
    ({ s with flags := setBit s.flags k false }, { cause := 0x083, xval := BitVec.ofNat 64 (sel * 2 ^ 32 + c.toNat) })
  match s.fault with
  | some f => some ({ s with fault := none }, f)
  | none => match s.dead with
    | (c, x) :: t => some ({ s with dead := t }, { cause := c, xval := if c = 0x1C2 then n.setWidth 64 else x })
    | [] =>
      if s.flags.getLsbD 0 then some (flag 0 0 s.cnt[0])
      else if s.flags.getLsbD 1 then some (flag 1 1 s.cnt[1])
      else if s.flags.getLsbD 2 then some (flag 2 2 s.cnt[2])
      else none
/-- A report taken by the instruction that issues; the desk is then the one that resumes a stopped command. -/
def State.mxReport (s : State) (n : BitVec 2) : Option (State × Stop) :=
  ((s.c.mx.slot n).report n).map (fun r =>
    let q := s.c.mx.setSlot n r.1
    let tell (c : MCmd) : MCmd :=
      if (s.c.mx.slot n).fault.isSome && c.on n && c.st == .stopped then { c with told := .desk s.desk } else c
    (s.setMx { q with queue := q.queue.map tell }, .trap r.2.cause r.2.xval r.2.acc r.2.tf))
/-- The desk that moves executes an MWAIT, an MOUT or its TEND on a slot (R178): a stopped command whose fault it has learned of goes on; a
remote one on another slot, of which it has learned, is raised to it once more. -/
def State.mxResume (s : State) (n : BitVec 2) : State :=
  if !s.d.user then s
  else
    let mine (c : MCmd) : Bool := c.st == .stopped && c.told == .desk s.desk
    let again := s.c.mx.queue.filter (fun c => mine c && c.remote.isSome && !c.on n)
    let s := s.setMx { s.c.mx with queue := s.c.mx.queue.map (fun c =>
      if mine c && c.on n then { c with st := .queued, told := .none }
      else if mine c && c.remote.isSome then { c with told := .again s.desk c.why.cause c.why.xval } else c) }
    s.setD (again.foldl (fun d c => d.reportOf c.why) s.d)

/-- MOUT (R167): its own checks come before a report pending on the slot (R178). -/
def mout (k : Guard) (a : GReg) (n : BitVec 2) (s : State) : Except Stop (State × MCmd) := do
  let t ← mxTake s.d [(a, 2)]
  let c : MCmd := { op := .mout, slot := n, a := t.x 0, la := t.x 1, bind := bindOf s.d k, desk := s.desk, maker := s.d.maker (.matrix s.core), seq := 0 }
  moutCheck s.d (s.mxAhead n) c
  .ok (s.setD t.d, c)
/-- MOUT (R167, R178). -/
def execMout (k : Guard) (a : GReg) (n : BitVec 2) (s : State) : Host.Outcome State Fault Refusal :=
  if s.d.gen.isSome then .next (s.hold .held)
  else if s.leaderFull then .next (s.hold .forward)
  else match mout k a n s with
  | .error e => .next (s.stopWith e)
  | .ok _ =>
    match s.mxReport n with
    | some (u, e) => .next (u.stopWith e)
    | none =>
      finish (fun s => match mout k a n s with
        | .ok (t, c) => t.mxPush t.d c
        | .error e => .error e) (s.mxResume n)
/-- MWAIT (R169, R178). -/
def execMwait (n : BitVec 2) (s : State) : Host.Outcome State Fault Refusal :=
  if s.d.gen.isSome then .next (s.hold .held)
  else match s.mxReport n with
  | some (u, e) => .next (u.stopWith e)
  | none =>
    finishHold (fun s =>
      let s := s.mxResume n
      let mark := s.d.mark.getD s.c.mx.next
      if s.c.mx.queue.any (fun c => c.on n && decide (c.seq < mark)) then
        .ok (s.setD { s.d with mark := some mark }, some .matrix)
      else .ok (s, none)) s

/-! ### MEPI, MMASK, MTHR, MSTAT, MPROG -/

/-- A 64-byte record read at issue as a .byp load of the desk (R164); the record is exempt from the footprints (R348). -/
def State.readRecord (s : State) (va : Word) (n : Nat) : Except Stop (State × List Byte) :=
  let w := s.who s.d
  match s.span w va va accRead 3 n with
  | .error e => .error e
  | .ok (s, ps) =>
    match s.homeClear ps with
    | .error e => .error e
    | .ok _ => match s.readMac w.part va ps false accRead with
      | .error e => .error e
      | .ok (s, bs, bad) => if bad then .error (.trap 0x1C0 (va &&& ~~~63#64)) else .ok (s, bs)
/-- A 64-bit word of a record. -/
def recWord (bs : List Byte) (off : Nat) : Word := BitVec.ofNat 64 (leNat ((bs.drop off).take 8))
/-- MEPI (R168). -/
def mepi (k : Guard) (a : GReg) (n : BitVec 2) (s : State) : Except Stop State := do
  let t ← mxTake s.d [(a, 1)]
  let va := t.x 0
  if va.toNat % 64 ≠ 0 then .error (.trap 0x087 va)
  else
    let (s', bs) ← s.readRecord va 64
    let ctl := recWord bs 0
    let sc := recWord bs 8
    if ctl.extractLsb' 10 54 ≠ 0 ∨ sc.extractLsb' 32 32 ≠ 0 ∨ (bs.drop 32).any (· != 0) ∨ ctl.extractLsb' 3 3 = 7#3 then
      .error (.trap 0x087 va)
    else
      let rnd := (ctl.extractLsb' 6 2).toNat
      let mode : BitVec 3 := if rnd = 0 then s.d.frm.extractLsb' 0 3 else if rnd = 1 then 0 else if rnd = 2 then 1 else 4
      let e : Epilogue := ⟨ctl.setWidth 10, sc.setWidth 32, recWord bs 16, recWord bs 24, mode⟩
      s'.mxPush t.d { op := .mepi e, slot := n, bind := bindOf s.d k, desk := s.desk, maker := s.d.maker (.matrix s.core), seq := 0 }
/-- MEPI (R168). -/
def execMepi (k : Guard) (a : GReg) (n : BitVec 2) (s : State) := finish (heldBack (mepi k a n)) s
/-- MMASK.row (R183, R184). -/
def mmaskRow (k : Guard) (a : GReg) (n : BitVec 2) (s : State) : Except Stop State := do
  let t ← mxTake s.d [(a, 2)]
  s.mxPush t.d { op := .mmask (.row (t.x 1 ++ t.x 0)), slot := n, bind := bindOf s.d k, desk := s.desk, maker := s.d.maker (.matrix s.core), seq := 0 }
/-- MMASK.row (R183). -/
def execMmaskRow (k : Guard) (a : GReg) (n : BitVec 2) (s : State) := finish (heldBack (mmaskRow k a n)) s
/-- MMASK.blk (R183, R184). -/
def mmaskBlk (k : Guard) (a : GReg) (n : BitVec 2) (s : State) : Except Stop State := do
  let t ← mxTake s.d [(a, 1)]
  s.mxPush t.d { op := .mmask (.blk (t.x 0)), slot := n, bind := bindOf s.d k, desk := s.desk, maker := s.d.maker (.matrix s.core), seq := 0 }
/-- MMASK.blk (R183). -/
def execMmaskBlk (k : Guard) (a : GReg) (n : BitVec 2) (s : State) := finish (heldBack (mmaskBlk k a n)) s
/-- MTHR (R184). -/
def mthr (k : Guard) (a : GReg) (n : BitVec 2) (s : State) : Except Stop State := do
  let t ← mxTake s.d [(a, 1)]
  if (t.x 0).extractLsb' 48 16 ≠ 0 then .error (.trap 0x08A (t.x 0))
  else s.mxPush t.d { op := .mthr ((t.x 0).setWidth 48), slot := n, bind := bindOf s.d k, desk := s.desk, maker := s.d.maker (.matrix s.core), seq := 0 }
/-- MTHR (R184). -/
def execMthr (k : Guard) (a : GReg) (n : BitVec 2) (s : State) := finish (heldBack (mthr k a n)) s

/-- Waits until every earlier command on a slot has completed or stopped (R184). -/
def mxSettled (n : BitVec 2) (f : State → Except Stop State) (s : State) : Except Stop (State × Option Wait) :=
  let mark := s.d.mark.getD s.c.mx.next
  if s.c.mx.queue.any (fun c => c.on n && decide (c.seq < mark) && c.st != .stopped) then
    .ok (s.setD { s.d with mark := some mark }, some .matrix)
  else (f s).map (fun s => (s, none))
/-- MSTAT (R184). -/
def mstat (n : BitVec 2) (a d : GReg) (s : State) : Except Stop (State × Option Wait) := do
  let t ← s.d.take 0 [a] [d] 1
  let sel := t.x 0
  if 3 < sel.toNat then .error (.trap 0x08A sel)
  else
    mxSettled n (fun s => do
      let sl := s.c.mx.slot n
      let v := if sel.toNat = 3 then s.c.mx.res else sl.cnt.toList.getD sel.toNat 0
      .ok (s.setD (t.d.pushG d (v.setWidth 64) false))) s
/-- MSTAT (R184). -/
def execMstat (n : BitVec 2) (a d : GReg) (s : State) :=
  if s.d.gen.isSome then .next (s.hold .held) else finishHold (mstat n a d) s
/-- MPROG.rd (R184). -/
def mprogRd (n : BitVec 2) (d : GReg) (s : State) : Except Stop (State × Option Wait) := do
  s.d.limG d
  s.d.await [] [] [d] []
  mxSettled n (fun s => do
    .ok (s.setD (s.d.pushG d ((s.c.mx.slot n).prog.setWidth 64) false))) s
/-- MPROG.rd (R184). -/
def execMprogRd (n : BitVec 2) (d : GReg) (s : State) :=
  if s.d.gen.isSome then .next (s.hold .held) else finishHold (mprogRd n d) s
/-- MPROG.wr (R184). -/
def mprogWr (a : GReg) (n : BitVec 2) (s : State) : Except Stop (State × Option Wait) := do
  let t ← s.d.take 0 [a] [] 1
  let v := t.x 0
  let rows := v.toNat % 2 ^ 16
  if v.extractLsb' 17 47 ≠ 0 ∨ rows % 16 ≠ 0 ∨ 112 < rows ∨ (v.getLsbD 16 = false ∧ rows ≠ 0) then .error (.trap 0x08A v)
  else
    mxSettled n (fun s =>
      .ok ((s.setMx (s.c.mx.setSlot n { s.c.mx.slot n with prog := v.setWidth 17 })).setD t.d)) s
/-- MPROG.wr (R184). -/
def execMprogWr (a : GReg) (n : BitVec 2) (s : State) :=
  if s.d.gen.isSome then .next (s.hold .held) else finishHold (mprogWr a n) s

end Sys2Proof.Machine
end

