-- ==== Sys2Proof/Machine/MxRun.lean ====
section
/-! DEFINITION. The matrix unit at work (R159, R165 to R168, R176, R177) and remote commands (R172, R173). -/

namespace Sys2Proof.Machine

/-! ### Products, block by block (R176) -/

/-- The counts of a run list (R166): S at the head, the run sums' rows in all. -/
def State.runList (s : State) (c : MCmd) : Except Stop (State × List Nat) :=
  let l := layOf c.la
  let want := (layOf c.lb).vr
  match s.mxRead c.maker c.runs 0 16 with
  | .error e => .error e
  | .ok (s, hd, _) =>
    if recWord hd 8 ≠ 0 then .error (.trap 0x087 c.runs)
    else if (recWord hd 0).toNat ≠ want then .error (.trap 0x081 c.lb)
    else
      let rec go (s : State) : Nat → Nat → Except Stop (State × List Nat)
        | 0, _ => .ok (s, [])
        | k + 1, off =>
          match s.mxRead c.maker c.runs off 8 with
          | .error e => .error e
          | .ok (s, bs, _) => match go s k (off + 16) with
            | .error e => .error e
            | .ok (s, xs) => .ok (s, leNat bs :: xs)
      match go s want 24 with
      | .error e => .error e
      | .ok (s, xs) => if xs.foldl (· + ·) 0 = l.vr then .ok (s, xs) else .error (.trap 0x081 c.la)

/-- A list cut into consecutive runs. -/
def splitRuns {α : Type} : List Nat → List α → List (List α)
  | [], _ => []
  | n :: ns, xs => xs.take n :: splitRuns ns (xs.drop n)

/-- What a block computes: the new elements of live places, with their counts. -/
structure BlockRes where
  /-- element index and its new value -/
  cells : List (Nat × Cell)
  /-- some operand was poisoned -/
  bad : Bool
  /-- saturations of run sums -/
  sats : Nat := 0

/-- The rows of A that a block needs, one list of depth K for each live row (R165, R166), and the saturations of run sums. -/
def State.blockRows (s : State) (c : MCmd) (k : Nat) (rows : List Nat) : Except Stop (State × List (List El) × Bool × Nat) :=
  let l := layOf c.la
  match c.op with
  | .mmas =>
    match s.runList c with
    | .error e => .error e
    | .ok (s, runs) =>
      rows.foldlM (fun (r : State × List (List El) × Bool × Nat) i =>
        match r.1.mxElems c.maker c.a l ((List.range l.vr).map (fun x => (x, i))) with
        | .error e => .error e
        | .ok (s, xs, bad) =>
          let us := (splitRuns runs xs).map (runSum (fmtFam l.fmt) c.sat)
          .ok (s, r.2.1 ++ [us.map (·.1)], r.2.2.1 || bad, us.foldl (fun n u => n + u.2) r.2.2.2)) (s, [], false, 0)
  | _ =>
    rows.foldlM (fun (r : State × List (List El) × Bool × Nat) i =>
      match r.1.mxElems c.maker c.a l ((List.range k).map (fun x => (i, x))) with
      | .error e => .error e
      | .ok (s, xs, bad) => .ok (s, r.2.1 ++ [xs], r.2.2.1 || bad, 0)) (s, [], false, 0)
/-- The columns of B that a block needs. -/
def State.blockCols (s : State) (c : MCmd) (k : Nat) (cols : List Nat) : Except Stop (State × List (List El) × Bool) :=
  cols.foldlM (fun (r : State × List (List El) × Bool) j =>
    match r.1.mxElems c.maker c.b (layOf c.lb) ((List.range k).map (fun x => (x, j))) with
    | .error e => .error e
    | .ok (s, xs, bad) => .ok (s, r.2.1 ++ [xs], r.2.2 || bad)) (s, [], false)

/-- The block that a product has next. -/
def Slot.block (s : Slot) : Nat := if s.prog.getLsbD 16 then s.prog.toNat % 2 ^ 16 / 16 else 0

/-- One block of a product computed over the whole of K (R176). -/
def State.mmBlock (s : State) (c : MCmd) : Except Stop (State × BlockRes) :=
  let sl := s.c.mx.slot c.slot
  let (m, n, k) := c.dims
  let b := sl.block
  let fam := fmtFam (layOf c.la).fmt
  let all := (List.range (min (16 * b + 16) m)).drop (16 * b)
  let rows := all.filter (fun i => (List.range n).any (fun j => sl.mask.live i j))
  let cols := (List.range n).filter (fun j => rows.any (fun i => sl.mask.live i j))
  if rows.isEmpty then .ok (s, ⟨[], false, 0⟩)
  else match s.blockRows c k rows with
  | .error e => .error e
  | .ok (s, as, bad, sats) =>
    match s.blockCols c k cols with
    | .error e => .error e
    | .ok (s, bs, bad') =>
      let ra := rows.zip as
      let cb := cols.zip bs
      let out := ra.flatMap (fun x => (cb.filter (fun y => sl.mask.live x.1 y.1)).map (fun y =>
        let c0 := if c.onto then sl.el x.1 y.1 else mxIdentity c.sr fam
        (128 * x.1 + y.1, cellOf c.sr fam c.panel c.sat (x.2.zip y.2) c0)))
      .ok (s, ⟨out, bad || bad', sats⟩)

/-- A block commits: elements, counters, row progress.  The slot keeps its kind and shape until the command completes (R165, R176). -/
def Slot.commit (s : Slot) (r : BlockRes) (m : Nat) : Slot :=
  let s1 : Slot := { s with cells := r.cells.foldl (fun cs x => tset cs x.1 x.2.v) s.cells, bad := s.bad || r.bad }
  let s2 := s1.count 0 (r.cells.foldl (fun (a : Nat) (x : Nat × Cell) => a + x.2.sats) r.sats)
  let s3 := s2.count 1 (r.cells.filter (fun x => x.2.nan)).length
  let done := 16 * (s.block + 1)
  { s3 with prog := if done < m then 1#1 ++ BitVec.ofNat 16 done else 0 }
/-- A product completes: its slot takes its kind and shape (R165), and, where the product wrote every element, only its own poison. -/
def Slot.finish (s : Slot) (c : MCmd) : Slot :=
  let t := s.shape (fmtFam (layOf c.la).fmt) c.dims.1 c.dims.2.1
  { t with bad := if c.whole then c.bad else t.bad, prog := 0 }

/-- The command that runs on a slot. -/
def State.mxRunning (s : State) (n : BitVec 2) : Option MCmd :=
  match s.c.mx.first n with | some (_, c) => if c.st = .running then some c else none | none => none
/-- Removes the first command of a slot. -/
def State.mxPop (s : State) (n : BitVec 2) : State := s.setMx (s.c.mx.upd n (fun _ => none))
/-- The first command of a slot has done its work: it leaves, or, remote with a counter, waits for its counter's increase
(R173). -/
def State.mxDone (s : State) (n : BitVec 2) : State :=
  s.setMx (s.c.mx.upd n (fun y => match y.remote with
    | some a => if a = 0 then none else some { y with st := .done }
    | none => none))

/-- MMA_BLOCK_COMMIT (R176): the next block of the running product of a slot is computed over K and commits; after the last block
the command completes. -/
def execMmaBlockCommit (c : CoreId) (n : BitVec 2) (s : State) : Host.Outcome State Fault Refusal :=
  event (fun s =>
    let s := { s with core := c }
    match s.mxRunning n with
    | some x =>
      if !x.isMm then none
      else if x.dims.1 ≤ 16 * (s.c.mx.slot n).block then
        -- a row-progress register beyond the last block: nothing remains
        some ((s.setMx (s.c.mx.setSlot n ((s.c.mx.slot n).finish x))).mxDone n)
      else match s.mmBlock x with
      | .error _ => none
      | .ok (s, r) =>
        let sl := (s.c.mx.slot n).commit r x.dims.1
        let y := { x with bad := x.bad || r.bad }
        if sl.prog = 0 then some ((s.setMx (s.c.mx.setSlot n (sl.finish y))).mxDone n)
        else some (s.setMx ((s.c.mx.setSlot n sl).upd n (fun _ => some y)))
    | none => none) s

/-! ### Starts (R159, R165) -/

/-- A fault of a command: on its slot, or, for a remote command, as a report of the minting desk (R173, R179). -/
def State.mxRecord (s : State) (c : MCmd) (cause : Cause) (x : Word) (tf : Option (BitVec 9) := none) (acc : BitVec 2 := 0) : State :=
  let f : Recorded := ⟨cause, x, acc, tf⟩
  let lasting := cause = 0x081 ∨ cause = 0x082 ∨ cause = 0x086 ∨ cause = 0x087 ∨ cause = 0x088 ∨ cause = 0x1C2
  let s := if lasting then s.mxPop c.slot else s.setMx (s.c.mx.upd c.slot (fun y => some {
    y with st := .stopped, why := f, told := if c.remote.isSome then .desk c.desk else .none }))
  if c.remote.isSome then
    s.setDeskAt s.core c.desk ((s.deskAt s.core c.desk).reportOf f)
  else
    let sl := s.c.mx.slot c.slot
    s.setMx (s.c.mx.setSlot c.slot (if lasting then { sl with dead := sl.dead ++ [(cause, x)] } else { sl with fault := some f }))

/-- MATRIX_COMMAND_START (R159, R165): the first command of a slot starts once the queue lets it; one bound false is discarded, and
a product whose kind or shape no longer fits its slot is recorded and discarded. -/
def execMatrixCommandStart (c : CoreId) (n : BitVec 2) (s : State) : Host.Outcome State Fault Refusal :=
  event (fun s =>
    let s := { s with core := c }
    match s.c.mx.first n with
    | none => none
    | some (i, x) =>
      if !s.c.mx.mayStart i x || !s.mxInOrder s.c.mx i x then none
      else if x.bind = .no then some (s.mxPop n)
      else
        let sl := s.c.mx.slot n
        let go (s : State) (onto : Bool) : State :=
          s.setMx (s.c.mx.upd n (fun y => some { y with st := .running, begun := true, onto := onto }))
        if x.isMm then
          if x.begun then some (go s x.onto)
          else
            let (m, k, _) := x.dims
            let fam := fmtFam (layOf x.la).fmt
            let onto := x.acc && sl.kind.isSome
            if onto && sl.kind != some fam then some (s.mxRecord x 0x082 (n.setWidth 64))
            else if onto && (sl.m != m || sl.n != k) then some (s.mxRecord x 0x081 (x.shapeXval sl))
            else some (s.setMx (s.c.mx.upd n (fun y => some {
              y with st := .running, begun := true, onto := onto, whole := !onto && sl.mask.full && sl.prog == 0 })))
        else match x.op with
        | .mout =>
          if sl.kind = none then some (s.mxRecord x 0x082 (n.setWidth 64))
          else if (layOf x.la).vr ≠ sl.m ∨ (layOf x.la).vc ≠ sl.n then some (s.mxRecord x 0x081 x.la)
          -- the mask that the check at issue took for granted was not set (log 132)
          else if (layOf x.la).sx && !sl.mask.full then some (s.mxRecord x 0x086 x.la)
          else some (go s false)
        | _ => some (go s false)) s

/-! ### MOUT and MLDC (R167, R168) -/

/-- The bias vector. -/
def State.mxBias (s : State) (c : MCmd) (sl : Slot) : Except Stop (State × List (BitVec 32) × Bool) :=
  match sl.epi with
  | none => .ok (s, [], false)
  | some e =>
    if !e.ctl.getLsbD 1 then .ok (s, [], false)
    else
      match s.mxAccess c.maker e.bias (4 * biasCount e sl.m sl.n) accRead with
      | .error x => .error x
      | .ok (s, ps) => match s.readMac c.maker.part e.bias ps false accRead with
        | .error x => .error x
        | .ok (s, bs, bad) => .ok (s, (List.range (biasCount e sl.m sl.n)).map (fun i => BitVec.ofNat 32 (leNat ((bs.drop (4 * i)).take 4))), bad)
/-- The values y of a row, none where masked (R168). -/
def rowY (sl : Slot) (bias : List (BitVec 32)) (i : Nat) : List (Option FVal) :=
  let byRow := match sl.epi with | some e => e.ctl.getLsbD 9 | none => false
  (List.range sl.n).map (fun j =>
    if sl.mask.live i j then some (epilogue sl.epi (bias.getD (if byRow then i else j) 0) (sl.exact i j)) else none)
/-- What a row of the destination takes: its writes, SAT, NAN and BLK counts, and the generator. -/
structure RowOut where
  /-- writes -/
  ws : List MxWrite
  /-- SAT -/
  sats : Nat := 0
  /-- NAN -/
  nans : Nat := 0
  /-- BLK -/
  blks : Nat := 0
  /-- generator -/
  seed : Word
/-- One element written. -/
def outWrite (a : Word) (l : Lay) (i j bits : Nat) : MxWrite :=
  let (off, k, n) := l.at i j
  let w := fmtBits l.fmt
  if w < 8 then ⟨a, off, natLe (bits % 2 ^ w * 2 ^ k) 1, BitVec.ofNat 8 ((2 ^ w - 1) * 2 ^ k)⟩ else ⟨a, off, natLe bits n, 0xFF⟩
/-- A row of a destination of plain elements. -/
def outRow (a : Word) (l : Lay) (r : Rm) (i : Nat) (ys : List (Option FVal)) (seed : Word) : RowOut :=
  ys.zipIdx.foldl (fun o y =>
    match y.1 with
    | none => o
    | some v =>
      let (r', seed') := if l.fmt = 10 then (r, o.seed) else drawRm r o.seed
      let x := outEl l.fmt r' v
      ⟨o.ws ++ [outWrite a l i y.2 x.bits], o.sats + x.sats, o.nans + x.nans, o.blks, seed'⟩) ⟨[], 0, 0, 0, seed⟩
/-- A row of an SX destination, block by block (R65, R167). -/
def outBlocks (a : Word) (l : Lay) (i : Nat) (ys : List (Option FVal)) (seed : Word) : RowOut :=
  let f := if l.fmt = 7 then sx7 else sx3
  let bs := chunks l.blk (ys.length + 1) (ys.map (fun y => toF32 (y.getD (.num false 0 0))))
  bs.zipIdx.foldl (fun o b =>
    let (x, fl) := f.pack b.1
    let huge := bitsAt x 0 8 == f.code && bitsAt x 8 8 == 255
    -- every element of a block with E = 255 is NaN (R64)
    ⟨o.ws ++ [⟨a, (l.at i (b.2 * l.blk)).1, natLe x 64, 0xFF⟩], o.sats, o.nans + (if huge then l.blk else 0), o.blks + (if huge || fl &&& flOF != 0 then 1 else 0), o.seed⟩)
    ⟨[], 0, 0, 0, seed⟩
/-- Makes the writes of a row, after all are checked. -/
def State.mxRow (s : State) (m : Maker) (bad : Bool) (ws : List MxWrite) : Except Stop State :=
  match s.mxCheck m ws with
  | .error e => .error e
  | .ok (s, pss) => .ok ((ws.zip pss).foldl (fun s w => s.mxWrite m bad w.1 w.2) s)
/-- Rows of an MOUT from the i-th on; a row that faults ends it with the rows before it written (R177). -/
def State.moutRows (s : State) (c : MCmd) (sl : Slot) (bias : List (BitVec 32)) (bad : Bool) : List Nat → State × Option Stop
  | [] => (s, none)
  | i :: is =>
    let l := layOf c.la
    let d := s.deskAt s.core c.desk
    let ys := rowY sl bias i
    let (mode, sat) : BitVec 3 × Bool := match sl.epi with | some e => (e.mode, e.ctl.getLsbD 8) | none => (0, false)
    let o := if l.sx then outBlocks c.a l i ys d.seed else outRow c.a l ⟨mode, sat, 0⟩ i ys d.seed
    match s.mxRow c.maker bad o.ws with
    | .error e => (s, some e)
    | .ok s =>
      let s := s.setDeskAt s.core c.desk ((s.deskAt s.core c.desk).setSeed o.seed)
      let q := s.c.mx
      let s := s.setMx (q.setSlot c.slot ((((q.slot c.slot).count 0 o.sats).count 1 o.nans).count 2 o.blks))
      s.moutRows c sl bias bad is
/-- Row statistics (R168). -/
def State.moutStats (s : State) (c : MCmd) (sl : Slot) (bias : List (BitVec 32)) (bad : Bool) : List Nat → State × Option Stop
  | [] => (s, none)
  | i :: is =>
    match sl.epi with
    | none => (s, none)
    | some e =>
      if !e.ctl.getLsbD 2 then (s, none)
      else match rowStats (rowY sl bias i) with
      | none => s.moutStats c sl bias bad is
      | some (m, x) =>
        let va := e.stats + BitVec.ofNat 64 (8 * i)
        match s.mxAccess c.maker va 8 accWrite with
        | .error e => (s, some e)
        | .ok (s, ps) => ((s.l1Drop s.core ps).writeHome c.maker.part va ps false bad (natLe (m + x * 2 ^ 32) 8)).moutStats c sl bias bad is
/-- MOUT as far as it goes; one that faults leaves the generator as it found it, so that executed again in full it draws the same numbers
(R177). -/
def State.moutRun (s : State) (c : MCmd) : State × Option Stop :=
  let sl := s.c.mx.slot c.slot
  match s.mxBias c sl with
  | .error e => (s, some e)
  | .ok (s, bias, bad) =>
    let bad := bad || sl.bad
    let seed := (s.deskAt s.core c.desk).seed
    match (match s.moutRows c sl bias bad (List.range sl.m) with
      | (s, some e) => (s, some e)
      | (s, none) => s.moutStats c sl bias bad (List.range sl.m)) with
    | (s, some e) => (s.setDeskAt s.core c.desk ((s.deskAt s.core c.desk).setSeed seed), some e)
    | r => r
/-- MLDC. -/
def State.mldcRun (s : State) (c : MCmd) : Except Stop State :=
  let l := layOf c.la
  let at' := (List.range l.vr).flatMap (fun i => (List.range l.vc).map (fun j => (i, j)))
  match s.mxElems c.maker c.a l at' with
  | .error e => .error e
  | .ok (s, xs, bad) =>
    let cell (x : El) : BitVec 32 := match x with | .f v => BitVec.ofNat 32 (f32Bits v) | .n k => BitVec.ofInt 32 k
    .ok (s.setMx (s.c.mx.setSlot c.slot
      { s.c.mx.slot c.slot with
        kind := some (fmtFam l.fmt), m := l.vr, n := l.vc, bad := bad
        cells := (at'.zip xs).foldl (fun t x => tset t (128 * x.1.1 + x.1.2) (cell x.2)) [] }))
/-- The work of a command that is no product: its state, or why it stops. -/
def State.mxAct (s : State) (c : MCmd) : State × Option Stop :=
  let sl := s.c.mx.slot c.slot
  let put (sl : Slot) : State × Option Stop := (s.setMx (s.c.mx.setSlot c.slot sl), none)
  match c.op with
  | .mzero =>
    let (k, m, n) := shapeOf c.a
    put { sl with kind := k, m := m, n := n, cells := [], bad := false }
  | .mldc => match s.mldcRun c with | .ok s => (s, none) | .error e => (s, some e)
  | .mout => s.moutRun c
  | .mepi e => put { sl with epi := some e }
  | .mmask m => put { sl with mask := m }
  | .mthr w => put { sl with thr := #v[w.extractLsb' 0 16, w.extractLsb' 16 16, w.extractLsb' 32 16], cnt := Vector.replicate 3 0, crossed := 0, flags := 0 }
  | _ => (s, none)

/-- MATRIX_COMMAND_COMPLETE (R169): a running command that is no product completes with all its effect. -/
def execMatrixCommandComplete (c : CoreId) (n : BitVec 2) (s : State) : Host.Outcome State Fault Refusal :=
  event (fun s =>
    let s := { s with core := c }
    match s.mxRunning n with
    | some x =>
      if x.isMm then none
      else match s.mxAct x with
      | (s, none) => some (s.mxDone n)
      | _ => none
    | none => none) s

/-- MATRIX_OPERAND_FAULT (R177): an operand access of a running command cannot be made; the command stops with what it had done,
and the fault is recorded. -/
def execMatrixOperandFault (c : CoreId) (n : BitVec 2) (s : State) : Host.Outcome State Fault Refusal :=
  event (fun s =>
    let s := { s with core := c }
    match s.mxRunning n with
    | some x =>
      let (t, e) : State × Option Stop :=
        if x.isMm then match s.mmBlock x with | .ok _ => (s, none) | .error e => (s, some e) else s.mxAct x
      match e with
      | some (.trap cause v acc tf) => some (t.mxRecord x cause v tf acc)
      | some (.mac l v _) => some (({ t with mem := t.mem.spoil l }).mxRecord x 0x1E0 v)
      | _ => none
    | none => none) s

/-! ### Remote commands (R172, R173) -/

/-- MCAP (R172): it fills the lowest free entry (DESIGN CHOICE, log 142). -/
def mcap (a d : GReg) (s : State) : Except Stop State := do
  let t ← s.d.take 0 [a] [d] 1
  let w := t.x 0
  let q := s.c.mx
  match q.caps.toList.findIdx? Option.isNone with
  | some i =>
    if h : w.toNat < 64 ∧ i < 8 then
      let tok : Word := q.nonce ++ (s.core ++ 0#7 ++ BitVec.ofNat 3 i)
      .ok ((s.setMx { q with caps := q.caps.set i (some ⟨w.setWidth 6, q.nonce, s.desk⟩) h.2, nonce := q.nonce + 1 }).setD (t.d.pushG d tok false))
    else .error (.trap 0x085 w)
  | none => .error (.trap 0x085 w)
/-- MCAP (R172). -/
def execMcap (a d : GReg) (s : State) := finish (heldBack (mcap a d)) s
/-- The core, entry and nonce of a token. -/
def tokenParts (w : Word) : CoreId × BitVec 3 × BitVec 44 := (w.extractLsb' 10 10, w.extractLsb' 0 3, w.extractLsb' 20 44)
/-- MREVOKE (R172). -/
def mrevoke (a : GReg) (s : State) : Except Stop State := do
  let t ← s.d.take 0 [a] [] 1
  let (c, i, nonce) := tokenParts (t.x 0)
  if c ≠ s.core then .error (.trap 0x085 (t.x 0))
  else
    let q := s.c.mx
    let live := match q.caps[i.toNat]'i.isLt with | some k => k.nonce == nonce | none => false
    .ok ((s.setMx (if live then { q with caps := q.caps.set i.toNat none i.isLt } else q)).setD t.d)
/-- MREVOKE (R172). -/
def execMrevoke (a : GReg) (s : State) := finish (heldBack (mrevoke a)) s

/-- Whether a command record is well formed (R173, R170). -/
def remoteOk (bs : List Byte) : Bool :=
  let w0 := recWord bs 0
  let f := (w0.extractLsb' 0 6).toNat
  let aux := recWord bs 40
  let b0 := recWord bs 24 == 0 && recWord bs 32 == 0 && w0.extractLsb' 8 2 == 0#2
  w0.extractLsb' 10 54 == 0 && recWord bs 56 == 0 &&
    (if f ≤ 4 then aux == 0
     else if f = 8 then true
     else if f = 9 then recWord bs 8 == 0 && recWord bs 16 == 0 && b0
     else (f == 10 || f == 11) && aux == 0 && b0)
/-- A command record (R173) as a command of the target's desk; none where it is malformed. -/
def remoteCmd (bs : List Byte) (cap : Cap) (maker : Maker) : Option MCmd :=
  let w0 := recWord bs 0
  let f := (w0.extractLsb' 0 6).toNat
  let aux := recWord bs 40
  let op : MOp := if f ≤ 4 then .mma (BitVec.ofNat 3 f) else if f = 8 then .mmas else if f = 9 then .mzero else if f = 10 then .mldc else .mout
  if remoteOk bs then some {
    op := op, slot := w0.extractLsb' 6 2, acc := w0.getLsbD 8, sat := w0.getLsbD 9
    a := if f = 9 then aux else recWord bs 8
    la := recWord bs 16, b := recWord bs 24, lb := recWord bs 32
    runs := if f = 8 then aux else 0
    desk := cap.desk, maker := maker, seq := 0, remote := some (recWord bs 48) }
  else none
/-- A command's checks on the target (R170). -/
def remoteCheck (d : Desk) (p : Slot) (c : MCmd) : Except Stop Unit :=
  match c.op with
  | .mma _ | .mmas => mmCheck d p c
  | .mzero => mzeroCheck c.a
  | .mldc => mldcCheck d c
  | _ => moutCheck d p c
/-- Whether a rights word permits a command (R172). -/
def Cap.permits (k : Cap) (c : MCmd) : Bool :=
  k.rights.getLsbD c.slot.toNat && (match c.op with | .mout => k.rights.getLsbD 5 | _ => k.rights.getLsbD 4)
/-- What the target makes of a record: the accepted command, which holds its counter's translation (R242); none where it refuses (R173). -/
def State.remoteAccept (s : State) (launch : Option Nat) (bs : List Byte) (tok : Word) : Option (State × MCmd) :=
  let (c, i, nonce) := tokenParts tok
  let core := s.coreAt c
  match core.mx.caps[i.toNat]'i.isLt with
  | none => none
  | some cap =>
    let d := core.at cap.desk
    match remoteCmd bs cap ⟨d.part, true, launch, .matrix c⟩ with
    | none => none
    | some x =>
      let counter := recWord bs 48
      let fits := match remoteCheck d (core.mx.project x.slot core.mx.queue.length) x with | .ok _ => true | .error _ => false
      if core.work.launch == launch && cap.nonce == nonce && tok.extractLsb' 3 7 == 0#7 && cap.permits x && fits then
        if counter = 0 then some (s, x)
        else if counter.toNat % 8 ≠ 0 then none
        else match s.grip (s.whoOf x.maker) counter counter accRmw 2 8 with
          | .ok (s, held) => some (s, { x with held := held })
          | .error _ => none
      else none

/-- Delivers a record and its token (R173): none where the target's queue is full. -/
def State.deliver (s : State) (launch : Option Nat) (bs : List Byte) (tok : Word) : Except Stop (Option State) :=
  let (c, _, _) := tokenParts tok
  match s.remoteAccept launch bs tok with
  | none => .error (.trap 0x084 tok)
  | some (s, x) =>
    let core := s.coreAt c
    if 16 ≤ core.mx.queue.length then .ok none
    else
      let q := { core.mx with queue := core.mx.queue ++ [{ x with seq := core.mx.next }], next := core.mx.next + 1 }
      .ok (some (s.setCoreAt c { core with mx := q }))
/-- The counter that a record names, checked and its translation held (R242): one that cannot be written is refused (R173). -/
def State.sendCounter (s : State) (m : Maker) (bs : List Byte) (tok : Word) : Except Stop (State × List TlbEntry) :=
  let a := recWord bs 48
  if a = 0 then .ok (s, [])
  else if a.toNat % 8 ≠ 0 then .error (.trap 0x084 tok)
  else match s.grip (s.whoOf m) a a accRmw 2 8 with
    | .ok r => .ok r
    | .error _ => .error (.trap 0x084 tok)
/-- MSEND (R173): its record's contents are checked at issue (R170); it retires when the target accepts, and traps where the target refuses;
a full queue holds it.  One whose guard slot is pending enters its own core's queue (R107); one bound false sends nothing and adds 1 at
the record's counter (R163), which is checked at issue (R242). -/
def msend (k : Guard) (b a : GReg) (s : State) : Except Stop State := do
  let t ← s.d.take 0 [a, b] [] 2
  let va := t.x 0
  let tok := t.x 1
  if va.toNat % 64 ≠ 0 then .error (.trap 0x087 va)
  else
    let (s', bs) ← s.readRecord va 64
    if !remoteOk bs then .error (.trap 0x087 va)
    let m := s.d.maker (.matrix s.core)
    match bindOf s.d k with
    | .slot n =>
      let (s', held) ← s'.sendCounter m bs tok
      s'.mxPush t.d { op := .msend bs tok, slot := 0, bind := .slot n, desk := s.desk, maker := m, seq := 0, held := held }
    | .no =>
      let (s', held) ← s'.sendCounter m bs tok
      .ok ((s'.counterAdd (s'.whoOf m held) (recWord bs 48) 1).setD t.d)
    | .yes =>
      s.released
      match ← s'.deliver s.c.work.launch bs tok with
      | none => .error (.wait .matrix)
      | some s' => .ok (s'.setD t.d)
/-- MSEND (R173). -/
def execMsend (k : Guard) (b a : GReg) (s : State) := finish (heldBack (msend k b a)) s

/-- REMOTE_COMMAND_ACCEPT (R173, R107): a guarded MSEND of a desk, at the head of its core's queue, is bound: it is delivered, refused
(which its desk learns at its next boundary), or discarded with its counter add. -/
def execRemoteCommandAccept (c : CoreId) (i : DeskId) (s : State) : Host.Outcome State Fault Refusal :=
  event (fun s =>
    let s := { s with core := c, desk := i }
    match s.c.mx.queue with
    | x :: rest =>
      let gone (s : State) : State := s.setMx { s.c.mx with queue := rest }
      match x.op, x.bind with
      | .msend bs _, .no => if x.desk = i then some ((gone s).counterAdd (s.whoOf x.maker x.held) (recWord bs 48) 1) else none
      | .msend bs tok, .yes =>
        if x.desk ≠ i ∨ !s.storesDone c i then none
        else match (gone s).deliver x.maker.launch bs tok with
        | .ok r => r
        | .error (.trap cause v acc tf) => some ((gone s).setD (s.d.report cause v tf false acc))
        | .error _ => none
      | _, _ => none
    | [] => none) s

/-- REMOTE_COMMAND_COMPLETE (R173): the target adds 1 at the counter address, as a release after the command's writes. -/
def execRemoteCommandComplete (c : CoreId) (n : BitVec 2) (s : State) : Host.Outcome State Fault Refusal :=
  event (fun s =>
    let s := { s with core := c }
    match s.c.mx.first n with
    | some (_, x) =>
      if x.st = .done then some ((s.mxPop n).counterAdd (s.whoOf x.maker x.held) (x.remote.getD 0) 1) else none
    | none => none) s

end Sys2Proof.Machine
end

