-- ==== Sys2Proof/Machine/NearMem.lean ====
section
/-! DEFINITION. Near-memory commands (R235 to R238). -/

namespace Sys2Proof.Machine

/-- Arrays that it does not use. -/
def nmUnused (r : BitVec 512) : List Word :=
  match nmOp r with
  | 0 => [dword r 24, dword r 32] | 1 => [dword r 16, dword r 24, dword r 32] | 2 => [] | _ => [dword r 32]

/-- A malformed command (R235), XVAL. -/
def nmBad (x : Word) : Except Stop Unit := .error (.trap 0x04C x)
/-- The command record's checks. -/
def nmCheck (addr : Word) (r : BitVec 512) : Except Stop Unit :=
  let hyper := dword r 48
  if 3 < nmOp r ∨ nmG r = 3 ∨ 2 ≤ nmP r ∨ r.extractLsb' 12 52 ≠ 0 ∨ 2 ^ 34 < nmCount r then nmBad addr
  else if (nmArrays r).any (fun a => a.1 == 0) || (nmUnused r).any (· != 0) || (nmOp r != 0 && hyper == 0) then nmBad addr
  else if hyper.toNat % 64 ≠ 0 then nmBad hyper
  else match (nmArrays r).find? (fun a => a.1.toNat % a.2.1 != 0) with
    | some a => nmBad a.1
    | none => if (dword r 56).toNat % 8 ≠ 0 then nmBad (dword r 56) else .ok ()
/-- The hyper-parameter record's checks. -/
def hyperCheck (addr : Word) (op : Nat) (h : BitVec 512) : Except Stop Unit :=
  if h.extractLsb' 192 64 ≠ 0 ∨ h.extractLsb' 320 192 ≠ 0 ∨ (op = 2) ≠ (dword h 32 ≠ 0) then nmBad addr
  else if (dword h 32).toNat % 8 ≠ 0 then nmBad (dword h 32)
  else .ok ()

/-- An access whose own checks are translation, ordering kind and footprints; address 0 is none. -/
def State.reachable (s : State) (w : Who) (va : Word) (n : Nat) (acc foot : BitVec 2) : Except Stop State :=
  if va = 0 then .ok s
  else match s.span w va va acc (n / 4096 + 2) n with
    | .error e => .error e
    | .ok (s, _) => match s.footOk w va n foot with
      | some a => .error (.trap 0x181 a acc)
      | none => .ok s
/-- The footprint check of every array and of COUNTER (R348). -/
def State.nmFoot (s : State) (w : Who) : List (Word × Nat × BitVec 2) → Except Stop Unit
  | [] => .ok ()
  | (a, n, acc) :: t =>
    match s.footOk w a n acc with
    | some x => .error (.trap 0x181 x acc)
    | none => s.nmFoot w t

/-- Near-memory commands of a desk, oldest first. -/
def State.nmOf (s : State) (c : CoreId) (i : DeskId) : List NmCmd :=
  let o := s.ownerOf c i
  s.sys.nm.filter (fun x => x.owner.same o)
/-- Changes a near-memory command; none removes it. -/
def State.nmSet (s : State) (seq : Nat) (f : NmCmd → Option NmCmd) : State :=
  { s with sys := { s.sys with nm := s.sys.nm.filterMap (fun x => if x.seq = seq then f x else some x) } }

/-- NMOP (R235): the records are read as .byp loads, checked in full, and the command joins the desk's near-memory list; it is a
release of the desk's earlier accesses (R238). -/
def nmop (a : GReg) (k : BitVec 4) (s : State) : Except Stop State := do
  let t ← s.d.take 0 [a] [] 1
  let addr := t.x 0
  if 8 ≤ (s.nmOf s.core s.desk).length then .error (.wait .nearMem)
  else if addr.toNat % 64 ≠ 0 then .error (.trap 0x04C addr)
  else
    let (s1, bs) ← s.readRecord addr 64
    let r := recOf bs
    nmCheck addr r
    let hy := dword r 48
    let (s2, h) ← if hy = 0 then .ok (s1, (0 : BitVec 512)) else (s1.readRecord hy 64).map (fun x => (x.1, recOf x.2))
    if hy ≠ 0 then hyperCheck hy (nmOp r) h
    let w := s.who s.d
    let st := dword h 32
    -- a command that is false already reads no step counter (R237)
    let (s3, tv) ← if nmOp r = 2 ∧ s.d.slot k ≠ .no then do
        let s3 ← s2.reachable w st 8 accRead accRead
        let (s3, bs) ← s3.readRecord st 8
        .ok (s3, BitVec.ofNat 64 (leNat bs))
      else .ok (s2, (0 : Word))
    s3.nmFoot w ((nmArrays r).map (fun x => (x.1, x.2.1 * nmCount r, x.2.2)))
    let (s4, held) ← if dword r 56 = 0 then .ok (s3, [])
      else match s3.footOk w (dword r 56) 8 accRmw with
        | some x => match s3.grip w (dword r 56) (dword r 56) accRmw 2 8 with
          | .error e => .error e
          | .ok _ => .error (.trap 0x181 x accRmw)
        | none => s3.grip w (dword r 56) (dword r 56) accRmw 2 8
    s.released
    s.pastFences [.n]
    let c : NmCmd := { seq := s.sys.nmSeq, addr := addr, raw := r, hyper := h, t := tv, owner := s.ownerOf s.core s.desk, maker := s.d.maker (.service (BitVec.ofNat 2 (s.core.toNat / 256))), bind := bindOf s.d k, held := held }
    .ok ({ s4 with sys := { s4.sys with nm := s4.sys.nm ++ [c], nmSeq := s4.sys.nmSeq + 1 } }.setD t.d)
/-- NMOP (R235). -/
def execNmop (a : GReg) (k : BitVec 4) (s : State) := finish (heldBack (nmop a k)) s

/-! ### Translation phase (R236) -/

/-- Translates the pages of an array for the command to hold. -/
def State.nmPages (s : State) (w : Who) (acc : BitVec 2) : Nat → Word → Nat → Except Recorded (State × List TlbEntry)
  | 0, _, _ => .ok (s, [])
  | fuel + 1, va, n =>
    if n = 0 then .ok (s, [])
    else
      let k := min n (4096 - va.toNat % 4096)
      match s.xlate w va acc with
      | .error f => .error ⟨0x04D, va, acc, some (f.info acc)⟩
      | .ok (s, t) =>
        if pteKind t.pte = 3#2 ∨ !pteBit t.pte 8 then .error ⟨0x04D, va, acc, none⟩
        else (s.nmPages { w with held := t :: w.held } acc fuel (va + BitVec.ofNat 64 k) (n - k)).map (fun r => (r.1, t :: r.2))
/-- The lower of two failures. -/
def lowerFault (x y : Option Recorded) : Option Recorded :=
  match x, y with
  | some a, some b => if b.xval.toNat < a.xval.toNat then some b else some a
  | none, y => y
  | x, none => x
/-- Translates every array: the translations, and the lowest faulting address of all (R236). -/
def State.nmTranslate (s : State) (w : Who) (count : Nat) :
    List (Word × Nat × BitVec 2) → State × List TlbEntry × Option Recorded
  | [] => (s, [], none)
  | a :: as =>
    let n := a.2.1 * count
    let (s, ts, f) := match s.nmPages w a.2.2 (n / 4096 + 2) a.1 n with
      | .ok (s, ts) => (s, ts, none)
      | .error x => (s, [], some x)
    let (s, us, g) := s.nmTranslate w count as
    (s, ts ++ us, lowerFault f g)

/-- The i-th command of a desk, where no earlier one of the desk is held (R238). -/
def State.nmHead (s : State) (c : CoreId) (i : DeskId) (k : Nat) : Option NmCmd :=
  let l := s.nmOf c i
  if (l.take k).any (fun x => match x.bind with | .slot _ => true | _ => false) then none else l[k]?

/-- NM_TRANSLATION_PHASE (R236): a command that binds false is discarded with its counter add; one that binds true translates every
page of every array, or records its fault. -/
def execNmTranslationPhase (c : CoreId) (i : DeskId) (k : Nat) (s : State) : Host.Outcome State Fault Refusal :=
  event (fun s =>
    match s.nmHead c i k with
    | none => none
    | some x =>
      match x.bind, x.st with
      | .no, _ => some ((s.nmSet x.seq (fun _ => none)).counterAdd (s.heldWho x) (dword x.raw 56) 1)
      | .yes, .waiting =>
        let (s, ts, f) := s.nmTranslate (s.whoOf x.maker) (nmCount x.raw) (nmArrays x.raw)
        some (s.nmSet x.seq (fun x => some (match f with
          | none => { x with st := .running 0 [] [], held := ts ++ x.held }
          | some f => { x with st := .fault f false })))
      | _, _ => none) s

/-- The elements that have begun, once some beyond the place are joined to those below it. -/
def nmBegun : Nat → List Nat → Nat × List Nat
  | n, [] => (n, [])
  | n, k :: ks => if k = n then nmBegun (n + 1) ks else (n, k :: ks)
/-- An element not begun yet, of `n`: any of them, for elements are not ordered among themselves (R236). -/
def nmFresh (tick n done : Nat) (ahead : List Nat) : List Nat :=
  if n ≤ done then []
  else if done + 1 = n then [done]
  else let k := Config.pickAt tick 2 % n; [if k < done || ahead.contains k then done else k]

/-- NM_UPDATE_PHASE (R236): a running command makes one operation of one of its elements; when all are written it adds 1 at COUNTER.  A
line that fails its MAC is poisoned and stops it with 0x1E0 (R401). -/
def execNmUpdatePhase (c : CoreId) (i : DeskId) (k : Nat) (s : State) : Host.Outcome State Fault Refusal :=
  event (fun s =>
    match s.nmHead c i k with
    | none => none
    | some x =>
      match x.st with
      | .running done ahead under =>
        let n := nmCount x.raw
        if n ≤ done && under.isEmpty then some ((s.nmSet x.seq (fun _ => none)).counterAdd (s.heldWho x) (dword x.raw 56) 1)
        else
          let fresh := (nmFresh s.tick n done ahead).map (fun e => ({ el := e } : NmOpen))
          match oneOf s.tick 1 ((under ++ fresh).flatMap (fun o => (nmNext (nmOp x.raw) o).map (fun a => (o, a)))) with
          | none => none
          | some (o, a) =>
            match s.nmPiece x o a with
            | .error l =>
              let s := match l with | some l => { s with mem := s.mem.spoil l } | none => s
              some (s.nmSet x.seq (fun x => some { x with st := .fault { cause := 0x1E0, xval := x.addr } false }))
            | .ok (s, o') =>
              let b := if under.any (fun u => u.el == o.el) then (done, ahead) else nmBegun done (insN ahead o.el)
              some (s.nmSet x.seq (fun x => some { x with st := .running b.1 b.2 (under.filter (fun u => u.el != o.el) ++ o'.toList) }))
      | _ => none) s

/-! ### Reports (R236, R238) -/

/-- Reports a recorded fault of a desk's commands that satisfy a test: the state with the fault marked as reported, and the trap. -/
def State.nmReport (s : State) (p : NmCmd → Bool) : Option (State × Stop) :=
  (s.nmOf s.core s.desk).findSome? (fun x =>
    match x.st with
    | .fault f false =>
      if p x then some (s.nmSet x.seq (fun x => some { x with st := .fault f true }), .trap f.cause f.xval f.acc f.tf)
      else none
    | _ => none)
/-- Commands whose fault has been reported go back to their translation phase (R236). -/
def State.nmResume (s : State) (p : NmCmd → Bool) : State :=
  let o := s.ownerOf s.core s.desk
  { s with sys := { s.sys with nm := s.sys.nm.map (fun x =>
      match x.st with
      | .fault _ true => if p x && x.owner.same o then { x with st := .waiting } else x
      | _ => x) } }
/-- NMWAIT (R238): it waits until every such command has completed or recorded a fault, and then reports one. -/
def nmwait (a : GReg) (s : State) : Except Stop (State × Option Stop × Option Wait) := do
  let t ← s.d.take 0 [a] [] 1
  let mine (x : NmCmd) : Bool := x.addr == t.x 0
  let s1 := if s.d.user then s.nmResume mine else s
  let faulted (x : NmCmd) : Bool := match x.st with | .fault .. => true | _ => false
  if (s1.nmOf s.core s.desk).any (fun x => mine x && !faulted x) then .ok (s1, none, some .nearMem)
  else match s1.nmReport mine with
    | some (s2, e) => .ok (s2, some e, none)
    | none => if (s1.nmOf s.core s.desk).any mine then .ok (s1, none, some .nearMem) else .ok (s1.setD t.d, none, none)
/-- NMWAIT (R238). -/
def execNmwait (a : GReg) (s : State) : Host.Outcome State Fault Refusal :=
  if s.d.gen.isSome then .next (s.hold .held)
  else if s.leaderFull then .next (s.hold .forward)
  else match nmwait a s with
  | .error e => .next (s.stopWith e)
  | .ok (t, some e, _) => .next (t.stopWith e)
  | .ok (t, none, some w) => .next (t.hold w)
  | .ok (t, none, none) => .next t.retire

end Sys2Proof.Machine
end

