-- ==== Sys2Proof/Machine/Scalar.lean ====
section
/-! DEFINITION. Integer arithmetic and predicates (R89 to R91). -/

namespace Sys2Proof.Machine

/-! ### Shapes -/

/-- A scalar instruction with two g sources and a g destination, under a guard (R37, R39, R89). -/
def alu2 (g : Guard) (b a d : GReg) (f : Word → Word → Word) (s : Desk) : Except Stop Desk := do
  s.limsG [a, b, d]
  let x ← s.popG a
  let y ← x.d.popG b
  if s.guard g then
    y.d.roomG d
    .ok (y.d.pushG d (f x.val y.val) (x.bad || y.bad))
  else .ok y.d
/-- A scalar instruction with one g source. -/
def alu1 (g : Guard) (a d : GReg) (f : Word → Word) (s : Desk) : Except Stop Desk := do
  s.limsG [a, d]
  let x ← s.popG a
  if s.guard g then
    x.d.roomG d
    .ok (x.d.pushG d (f x.val) x.bad)
  else .ok x.d
/-- An immediate form: imm15 is sign-extended (R35, R90). -/
def aluI (i : BitVec 15) (a d : GReg) (f : Word → Word → Word) (s : Desk) : Except Stop Desk := do
  s.limsG [a, d]
  let x ← s.popG a
  x.d.roomG d
  .ok (x.d.pushG d (f x.val (i.signExtend 64)) x.bad)
/-- A write of a g register that reads none. -/
def aluW (d : GReg) (f : Desk → Word) (s : Desk) : Except Stop Desk := do
  s.limG d
  s.roomG d
  .ok (s.pushG d (f s) false)
/-- A scalar instruction: the work of its desk (R104 lets it run on a run-ahead path). -/
def scalar (f : Desk → Except Stop Desk) (s : State) : Host.Outcome State Fault Refusal := finish (onDesk f) s

/-! ### Values (R89) -/

/-- 1 or 0. -/
def bit64 (b : Bool) : Word := if b then 1 else 0
/-- High half of the signed product. -/
def mulhS (x y : Word) : Word := BitVec.ofInt 64 (x.toInt * y.toInt / 2 ^ 64)
/-- High half of the unsigned product. -/
def mulhU (x y : Word) : Word := BitVec.ofNat 64 (x.toNat * y.toNat / 2 ^ 64)
/-- Signed quotient, truncated; all ones for a divisor of 0; the one overflow wraps to -2^63. -/
def divS (x y : Word) : Word := if y = 0 then BitVec.allOnes 64 else BitVec.ofInt 64 (x.toInt.tdiv y.toInt)
/-- Unsigned quotient. -/
def divU (x y : Word) : Word := if y = 0 then BitVec.allOnes 64 else BitVec.ofNat 64 (x.toNat / y.toNat)
/-- Signed remainder, with the sign of x; x for a divisor of 0. -/
def remS (x y : Word) : Word := if y = 0 then x else BitVec.ofInt 64 (x.toInt.tmod y.toInt)
/-- Unsigned remainder. -/
def remU (x y : Word) : Word := if y = 0 then x else BitVec.ofNat 64 (x.toNat % y.toNat)
/-- Shift amount: b[5:0]. -/
def sh6 (y : Word) : Nat := y.toNat % 64
/-- Leading zeros; 64 for 0. -/
def clz64 (x : Word) : Word := if x = 0 then 64 else BitVec.ofNat 64 (63 - x.toNat.log2)
/-- Set bits among the low `n`. -/
def popBits (x : Nat) : Nat → Nat
  | 0 => 0
  | n + 1 => x % 2 + popBits (x / 2) n
/-- Number of set bits. -/
def popc64 (x : Word) : Word := BitVec.ofNat 64 (popBits x.toNat 64)
/-- Zeros below the lowest set bit among the low `n`, or all `n`. -/
def trailZ (x : Nat) : Nat → Nat
  | 0 => 0
  | n + 1 => if x % 2 = 1 then 0 else 1 + trailZ (x / 2) n
/-- Trailing zeros; 64 for 0. -/
def ctz64 (x : Word) : Word := BitVec.ofNat 64 (trailZ x.toNat 64)
/-- The low `w` bits sign-extended. -/
def sext (w : Nat) (x : Word) : Word := (x.setWidth w).signExtend 64
/-- The low `w` bits zero-extended. -/
def zext (w : Nat) (x : Word) : Word := (x.setWidth w).setWidth 64

/-- ADD (R89). -/
def execAdd (g : Guard) (b a d : GReg) (s : State) := scalar (alu2 g b a d (· + ·)) s
/-- SUB (R89). -/
def execSub (g : Guard) (b a d : GReg) (s : State) := scalar (alu2 g b a d (· - ·)) s
/-- MUL (R89). -/
def execMul (g : Guard) (b a d : GReg) (s : State) := scalar (alu2 g b a d (· * ·)) s
/-- MULH (R89). -/
def execMulh (g : Guard) (b a d : GReg) (s : State) := scalar (alu2 g b a d mulhS) s
/-- MULH.u (R89). -/
def execMulhU (g : Guard) (b a d : GReg) (s : State) := scalar (alu2 g b a d mulhU) s
/-- DIV (R89). -/
def execDiv (g : Guard) (b a d : GReg) (s : State) := scalar (alu2 g b a d divS) s
/-- DIV.u (R89). -/
def execDivU (g : Guard) (b a d : GReg) (s : State) := scalar (alu2 g b a d divU) s
/-- REM (R89). -/
def execRem (g : Guard) (b a d : GReg) (s : State) := scalar (alu2 g b a d remS) s
/-- REM.u (R89). -/
def execRemU (g : Guard) (b a d : GReg) (s : State) := scalar (alu2 g b a d remU) s
/-- AND (R89). -/
def execAnd (g : Guard) (b a d : GReg) (s : State) := scalar (alu2 g b a d (· &&& ·)) s
/-- OR (R89). -/
def execOr (g : Guard) (b a d : GReg) (s : State) := scalar (alu2 g b a d (· ||| ·)) s
/-- XOR (R89). -/
def execXor (g : Guard) (b a d : GReg) (s : State) := scalar (alu2 g b a d (· ^^^ ·)) s
/-- SHL (R89). -/
def execShl (g : Guard) (b a d : GReg) (s : State) := scalar (alu2 g b a d (fun x y => x <<< sh6 y)) s
/-- SHR (R89). -/
def execShr (g : Guard) (b a d : GReg) (s : State) := scalar (alu2 g b a d (fun x y => x >>> sh6 y)) s
/-- SHA (R89). -/
def execSha (g : Guard) (b a d : GReg) (s : State) := scalar (alu2 g b a d (fun x y => x.sshiftRight (sh6 y))) s
/-- SLT (R89). -/
def execSlt (g : Guard) (b a d : GReg) (s : State) := scalar (alu2 g b a d (fun x y => bit64 (x.slt y))) s
/-- SLT.u (R89). -/
def execSltU (g : Guard) (b a d : GReg) (s : State) := scalar (alu2 g b a d (fun x y => bit64 (x.ult y))) s
/-- MIN (R89). -/
def execMin (g : Guard) (b a d : GReg) (s : State) := scalar (alu2 g b a d (fun x y => if y.slt x then y else x)) s
/-- MIN.u (R89). -/
def execMinU (g : Guard) (b a d : GReg) (s : State) := scalar (alu2 g b a d (fun x y => if y.ult x then y else x)) s
/-- MAX (R89). -/
def execMax (g : Guard) (b a d : GReg) (s : State) := scalar (alu2 g b a d (fun x y => if x.slt y then y else x)) s
/-- MAX.u (R89). -/
def execMaxU (g : Guard) (b a d : GReg) (s : State) := scalar (alu2 g b a d (fun x y => if x.ult y then y else x)) s
/-- CLZ (R89). -/
def execClz (g : Guard) (a d : GReg) (s : State) := scalar (alu1 g a d clz64) s
/-- CTZ (R89). -/
def execCtz (g : Guard) (a d : GReg) (s : State) := scalar (alu1 g a d ctz64) s
/-- POPC (R89). -/
def execPopc (g : Guard) (a d : GReg) (s : State) := scalar (alu1 g a d popc64) s
/-- EXT.b (R89). -/
def execExtB (g : Guard) (a d : GReg) (s : State) := scalar (alu1 g a d (sext 8)) s
/-- EXT.h (R89). -/
def execExtH (g : Guard) (a d : GReg) (s : State) := scalar (alu1 g a d (sext 16)) s
/-- EXT.w (R89). -/
def execExtW (g : Guard) (a d : GReg) (s : State) := scalar (alu1 g a d (sext 32)) s
/-- EXT.bu (R89). -/
def execExtBu (g : Guard) (a d : GReg) (s : State) := scalar (alu1 g a d (zext 8)) s
/-- EXT.hu (R89). -/
def execExtHu (g : Guard) (a d : GReg) (s : State) := scalar (alu1 g a d (zext 16)) s
/-- EXT.wu (R89). -/
def execExtWu (g : Guard) (a d : GReg) (s : State) := scalar (alu1 g a d (zext 32)) s

/-- The choice of SEL: both operands are read, the destination is always written (R89). -/
def selOp (c : Guard) (b a d : GReg) (s : Desk) : Except Stop Desk := do
  s.limsG [a, b, d]
  let x ← s.popG a
  let y ← x.d.popG b
  y.d.roomG d
  .ok (y.d.pushG d (if s.guard c then x.val else y.val) (x.bad || y.bad))
/-- SEL (R89). -/
def execSel (c : Guard) (b a d : GReg) (s : State) := scalar (selOp c b a d) s

/-- ADD immediate (R90). -/
def execAddImm (i : BitVec 15) (a d : GReg) (s : State) := scalar (aluI i a d (· + ·)) s
/-- AND immediate (R90). -/
def execAndImm (i : BitVec 15) (a d : GReg) (s : State) := scalar (aluI i a d (· &&& ·)) s
/-- OR immediate (R90). -/
def execOrImm (i : BitVec 15) (a d : GReg) (s : State) := scalar (aluI i a d (· ||| ·)) s
/-- XOR immediate (R90). -/
def execXorImm (i : BitVec 15) (a d : GReg) (s : State) := scalar (aluI i a d (· ^^^ ·)) s
/-- SLT immediate, signed (R90). -/
def execSltImm (i : BitVec 15) (a d : GReg) (s : State) := scalar (aluI i a d (fun x y => bit64 (x.slt y))) s
/-- SHL immediate (R90). -/
def execShlImm (n : BitVec 6) (a d : GReg) (s : State) := scalar (alu1 0 a d (fun x => x <<< n.toNat)) s
/-- SHR immediate (R90). -/
def execShrImm (n : BitVec 6) (a d : GReg) (s : State) := scalar (alu1 0 a d (fun x => x >>> n.toNat)) s
/-- SHA immediate (R90). -/
def execShaImm (n : BitVec 6) (a d : GReg) (s : State) := scalar (alu1 0 a d (fun x => x.sshiftRight n.toNat)) s
/-- A U-format value (R35). -/
def uValue (i : BitVec 20) : Word := (i ++ 0#12).signExtend 64
/-- LUI (R90). -/
def execLui (i : BitVec 20) (d : GReg) (s : State) := scalar (aluW d (fun _ => uValue i)) s
/-- ADDPC: the base is the instruction's address, a dictionary reference's own where there is one (R32, R90). -/
def execAddpc (i : BitVec 20) (d : GReg) (s : State) := scalar (aluW d (fun x => x.pc + uValue i)) s

/-! ### Predicates (R91) -/

/-- PCMP: every bit of the predicate takes the outcome; a poisoned operand traps with 0x1C0 before any effect (R91, R412).  A
guard that selects it out leaves only the pops (R39), so no poison is consumed. -/
def pcmp (g : Guard) (b a : GReg) (d : PReg) (f : Word → Word → Bool) (s : Desk) : Except Stop Desk := do
  s.limsG [a, b]
  let x ← s.popG a
  let y ← x.d.popG b
  if s.guard g then
    if x.bad then .error (.trap 0x1C0 (badG a))
    else if y.bad then .error (.trap 0x1C0 (badG b))
    else .ok (y.d.setP d (if f x.val y.val then BitVec.allOnes 64 else 0))
  else .ok y.d
/-- A predicate operation of two predicates. -/
def pred2 (g : Guard) (b a d : PReg) (f : Word → Word → Word) (s : Desk) : Except Stop Desk :=
  .ok (if s.guard g then s.setP d (f (s.getP a) (s.getP b)) else s)
/-- A predicate operation that writes a g register. -/
def predG (g : Guard) (a : PReg) (d : GReg) (f : Word → Word) (s : Desk) : Except Stop Desk := do
  s.limG d
  if s.guard g then
    s.roomG d
    .ok (s.pushG d (f (s.getP a)) false)
  else .ok s

/-- PCMP.eq (R91). -/
def execPcmpEq (g : Guard) (b a : GReg) (d : PReg) (s : State) := scalar (pcmp g b a d (· == ·)) s
/-- PCMP.ne (R91). -/
def execPcmpNe (g : Guard) (b a : GReg) (d : PReg) (s : State) := scalar (pcmp g b a d (· != ·)) s
/-- PCMP.lt (R91). -/
def execPcmpLt (g : Guard) (b a : GReg) (d : PReg) (s : State) := scalar (pcmp g b a d (fun x y => x.slt y)) s
/-- PCMP.ge (R91). -/
def execPcmpGe (g : Guard) (b a : GReg) (d : PReg) (s : State) := scalar (pcmp g b a d (fun x y => !x.slt y)) s
/-- PCMP.lt.u (R91). -/
def execPcmpLtU (g : Guard) (b a : GReg) (d : PReg) (s : State) := scalar (pcmp g b a d (fun x y => x.ult y)) s
/-- PCMP.ge.u (R91). -/
def execPcmpGeU (g : Guard) (b a : GReg) (d : PReg) (s : State) := scalar (pcmp g b a d (fun x y => !x.ult y)) s
/-- PAND (R91). -/
def execPand (g : Guard) (b a d : PReg) (s : State) := scalar (pred2 g b a d (· &&& ·)) s
/-- POR (R91). -/
def execPor (g : Guard) (b a d : PReg) (s : State) := scalar (pred2 g b a d (· ||| ·)) s
/-- PXOR (R91). -/
def execPxor (g : Guard) (b a d : PReg) (s : State) := scalar (pred2 g b a d (· ^^^ ·)) s
/-- PANDN (R91). -/
def execPandn (g : Guard) (b a d : PReg) (s : State) := scalar (pred2 g b a d (fun x y => x &&& ~~~y)) s
/-- PNOT (R91). -/
def execPnot (g : Guard) (a d : PReg) (s : State) := scalar (pred2 g a a d (fun x _ => ~~~x)) s
/-- PMOV (R91). -/
def execPmov (g : Guard) (a d : PReg) (s : State) := scalar (pred2 g a a d (fun x _ => x)) s
/-- PCNT (R91). -/
def execPcnt (g : Guard) (a : PReg) (d : GReg) (s : State) := scalar (predG g a d popc64) s
/-- PFIRST (R91). -/
def execPfirst (g : Guard) (a : PReg) (d : GReg) (s : State) := scalar (predG g a d ctz64) s
/-- PALL (R91). -/
def execPall (g : Guard) (a : PReg) (d : GReg) (s : State) := scalar (predG g a d (fun x => bit64 (x == BitVec.allOnes 64))) s
/-- PNONE (R91). -/
def execPnone (g : Guard) (a : PReg) (d : GReg) (s : State) := scalar (predG g a d (fun x => bit64 (x == 0))) s

end Sys2Proof.Machine
end

