-- ==== Sys2Proof/Machine/Sync.lean ====
section
/-! DEFINITION. Guard-slot resolution (R106, R107), counters and barrier tokens (R241 to R252), and exchange copies (R257 to R259). -/

namespace Sys2Proof.Machine

/-! ### SETK (R106, R107) -/

/-- A held command takes a slot's value. -/
def Bind.take (b : Bind) (k : BitVec 3) (v : Bool) : Bind :=
  match b with | .slot n => if n = k then (if v then .yes else .no) else .slot n | b => b
/-- Every command of the desk that moves that waits for a slot binds to its value, wherever it is held. -/
def State.resolve (s : State) (k : BitVec 3) (v : Bool) : State :=
  let o := s.ownerOf s.core s.desk
  let c := s.c
  let s := s.setC { c with
    mx := { c.mx with queue := c.mx.queue.map (fun x => if x.desk = s.desk then { x with bind := x.bind.take k v } else x) }
    key := { c.key with held := c.key.held.map (fun x => if x.desk = s.desk then { x with bind := x.bind.take k v } else x) } }
  { s with sys := { s.sys with
    cards := s.sys.cards.map (fun q => (q.1, q.2.map (fun x => if x.owner.same o then { x with bind := x.bind.take k v } else x)))
    nm := s.sys.nm.map (fun x => if x.owner.same o then { x with bind := x.bind.take k v } else x)
    net := s.sys.net.map (fun x => if x.owner.same o then { x with bind := x.bind.take k v } else x) } }
/-- SETK (R106): the slot takes bit 0 of pA. -/
def setk (a : PReg) (k : BitVec 3) (s : State) : Except Stop State :=
  let v := (s.d.getP a).getLsbD 0
  .ok ((s.resolve k v).setD { s.d with k := s.d.k.set k.toNat (if v then .yes else .no) k.isLt })
/-- SETK (R106). -/
def execSetk (a : PReg) (k : BitVec 3) (s : State) := finish (heldBack (setk a k)) s

/-! ### Counters (R241 to R250) -/

/-- A counter address, checked in the order of R245 (alignment, translation, ordering kind, footprints, declared counters); the
desk's earlier stores are performed first where R198 orders them. -/
def State.counterAccess (s : State) (ea : Word) (acc : BitVec 2) : Except Stop (State × List Part) :=
  if ea.toNat % 8 ≠ 0 then .error (.trap 0x043 ea acc)
  else match s.access (s.who s.d) ea 8 acc with
    | .error e => .error e
    | .ok (s, ps) =>
      let lo := s.d.cntbase.toNat + 8 * s.d.kern.counters
      if s.d.launch.isSome && decide (lo ≤ ea.toNat) && decide (ea.toNat < s.d.cntbase.toNat + 32768) then .error (.trap 0x0C0 ea)
      else .ok (s, ps)
/-- Reads a counter at its home: a poisoned line traps (R245). -/
def State.counterRead (s : State) (ea : Word) (ps : List Part) (acc : BitVec 2) : Except Stop (State × Nat) :=
  match s.homeClear ps with
  | .error e => .error e
  | .ok _ => match s.readMac s.d.part ea ps false acc with
    | .error e => .error e
    | .ok (s, bs, bad) => if bad then .error (.trap 0x1C0 ea) else .ok (s, leNat bs)
/-- Adds to a counter at its home (R246). -/
def State.counterPut (s : State) (ea : Word) (ps : List Part) (n : Nat) : Except Stop (State × Nat) :=
  match s.pastFences (if ps.any (·.ms) then [.l, .s, .n] else [.l, .s]) with
  | .error e => .error e
  | .ok _ => match s.writeClear with
    | .error e => .error e
    | .ok _ => match s.counterRead ea ps accRmw with
    | .error e => .error e
    | .ok (s, old) => .ok ((s.l1Drop s.core ps).updateHome s.d.part ea ps false (natLe (counterSum old n) 8), old)

/-- CADD (R246): with d = g0 it enters the store queue; otherwise it is an off-core reference. -/
def cadd (sc o : BitVec 2) (b a d : GReg) (s : State) : Except Stop (State × Bool) := do
  if d = 0#5 ∧ o.getLsbD 0 then .error (.trap 0x001 s.d.xword)
  let t ← s.d.take 0 [a, b] [d] 2
  let ea := t.x 0
  let (s', ps) ← s.counterAccess ea accRmw
  if d = 0#5 then
    let s' ← s'.enqueue t.d {
      kind := .cadd, ops := [⟨ea, ps, natLe (t.x 1).toNat 8, false⟩], ef := false, release := if ordRel o then some (atomScope sc) else none
      part := t.d.part }
    .ok (s', false)
  else
    if ordRel o then s.released
    let (s', old) ← s'.counterPut ea ps (t.x 1).toNat
    .ok (s'.setD (t.d.pushG d (BitVec.ofNat 64 old) false), true)
/-- CADD (R246): without a result it is no off-core reference, and a full store queue holds its desk. -/
def execCadd (sc o : BitVec 2) (b a d : GReg) (s : State) :=
  if d = 0#5 then finish (heldBack (fun s => (cadd sc o b a d s).map (·.1))) s else heldRef (cadd sc o b a d) s
/-- CTEST (R248): it stalls without a switch. -/
def ctest (b a d : GReg) (s : State) : Except Stop State := do
  let t ← s.d.take 0 [a, b] [d] 2
  let (s', ps) ← s.counterAccess (t.x 0) accRead
  s.pastFences [.l]
  let (s', v) ← s'.counterRead (t.x 0) ps accRead
  .ok (s'.setD (t.d.pushG d (bit64 (decide ((t.x 1).toNat ≤ v))) false))
/-- CTEST (R248). -/
def execCtest (b a d : GReg) (s : State) := finish (heldBack (ctest b a d)) s

/-- The home of a counter: its bank, or 256 + the stack of a memory-side page (R241, R250). -/
def MemSys.homeOf (m : MemSys) (ps : List Part) : Nat :=
  match ps with
  | p :: _ => if p.ms then 256 + stackOf p.pa.toNat else m.bankNo (p.pa.toNat / 64)
  | [] => 0
/-- The physical address of an access. -/
def addrOfParts (ps : List Part) : PAddr := match ps with | p :: _ => p.pa | [] => 0
/-- A wait that is not satisfied (R247, R250): the desk joins the home's waiter list where it has room, and the core switches. -/
def State.registerWait (s : State) (ea target : Word) (ps : List Part) (regs : List GReg) (token : Bool) : State :=
  let h := s.mem.homeOf ps
  let room := decide ((s.mem.waiters.filter (·.home == h)).length < 256)
  let pa := addrOfParts ps
  let w : Waiter := { core := s.core, desk := s.desk, pa := pa, target := target, home := h, due := none }
  let s := if room then { s with mem := { s.mem with waiters := s.mem.waiters ++ [w] } } else s
  (s.setD { s.d with cw := some ⟨pa, ea, target, room, regs, token⟩, wait := some .counter }).switchDesk
/-- A CWAIT or BWAIT: satisfied at its first read it completes, else its desk waits (R247, R252). -/
def finishWait (f : State → Except Stop (State × Bool)) (s : State) : Host.Outcome State Fault Refusal :=
  if s.d.gen.isSome then .next (s.hold .held)
  else if s.leaderFull then .next (s.hold .forward)
  else match f s with
  | .error e => .next (s.stopWith e)
  | .ok (t, done) => .next (if done then t.retire else t)
/-- The token table without an entry (R252). -/
def Desk.dropToken (d : Desk) (a t : Word) : Desk := { d with tokens := d.tokens.erase ⟨a, t⟩ }
/-- CWAIT, and BWAIT with its token (R247, R252). -/
def cwait (token : Bool) (b a : GReg) (s : State) : Except Stop (State × Bool) := do
  let t ← s.d.take 0 [a, b] [] 2
  let ea := t.x 0
  let target := t.x 1
  let (s', ps) ← s.counterAccess ea accRead
  if token ∧ !s.d.tokens.contains ⟨ea, target⟩ then .error (.trap 0x0C1 target)
  s.pastFences [.l]
  let (s', v) ← s'.counterRead ea ps accRead
  if target.toNat ≤ v then .ok (s'.setD (if token then t.d.dropToken ea target else t.d), true)
  else .ok (s'.registerWait ea target ps [a, b] token, false)
/-- CWAIT (R247). -/
def execCwait (b a : GReg) (s : State) := finishWait (cwait false b a) s
/-- BWAIT (R252). -/
def execBwait (b a : GReg) (s : State) := finishWait (cwait true b a) s
/-- A waiting desk's CWAIT or BWAIT ends, with its value or with the poison of its counter line (R245). -/
def State.endWait (s : State) (c : CoreId) (i : DeskId) (w : CounterWait) (bad : Bool) : State :=
  let s := ({ s with core := c, desk := i } : State).note (s.deskAt c i).part 3 [coreDie c]
  let d := { s.d with cw := none, wait := none }
  if bad then (s.setD d).takeTrap 0x1C0 w.va accRead none false
  else match d.popsG w.regs with
    | .ok (_, d) => (s.setD (if w.token then d.dropToken w.va w.target else d)).retire
    | .error _ => s
/-- CWAIT_WAKE (R247, R250): the first waiter in order of registration that a write to the counter satisfies goes on. -/
def execCwaitWake (pa : PAddr) (s : State) : Host.Outcome State Fault Refusal :=
  event (fun s =>
    match s.mem.waiters.find? (fun w => w.pa == pa && w.due.isSome) with
    | none => none
    | some w =>
      let idle := s.idle w.core
      let s := { s with mem := { s.mem with waiters := s.mem.waiters.erase w } }
      match (s.deskAt w.core w.desk).cw with
      | some x => some ((s.endWait w.core w.desk x (w.due == some true)).wakes idle w.core w.desk)
      | none => some s) s
/-- WAITER_REREAD (R250): a desk that a full waiter list turned away reads its counter again. -/
def execWaiterReread (c : CoreId) (i : DeskId) (s : State) : Host.Outcome State Fault Refusal :=
  event (fun s =>
    match (s.deskAt c i).cw with
    | none => none
    | some x =>
      if x.listed then none
      else if s.mem.poison.contains (x.pa.toNat / 64) then some ((s.endWait c i x true).wakes (s.idle c) c i)
      else if x.target.toNat ≤ leNat (creads s.mem.bytes x.pa.toNat 8) then some ((s.endWait c i x false).wakes (s.idle c) c i)
      else none) s

/-- The token of an arrival (R251). -/
def barToken (old p : Nat) : Word := BitVec.ofNat 64 (min ((old / p + 1) * p) (2 ^ 64 - 1))
/-- The token table with one more entry (R251). -/
def Desk.addToken (d : Desk) (a t : Word) : Desk := { d with tokens := d.tokens ++ [⟨a, t⟩] }
/-- BARV (R251): a release at system scope, and an off-core reference. -/
def barv (b a d : GReg) (s : State) : Except Stop (State × Bool) := do
  let t ← s.d.take 0 [a, b] [d] 2
  let ea := t.x 0
  let p := (t.x 1).toNat
  let (s', ps) ← s.counterAccess ea accRmw
  if p = 0 ∨ 2 ^ 32 ≤ p then .error (.trap 0x0C2 (t.x 1))
  if 4 ≤ s.d.tokens.length then .error (.trap 0x0CA ea)
  s.released
  let (s', old) ← s'.counterPut ea ps 1
  let tok := barToken old p
  .ok (s'.setD ((t.d.addToken ea tok).pushG d tok false), true)
/-- BARV (R251). -/
def execBarv (b a d : GReg) (s : State) := heldRef (barv b a d) s

/-! ### Exchange copies (R257 to R259) -/

/-- PHASE as a value. -/
def Desk.phase (d : Desk) : Word := if d.exch then 1 else 0
/-- An instruction of the exchange alone (R257). -/
def inExchange (d : Desk) : Except Stop Unit := if d.exch then .ok () else .error (.trap 0x0C3 d.phase)

/-- Whether a device belongs to the fabric domain. -/
def State.inDomain (s : State) (d : BitVec 11) : Bool := d == s.device || s.sys.domain.contains d
/-- Whether a run of bytes lies in the region of a core's launch there (R17): the `.scratch` is that of the kernel of the core's stage. -/
def State.insideAt (s : State) (c : CoreId) (off n : Nat) : Bool :=
  let w := (s.coreAt c).work
  match w.launch with
  | none => false
  | some l => match (s.launchAt l).stages[w.stage]? with
    | none => false
    | some st => decide (w.base ≤ off ∧ off + n ≤ w.base + st.kern.scratch)
/-- A tuple's checks (R21): its zero field, a core of the launch on a device of the domain, and the region on that core.  XVAL of a
bound is the offset.  A core of another device is taken to run the issuing desk's stage (log 119). -/
def State.tupleOk (s : State) (d : Desk) (x : Word) (n : Nat) (acc : BitVec 2) : Except Stop Unit :=
  let other := tupleDevice x != s.device
  let c := s.coreAt (tupleCore x)
  if x.extractLsb' 40 24 ≠ 0 ∨ !s.inDomain (tupleDevice x) then .error (.trap 0x04A x)
  else if other then
    if (match d.launch with | some l => (s.launchAt l).span != 0 | none => false) then
      (if d.inside (tupleOff x) n then .ok () else .error (.trap 0x045 (BitVec.ofNat 64 (tupleOff x)) acc))
    else .error (.trap 0x04A x)
  else if c.work.launch != d.launch ∨ d.launch.isNone then .error (.trap 0x04A x)
  else if !s.insideAt (tupleCore x) (tupleOff x) n then .error (.trap 0x045 (BitVec.ofNat 64 (tupleOff x)) acc)
  else .ok ()

/-- A write of 8 bytes into an image of a scratchpad; `whole` says that with it a copy has overwritten the whole 64-byte unit with clean data
(R364). -/
def unitWrite (m : Image) (off : Nat) (bs : List Byte) (bad whole : Bool) : Image :=
  (cwrites m.1 off bs, if bad then insN m.2 (off / 64) else if whole then m.2.filter (· != off / 64) else m.2)
/-- The bytes that an exchange copy brings to a unit, and their poison: an XGET finds what its source held at the bell, or an exchange
write since (R259). -/
def State.unitData (s : State) (x : Xfer) : List Byte × Bool :=
  match x.src with
  | none => (x.bytes, x.bad)
  | some (c, off) =>
    let k := s.coreAt c
    let m := (tget? k.bells s.d.stage.toNat).getD (k.pad, k.padPoison)
    (creads m.1 off 8, m.2.contains (off / 64))
/-- Whether two units of copies lie in one 64-byte unit of a scratchpad. -/
def Xfer.near (x y : Xfer) : Bool := x.dst == y.dst && x.off / 64 == y.off / 64
/-- Performs some units of exchange copies, each for itself, in any order (R258, R259): those that the choice takes, the others stay. -/
def State.copyUnits (s : State) (pick : Nat → Bool) (spoilt kept : List Xfer) : List Xfer → State × List Xfer
  | [] => (s, kept.map (fun x => if spoilt.any x.near then { x with full := false } else x))
  | x :: xs =>
    if pick xs.length then
      let (bs, bad) := s.unitData x
      let whole := x.full && !spoilt.any x.near && !(kept ++ xs).any (fun y => y.full && x.near y)
      let k := s.coreAt x.dst
      let m := unitWrite (k.pad, k.padPoison) x.off bs bad whole
      let n := s.d.stage.toNat
      let bells := match tget? k.bells n with | some b => tset k.bells n (unitWrite b x.off bs bad whole) | none => k.bells
      (s.setCoreAt x.dst { k with pad := m.1, padPoison := m.2, bells := bells }).copyUnits
        pick (if bad then x :: spoilt else spoilt) kept xs
    else s.copyUnits pick spoilt (kept ++ [x]) xs
/-- The exchange copies of the desk that moves go on by some units, or by all of them. -/
def State.moves (s : State) (all : Bool) : State :=
  if s.d.xfers.isEmpty then s
  else
    let (t, xs) := s.copyUnits (fun k => all || Config.chance s.tick k) [] [] s.d.xfers
    t.setD { t.d with xfers := xs }
/-- The units of a copy of `n` bytes to a core's scratchpad: from bytes read, by 8, with their poison, or from another scratchpad. -/
def copyOf (dst : CoreId) (off n : Nat) (src : Option (CoreId × Nat)) (bytes : Nat → List Byte × Bool) : List Xfer :=
  (List.range (n / 8)).map (fun i =>
    let o := off + 8 * i
    let b : List Byte × Bool := if src.isNone then bytes (8 * i) else ([], false)
    { dst := dst, off := o, bytes := b.1, bad := b.2, src := src.map (fun c => (c.1, c.2 + 8 * i))
      full := decide (off ≤ o / 64 * 64) && decide (o / 64 * 64 + 64 ≤ off + n) })
/-- Bytes that another device's scratchpad holds: free. -/
def State.farBytes (s : State) (i : Nat) : List Byte × Bool := ((List.range 8).map (fun j => Config.freeByte s.tick (i + j)), false)
/-- XPUT and XGET (R258): operands checked in order, then the copy. -/
def exchangeCopy (get : Bool) (b a d : GReg) (s : State) : Except Stop State := do
  s.d.limsG [a, b, d]
  s.d.await [a, b, d] [] [] []
  inExchange s.d
  let t ← s.d.take 0 [a, b, d] [] 3
  let tup := t.x 0
  let loc := (t.x 1).toNat
  let len := t.x 2
  let n := len.toNat
  if n = 0 ∨ n % 8 ≠ 0 ∨ 0x80000 < n ∨ loc % 8 ≠ 0 ∨ tupleOff tup % 8 ≠ 0 then .error (.trap 0x0C2 len)
  s.tupleOk s.d tup n (if get then accRead else accWrite)
  if !s.d.inside loc n then .error (.trap 0x045 (t.x 1) (if get then accWrite else accRead))
  let far := tupleDevice tup != s.device
  let go (xs : List Xfer) : State := (s.setD { t.d with xfers := t.d.xfers ++ xs }).moves false
  if get then
    match s.c.protects loc n with
    | some x => .error (.trap 0x184 (BitVec.ofNat 64 x))
    | none => .ok (go (copyOf s.core loc n (if far then none else some (tupleCore tup, tupleOff tup)) s.farBytes))
  else
    s.mayRead loc n
    .ok (if far then s.setD t.d else go (copyOf (tupleCore tup) (tupleOff tup) n none
      (fun i => (s.c.padRead (loc + i) 8, s.c.padBad (loc + i) 8))))
/-- XPUT (R258). -/
def execXput (b a d : GReg) (s : State) := finish (heldBack (exchangeCopy false b a d)) s
/-- XGET (R258). -/
def execXget (b a d : GReg) (s : State) := finish (heldBack (exchangeCopy true b a d)) s

end Sys2Proof.Machine
end

