-- ==== Sys2Proof/Machine/Key.lean ====
section
/-! DEFINITION. Key tables and the instructions on them (R272 to R277, R282 to R289). -/

namespace Sys2Proof.Machine

/-! ### The key unit's accesses (R272, R282, R284) -/

/-- No key (R264). -/
def noKey : Word := BitVec.allOnes 64
/-- Whether the region of the desk that moves holds bytes of a local operand (R17). -/
def State.inPad (s : State) (a : Word) (n : Nat) (acc : BitVec 2) : Except Stop Unit :=
  if s.d.inside (localOff a) n then .ok () else .error (.trap 0x045 (BitVec.ofNat 64 (localOff a)) acc)
/-- Reads bytes of a record, a table or a relation: at their home, or in the scratchpad of the core that moves. -/
def State.kRead (s : State) (w : Who) (loc : Bool) (a : Word) (n : Nat) (acc : BitVec 2) : Except Stop (State × List Byte × Bool) :=
  if loc then
    match s.inPad a n acc with
    | .error e => .error e
    | .ok _ => match s.mayRead (localOff a) n with
      | .error e => .error e
      | .ok _ => .ok (s, s.c.padRead (localOff a) n, s.c.padBad (localOff a) n)
  else match s.access w a n acc with
    | .error e => .error e
    | .ok (s, ps) =>
      if w.hw then s.readMac w.part a ps false acc
      else match s.homeClear ps w.keys with
        | .error e => .error e
        | .ok _ => s.readMac w.part a ps false acc
/-- Whether the writes before a key command let it write parts: a store of the desk that moves (R198, R284). -/
def State.kClear (s : State) (w : Who) (ps : List Part) : Bool :=
  w.hw || (s.fenceClear s.core s.desk .s && ps.all (fun p => s.readClear s.core s.desk true p w.keys))
/-- Writes bytes there, at once; under `accRmw` as the second half of a read-modify-write. -/
def State.kWrite (s : State) (w : Who) (loc : Bool) (a : Word) (bs : List Byte) (bad : Bool) (acc : BitVec 2) : Except Stop State :=
  if loc then
    match s.inPad a bs.length acc with
    | .error e => .error e
    | .ok _ => match s.mayWrite (localOff a) bs.length with
      | .error e => .error e
      | .ok _ => .ok (s.setC (s.c.padWrite (localOff a) bs bad))
  else match s.access w a bs.length acc with
    | .error e => .error e
    | .ok (s, ps) =>
      if s.kClear w ps then
        let s := if w.hw then s else s.l1Drop s.core ps
        .ok (if acc = accRmw then s.updateHome w.part a ps bad bs else s.writeHome w.part a ps false bad bs)
      else .error (.wait .memory)
/-- Bytes that decide something: poison traps, with the line's address (R365). -/
def State.kClean (s : State) (w : Who) (loc : Bool) (a : Word) (n : Nat) (acc : BitVec 2) : Except Stop (State × List Byte) :=
  match s.kRead w loc a n acc with
  | .error e => .error e
  | .ok (s, bs, bad) => if bad then .error (.trap 0x1C0 (a &&& ~~~63#64)) else .ok (s, bs)
/-- A 64-bit word of that kind. -/
def State.kWord (s : State) (w : Who) (loc : Bool) (a : Word) (acc : BitVec 2) : Except Stop (State × Word) :=
  (s.kClean w loc a 8 acc).map (fun x => (x.1, BitVec.ofNat 64 (leNat x.2)))
/-- A 64-byte record. -/
def State.kRecord (s : State) (w : Who) (loc : Bool) (a : Word) : Except Stop (State × BitVec 512) :=
  (s.kClean w loc a 64 accRead).map (fun x => (x.1, recOf x.2))

/-! ### Tables (R272, R273, R275) -/

/-- A header's contents; none where they break R272. -/
def ktabOf (head : Word) (r : BitVec 512) : Option KTab :=
  let loc := isLocal head
  let slots := sword r 0
  let ptype := (r.extractLsb' 32 3).toNat
  let psize := (r.extractLsb' 38 5).toNat
  let maxrep := (r.extractLsb' 43 7).toNat
  let hot := (r.extractLsb' 50 14).toNat
  let t : KTab := ⟨head, slots.log2, ptype == 5, psize, maxrep, hot, dword r 8, dword r 16, dword r 24, dword r 32, dword r 40⟩
  if slots < 64 ∨ slots ≠ 2 ^ slots.log2 ∨ (ptype ≠ 0 ∧ ptype ≠ 5) ∨ r.extractLsb' 35 3 ≠ 0 ∨ psize = 0 ∨ 16 < psize ∨ maxrep = 1 ∨ 64 < maxrep ∨
      t.keys.toNat % 8 ≠ 0 ∨ t.metas.toNat % 8 ≠ 0 ∨ t.payload.toNat % 64 ≠ 0 ∨ t.rep.toNat % 64 ≠ 0 ∨ (maxrep = 0 ∧ t.rep ≠ 0) ∨
      (loc ∧ (maxrep ≠ 0 ∨ hot ≠ 0)) ∨ isLocal t.keys ≠ loc ∨ isLocal t.metas ≠ loc ∨ isLocal t.payload ≠ loc ∨ isLocal t.rep then none
  else some t
/-- Reads and checks a header (R282 steps 2 to 4). -/
def State.kTable (s : State) (w : Who) (head : Word) : Except Stop (State × KTab) :=
  if head.toNat % 64 ≠ 0 then .error (.trap 0x104 head)
  else match s.kRecord w (isLocal head) head with
    | .error e => .error e
    | .ok (s, r) => match ktabOf head r with | some t => .ok (s, t) | none => .error (.trap 0x104 head)

/-- In a scratchpad. -/
def KTab.loc (t : KTab) : Bool := isLocal t.head
/-- SLOTS -/
def KTab.slots (t : KTab) : Nat := 2 ^ t.log2
/-- Bytes of a payload. -/
def KTab.pbytes (t : KTab) : Nat := 64 * t.psize
/-- H or P: elements of a payload. -/
def KTab.len (t : KTab) : Nat := 16 * t.psize
/-- A slot's key. -/
def KTab.keyAt (t : KTab) (i : Nat) : Word := t.keys + BitVec.ofNat 64 (8 * i)
/-- A slot's meta word. -/
def KTab.metaAt (t : KTab) (i : Nat) : Word := t.metas + BitVec.ofNat 64 (8 * i)
/-- A slot's payload. -/
def KTab.payAt (t : KTab) (i : Nat) : Word := t.payload + BitVec.ofNat 64 (t.pbytes * i)
/-- Bytes of a replica group (R275). -/
def KTab.gbytes (t : KTab) : Nat := 256 + t.maxrep * t.pbytes
/-- A replica group. -/
def KTab.groupAt (t : KTab) (g : Nat) : Word := t.rep + BitVec.ofNat 64 (64 + g * t.gbytes)
/-- A replica's payload. -/
def KTab.repAt (t : KTab) (g r : Nat) : Word := t.groupAt g + BitVec.ofNat 64 (256 + r * t.pbytes)

/-- A scratchpad table's arrays lie in the region (R282 step 5): KEYS, META, and PAYLOAD for an instruction that uses it. -/
def State.arrays (s : State) (t : KTab) (pay : Bool) : Except Stop Unit :=
  if !t.loc then .ok ()
  else match s.inPad t.keys (8 * t.slots) accRead with
    | .error e => .error e
    | .ok _ => match s.inPad t.metas (8 * t.slots) accRead with
      | .error e => .error e
      | .ok _ => if pay then s.inPad t.payload (t.pbytes * t.slots) accRead else .ok ()

/-- STATE of a meta word. -/
def metaState (m : Word) : Nat := (m.extractLsb' 32 8).toNat
/-- HOT -/
def metaHot (m : Word) : Bool := m.getLsbD 41
/-- REPLICAS -/
def metaReps (m : Word) : Nat := (m.extractLsb' 48 8).toNat
/-- GROUP -/
def metaGroup (m : Word) : Nat := (m.extractLsb' 56 8).toNat
/-- COUNT + n, saturating. -/
def metaAdd (m : Word) (n : Nat) : Word :=
  (m &&& ~~~0xFFFFFFFF#64) ||| BitVec.ofNat 64 (min ((m.extractLsb' 0 32).toNat + n) (2 ^ 32 - 1))

/-- The mixing of R273 and R286. -/
def keyMix (k seed : Word) : Word :=
  let h := (k ^^^ seed) * 0x9E3779B97F4A7C15#64
  h ^^^ (h >>> 29)
/-- The home slot of a key (R273). -/
def KTab.home (t : KTab) (k : Word) : Nat := (keyMix k t.seed).toNat / 2 ^ (64 - t.log2)

/-- Probes from a slot on (R273): the live slot with the key, or the first tombstone or empty slot passed. -/
def State.kProbe (s : State) (w : Who) (t : KTab) (k : Word) : Nat → Nat → Option Nat → Except Stop (State × Option Nat × Option Nat)
  | 0, _, free => .ok (s, none, free)
  | fuel + 1, i, free =>
    match s.kWord w t.loc (t.metaAt i) accRead with
    | .error e => .error e
    | .ok (s, m) =>
      let next := (i + 1) % t.slots
      if metaState m = 0 then .ok (s, none, free <|> some i)
      else if metaState m = 1 then
        match s.kWord w t.loc (t.keyAt i) accRead with
        | .error e => .error e
        | .ok (s, x) => if x = k then .ok (s, some i, none) else s.kProbe w t k fuel next free
      else s.kProbe w t k fuel next (if metaState m = 2 then free <|> some i else free)
/-- Find (R286). -/
def State.kFind (s : State) (w : Who) (t : KTab) (k : Word) : Except Stop (State × Option Nat) :=
  if k = noKey then .ok (s, none) else (s.kProbe w t k 64 (t.home k) none).map (fun r => (r.1, r.2.1))

/-- Additions that have claimed a slot and are not all performed (R283). -/
def State.slotBusy (s : State) (w : Who) (t : KTab) (i : Nat) : Bool :=
  s.cores.any (fun c => c.2.key.adds.any (fun x => x.maker.part == w.part && x.tab.head == t.head && x.slot == i))
/-- Tables that a command held for a true slot adds to. -/
def KCmd.adds (x : KCmd) : List Word :=
  match x.op with
  | .scatter h node own _ _ _ _ _ =>
    let n := h.nodes[node]?
    (if own then (n.bind (fun y => y.p)).toList else h.nodes.filterMap (fun y => if y.parent = node then y.d else none)).map (fun t => t.head)
  | _ => []
/-- The desk's own additions on a table have been performed, those of a held JSCATTER too (R283, R303). -/
def State.kSettled (s : State) (t : KTab) : Except Stop Unit :=
  if s.c.key.adds.any (fun x => x.desk == s.desk && x.tab.head == t.head) ||
    s.c.key.held.any (fun x => x.desk == s.desk && x.live && x.adds.contains t.head) then .error (.wait .key) else .ok ()
/-- The key unit applies the operations of every desk on a scratchpad table in one order, that of their issue (R283): one comes after the
JSCATTERs to it that the unit still holds. -/
def State.padOrder (s : State) (t : KTab) : Except Stop Unit :=
  if t.loc && s.c.key.held.any (fun x => x.live && x.adds.contains t.head) then .error (.wait .key) else .ok ()
/-- Adds to LIVE or OVERFLOW of a header. -/
def State.kCount (s : State) (w : Who) (t : KTab) (off : Nat) (n : Word) : Except Stop State :=
  match s.kWord w t.loc (t.head + BitVec.ofNat 64 off) accRmw with
  | .error e => .error e
  | .ok (s, x) => s.kWrite w t.loc (t.head + BitVec.ofNat 64 off) (natLe (x + n).toNat 8) false accRmw
/-- Insertion (R273, R286), a key that is live included; none where it is refused, with OVERFLOW raised. -/
def State.kInsert (s : State) (w : Who) (t : KTab) (k : Word) : Except Stop (State × Option Nat) :=
  match s.kProbe w t k 64 (t.home k) none with
  | .error e => .error e
  | .ok (s, some i, _) => .ok (s, some i)
  | .ok (s, none, none) => (s.kCount w t 56 1).map (fun s => (s, none))
  | .ok (s, none, some i) =>
    if s.slotBusy w t i then .error (.wait .key)
    else do
      -- the claim compares the slot's key and meta word, and changes both (R273, R283)
      let (s, _) ← s.kRead w t.loc (t.keyAt i) 8 accRmw
      let s ← s.kWrite w t.loc (t.keyAt i) (natLe k.toNat 8) false accRmw
      let s ← s.kWrite w t.loc (t.metaAt i) (natLe (2 ^ 32) 8) false accRmw
      let s ← s.kWrite w t.loc (t.payAt i) (List.replicate t.pbytes 0) false accWrite
      let s ← s.kCount w t 48 1
      .ok (s, some i)

/-! ### Hot keys (R275 to R277) -/

/-- The lowest free group of a free map of 256 bits. -/
def freeGroup (bs : List Byte) : Option Nat :=
  let m : BitVec 256 := BitVec.ofNat 256 (leNat bs)
  (List.range 256).find? (fun g => !m.getLsbD g)
/-- Sets or clears a group's bit in the map. -/
def State.markGroup (s : State) (w : Who) (t : KTab) (g : Nat) (used : Bool) : Except Stop State :=
  match s.kClean w false t.rep 32 accRmw with
  | .error e => .error e
  | .ok (s, bs) =>
    let m : BitVec 256 := setBit (BitVec.ofNat 256 (leNat bs)) g used
    s.kWrite w false t.rep (natLe m.toNat 32) false accRmw
/-- Makes a slot hot with r replicas (R275): none where no group is free. -/
def State.promote (s : State) (w : Who) (t : KTab) (i r : Nat) : Except Stop (Option State) :=
  match s.kClean w false t.rep 32 accRead with
  | .error e => .error e
  | .ok (s, bs) => match freeGroup bs with
    | none => .ok none
    | some g => do
      let s ← s.markGroup w t g true
      let s ← s.kWrite w false (t.groupAt g) (List.replicate t.gbytes 0) false accWrite
      let (s, m) ← s.kWord w false (t.metaAt i) accRmw
      let m' : Word := (m.setWidth 41).setWidth 64 ||| BitVec.ofNat 64 (2 ^ 41 + r * 2 ^ 48 + g * 2 ^ 56)
      let s ← s.kWrite w false (t.metaAt i) (natLe m'.toNat 8) false accRmw
      .ok (some s)

/-- One element's addition (R274). -/
def KTab.sum (t : KTab) (old x : Nat) : Nat := if t.int then (old + x) % 2 ^ 32 else rAdd old x
/-- Adds a payload element by element. -/
def KTab.sums (t : KTab) : List Byte → List Byte → List Byte
  | a :: b :: c :: d :: xs, e :: f :: g :: h :: ys => natLe (t.sum (leNat [a, b, c, d]) (leNat [e, f, g, h])) 4 ++ t.sums xs ys
  | _, _ => []
/-- Adds the replicas from one on into the main payload (R277): the payload, its poison, and the sum of the replicas' counts. -/
def State.mergeReps (s : State) (w : Who) (t : KTab) (g : Nat) : Nat → Nat → List Byte → Bool → Nat → Except Stop (State × List Byte × Bool × Nat)
  | 0, _, main, bad, n => .ok (s, main, bad, n)
  | k + 1, r, main, bad, n =>
    match s.kRead w false (t.repAt g r) t.pbytes accRmw with
    | .error e => .error e
    | .ok (s, bs, b) => match s.kRead w false (t.groupAt g + BitVec.ofNat 64 (4 * r)) 4 accRmw with
      | .error e => .error e
      | .ok (s, cs, b') => s.mergeReps w t g k (r + 1) (t.sums main bs) (bad || b || b') (n + leNat cs)
/-- Merges a slot's replicas (R277): nothing for one that is not live and hot. -/
def State.mergeSlot (s : State) (w : Who) (t : KTab) (i : Nat) : Except Stop State := do
  let (s, m) ← s.kWord w false (t.metaAt i) accRmw
  if metaState m ≠ 1 || !metaHot m then .ok s
  else
    let g := metaGroup m
    let (s, main, bad) ← s.kRead w false (t.payAt i) t.pbytes accRmw
    let (s, sum, bad, n) ← s.mergeReps w t g (metaReps m) 0 main bad 0
    let s ← s.kWrite w false (t.payAt i) sum bad accRmw
    let s ← s.kWrite w false (t.metaAt i) (natLe (metaAdd m n).toNat 8) false accRmw
    s.kWrite w false (t.groupAt g) (List.replicate (256 + metaReps m * t.pbytes) 0) false accWrite
/-- Merges every hot key of a table in ascending slot order. -/
def State.mergeFrom (s : State) (w : Who) (t : KTab) : Nat → Nat → Except Stop State
  | 0, _ => .ok s
  | k + 1, i => match s.mergeSlot w t i with | .error e => .error e | .ok s => s.mergeFrom w t k (i + 1)
/-- The bell's merge of a recorded table, each of its hot keys once (R277); what cannot be reached stays as it is. -/
def State.bellMerge (s : State) (x : PartId × Word) : State :=
  let w := s.hwWho x.1
  match s.kTable w x.2 with
  | .error _ => s
  | .ok (s, t) => (List.range t.slots).foldl (fun s i => match s.mergeSlot w t i with | .error _ => s | .ok s => s) s

/-- Records a table into whose replicas the core accumulates (R277, R287). -/
def State.recordHot (s : State) (w : Who) (t : KTab) : Except Stop State :=
  let c := s.c
  if c.key.merge.contains (w.part, t.head) then .ok s
  else if 16 ≤ c.key.merge.length then .error (.trap 0x106 t.head)
  else .ok (s.setC { c with key := { c.key with merge := c.key.merge ++ [(w.part, t.head)] } })

/-! ### Accumulation (R274, R276, R283, R287) -/

/-- The 32-bit elements of source bytes, in place order, each with its poison. -/
def elemsOf : List (List Byte × Bool) → Nat → List (Nat × BitVec 32 × Bool)
  | [], _ => []
  | (bs, bad) :: t, j =>
    ((List.range (bs.length / 4)).map (fun i => (j + i, BitVec.ofNat 32 (leNat ((bs.drop (4 * i)).take 4)), bad))) ++ elemsOf t (j + bs.length / 4)
/-- Adds elements to a payload in the scratchpad. -/
def Core.padAdd (c : Core) (t : KTab) (off : Nat) (es : List (Nat × BitVec 32 × Bool)) : Core :=
  es.foldl (fun c e =>
    let a := off + 4 * e.1
    c.padWrite a (natLe (t.sum (leNat (c.padRead a 4)) e.2.1.toNat) 4) e.2.2) c
/-- A place that a key command will read or write: its translations held and its parts; the first fault of an access there is met now
(R297, R298). -/
def State.kGrip (s : State) (w : Who) (a : Word) (n : Nat) (acc : BitVec 2) : Except Stop (State × Who × List Part) :=
  if n = 0 then .ok (s, w, [])
  else match s.grip w a a acc (n / 4096 + 2) n with
    | .error e => .error e
    | .ok (s, ts) =>
      let w := { w with held := ts ++ w.held }
      match s.access w a n acc with
      | .error e => .error e
      | .ok (s, ps) => .ok (s, w, ps)
/-- A slot claimed for an addition, with where it writes. -/
structure Claim where
  /-- table -/
  tab : KTab
  /-- slot -/
  slot : Nat
  /-- where the addition writes -/
  outs : List Part
/-- The replica of a hot key that a core's cluster uses (R276). -/
def replicaOf (c : CoreId) (m : Word) : Nat := c.toNat / 16 % metaReps m
/-- Finds or inserts a key for an addition, records a hot key's table, and makes sure of every byte that the addition writes (R287, R297):
the claim, none where the insertion is refused. -/
def State.claim (s : State) (w : Who) (t : KTab) (k : Word) : Except Stop (State × Who × Option Claim) := do
  match ← s.kInsert w t k with
  | (s, none) => .ok (s, w, none)
  | (s, some i) =>
    if t.loc then
      s.mayRead (localOff (t.payAt i)) t.pbytes
      s.mayWrite (localOff (t.payAt i)) t.pbytes
      s.mayWrite (localOff (t.metaAt i)) 8
      .ok (s, w, some ⟨t, i, []⟩)
    else
      let (s, m) ← s.kWord w false (t.metaAt i) accRmw
      let s ← if metaHot m then s.recordHot w t else .ok s
      let (s, w, p) ← s.kGrip w (t.metaAt i) 8 accRmw
      let (s, w, q) ← s.kGrip w (t.payAt i) t.pbytes accRmw
      if !metaHot m then .ok (s, w, some ⟨t, i, p ++ q⟩)
      else
        let r := replicaOf s.core m
        let (s, w, p') ← s.kGrip w (t.groupAt (metaGroup m) + BitVec.ofNat 64 (4 * r)) 4 accRmw
        let (s, w, q') ← s.kGrip w (t.repAt (metaGroup m) r) t.pbytes accRmw
        .ok (s, w, some ⟨t, i, p ++ q ++ p' ++ q'⟩)
/-- The place of a key command in the order of its core's. -/
def State.kPlace (s : State) (w : Who) : Nat := w.keys.getD s.c.key.next
/-- A key command has taken its place in that order. -/
def State.kTick (s : State) : State := s.setC { s.c with key := { s.c.key with next := s.c.key.next + 1 } }
/-- The addition of a claim: made at once in a scratchpad; on a global table left to the slot's home (R274). -/
def State.addTo (s : State) (w : Who) (m : Maker) (x : Claim) (es : List (Nat × BitVec 32 × Bool)) (phase2 : Bool) : State :=
  if x.tab.loc then
    let c := s.c.padAdd x.tab (localOff (x.tab.payAt x.slot)) es
    let a := localOff (x.tab.metaAt x.slot)
    s.setC (c.padWrite a (natLe (metaAdd (BitVec.ofNat 64 (leNat (c.padRead a 8))) 1).toNat 8) false)
  else
    let y : KAdd := { desk := s.desk, maker := m, tab := x.tab, slot := x.slot, elems := es, at_ := none, phase2 := phase2,
                      seq := s.kPlace w, held := w.held, outs := x.outs }
    s.setC { s.c with key := { s.c.key with adds := s.c.key.adds ++ [y] } }

/-- A window of 4,096 clk (R276). -/
def State.hotWindow (s : State) : Nat := Config.clkAt s.tick / 4096
/-- An addition arrives at a slot's home (R276): where an earlier one to the slot is still in progress, the window's count rises, and the
slot is due for promotion when the count passes HOTTHR. -/
def State.countHot (s : State) (part : PartId) (t : KTab) (i : Nat) : State :=
  let busy := s.cores.any (fun c => c.2.key.adds.any (fun x => x.maker.part == part && x.tab.head == t.head && x.slot == i && x.at_.isSome))
  if t.hotthr = 0 ∨ !busy then s
  else
    let mine (h : HotCount) : Bool := h.part == part && h.head == t.head && h.slot == i
    let old := (s.sys.hots.find? mine).getD ⟨part, t.head, i, s.hotWindow, 0, false, 0⟩
    let n := if old.window = s.hotWindow then old.count + 1 else 1
    let h : HotCount := { old with window := s.hotWindow, count := n, due := old.due || n == t.hotthr + 1 }
    { s with sys := { s.sys with hots := h :: s.sys.hots.filter (fun x => !mine x) } }
/-- A replica that can be reached: where the page of a replica's count or payload cannot, the addition goes to the main slot, since it raises
no fault (R297, log 120). -/
def State.reach (s : State) (w : Who) (t : KTab) (m : Word) : Bool :=
  let r := replicaOf s.core m
  match s.access w (t.groupAt (metaGroup m) + BitVec.ofNat 64 (4 * r)) 4 accRmw with
  | .error _ => false
  | .ok (s, _) => (s.access w (t.repAt (metaGroup m) r) t.pbytes accRmw).toOption.isSome
/-- The next piece of an addition: its COUNT, which fixes whether it goes to a replica (R276, R287), or one of its elements, in any order
(R280). -/
def State.addStep (s : State) (x : KAdd) (free : List Nat) : Except Stop (State × Option KAdd) := do
  let w : Who := { s.whoOf x.maker x.held with keys := some x.seq }
  match x.at_ with
  | some p =>
    match oneOf s.tick 7 (x.elems.zipIdx.filter (fun e => free.contains e.1.1)) with
    | none => .ok (s, none)
    | some ((j, v, bad), k) =>
      let a := p + BitVec.ofNat 64 (4 * j)
      let (s, bs, _) ← s.kRead w false a 4 accRmw
      let s ← s.kWrite w false a (natLe (x.tab.sum (leNat bs) v.toNat) 4) bad accRmw
      let es := x.elems.eraseIdx k
      .ok (s, if es.isEmpty then none else some { x with elems := es })
  | none =>
    let (s, m) ← s.kWord w false (x.tab.metaAt x.slot) accRmw
    let s := s.countHot w.part x.tab x.slot
    let next (p : Word) : Option KAdd := if x.elems.isEmpty then none else some { x with at_ := some p }
    if metaHot m && decide (0 < metaReps m) && s.c.key.merge.contains (w.part, x.tab.head) && s.reach w x.tab m then
      let r := replicaOf s.core m
      let a := x.tab.groupAt (metaGroup m) + BitVec.ofNat 64 (4 * r)
      let (s, bs, _) ← s.kRead w false a 4 accRmw
      let s ← s.kWrite w false a (natLe (min (leNat bs + 1) (2 ^ 32 - 1)) 4) false accRmw
      .ok (s, next (x.tab.repAt (metaGroup m) r))
    else
      let s ← s.kWrite w false (x.tab.metaAt x.slot) (natLe (metaAdd m 1).toNat 8) false accRmw
      .ok (s, next (x.tab.payAt x.slot))

/-- A command of a unit that has retired meets a trap: its desk learns of it at its next boundary (R298, R356). -/
def State.reportOn (s : State) (c : CoreId) (i : DeskId) (e : Stop) : State :=
  let d := s.deskAt c i
  match e with
  | .trap cause x acc tf => s.setDeskAt c i (d.report cause x tf false acc)
  | .mac l x _ => ({ s with mem := s.mem.spoil l }).setDeskAt c i (d.report 0x1E0 x)
  | .wait _ => s
/-- Changes the additions of a core. -/
def State.setAdds (s : State) (c : CoreId) (f : List KAdd → List KAdd) : State :=
  let x := s.coreAt c
  s.setCoreAt c { x with key := { x.key with adds := f x.key.adds } }
/-- Two additions of a desk to one slot. -/
def KAdd.meets (x y : KAdd) : Bool := x.desk == y.desk && x.tab.head == y.tab.head && x.maker.part == y.maker.part && x.slot == y.slot
/-- The elements of an addition that may land (R280, R283): an addition arrives after the earlier ones of its desk on its slot, and each of
its elements lands after theirs. -/
def KAdd.free (x : KAdd) (before : List KAdd) : List Nat :=
  let prev := before.filter (·.meets x)
  (x.elems.map (·.1)).filter (fun j => prev.all (fun y => y.elems.all (fun e => e.1 != j)))
/-- One addition of a core goes a step on (R274, R283). -/
def State.stepAdd (s : State) (c : CoreId) (phase2 : Bool) : Option State :=
  let l := (s.coreAt c).key.adds
  let open_ := (List.range l.length).filter (fun i => match l[i]? with
    | some x => x.phase2 == phase2 && (if x.at_.isNone then (l.take i).all (fun y => !y.meets x || y.at_.isSome) else !(x.free (l.take i)).isEmpty)
    | none => false)
  match open_[Config.pick s.tick % max 1 open_.length]? with
  | none => none
  | some i => match l[i]? with
    | none => none
    | some x =>
      let s := { s with core := c, desk := x.desk }
      match s.addStep x (x.free (l.take i)) with
      | .ok (s, some y) => some (s.setAdds c (fun l => l.set i y))
      | .ok (s, none) => some (s.setAdds c (fun l => l.eraseIdx i))
      | .error (.wait _) => none
      | .error e => some ((s.setAdds c (fun l => l.eraseIdx i)).reportOn c x.desk e)

/-! ### Instructions (R285 to R289) -/

/-- Ends a key instruction: it retires, as an off-core reference or not, or it traps with an effect that stands (R273, R297). -/
def finishKey (f : State → Except Stop (State × Bool × Option Stop)) (s : State) : Host.Outcome State Fault Refusal :=
  if s.d.gen.isSome then .next (s.hold .held)
  else if s.leaderFull then .next (s.hold .forward)
  else match f s with
  | .error e => .next (s.stopWith e)
  | .ok (t, _, some e) => .next (t.stopWith e)
  | .ok (t, ref, none) => .next (if ref then t.retire.switchDesk else t.retire)
/-- A KEY instruction (R282): operands, then the header and a scratchpad table's arrays, then what it does. -/
def keyOp (pay : Bool) (g : Guard) (rs more : List GReg) (f : State → Taken → KTab → Who → Except Stop (State × Bool × Option Stop)) (s : State) :
    Except Stop (State × Bool × Option Stop) := do
  let t ← s.d.take g rs more rs.length
  if !t.on then .ok (s.setD t.d, false, none)
  else
    let w := s.who s.d
    let (s', tab) ← s.kTable w (t.x 0)
    s'.arrays tab pay
    s'.padOrder tab
    f s' t tab w
/-- A KEY instruction that is an off-core reference on a global table (R284): it has issued where it waits for what precedes it. -/
def keyRef (f : State → Taken → KTab → Who → Except Stop (State × Bool × Option Stop)) (s : State) (t : Taken) (tab : KTab) (w : Who) :
    Except Stop (State × Bool × Option Stop) := if tab.loc then f s t tab w else asRef (f s t tab w)
/-- A slot number, or NK. -/
def slotWord (i : Option Nat) : Word := match i with | some i => BitVec.ofNat 64 i | none => noKey
/-- NK is never stored (R286). -/
def mustKey (k : Word) : Except Stop Unit := if k = noKey then .error (.trap 0x109 k) else .ok ()

/-- KHASH (R286). -/
def execKhash (g : Guard) (b a d : GReg) (s : State) := finish (heldBack (onDesk (alu2 g b a d keyMix))) s
/-- KFIND (R286). -/
def kfind (g : Guard) (b a d : GReg) : State → Except Stop (State × Bool × Option Stop) :=
  keyOp false g [a, b] [d] (keyRef (fun s t tab w => do
    let (s, i) ← s.kFind w tab (t.x 1)
    .ok (s.setD (t.d.pushG d (slotWord i) false), !tab.loc, none)))
/-- KFIND (R286). -/
def execKfind (g : Guard) (b a d : GReg) (s : State) := finishKey (kfind g b a d) s
/-- KINS (R286). -/
def kins (g : Guard) (b a d : GReg) : State → Except Stop (State × Bool × Option Stop) :=
  keyOp true g [a, b] [d] (fun s t tab w => do
    mustKey (t.x 1)
    match ← s.kInsert w tab (t.x 1) with
    | (s, none) => .ok (s, false, some (.trap 0x100 (t.x 1)))
    | (s, some i) => .ok (s.setD (t.d.pushG d (BitVec.ofNat 64 i) false), false, none))
/-- KINS (R286). -/
def execKins (g : Guard) (b a d : GReg) (s : State) := finishKey (kins g b a d) s
/-- Ends a live slot (R275, R286): a tombstone, its group free. -/
def State.kEnd (s : State) (w : Who) (t : KTab) (i : Nat) : Except Stop State := do
  let (s, m) ← s.kWord w t.loc (t.metaAt i) accRmw
  let s ← if metaHot m then s.markGroup w t (metaGroup m) false else .ok s
  -- DIRTY goes when the slot becomes a tombstone (R289)
  let s ← s.kWrite w t.loc (t.metaAt i) (natLe (2 * 2 ^ 32 + m.toNat % 2 ^ 32) 8) false accRmw
  s.kCount w t 48 (BitVec.allOnes 64)
/-- KDEL (R286). -/
def kdel (g : Guard) (b a d : GReg) : State → Except Stop (State × Bool × Option Stop) :=
  keyOp false g [a, b] [d] (fun s t tab w => do
    let (s, i) ← s.kFind w tab (t.x 1)
    match i with
    | none => .ok (s.setD (t.d.pushG d noKey false), false, none)
    | some i =>
      if s.slotBusy w tab i then .error (.wait .key)
      let s ← s.kEnd w tab i
      .ok (s.setD (t.d.pushG d (BitVec.ofNat 64 i) false), false, none))
/-- KDEL (R286). -/
def execKdel (g : Guard) (b a d : GReg) (s : State) := finishKey (kdel g b a d) s
/-- KCOUNT (R286). -/
def kcount (g : Guard) (b a d : GReg) : State → Except Stop (State × Bool × Option Stop) :=
  keyOp false g [a, b] [d] (keyRef (fun s t tab w => do
    s.kSettled tab
    let (s, v) ← if t.x 1 = noKey then s.kWord w tab.loc (tab.head + 48) accRead
      else do
        let (s, i) ← s.kFind w tab (t.x 1)
        match i with
        | none => .ok (s, (0 : Word))
        | some i => (s.kWord w tab.loc (tab.metaAt i) accRead).map (fun r => (r.1, (r.2.setWidth 32).setWidth 64))
    .ok (s.setD (t.d.pushG d v false), !tab.loc, none)))
/-- KCOUNT (R286). -/
def execKcount (g : Guard) (b a d : GReg) (s : State) := finishKey (kcount g b a d) s

/-- A scratchpad operand (R285) lies in the region (R282 step 5). -/
def State.padIn (s : State) (x : Word) (n : Nat) (acc : BitVec 2) : Except Stop Unit :=
  if s.d.inside x.toNat n then .ok () else .error (.trap 0x045 x acc)
/-- It is 64-byte aligned (R282 step 6). -/
def padAligned (x : Word) : Except Stop Unit := if x.toNat % 64 ≠ 0 then .error (.trap 0x109 x) else .ok ()
/-- KACC (R287). -/
def kacc (g : Guard) (b a d : GReg) : State → Except Stop (State × Bool × Option Stop) :=
  keyOp true g [a, b, d] [] (fun s t tab w => do
    let src := (t.x 2).toNat
    s.padIn (t.x 2) tab.pbytes accRead
    padAligned (t.x 2)
    mustKey (t.x 1)
    s.mayRead src tab.pbytes
    let es := elemsOf (s.c.padPieces src tab.psize) 0
    match ← s.claim w tab (t.x 1) with
    | (s, _, none) => .ok (s, false, some (.trap 0x100 (t.x 1)))
    | (s, w, some x) => .ok (((s.addTo w (s.d.maker (.core s.core)) x es false).kTick).setD t.d, false, none))
/-- KACC (R287). -/
def execKacc (g : Guard) (b a d : GReg) (s : State) := finishKey (kacc g b a d) s
/-- Writes pieces to a table's payload. -/
def State.kPieces (s : State) (w : Who) (loc : Bool) (a : Word) : List (List Byte × Bool) → Except Stop State
  | [] => .ok s
  | (bs, bad) :: t => match s.kWrite w loc a bs bad accWrite with
    | .error e => .error e
    | .ok s => s.kPieces w loc (a + BitVec.ofNat 64 bs.length) t
/-- KPUT (R287). -/
def kput (g : Guard) (b a d : GReg) : State → Except Stop (State × Bool × Option Stop) :=
  keyOp true g [a, b, d] [] (fun s t tab w => do
    let src := (t.x 2).toNat
    s.padIn (t.x 2) tab.pbytes accRead
    padAligned (t.x 2)
    mustKey (t.x 1)
    s.mayRead src tab.pbytes
    s.kSettled tab
    match ← s.kInsert w tab (t.x 1) with
    | (s, none) => .ok (s, false, some (.trap 0x100 (t.x 1)))
    | (s, some i) =>
      let s ← s.kPieces w tab.loc (tab.payAt i) (s.c.padPieces src tab.psize)
      let (s, m) ← s.kWord w tab.loc (tab.metaAt i) accRmw
      let s ← s.kWrite w tab.loc (tab.metaAt i) (natLe ((m &&& ~~~0xFFFFFFFF#64) ||| 1).toNat 8) false accRmw
      .ok (s.setD t.d, false, none))
/-- KPUT (R287). -/
def execKput (g : Guard) (b a d : GReg) (s : State) := finishKey (kput g b a d) s
/-- A 64-byte piece of a key's payload as the instruction takes it (R280): its elements that were read before, and the rest as they are. -/
def Desk.blend (d : Desk) (k a : Word) (bs : List Byte) (bad : Bool) : List Byte × Bool :=
  let es := (List.range (bs.length / 4)).map (fun i =>
    match d.seen.find? (fun x => x.key == k && x.at_ == a + BitVec.ofNat 64 (4 * i)) with
    | some x => (x.val, x.bad)
    | none => ((bs.drop (4 * i)).take 4, bad))
  (es.flatMap (·.1), es.any (·.2))
/-- Reads a key's payload in 64-byte pieces. -/
def State.payPieces (s : State) (w : Who) (loc : Bool) (key a : Word) : Nat → Except Stop (State × List (List Byte × Bool))
  | 0 => .ok (s, [])
  | k + 1 => match s.kRead w loc a 64 accRead with
    | .error e => .error e
    | .ok (s, bs, bad) => match s.payPieces w loc key (a + 64) k with
      | .error e => .error e
      | .ok (s, ps) => .ok (s, (if loc then (bs, bad) else s.d.blend key a bs bad) :: ps)
/-- KGET (R287). -/
def kget (g : Guard) (b a d : GReg) : State → Except Stop (State × Bool × Option Stop) :=
  keyOp true g [a, b, d] [] (keyRef (fun s t tab w => do
    let dst := (t.x 2).toNat
    s.padIn (t.x 2) tab.pbytes accWrite
    padAligned (t.x 2)
    s.mayWrite dst tab.pbytes
    s.kSettled tab
    let (s, i) ← s.kFind w tab (t.x 1)
    let (s, ps) ← match i with
      | none => .ok (s, List.replicate tab.psize (List.replicate 64 0, false))
      | some i => s.payPieces w tab.loc (t.x 1) (tab.payAt i) tab.psize
    .ok (s.setCD (s.c.padCopy dst ps) t.d, !tab.loc, none)))
/-- KGET (R287). -/
def execKget (g : Guard) (b a d : GReg) (s : State) := finishKey (kget g b a d) s
/-- The payload that a KGET on a global table reads: its key, address and elements (R280). -/
def kgetReads (g : Guard) (b a d : GReg) (s : State) : Except Stop (List (Word × Word × Nat)) := do
  let t ← s.d.take g [a, b, d] [] 3
  let w := s.who s.d
  let (s, tab) ← s.kTable w (t.x 0)
  if !t.on || tab.loc then .ok []
  else
    s.kSettled tab
    let (_, i) ← s.kFind w tab (t.x 1)
    .ok (match i with | some i => [(t.x 1, tab.payAt i, tab.len)] | none => [])
/-- Reads some elements of payloads before the others (R280): which ones is free. -/
def State.readAhead (s : State) (w : Who) : List (Word × Word) → Nat → Except Stop (List Seen)
  | [], _ => .ok []
  | (k, a) :: t, n =>
    if Config.pickAt s.tick n % 2 = 0 || s.d.seen.any (fun x => x.key == k && x.at_ == a) then s.readAhead w t (n + 1)
    else match s.kRead w false a 4 accRead with
      | .error e => .error e
      | .ok (_, bs, bad) => (s.readAhead w t (n + 1)).map (⟨k, a, bs, bad⟩ :: ·)
/-- KHOT (R288). -/
def khot (g : Guard) (b a d : GReg) : State → Except Stop (State × Bool × Option Stop) :=
  keyOp true g [a, b, d] [] (fun s t tab w => do
    mustKey (t.x 1)
    let r := (t.x 2).toNat
    if r < 2 ∨ tab.maxrep < r then .error (.trap 0x105 tab.head)
    match ← s.kInsert w tab (t.x 1) with
    | (s, none) => .ok (s, false, some (.trap 0x100 (t.x 1)))
    | (s, some i) =>
      let (s, m) ← s.kWord w false (tab.metaAt i) accRmw
      if metaHot m then .ok (s.setD t.d, false, none)
      else match ← s.promote w tab i r with
        | none => .error (.trap 0x105 tab.head)
        | some s => .ok (s.setD t.d, false, none))
/-- KHOT (R288). -/
def execKhot (g : Guard) (b a d : GReg) (s : State) := finishKey (khot g b a d) s
/-- KMERGE (R288): a scratchpad table has no hot key. -/
def kmerge (g : Guard) (b a : GReg) : State → Except Stop (State × Bool × Option Stop) :=
  keyOp true g [a, b] [] (fun s t tab w => do
    s.kSettled tab
    if tab.loc then .ok (s.setD t.d, false, none)
    else if t.x 1 = noKey then
      let s ← s.mergeFrom w tab tab.slots 0
      .ok (s.setD t.d, false, none)
    else
      let (s, i) ← s.kFind w tab (t.x 1)
      let s ← match i with | none => .ok s | some i => s.mergeSlot w tab i
      .ok (s.setD t.d, false, none))
/-- KMERGE (R288). -/
def execKmerge (g : Guard) (b a : GReg) (s : State) := finishKey (kmerge g b a) s

/-- The lowest slot from one on that a cursor selects, with its meta word (R289). -/
def State.kScan (s : State) (w : Who) (t : KTab) (dirty : Bool) : Nat → Nat → Except Stop (State × Option (Nat × Word))
  | 0, _ => .ok (s, none)
  | k + 1, i =>
    match s.kWord w t.loc (t.metaAt i) accRead with
    | .error e => .error e
    | .ok (s, m) =>
      if metaState m = 1 && (!dirty || m.getLsbD 40) then .ok (s, some (i, m)) else s.kScan w t dirty k (i + 1)
/-- KSCAN (R289). -/
def kscan (g : Guard) (b a d : GReg) (s : State) : Except Stop (State × Bool × Option Stop) := do
  s.d.pairOk d 2
  keyOp false g [a, b] [d, d + 1] (fun s t tab w => do
    let c := t.x 1
    if c.extractLsb' 34 30 ≠ 0 then .error (.trap 0x109 c)
    let start := (c.extractLsb' 0 32).toNat
    match ← s.kScan w tab (c.getLsbD 32) (tab.slots - start) start with
    | (s, none) => .ok (s.setD ((t.d.setG d noKey false).setG (d + 1) noKey false), false, none)
    | (s, some (i, m)) =>
      let (s, k) ← s.kWord w tab.loc (tab.keyAt i) accRead
      let s ← if c.getLsbD 33 then s.kWrite w tab.loc (tab.metaAt i) (natLe (m &&& ~~~(1#64 <<< 40)).toNat 8) false accRmw else .ok s
      .ok (s.setD ((t.d.setG d (BitVec.ofNat 64 i) false).setG (d + 1) k false), false, none)) s
/-- KSCAN (R289). -/
def execKscan (g : Guard) (b a d : GReg) (s : State) := finishKey (kscan g b a d) s
/-- KDIRTY (R289). -/
def kdirty (g : Guard) (b a : GReg) : State → Except Stop (State × Bool × Option Stop) :=
  keyOp false g [a, b] [] (fun s t tab w => do
    let (s, i) ← s.kFind w tab (t.x 1)
    match i with
    | none => .ok (s.setD t.d, false, none)
    | some i =>
      let (s, m) ← s.kWord w tab.loc (tab.metaAt i) accRmw
      let s ← s.kWrite w tab.loc (tab.metaAt i) (natLe (m ||| (1#64 <<< 40)).toNat 8) false accRmw
      .ok (s.setD t.d, false, none))
/-- KDIRTY (R289). -/
def execKdirty (g : Guard) (b a : GReg) (s : State) := finishKey (kdirty g b a) s

/-- HOT_PROMOTION (R276): at the end of a window whose count `n` has passed HOTTHR the home makes a live cold slot hot with MAXREP replicas; where
that fails the key stays cold, and the attempt is made again in the next window. -/
def execHotPromotion (p : PartId) (h : Word) (slot n : Nat) (s : State) : Host.Outcome State Fault Refusal :=
  event (fun s =>
    let w := s.hwWho p
    let mine (x : HotCount) : Bool := x.part == p && x.head == h && x.slot == slot
    let put (f : HotCount → HotCount) (s : State) : State :=
      { s with sys := { s.sys with hots := s.sys.hots.map (fun x => if mine x then f x else x) } }
    if isLocal h || !s.sys.hots.any (fun x => mine x && x.due && x.count == n && decide (x.tried ≤ s.hotWindow)) then none
    else
      let again := put (fun x => { x with tried := s.hotWindow + 1 }) s
      match s.kTable w h with
      | .error _ => some again
      | .ok (s', t) =>
        if t.hotthr = 0 ∨ t.maxrep < 2 ∨ t.slots ≤ slot then some (put (fun x => { x with due := false }) s)
        else match s'.kWord w false (t.metaAt slot) accRmw with
          | .error _ => some again
          | .ok (s', m) =>
            if metaState m ≠ 1 || metaHot m then some (put (fun x => { x with due := false }) s)
            else match s'.promote w t slot t.maxrep with
              | .ok (some s') => some (put (fun x => { x with due := false }) s')
              | _ => some again) s

end Sys2Proof.Machine
end

