-- ==== Sys2Proof/Machine/Join.lean ====
section
/-! DEFINITION. Relations, join-tree types, handles and the instructions on them (R263 to R271, R290 to R298). -/

namespace Sys2Proof.Machine

/-! ### Relations (R263) -/

/-- Bytes of a feature element. -/
def featBytes (f : Nat) : Nat := if f = 0 then 4 else if f ≤ 2 then 2 else 1
/-- A relation image header's contents; none where they break R263. -/
def relOf (r : BitVec 512) : Option Rel :=
  let h (off : Nat) : Nat := (r.extractLsb' (8 * off) 16).toNat
  let stride := sword r 4
  let kc := (r.extractLsb' 112 2).toNat
  let offs := [h 8, h 10, h 12]
  let feat := h 16
  let cnt := h 18
  let ft := (r.extractLsb' 160 4).toNat
  let label := h 24
  let sz := featBytes ft
  if stride % 8 ≠ 0 ∨ stride < 8 ∨ 65528 < stride ∨ kc = 0 ∨ 4 < ft ∨ cnt = 0 ∨ 128 < cnt ∨ (dword r 32).toNat % 8 ≠ 0 ∨
      r.extractLsb' 115 13 ≠ 0 ∨ r.extractLsb' 164 28 ≠ 0 ∨ r.extractLsb' 208 48 ≠ 0 ∨ r.extractLsb' 320 192 ≠ 0 ∨
      (offs.take kc).any (fun o => o % 8 != 0 || decide (stride < o + 8)) ∨ (offs.drop kc).any (· != 0) ∨
      feat % sz ≠ 0 ∨ stride < feat + cnt * sz ∨ (label ≠ 0 ∧ (label % 4 ≠ 0 ∨ stride < label + 4)) then none
  else some ⟨dword r 32, sword r 0, stride, offs.take kc, cnt, 0⟩
/-- Reads and checks a relation header. -/
def State.relAt (s : State) (w : Who) (a : Word) : Except Stop (State × Rel) :=
  if a.toNat % 64 ≠ 0 then .error (.trap 0x101 a)
  else match s.kRecord w false a with
    | .error e => .error e
    | .ok (s, r) => match relOf r with | some x => .ok (s, { x with head := a }) | none => .error (.trap 0x101 a)
/-- Address of a row. -/
def Rel.row (r : Rel) (i : Nat) : Word := r.addr + BitVec.ofNat 64 (i * r.stride)
/-- A key of a row; a poisoned one traps with its line's address (R412). -/
def State.rowKey (s : State) (w : Who) (r : Rel) (i col : Nat) : Except Stop (State × Word) :=
  s.kWord w false (r.row i + BitVec.ofNat 64 (r.keys.getD col 0)) accRead

/-! ### Types and bindings (R266, R267, R270, R290) -/

/-- A node record; none where a zero field or a reserved value is not as it should be. -/
def jnodeOf (n : Nat) (r : BitVec 256) : Option JNode :=
  let f (lo w : Nat) : Nat := (r.extractLsb' lo w).toNat
  let ok (x : Nat) : Bool := decide (x < n) || x == 31
  if f 2 6 ≠ 0 ∨ f 13 3 ≠ 0 ∨ f 21 3 ≠ 0 ∨ f 29 3 ≠ 0 ∨ f 34 6 ≠ 0 ∨ f 42 6 ≠ 0 ∨ f 64 192 ≠ 0 ∨ f 0 2 = 3 ∨
      !ok (f 8 5) ∨ !ok (f 16 5) ∨ !ok (f 24 5) then none
  else some ⟨f 0 2, f 8 5, f 16 5, f 24 5, f 32 2, f 40 2, f 48 16, 0, 0, 0, 0, ⟨0, 0, 8, [], 0, 0⟩, none, none⟩
/-- A node. -/
def nodeOf (ns : List JNode) (v : Nat) : JNode := ns.getD v ⟨0, 31, 31, 31, 0, 0, 0, 0, 0, 0, 0, ⟨0, 0, 8, [], 0, 0⟩, none, none⟩
/-- A sibling list from a node on (R295). -/
def sibs (ns : List JNode) : Nat → Nat → List Nat
  | 0, _ => []
  | k + 1, v => if v = 31 then [] else v :: sibs ns k (nodeOf ns v).next
/-- The children of a node in list order. -/
def kids (ns : List JNode) (v : Nat) : List Nat := sibs ns 17 (nodeOf ns v).first
/-- Nodes reached from some, with those that their lists name; none where a node is reached twice or names another parent. -/
def reachTree (ns : List JNode) : Nat → List Nat → List Nat → Option (List Nat)
  | 0, _, _ => none
  | _ + 1, [], seen => some seen
  | k + 1, v :: vs, seen =>
    let cs := kids ns v
    if cs.any (fun c => seen.contains c || (nodeOf ns c).parent != v) || cs.eraseDups.length != cs.length then none
    else reachTree ns k (vs ++ cs) (seen ++ cs)
/-- Whether a type is well formed (R267). -/
def typeOk (ns : List JNode) (root : Nat) : Bool :=
  decide (root < ns.length) &&
  ns.zipIdx.all (fun x => if x.2 == root then x.1.kind == 0 && x.1.parent == 31 && x.1.next == 31
    else x.1.kind != 0 && decide (x.1.parent < ns.length)) &&
  (match reachTree ns 18 [root] [root] with | some seen => seen.length == ns.length | none => false)
/-- Reads node records. -/
def State.readNodes (s : State) (w : Who) (type : Word) (n : Nat) : Nat → Nat → Except Stop (State × List JNode)
  | 0, _ => .ok (s, [])
  | k + 1, v =>
    match s.kClean w false (type + BitVec.ofNat 64 (64 + 32 * v)) 32 accRead with
    | .error e => .error e
    | .ok (s, bs) => match jnodeOf n (BitVec.ofNat 256 (leNat bs)) with
      | none => .error (.trap 0x102 type)
      | some x => match s.readNodes w type n k (v + 1) with
        | .error e => .error e
        | .ok (s, xs) => .ok (s, x :: xs)
/-- A table that a binding names; 0 names none. -/
def State.tableAt (s : State) (w : Who) (a : Word) : Except Stop (State × Option KTab) :=
  if a = 0 then .ok (s, none) else (s.kTable w a).map (fun x => (x.1, some x.2))
/-- Reads the binding's entries with their relations and tables (R290 step 4). -/
def State.readBinding (s : State) (w : Who) (binding : Word) (root : Nat) : List JNode → Nat → Except Stop (State × List JNode)
  | [], _ => .ok (s, [])
  | x :: xs, v => do
    let (s, bs) ← s.kClean w false (binding + BitVec.ofNat 64 (32 * v)) 32 accRead
    let (s, r) ← s.relAt w (recWord bs 0)
    if v = root ∧ (recWord bs 8 ≠ 0 ∨ recWord bs 16 ≠ 0) then .error (.trap 0x103 binding)
    let (s, p) ← s.tableAt w (recWord bs 8)
    let (s, d) ← s.tableAt w (recWord bs 16)
    let x' : JNode := { x with image := recWord bs 0, ptab := recWord bs 8, dtab := recWord bs 16, weight := recWord bs 24, rel := r, p := p, d := d }
    match s.readBinding w binding root xs (v + 1) with
    | .error e => .error e
    | .ok (s, ys) => .ok (s, x' :: ys)
/-- Tables of a binding. -/
def tablesOf (ns : List JNode) : List KTab := ns.flatMap (fun x => x.p.toList ++ x.d.toList)
/-- The binding's cross-checks (R290 step 5). -/
def crossOk (ns : List JNode) (root : Nat) : Bool :=
  let ts := tablesOf ns
  ns.zipIdx.all (fun x =>
    (x.2 == root || decide (x.1.pkey < (nodeOf ns x.1.parent).rel.keys.length)) && decide (x.1.own < x.1.rel.keys.length) &&
    x.1.feats == x.1.rel.feats) &&
  ts.all (fun t => !t.int && some t.psize == ts.head?.map (·.psize))
/-- Reads and checks a type and its binding (R290). -/
def State.bindHandle (s : State) (w : Who) (type binding : Word) : Except Stop (State × Handle) := do
  if type.toNat % 64 ≠ 0 then .error (.trap 0x102 type)
  if binding.toNat % 32 ≠ 0 then .error (.trap 0x103 binding)
  let (s, r) ← s.kRecord w false type
  let n := (r.extractLsb' 0 8).toNat
  let root := (r.extractLsb' 8 8).toNat
  if r.extractLsb' 16 496 ≠ 0 ∨ n = 0 ∨ 16 < n ∨ n ≤ root then .error (.trap 0x102 type)
  let (s, ns) ← s.readNodes w type n n 0
  if !typeOk ns root then .error (.trap 0x102 type)
  let (s, ns) ← s.readBinding w binding root ns 0
  if !crossOk ns root then .error (.trap 0x103 binding)
  .ok (s, ⟨type, binding, root, ns⟩)
/-- A handle of the core that moves; an unbound one traps (R290), one that a restore has still to bind waits. -/
def State.handle (s : State) (n : BitVec 2) : Except Stop Handle :=
  if s.c.key.binds.any (·.n == n) then .error (.wait .key)
  else match s.c.key.handles[n.toNat]'n.isLt with
  | some h => .ok h
  | none => .error (.trap 0x107 (n.setWidth 64))
/-- Writes a handle of a core. -/
def Core.setHandle (c : Core) (n : BitVec 2) (h : Option Handle) : Core :=
  { c with key := { c.key with handles := c.key.handles.set n.toNat h n.isLt, binds := c.key.binds.filter (·.n != n) } }
/-- JBIND (R290). -/
def jbind (b a : GReg) (n : BitVec 2) (s : State) : Except Stop State := do
  let t ← s.d.take 0 [a, b] [] 2
  let (s, h) ← s.bindHandle (s.who s.d) (t.x 0) (t.x 1)
  .ok (s.setCD (s.c.setHandle n (some h)) t.d)
/-- JBIND (R290). -/
def execJbind (b a : GReg) (n : BitVec 2) (s : State) := finish (heldBack (jbind b a n)) s

/-- H of a handle (R270); a binding without any table has none that the manual states. -/
def Handle.h (x : Handle) : Nat := match tablesOf x.nodes with | t :: _ => t.len | [] => Config.hNone
/-- A field of a handle (R291). -/
def Handle.field (x : Handle) (f v : Nat) : Word :=
  let n := nodeOf x.nodes v
  let nat (k : Nat) : Word := BitVec.ofNat 64 k
  match f with
  | 0 => nat n.kind | 1 => nat n.parent | 2 => nat n.first | 3 => nat n.next | 4 => nat n.pkey | 5 => nat n.own | 6 => nat n.feats
  | 7 => n.image | 8 => n.ptab | 9 => n.dtab | 10 => n.weight
  | 11 => nat n.rel.rows | 12 => nat x.h | 13 => nat x.root | _ => nat x.nodes.length
/-- JNODE (R291). -/
def jnode (b : GReg) (n : BitVec 2) (d : GReg) (s : State) : Except Stop State := do
  let t ← s.d.take 0 [b] [d] 1
  let sel := t.x 0
  let h ← s.handle n
  let f := (sel.extractLsb' 8 4).toNat
  let v := (sel.extractLsb' 0 4).toNat
  if sel.extractLsb' 12 52 ≠ 0 ∨ sel.extractLsb' 4 4 ≠ 0 ∨ 14 < f ∨ h.nodes.length ≤ v then .error (.trap 0x109 sel)
  .ok (s.setD (t.d.pushG d (h.field f v) false))
/-- JNODE (R291). -/
def execJnode (b : GReg) (n : BitVec 2) (d : GReg) (s : State) := finish (heldBack (jnode b n d)) s

/-! ### Sorted keys (R292 to R294) -/

/-- A binary search (R292): the first row from lo to hi whose key is not below a bound. -/
def State.bound (s : State) (w : Who) (r : Rel) (below : Word → Bool) : Nat → Nat → Nat → Except Stop (State × Nat)
  | 0, lo, _ => .ok (s, lo)
  | k + 1, lo, hi =>
    if hi ≤ lo then .ok (s, lo)
    else
      let m := (lo + hi) / 2
      match s.rowKey w r m 0 with
      | .error e => .error e
      | .ok (s, x) => if below x then s.bound w r below k (m + 1) hi else s.bound w r below k lo m
/-- KRANGE (R292). -/
def krange (b a d : GReg) (s : State) : Except Stop State := do
  s.d.pairOk d 2
  let t ← s.d.take 0 [a, b] [d, d + 1] 2
  let w := s.who s.d
  let k := t.x 1
  let (s, r) ← s.relAt w (t.x 0)
  let (s, lo) ← s.bound w r (fun x => x.ult k) 33 0 r.rows
  let (s, hi) ← s.bound w r (fun x => x.ule k) 33 lo r.rows
  .ok (s.setD ((t.d.setG d (BitVec.ofNat 64 lo) false).setG (d + 1) (BitVec.ofNat 64 (hi - lo)) false))
/-- KRANGE (R292). -/
def execKrange (b a d : GReg) (s : State) := finish (heldBack (krange b a d)) s

/-- A command joins those that the key unit holds (R298), with the translations and the places that it reserved; one that binds false at
once has nothing to do. -/
def State.kHold (s : State) (w : Who) (outs : List Part) (k : Guard) (op : KOp) : State :=
  match bindOf s.d k with
  | .no => s
  | b =>
    let x : KCmd := { op := op, bind := b, desk := s.desk, maker := s.d.maker (.core s.core), seq := s.c.key.next, held := w.held, outs := outs }
    (s.setC { s.c with key := { s.c.key with held := s.c.key.held ++ [x] } }).kTick
/-- KRUNS (R293, R298). -/
def kruns (k : Guard) (b a d : GReg) (s : State) : Except Stop State := do
  s.d.pairOk d 2
  let t ← s.d.take 0 [a, b, d, d + 1] [] 4
  let w := s.who s.d
  let out := t.x 1
  let first := (t.x 2).toNat
  let cw := t.x 3
  let cnt := (cw.extractLsb' 0 32).toNat
  let col := (cw.extractLsb' 32 2).toNat
  let (s, r) ← s.relAt w (t.x 0)
  if cw.extractLsb' 34 30 ≠ 0 then .error (.trap 0x109 cw)
  if r.keys.length ≤ col then .error (.trap 0x109 (BitVec.ofNat 64 col))
  if r.rows < first + cnt then .error (.trap 0x109 (t.x 2))
  if out.toNat % 16 ≠ 0 then .error (.trap 0x109 out)
  let (s, w, _) ← s.kGrip w (r.row first) (cnt * r.stride) accRead
  let (s, w, ps) ← s.kGrip w out (16 + 16 * cnt) accWrite
  .ok ((s.kHold w ps k (.runs r first cnt col out)).setD t.d)
/-- KRUNS (R293). -/
def execKruns (k : Guard) (b a d : GReg) (s : State) := finish (heldBack (kruns k b a d)) s
/-- Runs of equal keys (R293), newest first while they grow. -/
def State.runsOf (s : State) (w : Who) (r : Rel) (col : Nat) : Nat → Nat → List (Word × Nat) → Except Stop (State × List (Word × Nat))
  | 0, _, acc => .ok (s, acc.reverse)
  | n + 1, i, acc =>
    match s.rowKey w r i col with
    | .error e => .error e
    | .ok (s, x) => s.runsOf w r col n (i + 1) (match acc with
      | (y, c) :: t => if y = x then (y, c + 1) :: t else (x, 1) :: acc
      | [] => [(x, 1)])

/-- Reads the relations of a KISECT. -/
def State.relsAt (s : State) (w : Who) : List Word → Except Stop (State × List Rel)
  | [] => .ok (s, [])
  | a :: as => match s.relAt w a with
    | .error e => .error e
    | .ok (s, r) => match s.relsAt w as with | .error e => .error e | .ok (s, rs) => .ok (s, r :: rs)
/-- Reserves the rows of the inputs of a KISECT (R298). -/
def State.gripRels (s : State) (w : Who) : List Rel → Except Stop (State × Who)
  | [] => .ok (s, w)
  | r :: rs => match s.kGrip w (r.row 0) (r.rows * r.stride) accRead with
    | .error e => .error e
    | .ok (s, w, _) => s.gripRels w rs
/-- KISECT (R294, R298). -/
def kisect (k : Guard) (a : GReg) (s : State) : Except Stop State := do
  let t ← s.d.take 0 [a] [] 1
  let w := s.who s.d
  let da := t.x 0
  if da.toNat % 64 ≠ 0 then .error (.trap 0x109 da)
  let (s, r) ← s.kRecord w false da
  let n := (r.extractLsb' 0 8).toNat
  let ins := [dword r 16, dword r 24, dword r 32, dword r 40]
  let out := dword r 48
  let cap := (dword r 56).toNat
  if n < 2 ∨ 4 < n ∨ r.extractLsb' 16 112 ≠ 0 ∨ (ins.drop n).any (· != 0) ∨ out.toNat % 16 ≠ 0 then .error (.trap 0x109 da)
  let (s, rs) ← s.relsAt w (ins.take n)
  let cols := (List.range n).map (fun m => (r.extractLsb' (8 + 2 * m) 2).toNat)
  if (rs.zip cols).any (fun x => decide (x.1.keys.length ≤ x.2)) then .error (.trap 0x109 da)
  let (s, w) ← s.gripRels w rs
  let most := rs.foldl (fun m x => min m x.rows) cap
  let (s, w, ps) ← s.kGrip w out (16 + 32 * most) accWrite
  .ok ((s.kHold w ps k (.isect (rs.zip cols) out cap da)).setD t.d)
/-- KISECT (R294). -/
def execKisect (k : Guard) (a : GReg) (s : State) := finish (heldBack (kisect k a)) s
/-- The key at a place of an input; NK where it is exhausted. -/
def State.inKey (s : State) (w : Who) (x : (Rel × Nat) × Nat) : Except Stop (State × Word) :=
  if x.1.1.rows ≤ x.2 then .ok (s, noKey) else s.rowKey w x.1.1 x.2 x.1.2
/-- Keys of every input. -/
def State.inKeys (s : State) (w : Who) : List ((Rel × Nat) × Nat) → Except Stop (State × List Word)
  | [] => .ok (s, [])
  | x :: xs => match s.inKey w x with
    | .error e => .error e
    | .ok (s, k) => match s.inKeys w xs with | .error e => .error e | .ok (s, ks) => .ok (s, k :: ks)
/-- Goes on while an input is not exhausted and its key satisfies a test. -/
def State.skipWhile (s : State) (w : Who) (p : Word → Bool) (x : Rel × Nat) : Nat → Nat → Except Stop (State × Nat)
  | 0, i => .ok (s, i)
  | n + 1, i => match s.inKey w (x, i) with
    | .error e => .error e
    | .ok (s, k) => if k != noKey && p k then s.skipWhile w p x n (i + 1) else .ok (s, i)
/-- The same for every input. -/
def State.skipAll (s : State) (w : Who) (p : Word → Bool) : List ((Rel × Nat) × Nat) → Except Stop (State × List ((Rel × Nat) × Nat))
  | [] => .ok (s, [])
  | (x, i) :: xs => match s.skipWhile w p x (x.1.rows - i) i with
    | .error e => .error e
    | .ok (s, j) => match s.skipAll w p xs with | .error e => .error e | .ok (s, ys) => .ok (s, (x, j) :: ys)
/-- The greatest of some keys. -/
def maxKey (ks : List Word) : Word := ks.foldl (fun a b => if a.ult b then b else a) 0
/-- The loop of KISECT (R294): entries, newest first, and the overflow mark. -/
def State.isect (s : State) (w : Who) (cap : Nat) : Nat → List ((Rel × Nat) × Nat) → List (Word × List Nat) → Except Stop (State × List (Word × List Nat) × Bool)
  | 0, _, es => .ok (s, es.reverse, false)
  | fuel + 1, xs, es => do
    let (s, ks) ← s.inKeys w xs
    if ks.contains noKey then .ok (s, es.reverse, false)
    else
      let x := maxKey ks
      let (s, xs) ← s.skipAll w (fun k => k.ult x) xs
      let (s, ks) ← s.inKeys w xs
      if ks.contains noKey then .ok (s, es.reverse, false)
      else if ks.all (· == x) then
        if es.length = cap then .ok (s, es.reverse, true)
        else
          let es := (x, xs.map (·.2)) :: es
          let (s, xs) ← s.skipAll w (· == x) xs
          s.isect w cap fuel xs es
      else s.isect w cap fuel xs es
/-- The bytes of an entry. -/
def isectEntry (e : Word × List Nat) : List Byte :=
  let bs := natLe e.1.toNat 8 ++ e.2.flatMap (fun i => natLe i 4)
  bs ++ List.replicate (32 - bs.length) 0

/-! ### JGATHER and JSCATTER (R295 to R297) -/

/-- What the two instructions check after their registers (R295): the handle, the tile's base, and the descriptor's fields. -/
structure JRow where
  /-- handle -/
  h : Handle
  /-- tile base -/
  base : Nat
  /-- NODE -/
  node : Nat
  /-- COUNT -/
  count : Nat
  /-- FIRST -/
  first : Nat
  /-- TARGET -/
  own : Bool
/-- The node's record. -/
def JRow.n (j : JRow) : JNode := nodeOf j.h.nodes j.node
/-- Its relation. -/
def JRow.rel (j : JRow) : Rel := j.n.rel
/-- Tables that a scatter adds to, each with the key column that selects its row: the node's own, or its children's. -/
def scatterTabs (h : Handle) (node : Nat) (own : Bool) : List (Nat × Nat × Option KTab) :=
  let n := nodeOf h.nodes node
  if own then [(node, n.own, n.p)] else (kids h.nodes node).map (fun c => (c, (nodeOf h.nodes c).pkey, (nodeOf h.nodes c).d))
/-- Tables that a gather reads. -/
def gatherTabs (h : Handle) (node : Nat) : List (Nat × Nat × Option KTab) :=
  (kids h.nodes node).map (fun c => (c, (nodeOf h.nodes c).pkey, (nodeOf h.nodes c).p))
/-- The checks of R295. -/
def jrow (scatter : Bool) (n : BitVec 2) (t : Taken) (s : State) : Except Stop JRow := do
  let desc := t.x 0
  let h ← s.handle n
  let k ← tileNo s.d (t.x 1)
  let e := s.c.tile k.toNat
  if e.size ≠ 0 ∧ e.foreign s.self then .error (.wait (.tile k))
  if e.size = 0 ∨ e.st = .empty ∨ e.st = .draining then .error (.trap 0x0C5 (tileXval k.toNat e.st))
  let own := desc.getLsbD 48
  let node := (desc.extractLsb' 40 4).toNat
  let count := (desc.extractLsb' 32 7).toNat
  if desc.extractLsb' 49 15 ≠ 0 ∨ desc.extractLsb' 44 4 ≠ 0 ∨ desc.getLsbD 39 ∨ (own ∧ !scatter) ∨ h.nodes.length ≤ node ∨ count = 0 ∨ 64 < count ∨
      e.size < 4 * h.h * count then .error (.trap 0x109 desc)
  let need := if scatter then scatterTabs h node own else gatherTabs h node
  match need.find? (fun x => x.2.2.isNone) with
  | some x => .error (.trap 0x108 (BitVec.ofNat 64 x.1))
  | none => .ok ⟨h, e.base, node, count, (desc.extractLsb' 0 32).toNat, own⟩

/-- Pieces added element by element in FP32 (R296), with their poison. -/
def addPieces (t : KTab) (xs ys : List (List Byte × Bool)) : List (List Byte × Bool) :=
  List.zipWith (fun x y => (t.sums x.1 y.1, x.2 || y.2)) xs ys
/-- The sum of a row's children (R296); none where the row is dropped. -/
def State.gatherRow (s : State) (w : Who) (r : Rel) (i : Nat) : List (Nat × Nat × Option KTab) → List (List Byte × Bool) →
    Except Stop (State × Option (List (List Byte × Bool)))
  | [], acc => .ok (s, some acc)
  | (_, col, some t) :: ts, acc => do
    let (s, k) ← s.rowKey w r i col
    let (s, slot) ← s.kFind w t k
    match slot with
    | none => .ok (s, none)
    | some j =>
      let (s, ps) ← s.payPieces w t.loc k (t.payAt j) t.psize
      s.gatherRow w r i ts (addPieces t acc ps)
  | (_, _, none) :: ts, acc => s.gatherRow w r i ts acc
/-- Pieces of H elements of one value. -/
def rowOf (h x : Nat) : List (List Byte × Bool) := List.replicate (h / 16) ((List.replicate 16 (natLe x 4)).flatten, false)
/-- Rows of a gather from one on: their pieces and the mask. -/
def State.gatherRows (s : State) (w : Who) (j : JRow) : Nat → Nat → Except Stop (State × List (List (List Byte × Bool)) × Nat)
  | 0, _ => .ok (s, [], 0)
  | k + 1, i => do
    let r := j.first + i
    let (s, own) ← if r < j.rel.rows ∧ j.node ≠ j.h.root then s.rowKey w j.rel r j.n.own else .ok (s, (0 : Word))
    let ts := gatherTabs j.h j.node
    let (s, got) ← if r < j.rel.rows ∧ own ≠ noKey then
        s.gatherRow w j.rel r ts (rowOf j.h.h (if ts.isEmpty then 0 else 2 ^ 31))
      else .ok (s, none)
    let (s, rows, m) ← s.gatherRows w j k (i + 1)
    match got with
    -- a poisoned payload poisons its tile row (R296)
    | some ps => .ok (s, ps.map (fun x => (x.1, ps.any (·.2))) :: rows, m + 2 ^ i)
    | none => .ok (s, rowOf j.h.h 0 :: rows, m)
/-- Some tables in a scratchpad are reached in the order of issue. -/
def State.padOrders (s : State) : List KTab → Except Stop Unit
  | [] => .ok ()
  | t :: ts => match s.padOrder t with | .error e => .error e | .ok _ => s.padOrders ts
/-- The desk's additions to some tables have been performed, and those that come before it in a scratchpad. -/
def State.settledAll (s : State) : List KTab → Except Stop Unit
  | [] => .ok ()
  | t :: ts => match s.kSettled t, s.padOrder t with
    | .error e, _ => .error e
    | _, .error e => .error e
    | .ok _, .ok _ => s.settledAll ts
/-- JGATHER (R296). -/
def jgather (b a : GReg) (n : BitVec 2) (p : PReg) (s : State) : Except Stop State := do
  if p = 0#3 then .error (.trap 0x001 s.d.xword)
  let t ← s.d.take 0 [a, b] [] 2
  let j ← jrow false n t s
  s.settledAll ((gatherTabs j.h j.node).filterMap (fun y => y.2.2))
  s.mayWrite j.base (4 * j.h.h * j.count)
  let (s, rows, m) ← s.gatherRows (s.who s.d) j j.count 0
  .ok (s.setCD (s.c.padCopy j.base rows.flatten) (t.d.setP p (BitVec.ofNat 64 m)))
/-- JGATHER (R296). -/
def execJgather (b a : GReg) (n : BitVec 2) (p : PReg) (s : State) := finish (heldBack (jgather b a n p)) s

/-- The payloads that a row of a gather reads, in tables of global memory (R280). -/
def State.rowReads (s : State) (w : Who) (r : Rel) (i : Nat) : List (Nat × Nat × Option KTab) → Except Stop (List (Word × Word × Nat))
  | [] => .ok []
  | (_, _, none) :: ts => s.rowReads w r i ts
  | (_, col, some t) :: ts => do
    let (_, k) ← s.rowKey w r i col
    let (_, slot) ← s.kFind w t k
    let rest ← s.rowReads w r i ts
    .ok (match slot with | some j => if t.loc then rest else (k, t.payAt j, t.len) :: rest | none => rest)
/-- The payloads that a JGATHER reads. -/
def jgatherReads (b a : GReg) (n : BitVec 2) (s : State) : Except Stop (List (Word × Word × Nat)) := do
  let t ← s.d.take 0 [a, b] [] 2
  let j ← jrow false n t s
  let ts := gatherTabs j.h j.node
  s.settledAll (ts.filterMap (fun y => y.2.2))
  ((List.range (min j.count (j.rel.rows - j.first))).map (fun i => s.rowReads (s.who s.d) j.rel (j.first + i) ts)).foldr
    (fun x acc => match x, acc with | .ok x, .ok acc => .ok (x ++ acc) | .error e, _ => .error e | _, .error e => .error e) (.ok [])
/-- The instruction at the pc, a KGET or JGATHER on global tables that would complete, has issued and reads some elements before the others, each at a moment
of its own (R280): KGET as an off-core reference, JGATHER with its desk stalled (R284). -/
def State.glimpse (s : State) (w : BitVec 32) : State :=
  let m := (fM w).toNat / 2
  let n := fD w
  let rd := if m = 0x34 then kgetReads (fG w) (fB w) (fA w) (fD w) s else jgatherReads (fB w) (fA w) (n.extractLsb' 3 2) s
  let done := if m = 0x34 then (match kget (fG w) (fB w) (fA w) (fD w) s with | .ok (_, _, none) => true | _ => false)
    else (match jgather (fB w) (fA w) (n.extractLsb' 3 2) (n.extractLsb' 0 3) s with | .ok _ => true | _ => false)
  if fF w != 5#6 || (m != 0x34 && m != 0x35) || !done then s
  else match rd with
    | .error _ => s
    | .ok ps =>
      match s.readAhead (s.who s.d) (ps.flatMap (fun p => (List.range p.2.2).map (fun j => (p.1, p.2.1 + BitVec.ofNat 64 (4 * j))))) 0 with
      | .error _ | .ok [] => s
      | .ok es =>
        let t := s.setD { s.d with seen := s.d.seen ++ es }
        if m = 0x34 then t.stopWith (.wait .reference) else t.hold .key

/-- A contribution of a scatter: table, key, elements. -/
structure Contrib where
  /-- table -/
  tab : KTab
  /-- key -/
  key : Word
  /-- elements -/
  els : List (Nat × BitVec 32 × Bool)
/-- Contributions of one row (R297): NK is passed over. -/
def State.rowContribs (s : State) (w : Who) (r : Rel) (i : Nat) (els : List (Nat × BitVec 32 × Bool)) : List (Nat × Nat × Option KTab) →
    Except Stop (State × List Contrib)
  | [] => .ok (s, [])
  | (_, _, none) :: ts => s.rowContribs w r i els ts
  | (_, col, some t) :: ts => match s.rowKey w r i col with
    | .error e => .error e
    | .ok (s, k) => match s.rowContribs w r i els ts with
      | .error e => .error e
      | .ok (s, cs) => .ok (s, if k = noKey then cs else ⟨t, k, els⟩ :: cs)
/-- Contributions of the rows that a mask selects. -/
def State.contribs (s : State) (w : Who) (h : Handle) (node : Nat) (own : Bool) (first : Nat) (mask : Word) (base : Nat) : Nat → Nat →
    Except Stop (State × List Contrib)
  | 0, _ => .ok (s, [])
  | k + 1, i => do
    let r := (nodeOf h.nodes node).rel
    if mask.getLsbD i && decide (first + i < r.rows) then
      let off := base + 4 * h.h * i
      s.mayRead off (4 * h.h)
      let (s, cs) ← s.rowContribs w r (first + i) (elemsOf (s.c.padPieces off (h.h / 16)) 0) (scatterTabs h node own)
      let (s, rest) ← s.contribs w h node own first mask base k (i + 1)
      .ok (s, cs ++ rest)
    else s.contribs w h node own first mask base k (i + 1)
/-- Claims the slots of contributions (R297 phase 1): what stopped it, if anything; the keys inserted before stay. -/
def State.claims (s : State) (w : Who) : List Contrib → State × Who × List (Claim × Contrib) × Option Stop
  | [] => (s, w, [], none)
  | x :: xs =>
    match s.claim w x.tab x.key with
    | .error e => (s, w, [], some e)
    | .ok (s, w, none) => (s, w, [], some (.trap 0x100 x.key))
    | .ok (s, w, some c) => let (s, w, ys, e) := s.claims w xs; (s, w, (c, x) :: ys, e)
/-- A scatter (R297): contributions, phase 1, and the additions given to the slots' homes, which hold what phase 1 translated. -/
def State.scatter (s : State) (w : Who) (m : Maker) (h : Handle) (node : Nat) (own : Bool) (first rows : Nat) (mask : Word) (base : Nat) :
    Except Stop (State × Option Stop) :=
  match s.contribs w h node own first mask base rows 0 with
  | .error e => .error e
  | .ok (s, cs) =>
    match s.claims w cs with
    | (s, _, _, some e) => .ok (s, some e)
    | (s, w, ys, none) => .ok (ys.foldl (fun s y => s.addTo w m y.1 y.2.els true) s, none)
/-- The rows of a scatter, translated (R297, R298). -/
def State.gripRows (s : State) (w : Who) (j : JRow) : Except Stop (State × Who) :=
  let n := min j.count (j.rel.rows - j.first)
  (s.kGrip w (j.rel.row j.first) (n * j.rel.stride) accRead).map (fun x => (x.1, x.2.1))
/-- Every page of a global table, translated for a command whose keys are read later (R298). -/
def State.gripTable (s : State) (w : Who) (t : KTab) : Except Stop (State × Who × List Part) :=
  if t.loc then .ok (s, w, [])
  else do
    let grip (s : State) (w : Who) (a : Word) (n : Nat) : Except Stop (State × Who × List Part) := do
      let (s, ts) ← s.grip w a a accRmw (n / 4096 + 2) n
      let w := { w with held := ts ++ w.held }
      let (s, ps) ← s.span w a a accRmw (n / 4096 + 2) n
      .ok (s, w, ps)
    let (s, w, p0) ← grip s w t.head 64
    let (s, w, p1) ← grip s w t.keys (8 * t.slots)
    let (s, w, p2) ← grip s w t.metas (8 * t.slots)
    let (s, w, p3) ← grip s w t.payload (t.pbytes * t.slots)
    let (s, w, p4) ← if t.maxrep = 0 then .ok (s, w, []) else grip s w t.rep (64 + 256 * t.gbytes)
    .ok (s, w, p0 ++ p1 ++ p2 ++ p3 ++ p4)
/-- Every page of some tables. -/
def State.gripTables (s : State) (w : Who) : List KTab → Except Stop (State × Who × List Part)
  | [] => .ok (s, w, [])
  | t :: ts => match s.gripTable w t with
    | .error e => .error e
    | .ok (s, w, ps) => (s.gripTables w ts).map (fun x => (x.1, x.2.1, ps ++ x.2.2))
/-- JSCATTER (R297, R298). -/
def jscatter (k : Guard) (b a : GReg) (n : BitVec 2) (p : PReg) (s : State) : Except Stop (State × Bool × Option Stop) := do
  let t ← s.d.take 0 [a, b] [] 2
  let j ← jrow true n t s
  let w := s.who s.d
  let mask := s.d.getP p
  let (s, w) ← s.gripRows w j
  if k = 0#4 then
    if s.c.key.held.any (fun x => x.desk == s.desk && x.live) then .error (.wait .key)
    s.padOrders ((scatterTabs j.h j.node j.own).filterMap (fun y => y.2.2))
    match ← s.scatter w (s.d.maker (.core s.core)) j.h j.node j.own j.first j.count mask j.base with
    | (s, some e) => .ok (s, false, some e)
    | (s, none) => .ok (s.kTick.setD t.d, false, none)
  else
    let (s, w, ps) ← s.gripTables w ((scatterTabs j.h j.node j.own).filterMap (fun y => y.2.2))
    .ok ((s.kHold w ps k (.scatter j.h j.node j.own j.first j.count mask j.base n)).setD t.d, false, none)
/-- JSCATTER (R297, R298). -/
def execJscatter (k : Guard) (b a : GReg) (n : BitVec 2) (p : PReg) (s : State) := finishKey (jscatter k b a n p) s

/-! ### Held commands and the key unit's events (R283, R297, R298) -/

/-- A held command reads its inputs and does its work; what stopped it, if anything. -/
def State.runOp (s : State) (x : KCmd) : Except Stop (State × Option Stop) :=
  let w : Who := { s.whoOf x.maker x.held with keys := some x.seq }
  match x.op with
  | .runs r first cnt col out => do
    let (s, rs) ← s.runsOf w r col cnt first []
    let bs := natLe rs.length 8 ++ natLe 0 8 ++ rs.flatMap (fun y => natLe y.1.toNat 8 ++ natLe y.2 8)
    let s ← s.kWrite w false out bs false accWrite
    .ok (s, none)
  | .isect ins out cap _ => do
    let fuel := (ins.map (fun y => y.1.rows)).foldl (· + ·) 2
    let (s, es, ovf) ← s.isect w cap fuel (ins.map (fun y => (y, 0))) []
    let bs := natLe es.length 8 ++ natLe (if ovf then 1 else 0) 8 ++ es.flatMap isectEntry
    let s ← s.kWrite w false out bs false accWrite
    .ok (s, none)
  | .scatter h node own first rows mask base _ => s.scatter w x.maker h node own first rows mask base
/-- The command at the head of a core's key queue is run once its slot is resolved, or discarded where it binds false; one whose slot is
pending holds those behind it (R40, R107, R298). -/
def State.runHeld (s : State) (c : CoreId) : Option State :=
  let k := s.coreAt c
  match k.key.held with
  | [] => none
  | x :: xs =>
    let s := { (s.setCoreAt c { k with key := { k.key with held := xs } }) with core := c, desk := x.desk }
    match x.bind with
    | .slot _ => none
    | .no => some s
    | .yes => match s.runOp x with
      | .error (.wait _) => none
      | .error e => some (s.reportOn c x.desk e)
      | .ok (_, some (.wait _)) => none
      | .ok (s, some e) => some (s.reportOn c x.desk e)
      | .ok (s, none) => some s

/-- KEY_ACCUMULATE (R274, R283): the key unit of a core runs a command whose slot is resolved, or an addition of a KACC lands, its COUNT
with the first element's place. -/
def execKeyAccumulate (c : CoreId) (s : State) : Host.Outcome State Fault Refusal :=
  event (fun s => s.runHeld c <|> s.stepAdd c false) s
/-- JSCATTER_PHASE2 (R297): an addition of a JSCATTER lands. -/
def execJscatterPhase2 (c : CoreId) (s : State) : Host.Outcome State Fault Refusal := event (fun s => s.stepAdd c true) s

end Sys2Proof.Machine
end

