-- ==== Sys2Proof/Machine/Engines.lean ====
section
/-! DEFINITION. Job cards, engines and collectives (R304 to R321, R401, R402). -/

namespace Sys2Proof.Machine

/-! ### Cards -/

/-- An engine's number among the queues. -/
def engNo : EngineId → Nat
  | .copy cl k => cl.toNat * 2 + k.toNat
  | .coll die => 128 + die.toNat
  | .gateway => 132
/-- Its queue's depth (R304). -/
def engDepth : EngineId → Nat
  | .gateway => 128
  | _ => 64
/-- The engine of a submission (R304). -/
def engineOf (kind : Nat) (addr : Word) (c : CoreId) : EngineId :=
  if kind ≤ 3 then .copy (c.extractLsb' 4 6) (addr.extractLsb' 6 1)
  else if kind = 4 then .coll (c.extractLsb' 8 2)
  else .gateway
/-- The engine that takes a submission: a retired copy engine's cards go to the cluster's other one (R374). -/
def State.engineFor (s : State) (kind : Nat) (addr : Word) (c : CoreId) : EngineId :=
  match engineOf kind addr c with
  | .copy cl k =>
    if s.sys.retired.contains (.engine (.copy cl k)) && !s.sys.retired.contains (.engine (.copy cl (~~~k))) then .copy cl (~~~k) else .copy cl k
  | e => e
/-- Cards of an engine's queue. -/
def State.queueOf (s : State) (e : Nat) : List Card := tget s.sys.cards e []
/-- Changes an engine's queue. -/
def State.setQueue (s : State) (e : Nat) (l : List Card) : State := { s with sys := { s.sys with cards := tset s.sys.cards e l } }
/-- Changes a card by its place in the order of submission; none removes it. -/
def State.updCard (s : State) (seq : Nat) (f : Card → Option Card) : State :=
  { s with sys := { s.sys with cards := s.sys.cards.map (fun q => (q.1, q.2.filterMap (fun c => if c.seq = seq then f c else some c))) } }
/-- Every card that has not completed. -/
def State.allCards (s : State) : List Card := s.sys.cards.flatMap (·.2)

/-! ### Operands (R307) -/

/-- The tuple itself (R21). -/
def tupleOfCard (x : Word) : Word := (x.setWidth 40).setWidth 64
/-- A run of bytes at a card operand: none where R307 or R21 rejects it; otherwise its region, or none for one on another device. -/
def State.place (s : State) (here : Bool) (x : Word) (n : Nat) : Option (Option Region) :=
  if cardTuple x then
    let t := tupleOfCard x
    match s.tupleOk s.d t n accRead with
    | .error _ => none
    | .ok _ =>
      if tupleDevice t == s.device then some (some ⟨some (tupleCore t), tupleOff t, n⟩)
      else if here then none else some none
  else if x.extractLsb' 57 7 = 0 then some (some ⟨none, x.toNat, n⟩) else none
/-- Two regions of one space share a byte. -/
def Region.meets (x y : Region) : Bool :=
  x.core == y.core && decide (0 < x.len) && decide (0 < y.len) && decide (x.base < y.base + y.len) && decide (y.base < x.base + x.len)

/-! ### Groups (R315, R332) -/

/-- The members of a group in rank order: a core of this device, or none for one elsewhere.  Those of a stage are its cores as the last bell
ranked them (R332). -/
def State.members (s : State) (l : Nat) (g : Group) : List (Option CoreId) :=
  match g.members with
  | some ts => ts.map (fun t => if tupleDevice t == s.device then some (tupleCore t) else none)
  | none =>
    let st := ((s.launchAt l).stages.getD g.stage {})
    List.replicate st.far.1 none ++ st.order.map some ++ List.replicate st.far.2 none
/-- A group of a launch. -/
def State.groupOf (s : State) (l : Nat) (id : BitVec 16) : Option Group := (s.launchAt l).groups.find? (·.id == id)
/-- The group of the desk's launch, with its members. -/
def State.myGroup (s : State) (id : BitVec 16) : Option (Group × List (Option CoreId)) :=
  match s.d.launch with
  | none => none
  | some l => (s.groupOf l id).map (fun g => (g, s.members l g))

/-! ### Checks (R306 to R309, R316, R317, R320) -/

/-- The limits of a kind beside its operands. -/
def cardLimits (kind : Nat) (r : BitVec 512) (g : Nat) : Bool :=
  let sl := cSlen r
  let dl := cDlen r
  let a0 := cAux0 r
  let a1 := cAux1 r
  match kind with
  | 1 =>
    let rows := (a0.extractLsb' 0 32).toNat
    decide (1 ≤ sl ∧ sl ≤ 2 ^ 32) && dl == sl && rows != 0 &&
      (rows == 1 || (decide (sl ≤ (a0.extractLsb' 32 32).toNat) && decide (sl ≤ a1.toNat)))
  | 2 =>
    let f := (a0.extractLsb' 0 4).toNat
    let (blk, out) := cpyqBlock f
    [1, 2, 3, 4, 7, 8].contains f && a0.extractLsb' 5 59 == 0 && a1.extractLsb' 2 4 == 0 &&
      sl % (4 * hadN (a1.extractLsb' 0 2).toNat) == 0 && sl % (4 * blk) == 0 && dl == sl / 4 / blk * out
  | 3 =>
    let b := (a1.extractLsb' 32 32).toNat
    b % 8 == 0 && dl == (a1.extractLsb' 0 32).toNat * b
  | 4 =>
    let comb := cComb r
    let coll := cColl r
    (if comb = 3 then decide (1 ≤ a0.toNat ∧ a0.toNat ≤ 4096) && sl % (16 + 4 * a0.toNat) == 0
     else sl % 4 == 0 && (cSrc r).toNat % 4 == 0 && (cDst r).toNat % 4 == 0) &&
    (decide (coll < 2) || comb == 0) && (!cCompress r || (comb == 0 && sl % 256 == 0)) &&
    (g == 0 || (match coll with
      | 0 => dl == sl
      | 1 => sl % (64 * g) == 0 && dl == sl / g
      | 2 => dl == g * sl
      | _ => dl == sl && decide (a0.toNat < g)))
  | _ => dl == sl && sl % 64 == 0 && decide (64 ≤ sl ∧ sl ≤ 0x80000) && (cSrc r).toNat % 64 == 0 && (cDst r).toNat % 64 == 0
/-- The header fields of a card (R306). -/
def cardHead (kind : Nat) (r : BitVec 512) : Bool :=
  r.extractLsb' 0 8 == BitVec.ofNat 8 kind && r.extractLsb' 11 5 == 0 && !(cExact r && cCompress r) &&
  (kind == 4 || (r.extractLsb' 8 3 == 0 && r.extractLsb' 16 32 == 0)) && decide (cColl r ≤ 3) && decide (cComb r ≤ 3)
/-- The regions of a card (R309): what it reads, and what it writes. -/
def State.cardRegions (s : State) (kind : Nat) (r : BitVec 512) : Option (List Region × Option Region) := do
  let a0 := cAux0 r
  let rows := (a0.extractLsb' 0 32).toNat
  match kind with
  | 1 =>
    let rd ← s.place true (cSrc r) ((rows - 1) * (a0.extractLsb' 32 32).toNat + cSlen r)
    let wr ← s.place true (cDst r) ((rows - 1) * (cAux1 r).toNat + cSlen r)
    some (rd.toList, wr)
  | 3 =>
    let ix ← s.place true a0 (8 * ((cAux1 r).extractLsb' 0 32).toNat)
    let rd ← s.place true (cSrc r) (cSlen r)
    let wr ← s.place true (cDst r) (cDlen r)
    some (ix.toList ++ rd.toList, wr)
  | 5 =>
    let rd ← s.place true (cSrc r) (cSlen r)
    let wr ← if cardTuple (cDst r) then s.place false (cDst r) (cDlen r) else none
    some (rd.toList, wr)
  | 6 =>
    let rd ← if cardTuple (cSrc r) then s.place false (cSrc r) (cSlen r) else none
    let wr ← s.place true (cDst r) (cDlen r)
    some (rd.toList, wr)
  | _ =>
    let rd ← s.place true (cSrc r) (cSlen r)
    let wr ← s.place true (cDst r) (cDlen r)
    some (rd.toList, wr)
/-- Whether a confidential partition may not name a device (R402). -/
def State.distrusts (s : State) (p : PartId) (dev : BitVec 11) : Bool :=
  (s.partAt p).conf && dev != s.device &&
  (((tget s.sys.records p.toNat 0).extractLsb' 320 64 == 0#64) || !Config.inTrust p.toNat dev.toNat)
/-- The other devices of a launch's SPAN (R331): `rank` of those with lower ids, the rest of those with higher; which of them, where the domain
holds more, is free. -/
def State.spanDevices (s : State) (l : Nat) : List (BitVec 11) :=
  let y := s.launchAt l
  let some_ (n : Nat) (ds : List (BitVec 11)) : List (BitVec 11) :=
    let k := Config.pickAt (2 ^ 32 + l) n % (ds.length + 1)
    (ds.drop k ++ ds.take k).take n
  some_ y.rank (s.sys.domain.filter (fun d => d.toNat < s.device.toNat)) ++
  some_ (y.spandev.toNat - 1 - y.rank) (s.sys.domain.filter (fun d => s.device.toNat < d.toNat))
/-- Devices that a card names, a collective's by its group. -/
def State.cardDevices (s : State) (kind : Nat) (r : BitVec 512) : List (BitVec 11) :=
  if kind = 5 then [tupleDevice (cDst r)]
  else if kind = 6 then [tupleDevice (cSrc r)]
  else if kind = 4 then (match s.myGroup (cGroup r), s.d.launch with
    | some (g, ms), some l => (match g.members with | some ts => ts.map tupleDevice | none => if ms.contains none then s.spanDevices l else [])
    | _, _ => [])
  else []
/-- The footprint check of a region (R348); scratchpads have none. -/
def State.regionFoot (s : State) (w : Who) (acc : BitVec 2) : List Region → Except Stop Unit
  | [] => .ok ()
  | x :: xs =>
    match (if x.core.isNone then s.footOk w (BitVec.ofNat 64 x.base) x.len acc else none) with
    | some a => .error (.trap 0x181 a acc)
    | none => s.regionFoot w acc xs

/-- Translations of a card's COUNTER for the card to hold (R242): one that cannot be used makes the card malformed, and a translation that
failed is told (R379). -/
def State.gripCounter (s : State) (w : Who) (addr ctr : Word) : Except Stop (State × List TlbEntry) :=
  if ctr = 0 then .ok (s, [])
  else match s.grip w ctr ctr accRmw 2 8 with
    | .ok x => .ok x
    | .error (.trap _ _ _ tf) => .error (.trap 0x141 addr accRmw tf)
    | .error _ => .error (.trap 0x141 addr)
/-- The checks of a card in the order of R308, from step 4 on: its regions, and a collective's rank and group. -/
def State.cardCheck (s : State) (kind : Nat) (addr : Word) (r : BitVec 512) :
    Except Stop (State × List TlbEntry × List Region × Option Region × Nat) := do
  let bad : Except Stop (List Region × Option Region) := .error (.trap 0x141 addr)
  let w := s.who s.d
  let ctr := cCounter r
  let grp := if kind = 4 then s.myGroup (cGroup r) else none
  let ms := match grp with | some x => x.2 | none => []
  if !cardHead kind r || !cardLimits kind r ms.length || ctr.toNat % 8 != 0 then .error (.trap 0x141 addr)
  let (s, held) ← s.gripCounter w addr ctr
  let (rd, wr) ← match s.cardRegions kind r with | some x => .ok x | none => bad
  if rd.any (fun x => match wr with | some y => x.meets y | none => false) then .error (.trap 0x142 addr)
  let rank := ms.findIdx? (· == some s.core)
  if kind = 4 ∧ rank = none then .error (.trap 0x147 addr)
  if (5 ≤ kind ∨ ms.contains none) ∧ s.d.exch = false then .error (.trap 0x0C3 s.d.phase)
  if (s.cardDevices kind r).any (s.distrusts s.d.part) ∨ (ms.contains none ∧ (s.partAt s.d.part).conf ∧
      (tget s.sys.records s.d.part.toNat 0).extractLsb' 320 64 = 0#64) then .error (.trap 0x1E3 addr)
  s.regionFoot w accRead rd
  s.regionFoot w accWrite wr.toList
  if ctr ≠ 0 then
    match s.footOk w ctr 8 accRmw with | some a => .error (.trap 0x181 a accRmw) | none => pure ()
  -- a restartable share's input region admits no engine write (R340)
  match wr with
  | some y => match y.core with
    | some c => match (s.coreAt c).protects y.base y.len with
      | some a => .error (.trap 0x184 (BitVec.ofNat 64 a))
      | none => pure ()
    | none => pure ()
  | none => pure ()
  .ok (s, held, rd, wr, rank.getD 0)
/-- A member's next instance number (R315), and the launch once it is drawn. -/
def State.drawInst (s : State) (id : BitVec 16) : Nat × State :=
  match s.d.launch with
  | none => (0, s)
  | some l => match s.groupOf l id with
    | none => (0, s)
    | some g =>
      let n := tget g.drawn s.core.toNat 0
      let x := s.launchAt l
      (n, s.setLaunch l { x with groups := x.groups.map (fun y => if y.id == id then { y with drawn := tset y.drawn s.core.toNat (n + 1) } else y) })
/-- Reads a card (R308 steps 1 to 3): poison in it, its alignment, then its translation faults. -/
def State.readCard (s : State) (w : Who) (addr : Word) : Except Stop (State × BitVec 512) :=
  let n := min 64 (64 - addr.toNat % 64)
  let whole : Except Stop (State × List Byte) := do
    let (s, xs) ← s.kClean w false addr n accRead
    if n = 64 then .ok (s, xs)
    else
      let (s, ys) ← s.kClean w false (addr + BitVec.ofNat 64 n) (64 - n) accRead
      .ok (s, xs ++ ys)
  match whole with
  | .error (.trap 0x1C0 x acc tf) => .error (.trap 0x1C0 x acc tf)
  | .error e => if addr.toNat % 64 ≠ 0 then .error (.trap 0x141 addr) else .error e
  | .ok (s, bs) => if addr.toNat % 64 ≠ 0 then .error (.trap 0x141 addr) else .ok (s, recOf bs)
/-- Where an engine translates (R383). -/
def engSite : EngineId → Site
  | .copy cl _ => .cluster cl
  | .coll die => .service die
  | .gateway => .service 0
/-- A submission (R308): the card is read as a .byp load, checked, and queued; it is a release of the desk's earlier accesses.  A retired
engine takes no new card (R374). -/
def submit (kind : Nat) (k : Guard) (a : GReg) (s : State) : Except Stop State := do
  let t ← s.d.take 0 [a] [] 1
  let addr := t.x 0
  let w := s.who s.d
  let (s, r) ← s.readCard w addr
  let (s, own) ← s.grip w addr (addr + 6) accWrite 2 2
  let (s, held, rd, wr, rank) ← s.cardCheck kind addr r
  let e := s.engineFor kind addr s.core
  if s.sys.retired.contains (.engine e) ∨ engDepth e ≤ (s.queueOf (engNo e)).length then .error (.wait .engine)
  s.released
  s.pastFences [.e]
  let (inst, s) := if kind = 4 then s.drawInst (cGroup r) else (0, s)
  let c : Card := { seq := s.sys.cardSeq, raw := r, addr := addr, owner := s.ownerOf s.core s.desk, maker := s.d.maker (engSite e), stage := s.d.stage.toNat
                    exch := s.d.exch, rd := rd, wr := if kind = 5 ∧ tupleDevice (cDst r) ≠ s.device then none else wr, bind := bindOf s.d k
                    held := own ++ held, rank := rank, inst := inst }
  let s := s.setQueue (engNo e) (s.queueOf (engNo e) ++ [c])
  .ok ({ s with sys := { s.sys with cardSeq := s.sys.cardSeq + 1 } }.setD t.d)
/-- CPY (R309). -/
def execCpy (k : Guard) (a : GReg) (s : State) := finish (heldBack (submit 1 k a)) s
/-- CPYQ (R309). -/
def execCpyq (k : Guard) (a : GReg) (s : State) := finish (heldBack (submit 2 k a)) s
/-- GATH (R309). -/
def execGath (k : Guard) (a : GReg) (s : State) := finish (heldBack (submit 3 k a)) s
/-- COLL (R315). -/
def execColl (k : Guard) (a : GReg) (s : State) := finish (heldBack (submit 4 k a)) s
/-- FPUT (R320). -/
def execFput (k : Guard) (a : GReg) (s : State) := finish (heldBack (submit 5 k a)) s
/-- FGET (R320). -/
def execFget (k : Guard) (a : GReg) (s : State) := finish (heldBack (submit 6 k a)) s

/-! ### Completion and failure (R312, R313) -/

/-- A failure reaches the desk of a context at its next boundary: the desk that runs it; the save area of one switched out; and, of a
context that has ended, the desk of that number on its core (R312, R356). -/
def State.reportOwner (s : State) (o : Owner) (cause : Cause) (x : Word) (tf : Option (BitVec 9) := none) (card : Bool := false) :
    State :=
  let here (c : Nat × Core) (i : DeskId) : Bool :=
    let d := c.2.at i
    d.occ && d.launch == o.launch && (if o.launch.isSome then d.ctxid == o.ctx else c.1 == o.core.toNat && i == o.desk)
  match s.cores.findSome? (fun c => ([0, 1, 2, 3] : List DeskId).findSome? (fun i => if here c i then some (c.1, i) else none)) with
  | some (c, i) => s.setDeskAt (BitVec.ofNat 10 c) i ((s.deskAt (BitVec.ofNat 10 c) i).report cause x tf card)
  | none =>
    let mine (a : Away) : Bool := some a.launch == o.launch && a.ctx == o.ctx
    match s.sys.away.find? mine with
    | some a =>
      -- the save area lists the card (R312, R367)
      let s := if card && decide (a.fails < 8) then s.ckWrite a.part (a.at_ + BitVec.ofNat 64 (0x840 + 8 * a.fails)) (natLe x.toNat 8) false else s
      { s with sys := { s.sys with
        late := s.sys.late ++ [(o, { cause := cause, xval := x, tf := tf, card := card })]
        away := s.sys.away.map (fun a => if mine a && card then { a with fails := a.fails + 1 } else a) } }
    | none =>
    if (s.coreAt o.core).work.launch == o.launch then
      s.setDeskAt o.core o.desk ((s.deskAt o.core o.desk).report cause x tf card)
    else s
/-- A card moves bytes between devices. -/
def State.farCard (s : State) (c : Card) : Bool :=
  c.started && (if c.kind = 5 then tupleDevice (cDst c.raw) != s.device
    else if c.kind = 6 then tupleDevice (cSrc c.raw) != s.device
    else if c.kind = 4 then (match c.owner.launch with
      | some l => (match s.groupOf l (cGroup c.raw) with | some g => (s.members l g).contains none | none => false)
      | none => false)
    else false)
/-- A card leaves its queue with a status. -/
def State.endCard (s : State) (c : Card) (status : Nat) : State :=
  let s := if s.farCard c && status = 0 then s.note c.maker.part 2 [coreDie c.owner.core] else s
  (s.updCard c.seq (fun _ => none)).cardDone c status
/-- A card fails: its status names the cause, which its desk learns of. -/
def State.failCard (s : State) (c : Card) (e : EngErr) : State :=
  (s.endCard c (0x8000 + e.cause.toNat)).reportOwner c.owner e.cause c.addr e.tf true

/-- The members' cards of a collective instance that have been submitted. -/
def State.instCards (s : State) (l : Nat) (g : BitVec 16) (k : Nat) : List Card :=
  s.allCards.filter (fun c => c.kind == 4 && c.owner.launch == some l && cGroup c.raw == g && c.inst == k)
/-- Instances beside one. -/
def Sys.dropInst (y : Sys) (l : Nat) (g : BitVec 16) (k : Nat) : List Inst :=
  y.insts.filter (fun i => !(i.launch == l && i.group == g && i.inst == k))
/-- An instance is over: members that come later end as it did. -/
def State.endInst (s : State) (l : Nat) (g : BitVec 16) (k : Nat) (e : Option EngErr) : State :=
  let i : Inst := { launch := l, group := g, inst := k, dead := true, fail := e }
  { s with sys := { s.sys with insts := s.sys.dropInst l g k ++ [i] } }
/-- A member's card of an instance that is over (R312, R313): cancelled, or failed; but where the cards disagreed, any value stands in its
destination. -/
def State.endMember (s : State) (c : Card) (e : Option EngErr) : State :=
  match e with
  | none => (s.havocCard c).endCard c 2
  | some x => (if x.cause = 0x146 then s else s.havocCard c).failCard c x
/-- A whole instance fails (R312, R315, R401, R402): every member's card, with the cause of the failure (log 134). -/
def State.failInst (s : State) (l : Nat) (g : BitVec 16) (k : Nat) (e : EngErr) : State :=
  ((s.instCards l g k).foldl (fun s c => s.endMember c (some e)) s).endInst l g k (some e)
/-- JOBX ends a collective: every member's card completes cancelled, those to come too (R313). -/
def State.cancelInst (s : State) (l : Nat) (g : BitVec 16) (k : Nat) : State :=
  ((s.instCards l g k).foldl (fun s c => s.endMember c none) s).endInst l g k none
/-- JOBX (R313). -/
def jobx (a d : GReg) (s : State) : Except Stop State := do
  let t ← s.d.take 0 [a] [d] 1
  let o := s.ownerOf s.core s.desk
  let mine := s.allCards.filter (fun c => c.addr == t.x 0 && c.owner.same o)
  match mine.foldl (fun (m : Option Card) c => match m with | some y => if y.seq < c.seq then some c else m | none => some c) none with
  | none => .ok (s.setD (t.d.pushG d 0 false))
  | some c =>
    let s' := if c.kind = 4 then s.cancelInst (c.owner.launch.getD 0) (cGroup c.raw) c.inst
      else (if c.started && c.fail.isNone then s.cardToEdge c else s).endCard c 2
    .ok (s'.setD ((({ s'.d with q := t.d.q }) : Desk).pushG d (if c.started || c.kind == 4 then 2 else 1) false))
/-- JOBX (R313). -/
def execJobx (a d : GReg) (s : State) := finish (heldBack (jobx a d)) s

/-! ### Starting, running, failing (R304, R310, R312) -/

/-- Whether a card is ordered after an earlier one of its stage (R310). -/
def Card.after (c e : Card) : Bool :=
  decide (e.seq < c.seq) && e.owner.launch == c.owner.launch && e.stage == c.stage &&
  (let ew := e.wr.toList
   let cw := c.wr.toList
   (c.rd ++ cw).any (fun x => ew.any (·.meets x)) || cw.any (fun x => e.rd.any (·.meets x)))
/-- A launch whose cards may start: not frozen, not stopped under debug (R339, R387). -/
def State.mayRun (s : State) (l : Option Nat) (stage : Nat) : Bool :=
  match l with
  | none => true
  | some l => let x := s.launchAt l; x.status == .running && !x.frozen && !((x.stages.getD stage {}).held)
/-- CARD_START (R304, R310, R314): the first card of a queue not started yet starts, or is discarded. -/
def execCardStart (e : EngineId) (i : Nat) (s : State) : Host.Outcome State Fault Refusal :=
  event (fun s =>
    let q := s.queueOf (engNo e)
    match q[i]? with
    | none => none
    | some c =>
      if c.started || !(q.take i).all (·.started) || !s.mayRun c.owner.launch c.stage then none
      else
        let past := s.sys.insts.find? (fun x => c.kind == 4 && x.dead && some x.launch == c.owner.launch && x.group == cGroup c.raw && x.inst == c.inst)
        match past, c.bind with
        | some x, _ => some (s.endMember c x.fail)
        | none, .slot _ => none
        | none, b =>
          if b == .no && c.kind != 4 then some (s.endCard c 1)
          else if s.allCards.any (c.after ·) then none
          else some (s.updCard c.seq (fun c => some { c with started := true }))) s
/-- CARD_COMPLETE (R309, R312): a started card makes some of its writes, as many as the engine comes to, and completes once all are
made. -/
def execCardComplete (e : EngineId) (i : Nat) (s : State) : Host.Outcome State Fault Refusal :=
  event (fun s =>
    match (s.queueOf (engNo e))[i]? with
    | none => none
    | some c =>
      if !c.started || c.kind == 4 || c.fail.isSome then none
      else
        let n := (Config.freeWord s.tick).toNat % (64 * c.total + 64) + 1
        let (s, c') := s.cardWork n c
        if c'.fail.isSome || decide (c'.done < c'.total) then some (s.updCard c.seq (fun _ => some c'))
        else
          let rec_ := (cAux1 c.raw).extractLsb' 6 58
          if c.kind == 2 && rec_ != 0 then
            match s.engWrite c.maker ((rec_ ++ 0#6)) (shapeRecord c.raw) false with
            | .error x => some ((s.spoilAt x.line).updCard c.seq (fun _ => some { c' with fail := some x }))
            | .ok s => some (s.endCard c 0)
          else some (s.endCard c 0)) s
/-- CARD_FAILURE (R312): a card that met an access it cannot make completes with the failure. -/
def execCardFailure (e : EngineId) (i : Nat) (s : State) : Host.Outcome State Fault Refusal :=
  event (fun s =>
    match (s.queueOf (engNo e))[i]? with
    | none => none
    | some c => match c.fail with
      | none => none
      | some x =>
        if c.kind == 4 then some (s.failInst (c.owner.launch.getD 0) (cGroup c.raw) c.inst x)
        else some (s.failCard c x)) s

/-! ### Collectives (R315 to R319) -/

/-- One combination of two triples of 4 + d words (R319). -/
def triple (a b : List Nat) : List Nat :=
  let ma := a.getD 0 0
  let mb := b.getD 0 0
  let hot (x : Nat) : Bool := (Fmt.f32.value x).isNan || x == 0x7F800000
  let m := (Fmt.f32.fmax ma mb).bits
  if hot ma || hot mb then a.zipIdx.map (fun x => if x.2 = 2 ∨ x.2 = 3 then 0 else 0x7FC00000)
  else if m = 0xFF800000 then a.zipIdx.map (fun x => if x.2 = 0 then 0xFF800000 else 0)
  else
    let ea := (Fmt.f32.exp2 rne (rSub ma m)).bits
    let eb := (Fmt.f32.exp2 rne (rSub mb m)).bits
    (a.zip b).zipIdx.map (fun x => if x.2 = 0 then m else if x.2 = 2 ∨ x.2 = 3 then 0 else rAdd (rMul x.1.1 ea) (rMul x.1.2 eb))
/-- Lists cut into runs of n. -/
def runsN (n : Nat) : Nat → List Nat → List (List Nat)
  | 0, _ => []
  | k + 1, xs => if xs.isEmpty then [] else xs.take n :: runsN n k (xs.drop n)
/-- A pair of payloads combined (R316). -/
def combinePair (comb d : Nat) (a b : List Nat) : List Nat :=
  match comb with
  | 0 => List.zipWith rAdd a b
  | 1 => List.zipWith (fun x y => (Fmt.f32.fmax x y).bits) a b
  | 2 => List.zipWith (fun x y => (Fmt.f32.fmin x y).bits) a b
  | _ => List.flatten (List.zipWith triple (runsN (4 + d) a.length a) (runsN (4 + d) b.length b))
/-- A payload's way between devices under COMPRESS (R317): each 64 elements rotated and packed to SX7 at the sending gateway, unpacked and
rotated once more at the receiving one. -/
def crossing (xs : List Nat) : List Nat :=
  (runsN 64 xs.length xs).flatMap (fun g =>
    match sx7.read (sx7.pack ((hadamard 6 g).1.map Fmt.f32.value)).1 with
    | .ok ys => (hadamard 6 (ys.map f32Bits)).1
    | .error _ => List.replicate 64 0x7FC00000)
/-- Some crossings. -/
def crossings : Nat → List Nat → List Nat
  | 0, xs => xs
  | k + 1, xs => crossings k (crossing xs)
/-- The order of the pairs is free (R317): two payloads are taken at free places and combined, until one is left.  Each carries the number of
its crossings so far, of which there are at most `most`; how many it makes before a pair, or before it is delivered, is free. -/
def combineAll (comb d tick most : Nat) : Nat → List (Nat × List Nat) → List Nat
  | 0, xs => (xs.headD (0, [])).2
  | k + 1, xs =>
    let go (place : Nat) (x : Nat × List Nat) : Nat × List Nat :=
      if most ≤ x.1 then x else
        let n := Config.pickAt tick (4 * k + place) % (most - x.1 + 1)
        (x.1 + n, crossings n x.2)
    match xs with
    | [] => []
    | [x] => (go 2 x).2
    | xs =>
      let i := Config.pickAt tick (4 * k) % xs.length
      let ys := xs.eraseIdx i
      let j := Config.pickAt tick (4 * k + 1) % ys.length
      let a := go 2 (xs.getD i (0, []))
      let b := go 3 (ys.getD j (0, []))
      combineAll comb d tick most k ((max a.1 b.1, combinePair comb d a.2 b.2) :: ys.eraseIdx j)
/-- The identity of a combine (R314, R319), in some elements. -/
def identityOf (comb d n : Nat) : List Nat :=
  match comb with
  | 0 => List.replicate n 0x80000000
  | 1 => List.replicate n 0xFF800000
  | 2 => List.replicate n 0x7F800000
  | _ => (List.range n).map (fun i => if i % (4 + d) = 0 then 0xFF800000 else 0)
/-- A payload as read: nonzero zero bytes of a triple read as zero (R319). -/
def payload (comb d : Nat) (bs : List Byte) : List Nat :=
  if comb = 3 then (words32 bs).zipIdx.map (fun x => if x.2 % (4 + d) = 2 ∨ x.2 % (4 + d) = 3 then 0 else x.1) else words32 bs
/-- Whether a member's card reads its source: its guard is true, and it is the root of a broadcast or the kind is another. -/
def Card.gives (c : Card) (root : Option Nat) : Bool := c.bind != .no && (root.isNone || root == some c.rank)
/-- Crossings that a payload may make (R317): none within the package, or as FP32; under COMPRESS at most twice the devices beside one. -/
def State.mostCross (s : State) (l : Nat) (g : Group) (c : Card) : Nat :=
  if !cCompress c.raw then 0
  else match g.members with
    | some ts => 2 * ((ts.map tupleDevice).eraseDups.length - 1)
    | none => 2 * ((s.launchAt l).spandev.toNat - 1)
/-- What the members bring, in rank order: a member whose guard bound false brings nothing, and one on another device a free value. -/
def contributions (tick n : Nat) (cs : List Card) (root : Option Nat) (ms : List (Option CoreId)) : List (Option (List Byte × Bool)) :=
  ms.zipIdx.map (fun x =>
    if root.isSome && root != some x.2 then none
    else match x.1, cs.find? (fun c => c.rank == x.2) with
      | some _, some c => if c.gives root then some (fetched (cSrc c.raw) n c.buf, c.buf.any (fun b => b.2.2)) else none
      | _, _ => some (freeBytes tick (x.2 * n) n, false))
/-- The bytes that a member's destination takes (R314, R316), at their places. -/
def collResult (c : Card) (d tick most : Nat) (xs : List (Option (List Byte × Bool))) : List (Nat × List Byte × Bool) :=
  let comb := cComb c.raw
  let slen := cSlen c.raw
  let dlen := cDlen c.raw
  let carried (place : Nat) (bs : List Byte) : List Byte :=
    if most = 0 then bs else bytes32 (crossings (Config.pickAt tick place % (most + 1)) (words32 bs))
  match cColl c.raw with
  | 2 => xs.zipIdx.filterMap (fun x => x.1.map (fun y => (x.2 * slen, carried x.2 y.1, y.2)))
  | 3 => (xs.filterMap id).map (fun y => (0, carried 0 y.1, y.2))
  | k =>
    let ps := xs.map (fun x => match x with | some y => payload comb d y.1 | none => identityOf comb d (slen / 4))
    let whole := bytes32 (combineAll comb d tick most ps.length (ps.map (fun p => (0, p))))
    [(0, if k = 0 then whole else (whole.drop (c.rank * dlen)).take dlen, xs.any (fun x => (x.map (·.2)).getD false))]
/-- A member's card with what it is to write: one whose guard bound false takes nothing. -/
def State.pay (s : State) (c : Card) (most : Nat) (xs : List (Option (List Byte × Bool))) : Card :=
  let d := if cComb c.raw = 3 then (cAux0 c.raw).toNat else 0
  let out := if c.bind == .no then []
    else (collResult c d s.tick most xs).flatMap (fun x => s.outLines c.maker (cDst c.raw) x.1 x.2.2 x.2.1)
  { c with buf := [], out := out, paid := true }
/-- What the cards of an instance must agree in (R315). -/
def Card.terms (c : Card) : BitVec 3 × Nat × Nat × Nat × Word × Nat :=
  (c.raw.extractLsb' 8 3, cColl c.raw, cComb c.raw, cSlen c.raw, cAux0 c.raw, cDlen c.raw)
/-- Puts changed cards in the places of theirs. -/
def State.putCards (s : State) (cs : List Card) : State := cs.foldl (fun s c => s.updCard c.seq (fun _ => some c)) s
/-- An instance goes on (R311, R315 to R319), its cards agreeing: sources are read unit by unit; then they are combined; destinations are
written unit by unit; then every card completes. -/
def State.instStep (s : State) (l : Nat) (g : Group) (k : Nat) (ms : List (Option CoreId)) (c : Card) (cs : List Card) : State :=
  let root := if cColl c.raw = 3 then some (cAux0 c.raw).toNat else none
  let n := cSlen c.raw
  match oneOf s.tick 13 (cs.filter (fun x => !x.paid && x.gives root && !(toRead (cSrc x.raw) n x.buf).isEmpty)) with
  | some x => match s.engFetch x.maker (cSrc x.raw) n x.buf with
    | .error e => (s.spoilAt e.line).failInst l g.id k e
    | .ok (s, buf) => s.putCards [{ x with buf := buf }]
  | none =>
    if !cs.all (·.paid) then
      let xs := contributions s.tick n cs root ms
      s.putCards (cs.map (fun x => s.pay x (if ms.contains none then s.mostCross l g c else 0) xs))
    else match oneOf s.tick 14 (cs.filter (fun x => !x.out.isEmpty)) with
      | some x => match s.engStore x.maker (cDst x.raw) x.out with
        | .error e => s.failInst l g.id k e
        | .ok (s, out) => s.putCards [{ x with out := out }]
      | none => cs.foldl (fun s x => s.endCard x (if x.bind == .no then 1 else 0)) { s with sys := { s.sys with insts := s.sys.dropInst l g.id k } }
/-- COLLECTIVE_INSTANCE (R315 to R319): every member's card has started; they agree or all fail with 0x146; they are read, combined and
written, and complete. -/
def execCollectiveInstance (l : Nat) (g : BitVec 16) (k : Nat) (s : State) : Host.Outcome State Fault Refusal :=
  event (fun s =>
    match s.groupOf l g with
    | none => none
    | some gr =>
      let ms := s.members l gr
      let cs := (s.instCards l g k).filter (fun c => c.started && c.fail.isNone)
      let local_ := (List.range ms.length).filter (fun r => (ms.getD r none).isSome)
      if local_.isEmpty || !local_.all (fun r => cs.any (·.rank == r)) || !s.mayRun (some l) gr.stage then none
      else match cs with
      | [] => none
      | c :: _ =>
        let fresh := cs.all (fun x => !x.paid && x.buf.isEmpty)
        -- a member elsewhere may disagree, fail, or be cancelled
        let far := if ms.contains none then Config.pickAt s.tick 15 % 4 else 0
        if fresh && (cs.any (fun x => x.terms != c.terms) || far == 1) then some (s.failInst l g k { cause := 0x146 })
        else if far = 2 then some (s.failInst l g k { cause := 0x140 })
        else if far = 3 then some (s.cancelInst l g k)
        else some (s.instStep l gr k ms c cs)) s
/-- The switches of a partition's trust-set table (R402): a 64-bit count, then 64-byte entries that begin with the Horuf id. -/
def State.trustsSwitch (s : State) (p : PartId) (id : Word) : Bool :=
  let t : Word := (tget s.sys.records p.toNat 0).extractLsb' 320 64
  if t = 0 then false
  else match s.hwWord p t with
    | .error _ => false
    | .ok (_, n) => (List.range (min n.toNat 256)).any (fun i =>
        match s.hwWord p (t + BitVec.ofNat 64 (8 + 64 * i)) with | .ok (_, x) => x == id | .error _ => false)
/-- SWITCH_COMBINE (R318): a switch of the trust set combines payloads of an instance whose cards permit it; only the order and the count
of roundings change. -/
def execSwitchCombine (l : Nat) (g : BitVec 16) (k : Nat) (w : Word) (s : State) : Host.Outcome State Fault Refusal :=
  event (fun s =>
    match s.groupOf l g with
    | none => none
    | some gr =>
      let cs := (s.instCards l g k).filter (·.started)
      if !(s.members l gr).contains none || cs.isEmpty || !cs.all (fun c => cSwitch c.raw) || !s.trustsSwitch (s.launchAt l).part w then none
      else
        let i : Inst := { launch := l, group := g, inst := k, switch := some w }
        some { s with sys := { s.sys with insts := s.sys.dropInst l g k ++ [i] } }) s

end Sys2Proof.Machine
end

