-- ==== Sys2Proof/Machine/Messages.lean ====
section
/-! DEFINITION. Messages between cores (R322 to R326). -/

namespace Sys2Proof.Machine

/-! ### Targets (R322, R323) -/

/-- CTX of a target word. -/
def targetCtx (t : Word) : BitVec 16 := t.extractLsb' 40 16
/-- DEVICE -/
def targetDevice (t : Word) : BitVec 11 := t.extractLsb' 29 11
/-- The core. -/
def targetCore (t : Word) : CoreId := t.extractLsb' 19 10
/-- QUEUE -/
def targetQueue (t : Word) : BitVec 2 := t.extractLsb' 0 2
/-- Whether a core runs a launch of a partition, or holds a switched-out context of one. -/
def State.runsFor (s : State) (c : CoreId) (p : PartId) : Bool :=
  (match (s.coreAt c).work.launch with | some l => (s.launchAt l).part == p | none => false) ||
  s.sys.away.any (fun a => a.core == c && a.part == p)
/-- The checks of a target word (R322, R402); what a core of another device runs is free. -/
def State.targetOk (s : State) (d : Desk) (t : Word) : Except Stop Unit :=
  let far := targetDevice t != s.device
  if t.extractLsb' 56 8 ≠ 0 ∨ t.extractLsb' 2 17 ≠ 0 ∨ !s.inDomain (targetDevice t) then .error (.trap 0x144 t)
  else if s.distrusts d.part (targetDevice t) then .error (.trap 0x1E3 t)
  else if (if far then Config.choice s.tick else !s.runsFor (targetCore t) d.part) then .error (.trap 0x144 t)
  else .ok ()

/-- How a message fares at its target (R323). -/
inductive Fate where
  /-- placed -/
  | taken
  /-- a full queue or mailbox -/
  | full
  /-- its CTX names no context there -/
  | refused
  deriving DecidableEq, Repr

/-- An inbound queue. -/
def Core.queue (c : Core) (q : BitVec 2) : List Msg := c.inq[q.toNat]'q.isLt
/-- Writes an inbound queue. -/
def Core.setQueue (c : Core) (q : BitVec 2) (l : List Msg) : Core := { c with inq := c.inq.set q.toNat l q.isLt }
/-- A message enters a queue: a desk of its context that waits for one is ready again (R324). -/
def Core.put1 (c : Core) (q : BitVec 2) (m : Msg) : Core :=
  let c := c.setQueue q (c.queue q ++ [m])
  { c with desks := c.desks.map (fun d => if d.wait == some .mrecv && d.ctxid == m.ctx then { d with wait := none } else d) }
/-- Messages of a restored mailbox enter the queues as space frees, in arrival order (R323). -/
def Core.pour : List (BitVec 2 × Msg) → Core → Core
  | [], c => c
  | (q, m) :: t, c =>
    if decide ((c.queue q).length < 16) && !c.mail.any (·.1 == q) then Core.pour t (c.put1 q m)
    else Core.pour t { c with mail := c.mail ++ [(q, m)] }
/-- The restored messages that still wait, taken again. -/
def Core.repour (c : Core) : Core := Core.pour c.mail { c with mail := [] }
/-- A context whose desk is resident on a core: one whose own part has ended stays until its share ends (R323). -/
def Core.resident (c : Core) (ctx : BitVec 16) : Bool := c.desks.toList.any (fun d => (d.occ || d.quit) && d.launch.isSome && d.ctxid == ctx)
/-- The bytes of a mailbox: the count, then the messages (R367). -/
def boxBytes (box : List (BitVec 2 × Msg)) : List Byte :=
  natLe box.length 64 ++ ((List.range 64).flatMap (fun i => match box[i]? with | some (_, m) => natLe m.data.toNat 64 | none => natLe 0 64))
/-- A message enters the mailbox of a context that is switched out: its place in the save area is written too (R323). -/
def State.boxPut (s : State) (a : Away) (q : BitVec 2) (m : Msg) : State :=
  let n := a.box.length
  let s := s.ckWrite a.part (a.va + BitVec.ofNat 64 (64 + 64 * n)) (natLe m.data.toNat 64) m.poison
  let s := s.ckWrite a.part a.va (natLe (n + 1) 8) false
  { s with sys := { s.sys with away := s.sys.away.map (fun b => if b.core == a.core && b.ctx == a.ctx then { b with box := b.box ++ [(q, m)] } else b) } }
/-- A message arrives at a core of this device (R323). -/
def State.arrive (s : State) (t : Word) (m : Msg) : Fate × State :=
  let k := targetCore t
  let q := targetQueue t
  let c := s.coreAt k
  if c.resident m.ctx then
    if (c.queue q).length < 16 ∧ !c.mail.any (·.1 == q) then
      let idle := s.idle k
      -- a desk that waited for the message is ready again (R16)
      (.taken, ([0, 1, 2, 3] : List DeskId).foldl (fun s j => if (c.at j).wait == some .mrecv then s.wakes idle k j else s) (s.setCoreAt k (c.put1 q m)))
    else (.full, s)
  else match s.sys.away.find? (fun a => a.core == k && a.ctx == m.ctx) with
    | some a => if a.box.length < 64 then (.taken, s.boxPut a q m) else (.full, s)
    | none => (.refused, s)
/-- A message for a core of another device: what becomes of it is free. -/
def farFate (tick : Nat) : Fate := match Config.pick tick % 3 with | 0 => .taken | 1 => .full | _ => .refused
/-- The fate of a message from a core of a partition. -/
def State.send (s : State) (p : PartId) (c : CoreId) (t : Word) (m : Msg) : Fate × State :=
  if targetDevice t == s.device then s.arrive t m else
    let f := farFate s.tick
    (f, if f == .taken then s.note p 2 [coreDie c] else s)

/-! ### MSG and MSG.nb (R322) -/

/-- Whether an earlier message of the same sender to the same queue has not been accepted (R325). -/
def NetMsg.ahead (x : NetMsg) (o : Owner) (t : Word) : Bool :=
  x.owner.same o && x.target.extractLsb' 19 21 == t.extractLsb' 19 21 && targetQueue x.target == targetQueue t
/-- The desk's message that it waits for. -/
def State.waiting (s : State) (o : Owner) : Bool := s.sys.net.any (fun x => x.owner.same o && x.waits.isSome)
/-- Operands of a message: target word and data register, with the registers that it writes. -/
def msgTake (b a : GReg) (ds : List GReg) (s : State) : Except Stop (Word × Opd 512) := do
  s.d.limsG (ds ++ [a])
  s.d.limV b
  s.d.await [a] [b] ds []
  let x ← s.d.useG a
  let y ← x.d.popV b
  .ok (x.val, y)
/-- MSG (R322): it is handed over and its desk stalls until the target accepts it; a guarded one is held for its slot (R107). -/
def msg (k : Guard) (b a : GReg) (s : State) : Except Stop (State × Option Wait) := do
  let o := s.ownerOf s.core s.desk
  let (t, y) ← msgTake b a [] s
  if s.waiting o then .ok (s, some (.msg t))
  else
    s.targetOk s.d t
    s.released
    s.pastFences [.s]
    let x : NetMsg := { owner := o, target := t, msg := ⟨targetCtx t, y.val, y.bad⟩, bind := bindOf s.d k, waits := some (a, b) }
    match bindOf s.d k with
    | .no => .ok (s.setD y.d, none)
    | .yes => .ok ({ s with sys := { s.sys with net := s.sys.net ++ [x] } }, some (.msg t))
    | .slot _ => .ok ({ s with sys := { s.sys with net := s.sys.net ++ [{ x with waits := none }] } }.setD y.d, none)
/-- MSG (R322). -/
def execMsg (k : Guard) (b a : GReg) (s : State) : Host.Outcome State Fault Refusal :=
  if s.d.gen.isSome then .next (s.hold .held) else finishHold (msg k b a) s
/-- MSG.nb (R322). -/
def msgNb (b a d : GReg) (s : State) : Except Stop State := do
  let o := s.ownerOf s.core s.desk
  let (t, y) ← msgTake b a [d] s
  s.targetOk s.d t
  s.released
  s.pastFences [.s]
  let (f, s') := if s.sys.net.any (·.ahead o t) then (Fate.full, s) else s.send s.d.part s.core t ⟨targetCtx t, y.val, y.bad⟩
  let v : Word := match f with | .taken => 1 | .full => 0 | .refused => 2
  -- the desk may be a receiver of its own message: only its operands are taken from before
  .ok (s'.setD (({ y.d with wait := s'.d.wait }).pushG d v false))
/-- MSG.nb (R322). -/
def execMsgNb (b a d : GReg) (s : State) := finish (heldBack (msgNb b a d)) s

/-- MESSAGE_ARRIVAL (R322, R323): the message at a place arrives; one that binds false goes; a full target holds it back; a refused one
traps its waiting desk with 0x143, or is reported where it was held for a slot. -/
def execMessageArrival (i : Nat) (s : State) : Host.Outcome State Fault Refusal :=
  event (fun s =>
    match s.sys.net[i]? with
    | none => none
    | some x =>
      let gone (s : State) : State := { s with sys := { s.sys with net := s.sys.net.eraseIdx i } }
      if (s.sys.net.take i).any (·.ahead x.owner x.target) then none
      else match x.bind with
      | .slot _ => none
      | .no => some (gone s)
      | .yes =>
        let c := x.owner.core
        let (f, s') := s.send (s.deskAt c x.owner.desk).part c x.target x.msg
        let j := x.owner.desk
        match f with
        | .full => none
        | .taken =>
          let s' := gone s'
          match x.waits with
          | none => some s'
          | some (a, b) =>
            let s' := { s' with core := c, desk := j }
            match s'.d.popG a with
            | .error _ => none
            | .ok y => match y.d.popV b with
              | .error _ => none
              | .ok z => some ((s'.setD z.d).retire)
        | .refused =>
          let s' := gone s'
          match x.waits with
          | none => some (s'.reportOwner x.owner 0x143 x.target)
          | some _ => some (s'.trapAt c j 0x143 x.target)) s
/-- MSG_WATCHDOG (R322): a MSG that has stalled 2^20 clk traps, and nothing is sent. -/
def execMsgWatchdog (c : CoreId) (i : DeskId) (s : State) : Host.Outcome State Fault Refusal :=
  event (fun s =>
    match (s.deskAt c i).wait with
    | some (.msg t) =>
      let o := s.ownerOf c i
      let s := { s with sys := { s.sys with net := s.sys.net.filter (fun x => !(x.owner.same o && x.waits.isSome)) } }
      some (s.trapAt c i 0x145 t)
    | _ => none) s

/-! ### MRECV and MPEEK (R324) -/

/-- The oldest message for a context in a queue, and the queue without it. -/
def takeMsg (ctx : BitVec 16) : List Msg → Option (Msg × List Msg)
  | [] => none
  | m :: t => if m.ctx == ctx then some (m, t) else (takeMsg ctx t).map (fun x => (x.1, m :: x.2))
/-- MRECV (R324): an empty queue makes it an off-core reference. -/
def mrecv (q : BitVec 2) (d : GReg) (s : State) : Except Stop (Option State) := do
  s.d.limV d
  s.d.roomV d
  match takeMsg s.d.ctxid (s.c.queue q) with
  | none => .ok none
  | some (m, l) => .ok (some (s.setC ((((s.c.setQueue q l).put s.desk (s.d.pushV d m.data m.poison))).repour)))
/-- MRECV (R324). -/
def execMrecv (q : BitVec 2) (d : GReg) (s : State) : Host.Outcome State Fault Refusal :=
  if s.d.gen.isSome then .next (s.hold .held)
  else if s.leaderFull then .next (s.hold .forward)
  else match mrecv q d s with
  | .error e => .next (s.stopWith e)
  | .ok (some t) => .next t.retire
  | .ok none => .next (s.hold .mrecv).switchDesk
/-- MPEEK (R324). -/
def mpeek (q : BitVec 2) (d : GReg) (s : State) : Except Stop State := do
  s.d.limG d
  s.d.roomG d
  .ok (s.setD (s.d.pushG d (BitVec.ofNat 64 ((s.c.queue q).filter (fun m => m.ctx == s.d.ctxid)).length) false))
/-- MPEEK (R324). -/
def execMpeek (q : BitVec 2) (d : GReg) (s : State) := finish (heldBack (mpeek q d)) s

end Sys2Proof.Machine
end

