-- ==== Sys2Proof/Machine/Task.lean ====
section
/-! DEFINITION. How shares and exchanges end (R253 to R257, R344), the stage queues (R346), and the records that LAUNCH and SPAWN
check and hand to the timetable (R329, R330, R341, R342). -/

namespace Sys2Proof.Machine

/-! ### Stages -/

/-- A stage of a launch. -/
def State.stageOf (s : State) (l k : Nat) : Stage := (s.launchAt l).stages.getD k {}
/-- Writes a stage. -/
def State.setStage (s : State) (l k : Nat) (x : Stage) : State :=
  let y := s.launchAt l
  s.setLaunch l { y with stages := y.stages.set k x }
/-- The stage that a core is allotted to. -/
def State.myStage (s : State) (c : CoreId) : Stage :=
  let w := (s.coreAt c).work
  match w.launch with | some l => s.stageOf l w.stage | none => {}
/-- The timetable runs (R405). -/
def State.live (s : State) : Bool := !s.sys.mgmtOnly && !s.sys.off

/-- A copy of a run of scratchpad bytes. -/
def Core.image (c : Core) (base len : Nat) : Image :=
  ((c.pad.filter (fun x => decide (base ≤ x.1) && decide (x.1 < base + len))).map (fun x => (x.1 - base, x.2)),
   (c.padPoison.filter (fun u => decide (base ≤ 64 * u) && decide (64 * u < base + len))).map (fun u => u - base / 64))
/-- Writes such a copy back. -/
def Core.setImage (c : Core) (base len : Nat) (m : Image) : Core :=
  { c with
    pad := c.pad.filter (fun x => decide (x.1 < base)) ++ ((m.1.filter (fun x => decide (x.1 < len))).map (fun x => (x.1 + base, x.2)) ++
      c.pad.filter (fun x => decide (base + len ≤ x.1)))
    padPoison := c.padPoison.filter (fun u => decide (64 * u < base)) ++ ((m.2.filter (fun u => decide (64 * u < len))).map (fun u => u + base / 64) ++
      c.padPoison.filter (fun u => decide (base + len ≤ 64 * u))) }
/-- The persistent ranges of a kernel, cut out of a region's copy (R26). -/
def Kernel.persists (k : Kernel) (off : Nat) : Bool := k.persist.any (fun r => decide (r.1 ≤ off) && decide (off < r.1 + r.2))
/-- A region's copy, cut to the persistent ranges. -/
def Kernel.cut (k : Kernel) (m : Image) : Image := (m.1.filter (fun x => k.persists x.1), m.2.filter (fun u => k.persists (64 * u)))
/-- A region's copy with its persistent ranges taken from another. -/
def Kernel.paste (k : Kernel) (m p : Image) : Image :=
  (p.1.foldl (fun a x => cset a x.1 x.2) (m.1.filter (fun x => !k.persists x.1)),
   p.2.foldl insN (m.2.filter (fun u => !k.persists (64 * u))))

/-! ### Ends of a desk's part (R254, R256, R344) -/

/-- The contexts whose desks have ended their parts end with their share, and their messages go (R25, R323). -/
def Core.dropOver (c : Core) : Core :=
  let gone (x : BitVec 16) : Bool := c.desks.toList.any (fun d => d.quit && d.ctxid == x)
  { c with
    inq := c.inq.map (fun q => q.filter (fun m => !gone m.ctx))
    mail := c.mail.filter (fun m => !gone m.2.ctx)
    desks := c.desks.map (fun d => { d with quit := false }) }
/-- A desk's part ends (R251, R344): its token entries and its place on the core go.  Its context lives on until the last desk of the share
ends (R25, R323). -/
def Core.endDesk (c : Core) (i : DeskId) : Core :=
  let d := c.at i
  let c := c.put i { d with
    occ := false, quit := d.launch.isSome, tokens := [], wait := none, xfers := [], latch := none, cast := none, mark := none }
  if c.desks.toList.any (fun x => x.occ && x.launch == d.launch) then c else c.dropOver
/-- The other desks of the share that have not ended. -/
def Core.others (c : Core) (i : DeskId) : List DeskId :=
  ([0, 1, 2, 3] : List DeskId).filter (fun j => j != i && (c.at j).occ && (c.at j).launch == (c.at i).launch)
/-- Whether desks of the share that a desk runs are saved away, so that they have still to end (R25, R253). -/
def State.awayDesks (s : State) : Bool :=
  let d := s.d
  s.sys.away.any (fun a => some a.launch == d.launch && a.share == (d.stage.toNat, d.shareIx))
/-- The mask of pending guard slots (R108). -/
def Desk.pendingSlots (d : Desk) : Word :=
  BitVec.ofNat 64 (((List.range 8).filter (fun n => d.k.toList[n]? == some .pending)).foldl (fun a n => a + 2 ^ n) 0)
/-- A member of a gang (R110). -/
def Desk.member (d : Desk) : Bool := match d.gang with | .none | .offered => false | _ => true

/-- Work of a desk that is not the one that moves. -/
def State.asDesk {α : Type} (s : State) (i : DeskId) (f : State → α) : α := f { s with desk := i }
/-- Whether a card was submitted by the share that runs on a core (R254). -/
def State.ownCard (s : State) (c : CoreId) (x : Card) : Bool :=
  x.owner.launch == (s.coreAt c).work.launch && (x.owner.core == c || ([0, 1, 2, 3] : List DeskId).any (fun i => x.owner.same (s.ownerOf c i)))

/-- TEND resumes every stopped command whose fault its desk, or a desk of the share that has ended since, has learned of (R178). -/
def State.mxResumeAll (s : State) : State :=
  if !s.d.user then s
  else s.setMx { s.c.mx with queue := s.c.mx.queue.map (fun c =>
    if c.st == .stopped && (match c.told with | .desk d => d == s.desk || !(s.c.at d).occ | _ => false) then { c with st := .queued, told := .none } else c) }
/-- What still holds the end of a share (R169, R178, R236, R254): a report, which is taken, or a wait.  With `ring`, everything that
R254 asks for before the bell. -/
def State.shareHolds (s : State) (ring : Bool) : Option (State × Stop) :=
  match ([0, 1, 2, 3] : List (BitVec 2)).findSome? (fun n => s.mxReport n) with
  | some (u, e) => some (u, e)
  | none =>
    let s := s.mxResumeAll
    if !s.c.mx.queue.isEmpty then some (s, .wait .matrix)
    else
      let back := s.desk
      let s := ([0, 1, 2, 3] : List DeskId).foldl (fun s i => { s.asDesk i (fun s => s.nmResume (fun _ => true)) with desk := back }) s
      match ([0, 1, 2, 3] : List DeskId).findSome? (fun i => s.asDesk i (fun s => s.nmReport (fun _ => true))) with
      | some (u, e) => some ({ u with desk := back }, e)
      | none =>
        if ([0, 1, 2, 3] : List DeskId).any (fun i => !(s.nmOf s.core i).isEmpty) then some (s, .wait .nearMem)
        else if ring && ([0, 1, 2, 3] : List DeskId).any (fun i => !s.storesOut s.core i) then some (s, .wait .memory)
        else if ring && s.allCards.any (fun x => s.ownCard s.core x && !x.exch) then some (s, .wait .engine)
        else none

/-- The desk that moves leaves the core, which goes on with another (R15). -/
def State.leave (s : State) : State := (s.setC (s.c.endDesk s.desk)).switchDesk

/-- A core that has run a share again for a debug session is idle once more (R389). -/
def State.endReplay (s : State) : State := s.setC s.c.vacate
/-- The share ends on its core (R344): a region set aside comes back, with the persistent ranges of a resumed share kept for the next
bell (R369). -/
def State.shareEnds (s : State) : State :=
  let c := s.c
  let w := c.work
  match w.aside, w.launch, w.slot with
  | some m, some l, some x =>
    let st := s.stageOf l w.stage
    let n := st.far.1 + st.order.length + st.far.2
    let s := s.setC ({ c with work := { w with slot := none, aside := none } }.setImage w.base st.kern.scratch m)
    s.setStage l w.stage { st with kept := tset st.kept (if n = 0 then x else x % n) (st.kern.cut (c.image w.base st.kern.scratch)) }
  | _, _, _ => s.setC { c with work := { w with slot := none } }

/-- XDONE, and TEND in exchange (R256, R321): the desk's copies, stores and cards of the exchange come first. -/
def State.endExchange (s : State) : State × Option Wait :=
  let s := s.moves true
  let o := s.ownerOf s.core s.desk
  if !s.storesOut s.core s.desk then (s, some .memory)
  else if s.allCards.any (fun x => x.owner.same o && x.exch) then (s, some .engine)
  else ((s.breakAt s.d).leave, none)
/-- XDONE (R110, R256, R257). -/
def execXdone (s : State) : Host.Outcome State Fault Refusal :=
  let d := s.d
  if d.gen.isSome then .next (s.hold .held)
  else if d.member then .next (s.stopWith (.trap 0x014 d.xword))
  else if !d.exch then .next (s.stopWith (.trap 0x0C3 d.phase))
  else match s.endExchange with | (t, none) => .next t | (t, some w) => .next (t.hold w)

/-- The cores of a stage that are ready to take an entry of the resume list, in rank order (R338): their dealt shares have ended by TEND. -/
def State.readyCores (s : State) (st : Stage) : List CoreId :=
  st.cores.filter (fun c =>
    let w := (s.coreAt c).work
    w.slot.isNone && w.todo.isEmpty && w.next.isNone && !w.byBell && !w.rung && !st.urgent.contains c)
/-- The entry of the resume list that falls to a core (R338): the cores that were ready before it, or in the same clk and of lower rank, take
the lower ones; a core that is itself to be vacated at once takes none. -/
def State.entryFor (s : State) (c : CoreId) : Option Resume :=
  let st := s.myStage c
  if st.urgent.contains c || (s.coreAt c).work.replay then none else st.resume[(s.readyCores st).idxOf c]?
/-- Whether the end of the share by TEND rings the bell: it is no replay, and no dealt slot and no entry of the resume list follows (R338, R344), or other
desks wait at BELL (R253). -/
def State.ringing (s : State) : Bool :=
  !s.c.work.replay && (!(s.c.others s.desk).isEmpty || (s.c.work.todo.isEmpty && (s.entryFor s.core).isNone))
/-- The core that moves takes that entry, so that no other core does. -/
def State.takeNext (s : State) : State :=
  let w := s.c.work
  match w.launch, s.entryFor s.core with
  | some l, some r =>
    if w.todo.isEmpty then
      let st := s.stageOf l w.stage
      (s.setC { s.c with work := { w with next := some r } }).setStage l w.stage { st with resume := st.resume.filter (fun x => x.slot != r.slot) }
    else s
  | _, _ => s
/-- TEND (R344): R110 and R108 first; in exchange it acts as XDONE; the share's last desk then waits as R169, R236 and, where it rings,
R254 give. -/
def execTend (s : State) : Host.Outcome State Fault Refusal :=
  let d := s.d
  if d.gen.isSome then .next (s.hold .held)
  else if d.member then .next (s.stopWith (.trap 0x014 d.xword))
  else if d.pendingSlots ≠ 0 then .next (s.stopWith (.trap 0x015 d.pendingSlots))
  else if d.exch then
    match s.endExchange with | (t, none) => .next t | (t, some w) => .next (t.hold w)
  else
    let rest := s.c.others s.desk
    let replay := s.c.work.replay
    if (!replay && s.awayDesks) || !rest.all (fun j => (s.c.at j).wait == some .bell) then .next (s.breakAt d).leave
    else if s.ringing && s.c.busyTiles ≠ 0 then .next (s.stopWith (.trap 0x0C9 s.c.busyTiles))
    else match s.shareHolds s.ringing with
    | some (t, e) => .next (t.stopWith e)
    | none =>
      let s := s.breakAt d
      if replay then .next s.leave.endReplay
      else if rest.isEmpty then .next s.shareEnds.takeNext.leave
      else .next (s.setC { s.c with work := { s.c.work with rung := true, byBell := true } }).leave

/-- BELL (R253, R254, R257): it waits there until the exchange begins; the share's last desk rings. -/
def execBell (s : State) : Host.Outcome State Fault Refusal :=
  let d := s.d
  let w := s.c.work
  if d.gen.isSome then .next (s.hold .held)
  else if d.member then .next (s.stopWith (.trap 0x014 d.xword))
  else if d.exch then .next (s.stopWith (.trap 0x0C3 d.phase))
  else if !w.todo.isEmpty || w.resumed then .next (s.stopWith (.trap 0x0C3 (d.shareIx.setWidth 64)))
  else if d.pendingSlots ≠ 0 then .next (s.stopWith (.trap 0x015 d.pendingSlots))
  else if s.c.busyTiles ≠ 0 then .next (s.stopWith (.trap 0x0C9 s.c.busyTiles))
  else if s.awayDesks || w.replay || !(s.c.others s.desk).all (fun j => (s.c.at j).wait == some .bell) then .next (s.hold .bell).switchDesk
  else match s.shareHolds true with
    | some (t, e) => .next (t.stopWith e)
    | none => .next ((s.setC { s.c with work := { w with rung := true, byBell := true } }).hold .bell).switchDesk

/-! ### SHARE and ESIGNAL (R343, R345) -/

/-- SHARE (R343). -/
def share (d : GReg) (s : Desk) : Except Stop Desk := do
  s.pairOk d 2
  s.limsG [d, d + 1]
  .ok ((s.setG d (s.shareIx.setWidth 64) false).setG (d + 1) (s.shareCt.setWidth 64) false)
/-- SHARE (R343). -/
def execShare (d : GReg) (s : State) := finish (heldBack (onDesk (share d))) s

/-- A desk that no launch runs stops where its launch would fail. -/
def State.failHere (s : State) (o : Outcome64) : State :=
  match s.d.launch with
  | some l => s.failLaunch l o
  | none => s.setD { s.d with stopped := true, wait := none }
/-- ESIGNAL (R345). -/
def execEsignal (b a : GReg) (s : State) : Host.Outcome State Fault Refusal :=
  if s.d.gen.isSome then .next (s.hold .held)
  else match s.d.take 0 [a, b] [] 2 with
  | .error e => .next (s.stopWith e)
  | .ok t =>
    let kind := t.x 0
    let code := t.x 1
    if 1 < kind.toNat then .next (s.stopWith (.trap 0x185 kind))
    else if (kind = 0 ∧ code ≠ 0) ∨ 15 < code.toNat then .next (s.stopWith (.trap 0x185 code))
    else if kind = 0 then
      finish (fun s =>
        let s := s.setD t.d
        .ok (match s.d.launch with
          | some l => s.setStage l s.d.stage.toNat { s.stageOf l s.d.stage.toNat with endReq := true }
          | none => s)) s
    else
      .next (s.failHere { cause := BitVec.ofNat 9 (0x1B0 + code.toNat), stage := s.d.stage.toNat, core := s.core.toNat, sscnt := s.d.sscnt, xval := code, xpc := s.d.pc })

/-! ### Stage queues (R346) -/

/-- The items that a stage's input queue holds. -/
def Stage.items (x : Stage) : Nat := (x.qtail - x.qhead).toNat
/-- The depth of its input queue. -/
def Stage.depth (x : Stage) : Nat := 2 ^ x.qlog2
/-- The stages of the desk's launch. -/
def State.myStages (s : State) : List Stage := match s.d.launch with | some l => (s.launchAt l).stages | none => []
/-- The queue that a stage-queue instruction names: the stage it feeds, and that stage. -/
def State.stageQueue (s : State) (out : Bool) : Except Stop (Nat × Nat × Stage) :=
  let k := s.d.stage.toNat
  let i := if out then k + 1 else k
  match s.d.launch, s.myStages[i]? with
  | some l, some st => if i = 0 then .error (.trap 0x182 (s.d.stage.setWidth 64)) else .ok (l, i, st)
  | _, _ => .error (.trap 0x182 (s.d.stage.setWidth 64))
/-- The scratchpad offset of an item: 64-byte aligned, within the region. -/
def itemAt (d : Desk) (x : Word) (acc : BitVec 2) : Except Stop Nat :=
  if x.toNat % 64 ≠ 0 then .error (.trap 0x185 x)
  else if !d.inside x.toNat 64 then .error (.trap 0x045 x acc)
  else .ok x.toNat
/-- SQPUT (R346). -/
def sqput (a d : GReg) (s : State) : Except Stop State := do
  let t ← s.d.take 0 [a] [d] 1
  let (l, i, st) ← s.stageQueue true
  let off ← itemAt s.d (t.x 0) accRead
  if st.depth ≤ st.items then .ok (s.setD (t.d.pushG d 0 false))
  else
    s.released
    let va := st.qbase + BitVec.ofNat 64 (64 * (st.qtail.toNat % st.depth))
    let (s, ps) ← s.access (s.who s.d) va 64 accWrite
    s.homeClear ps
    let s := (s.writeHome s.d.part va ps false (s.c.padBad off 64) (s.c.padRead off 64)).l1Drop s.core ps
    .ok ((s.setStage l i { st with qtail := st.qtail + 1 }).setD (t.d.pushG d 1 false))
/-- SQPUT (R346). -/
def execSqput (a d : GReg) (s : State) := finish (heldBack (sqput a d)) s
/-- SQGET (R346). -/
def sqget (a d : GReg) (s : State) : Except Stop State := do
  let t ← s.d.take 0 [a] [d] 1
  let (l, i, st) ← s.stageQueue false
  let off ← itemAt s.d (t.x 0) accWrite
  if st.items = 0 then
    .ok (s.setD (t.d.pushG d (if (s.stageOf l (i - 1)).ended then 2 else 0) false))
  else
    let va := st.qbase + BitVec.ofNat 64 (64 * (st.qhead.toNat % st.depth))
    let (s, ps) ← s.access (s.who s.d) va 64 accRead
    s.homeClear ps
    let (s, bs, bad) ← s.readMac s.d.part va ps false accRead
    let s := (s.setStage l i { st with qhead := st.qhead + 1 }).setD (t.d.pushG d 1 false)
    .ok ((s.setC (s.c.padWrite off bs bad)).bumpL1 s.core)
/-- SQGET (R346). -/
def execSqget (a d : GReg) (s : State) := finish (heldBack (sqget a d)) s
/-- SQLEN (R346). -/
def sqlen (x : BitVec 1) (d : GReg) (s : State) : Except Stop State := do
  s.d.limsG [d]
  s.d.roomG d
  let (_, _, st) ← s.stageQueue (x == 1)
  .ok (s.setD (s.d.pushG d (BitVec.ofNat 64 st.items) false))
/-- SQLEN (R346). -/
def execSqlen (x : BitVec 1) (d : GReg) (s : State) := finish (heldBack (sqlen x d)) s

/-! ### Launch records and images (R85, R329, R330) -/

/-- A field of a record: bits from `lo`, `w` of them. -/
def fieldOf (x lo w : Nat) : Nat := x / 2 ^ lo % 2 ^ w
/-- A 64-bit field as a word. -/
def wordOf (x lo : Nat) : Word := BitVec.ofNat 64 (fieldOf x lo 64)

/-- A kernel descriptor that keeps to R85: its zero fields and the limits of its counts. -/
def kernelOk (x : Nat) : Bool :=
  fieldOf x 640 384 == 0 && fieldOf x 224 32 == 0 && fieldOf x 168 24 == 0 && fieldOf x 163 1 == 0 && fieldOf x 159 1 == 0 &&
  fieldOf x 147 5 == 0 && fieldOf x 142 2 == 0 && fieldOf x 134 2 == 0 &&
  decide (1 ≤ fieldOf x 128 6 ∧ fieldOf x 128 6 ≤ 32) && decide (1 ≤ fieldOf x 136 6 ∧ fieldOf x 136 6 ≤ 32) &&
  decide (1 ≤ fieldOf x 144 3 ∧ fieldOf x 144 3 ≤ 4) && decide (fieldOf x 152 7 ≤ 64) && decide (fieldOf x 192 32 ≤ 4096) &&
  decide (fieldOf x 352 32 ≤ 1024) && decide (fieldOf x 416 32 ≤ 16) && decide (fieldOf x 480 32 ≤ 8) &&
  decide (fieldOf x 256 32 ≤ 0x80000 ∧ fieldOf x 256 32 % 64 = 0 ∧ fieldOf x 288 32 % 64 = 0)
/-- A kernel from its descriptor, persist entries and dictionary. -/
def kernelOf (x : Nat) (persist : List Nat) (dict : List Nat) : Kernel :=
  { gregs := fieldOf x 128 6, vregs := fieldOf x 136 6, desks := fieldOf x 144 3, scratch := fieldOf x 256 32, stack := fieldOf x 288 32
    tiles := fieldOf x 152 7, counters := fieldOf x 192 32, queues := fieldOf x 160 1 == 1, dict := fieldOf x 161 1 == 1
    stage := BitVec.ofNat 4 (fieldOf x 164 4), restart := fieldOf x 162 1 == 1
    inOff := fieldOf x 512 32, inLen := fieldOf x 544 32, outOff := fieldOf x 576 32, outLen := fieldOf x 608 32
    persist := persist.map (fun e => (fieldOf e 0 32, fieldOf e 32 32))
    entry := BitVec.ofNat 64 (fieldOf x 32 32)
    dictAt := (fieldOf x 320 32, fieldOf x 352 32)
    xentry := if fieldOf x 64 32 = 0xFFFFFFFF then none else some (BitVec.ofNat 64 (fieldOf x 64 32))
    dictWords := dict.map (BitVec.ofNat 32) }

/-- Little-endian groups of `n` bytes. -/
def groupsOf (n : Nat) : Nat → List Byte → List Nat
  | 0, _ => []
  | k + 1, bs => leNat (bs.take n) :: groupsOf n k (bs.drop n)
/-- A table of an image, read through the partition's translation.  The error, here and below, is a line that failed its MAC, if that is why
it cannot be read (R401). -/
def State.imageTable (s : State) (p : PartId) (image : Word) (off cnt size : Nat) : Except (Option Nat) (State × List Nat) :=
  if cnt = 0 then .ok (s, [])
  else match s.hwRead p (image + BitVec.ofNat 64 off) (cnt * size) with
    | .error e => .error e.line
    | .ok (s, bs) => .ok (s, groupsOf size cnt bs)
/-- A kernel of an image, where R85 does not reject it. -/
def State.readKernel (s : State) (p : PartId) (image : Word) (i : Nat) : Except (Option Nat) (State × Kernel × List FootArg) := do
  let (s, ds) ← s.imageTable p image (64 + 128 * i) 1 128
  let x := ds.headD 0
  if !kernelOk x then .error none
  let (s, ps) ← s.imageTable p image (fieldOf x 448 32) (fieldOf x 480 32) 8
  let (s, fs) ← s.imageTable p image (fieldOf x 384 32) (fieldOf x 416 32) 8
  let (s, ws) ← s.imageTable p image (fieldOf x 320 32) (fieldOf x 352 32) 4
  if fs.any (fun e => fieldOf e 34 30 != 0 || fieldOf e 32 2 == 0) then .error none
  .ok (s, kernelOf x ps ws, fs.map (fun e => ⟨fieldOf e 32 2, fieldOf e 0 16, fieldOf e 16 16⟩))
/-- Every kernel of an image, in order. -/
def State.readKernels (s : State) (p : PartId) (image : Word) : Nat → Nat → Except (Option Nat) (State × List (Kernel × List FootArg))
  | 0, _ => .ok (s, [])
  | n + 1, i =>
    match s.readKernel p image i with
    | .error l => .error l
    | .ok (s, k) => match State.readKernels s p image n (i + 1) with
      | .error l => .error l
      | .ok (s, ks) => .ok (s, k :: ks)
/-- An image's kernels (R85). -/
def State.readImage (s : State) (p : PartId) (image : Word) : Except (Option Nat) (State × List (Kernel × List FootArg)) :=
  match s.imageTable p image 0 1 64 with
  | .error l => .error l
  | .ok (s, hs) =>
    let h := hs.headD 0
    if fieldOf h 0 32 ≠ 0x4D49584B ∨ fieldOf h 32 32 ≠ 1 ∨ fieldOf h 320 192 ≠ 0 then .error none
    else s.readKernels p image (fieldOf h 64 64) 0

/-- A launch record's own fields keep to R330. -/
def recordOk (addr : Word) (x : Nat) : Bool :=
  fieldOf x 960 1088 == 0 && fieldOf x 24 40 == 0 && fieldOf x 12 4 == 0 && fieldOf x 5 3 == 0 && fieldOf x 16 8 == 1 &&
  addr.toNat % 256 == 0 && fieldOf x 448 64 != 0 && fieldOf x 448 6 == 0 && fieldOf x 256 6 == 0 && fieldOf x 384 3 == 0 &&
  fieldOf x 512 3 == 0 && fieldOf x 640 6 == 0 && fieldOf x 704 6 == 0 &&
  (if fieldOf x 896 32 = 0 then fieldOf x 928 32 == 0 else decide (1 ≤ fieldOf x 928 32 ∧ fieldOf x 928 32 ≤ 2048))
/-- A stage entry's own limits (R329). -/
def stageOk (i x : Nat) : Bool :=
  let mn := fieldOf x 16 11
  let mx := fieldOf x 32 11
  fieldOf x 261 251 == 0 && fieldOf x 43 21 == 0 && fieldOf x 27 5 == 0 && fieldOf x 8 8 == 0 &&
  decide (1 ≤ mn ∧ mn ≤ mx ∧ mx ≤ 1024 ∧ 1 ≤ fieldOf x 64 32) &&
  (if i = 0 then fieldOf x 256 5 == 0 && fieldOf x 192 64 == 0 && fieldOf x 96 32 != 0
   else decide (1 ≤ fieldOf x 256 5 ∧ fieldOf x 256 5 ≤ 16) && fieldOf x 192 6 == 0)
/-- A stage from its entry and kernel. -/
def stageFrom (x : Nat) (k : Kernel) : Stage :=
  { kernIx := fieldOf x 0 8, kern := k, min := fieldOf x 16 11, max := fieldOf x 32 11, shares := BitVec.ofNat 32 (fieldOf x 64 32)
    supersteps := BitVec.ofNat 32 (fieldOf x 96 32), bellint := wordOf x 128, qbase := wordOf x 192, qlog2 := fieldOf x 256 5 }
/-- The stages of a record, from their entries and the image's kernels. -/
def stagesFrom (ks : List (Kernel × List FootArg)) : Nat → List Nat → Option (List Stage)
  | _, [] => some []
  | i, x :: xs =>
    match ks[fieldOf x 0 8]? with
    | none => none
    | some (k, _) =>
      if !stageOk i x || k.stage.toNat != i then none
      else (stagesFrom ks (i + 1) xs).map (stageFrom x k :: ·)
/-- The footprint entries of the kernels that the stages run. -/
def footsFrom (ks : List (Kernel × List FootArg)) (xs : List Nat) : List FootArg :=
  xs.flatMap (fun x => match ks[fieldOf x 0 8]? with | some (_, fs) => fs | none => [])

/-- A launch record checked by R330: the launch as it stands before it starts. -/
def State.checkRecord (s : State) (p : PartId) (addr : Word) (bs : List Byte) : Except (Option Nat) (State × Launch) := do
  let x := leNat bs
  if !recordOk addr x then .error none
  let n := fieldOf x 8 4 + 1
  let (s, es) ← s.imageTable p (wordOf x 256) 0 n 64
  let (s, ks) ← s.readImage p (wordOf x 64)
  let sts ← match stagesFrom ks 0 es with | some x => .ok x | none => .error none
  let l : Launch :=
    { part := p, prio := fieldOf x 0 3, fuse := fieldOf x 3 1 == 1, immok := fieldOf x 4 1 == 1, self := addr
      image := wordOf x 64, args := wordOf x 128, seed := wordOf x 192, grouptab := wordOf x 320, donecnt := wordOf x 384
      record := wordOf x 448, waitcnt := wordOf x 512, waittgt := wordOf x 576, waitrec := [wordOf x 640, wordOf x 704]
      deadline := wordOf x 768, hang := wordOf x 832, span := BitVec.ofNat 32 (fieldOf x 896 32)
      spandev := BitVec.ofNat 32 (fieldOf x 928 32), stages := sts
      footArgs := footsFrom ks es }
  .ok (s, l)

/-! ### LAUNCH and SPAWN (R341, R342) -/

/-- How an instruction ends on a record that is no good (R341): 0x180, or 0x1E0 where a line of what it names failed its MAC (R401). -/
def badRecord (addr : Word) (l : Option Nat) : Stop := match l with | some l => .mac l addr accRead | none => .trap 0x180 addr
/-- The record at g[a], read for the desk after its earlier accesses (R341), and checked (R330). -/
def State.takeRecord (s : State) (addr : Word) : Except Stop (State × List Byte × Launch) := do
  if addr.toNat % 256 ≠ 0 then .error (.trap 0x180 addr)
  s.released
  let (s, ps) ← s.access (s.who s.d) addr 256 accRead
  s.homeClear ps
  let (s, bs, bad) ← s.readMac s.d.part addr ps false accRead
  if bad then
    -- the first of its lines that is poisoned (R365)
    let i := ((List.range 4).find? (fun i => s.mem.poison.contains ((addrOfParts ps).toNat / 64 + i))).getD 0
    .error (.trap 0x1C0 (addr + BitVec.ofNat 64 (64 * i)))
  match s.checkRecord s.d.part addr bs with
  | .error e => .error (badRecord addr e)
  | .ok (s, l) => .ok (s, bs, l)
/-- A record is put into a launch queue (R329, R341), where the words of the queue can be reached. -/
def State.publish (s : State) (p : PartId) (q : LQueue) (bs : List Byte) : Except (Option Nat) (State × Word) :=
  match s.hwWord p q.tail with
  | .error e => .error e.line
  | .ok (s, tail) => match s.hwWord p q.head with
    | .error e => .error e.line
    | .ok (s, head) =>
      if 2 ^ q.log2 ≤ (tail - head).toNat then .ok (s, BitVec.allOnes 64)
      else
        let s := s.hwWrite p (q.ring + BitVec.ofNat 64 (256 * (tail.toNat % 2 ^ q.log2))) bs
        .ok (s.counterAdd (s.hwWho p) q.tail 1, tail)
/-- A launch-queue descriptor (R329); one whose depth or ring address lies outside its limits makes no queue. -/
def queueOfDesc (x : Nat) : Option LQueue :=
  let n := fieldOf x 64 5
  if n = 0 ∨ 12 < n ∨ fieldOf x 0 8 ≠ 0 then none
  else some { ring := wordOf x 0, log2 := n, hostfed := fieldOf x 72 1 == 1, tail := wordOf x 128, head := wordOf x 192 }
/-- The descriptors that LQTAB names are loaded where the partition has none yet (R329, R397). -/
def State.loadQueues (s : State) (p : PartId) : State :=
  let t : Word := (tget s.sys.records p.toNat 0).extractLsb' 128 64
  if t = 0 || !(s.partAt p).queues.isEmpty then s
  else match s.hwRead p t 512 with
    | .error e => s.spoilAt e.line
    | .ok (s, bs) =>
      let qs := (List.range 16).filterMap (fun i => (queueOfDesc (leNat ((bs.drop (32 * i)).take 32))).map (fun q => (i, q)))
      s.setPart p { s.partAt p with queues := qs }
/-- LAUNCH (R341). -/
def launch (b a d : GReg) (s : State) : Except Stop State := do
  let t ← s.d.take 0 [a, b] [d] 2
  let addr := t.x 0
  let s := s.loadQueues s.d.part
  match (if (t.x 1).toNat ≤ 15 then tget? (s.partAt s.d.part).queues (t.x 1).toNat else none) with
  | none => .error (.trap 0x180 addr)
  | some q =>
    if q.hostfed then .error (.trap 0x180 addr)
    let (s, bs, _) ← s.takeRecord addr
    match s.publish s.d.part q bs with
    | .error e => .error (badRecord addr e)
    | .ok (s, v) => .ok (s.setD (t.d.pushG d v false))
/-- LAUNCH (R341). -/
def execLaunch (b a d : GReg) (s : State) := finish (heldBack (launch b a d)) s

/-- Children of a launch that have not completed. -/
def State.childrenOf (s : State) (l : Nat) : List (Nat × Launch) :=
  s.launches.filter (fun y => y.2.parent == some l && y.2.status == .running)
/-- SPAWN (R342). -/
def spawn (a d : GReg) (s : State) : Except Stop State := do
  let t ← s.d.take 0 [a] [d] 1
  let addr := t.x 0
  let (s, _, y) ← s.takeRecord addr
  match s.d.launch with
  | none => .error (.trap 0x180 addr)
  | some l =>
    let x := s.launchAt l
    if 64 ≤ (s.childrenOf l).length then .ok (s.setD (t.d.pushG d (BitVec.allOnes 64) false))
    else
      let s := s.setLaunch s.launches.length { y with parent := some l, prio := x.prio }
      let s := s.setLaunch l { x with spawned := x.spawned + 1 }
      .ok (s.setD (t.d.pushG d (BitVec.ofNat 64 x.spawned) false))
/-- SPAWN (R342). -/
def execSpawn (a d : GReg) (s : State) := finish (heldBack (spawn a d)) s

end Sys2Proof.Machine
end

