-- ==== Sys2Proof/Machine/System.lean ====
section
/-! DEFINITION. The system registers with MFS and MTS (R362, R363), TRAP, XRET, IDLE and the asynchronous traps (R356, R360, R361). -/

namespace Sys2Proof.Machine

/-! ### Registers (R363) -/

/-- A monitor's word by MONSEL's word field (R390): 0 for a monitor that is off. -/
def Monitor.word (m : Monitor) (w : Nat) : Word :=
  if !m.ctl.getLsbD 0 then 0
  else if w = 0 then m.min else if w = 1 then m.max else if w = 2 then m.count
  else if h : 3 ≤ w ∧ w ≤ 18 then m.bins[w - 3]'(by omega) else 0
/-- KSTATE (R363): the merge list's length and the bound handles. -/
def KeyUnit.kstate (k : KeyUnit) : Word :=
  BitVec.ofNat 64 (k.merge.length * 256 +
    ((List.range 4).filter (fun n => match k.handles.toList[n]? with | some (some _) => true | _ => false)).foldl (fun a n => a + 2 ^ n) 0)
/-- A partition's monitor. -/
def Partition.mon (p : Partition) (n : BitVec 5) : Monitor := p.mons[n.toNat]'n.isLt
/-- The bin of a sample (R390). -/
def binOf (b v : Nat) : Nat := min 15 (Nat.log2 v - b)
/-- A sample enters a monitor (R390): nothing where it is off or its source is none. -/
def Monitor.sample (m : Monitor) (v : Word) : Monitor :=
  if !m.ctl.getLsbD 0 || m.ctl.getLsbD 4 then m
  else
    let i := binOf (m.ctl.extractLsb' 16 5).toNat v.toNat
    { m with
      min := if m.count = 0 ∨ v.toNat < m.min.toNat then v else m.min
      max := if m.count = 0 ∨ m.max.toNat < v.toNat then v else m.max
      count := if m.count = BitVec.allOnes 64 then m.count else m.count + 1
      bins := Vector.ofFn (fun j => if j.val = i then m.bins[j] + 1 else m.bins[j]) }
/-- SOURCE of a monitor. -/
def Monitor.source (m : Monitor) : Nat := (m.ctl.extractLsb' 1 4).toNat
/-- Whether a monitor watches a source at one of some dies (R390). -/
def Monitor.sees (m : Monitor) (source : Nat) (dies : List Nat) : Bool :=
  let die := (m.ctl.extractLsb' 8 8).toNat
  m.ctl.getLsbD 0 && m.source == source && (die == 255 || dies.contains die)
/-- An event enters every monitor of the partition that watches its source there. -/
def Partition.sampled (p : Partition) (source : Nat) (dies : List Nat) (v : Word) : Partition :=
  { p with mons := p.mons.map (fun m => if m.sees source dies then m.sample v else m) }
/-- The events of a partition that have taken place enter its monitors; how long each took is free. -/
def State.settle (s : State) (p : PartId) : State :=
  let es := s.mem.events.filter (fun e => e.1 == p.toNat)
  if es.isEmpty then s
  else
    let x := es.zipIdx.foldl (fun (x : Partition) e => x.sampled e.1.2.1 e.1.2.2 ((Config.freeV s.tick (2 ^ 22 + e.2)).setWidth 64)) (s.partAt p)
    { s.setPart p x with mem := { s.mem with events := s.mem.events.filter (fun e => e.1 != p.toNat) } }
/-- What the monitors watch, after a write of one of their control registers. -/
def State.rewatch (s : State) : State :=
  { s with mem := { s.mem with watch := s.parts.flatMap (fun p =>
    (p.2.mons.toList.filter (fun m => m.ctl.getLsbD 0 && decide (m.source < 5))).map (fun m => (p.1, m.source))) } }
/-- Reads a register of the desk that moves; none where its number is not assigned. -/
def State.readReg (s : State) (r : BitVec 12) : Option Word :=
  let d := s.d
  let p := s.partAt d.part
  match r.toNat with
  | 0x000 => some (d.xcause.setWidth 64)
  | 0x001 => some d.xval
  | 0x002 => some (d.xpc.setWidth 64)
  | 0x003 => some (d.xstat.setWidth 64)
  | 0x004 => some (d.xvec.setWidth 64)
  | 0x005 => some d.xscr
  | 0x010 => some (d.fflags.setWidth 64)
  | 0x011 => some (d.frm.setWidth 64)
  | 0x012 => some d.srseed
  | 0x020 => some (s.core.setWidth 64)
  | 0x021 => some (s.desk.setWidth 64)
  | 0x022 => some (d.ctxid.setWidth 64)
  | 0x023 => some (d.part.setWidth 64)
  | 0x024 => some d.sscnt
  | 0x025 => some (d.shareIx.setWidth 64)
  | 0x026 => some (d.shareCt.setWidth 64)
  | 0x027 => some (d.stage.setWidth 64)
  | 0x028 => some d.phase
  | 0x029 => some d.cntbase
  | 0x030 => some ((s.l1Gen s.core).setWidth 64)
  | 0x031 => some d.vprog
  | 0x040 => some (d.bb.buf.extractLsb' 0 64)
  | 0x041 => some (d.bb.buf.extractLsb' 64 64)
  | 0x042 => some d.bb.cnt
  | 0x043 => some (d.bb.ptr.setWidth 64)
  | 0x044 => some (d.bb.stop.setWidth 64)
  | 0x050 => some (d.lc[0].count.setWidth 64)
  | 0x051 => some (d.lc[1].count.setWidth 64)
  | 0x060 => some s.c.key.kstate
  | 0x070 => some d.icnt
  | 0x100 => some (d.svec.setWidth 64)
  | 0x101 => some d.sscr
  | 0x108 => some (d.ucause.setWidth 64)
  | 0x109 => some d.uval
  | 0x10A => some (d.upc.setWidth 64)
  | 0x10B => some (d.ustat.setWidth 64)
  | 0x110 => some (d.rtreq.setWidth 64)
  | 0x180 => some p.ptroot
  | 0x181 => some p.sptroot
  | 0x182 => some (d.tfinfo.setWidth 64)
  | 0x191 => some (d.bp[0].setWidth 64)
  | 0x192 => some (d.bp[1].setWidth 64)
  | 0x193 => some (d.bp[2].setWidth 64)
  | 0x194 => some (d.bp[3].setWidth 64)
  | 0x195 => some d.stepcnt
  | 0x1A0 => some (p.rcctl.setWidth 64)
  | 0x1A1 => some p.rcring
  | 0x1A2 => some p.rcseq
  | 0x1A8 => some (p.ckctl.setWidth 64)
  | 0x1A9 => some p.ckarea
  | 0x1B0 => some (p.monsel.setWidth 64)
  | 0x1B1 => some ((p.mon (p.monsel.extractLsb' 0 5)).word (p.monsel.extractLsb' 5 5).toNat)
  | n => if 0x1C0 ≤ n ∧ n ≤ 0x1DF then some (p.mon (BitVec.ofNat 5 (n - 0x1C0))).ctl else none

/-- A write of MONCTLn in a window of 2^16 clk (R390): its fields, and a monitor cleared where EN is set. -/
def Monitor.write (m : Monitor) (x : Word) (window : Nat) : Monitor :=
  let c := x &&& 0x1FFF1F#64
  if c.getLsbD 0 then { ctl := c, last := window } else { m with ctl := c }
/-- RCCTL after a write (R385): other values than 0 and 10 to 24 leave K unchanged. -/
def rcctlWrite (old : BitVec 5) (x : Word) : BitVec 5 :=
  let k := x.extractLsb' 0 5
  if k = 0 ∨ (10 ≤ k.toNat ∧ k.toNat ≤ 24) then k else old
/-- FRM after a write (R55): 5 to 7 leave MODE unchanged. -/
def frmWrite (old : BitVec 4) (x : Word) : BitVec 4 :=
  let m := x.extractLsb' 0 3
  x.extractLsb' 3 1 ++ (if m.toNat ≤ 4 then m else old.extractLsb' 0 3)
/-- Writes a loop's count (R95). -/
def Desk.setCount (d : Desk) (n : Fin 2) (x : Word) : Desk := { d with lc := d.lc.set n.val { d.lc[n] with count := x.extractLsb' 0 32 } n.isLt }
/-- Writes a register of the desk that moves: RW and W1C fields take the value, RO and RZ fields ignore it (R3, R362); none where the
number is not assigned. -/
def State.writeReg (s : State) (r : BitVec 12) (x : Word) : Option State :=
  let d := s.d
  let p := s.partAt d.part
  let desk (d : Desk) : Option State := some (s.setD d)
  let part (p : Partition) : Option State := some (s.setPart d.part p)
  match r.toNat with
  | 0x002 => desk { d with xpc := x.extractLsb' 0 57 }
  | 0x004 => desk { d with xvec := x.extractLsb' 1 56 ++ 0#1 }
  | 0x005 => desk { d with xscr := x }
  | 0x010 => desk { d with fflags := x.extractLsb' 0 6 }
  | 0x011 => desk { d with frm := frmWrite d.frm x }
  | 0x012 => desk { d with srseed := if x = 0 then 1 else x }
  | 0x031 => desk { d with vprog := x &&& 15#64 }
  | 0x040 => desk { d with bb := { d.bb with buf := d.bb.buf.extractLsb' 64 64 ++ x } }
  | 0x041 => desk { d with bb := { d.bb with buf := x ++ d.bb.buf.extractLsb' 0 64 } }
  | 0x042 => desk { d with bb := { d.bb with mode := x.extractLsb' 8 2, count := x.extractLsb' 0 8 } }
  | 0x043 => desk { d with bb := { d.bb with ptr := x.extractLsb' 0 19 } }
  | 0x044 => desk { d with bb := { d.bb with stop := x.extractLsb' 0 19 } }
  | 0x050 => desk (d.setCount 0 x)
  | 0x051 => desk (d.setCount 1 x)
  | 0x100 => desk { d with svec := x.extractLsb' 1 56 ++ 0#1 }
  | 0x101 => desk { d with sscr := x }
  | 0x108 => desk { d with ucause := x.extractLsb' 0 9 }
  | 0x109 => desk { d with uval := x }
  | 0x10A => desk { d with upc := x.extractLsb' 0 57 }
  | 0x10B => desk { d with ustat := x.extractLsb' 0 13 &&& 0x1F03#13 }
  | 0x110 => desk { d with rtreq := d.rtreq &&& ~~~(x.extractLsb' 0 16) }
  | 0x180 => part { p with ptroot := x &&& 0x000FFFFFFFFFF001#64 }
  | 0x181 => part { p with sptroot := x &&& 0x000FFFFFFFFFF001#64 }
  | 0x191 => desk { d with bp := d.bp.set 0 (x.extractLsb' 0 57) }
  | 0x192 => desk { d with bp := d.bp.set 1 (x.extractLsb' 0 57) }
  | 0x193 => desk { d with bp := d.bp.set 2 (x.extractLsb' 0 57) }
  | 0x194 => desk { d with bp := d.bp.set 3 (x.extractLsb' 0 57) }
  | 0x195 => desk { d with stepcnt := x, parked := false }
  | 0x1A0 => part { p with rcctl := rcctlWrite p.rcctl x }
  | 0x1A1 => part { p with rcring := x &&& 0x01FFFFFFFFFFF03F#64 }
  | 0x1A8 => part { p with ckctl := x.extractLsb' 0 6 }
  | 0x1A9 => part { p with ckarea := x }
  | 0x1B0 => part { p with monsel := x.extractLsb' 0 10 }
  | n =>
    if 0x1C0 ≤ n ∧ n ≤ 0x1DF then
      let i := BitVec.ofNat 5 (n - 0x1C0)
      let s := s.settle d.part
      let p := s.partAt d.part
      some (s.setPart d.part { p with mons := p.mons.set i.toNat ((p.mon i).write x (Config.clkAt s.tick / 2 ^ 16)) i.isLt }).rewatch
    else (s.readReg r).map (fun _ => s)

/-- MFS (R362). -/
def mfs (r : BitVec 12) (d : GReg) (s : State) : Except Stop State := do
  if s.d.user && decide (0x100 ≤ r.toNat) then .error (.trap 0x003 s.d.xword)
  s.d.limG d
  s.d.roomG d
  -- MONDATA shows what every event so far has left
  let s := if r = 0x1B1 then s.settle s.d.part else s
  match s.readReg r with
  | none => .error (.trap 0x001 s.d.xword)
  | some x =>
    if r = 0x012 && s.c.mx.srPending s.desk then .error (.wait .matrix)
    .ok (s.setD (s.d.pushG d x false))
/-- MFS (R362); one of SRSEED waits for the desk's earlier stochastic MOUTs (R168). -/
def execMfs (r : BitVec 12) (d : GReg) (s : State) := finish (heldBack (mfs r d)) s
/-- MTS (R362): privilege, assignment and poison, in this order. -/
def mts (r : BitVec 12) (a : GReg) (s : State) : Except Stop State := do
  if s.d.user && decide (0x100 ≤ r.toNat) then .error (.trap 0x003 s.d.xword)
  s.d.limG a
  s.d.await [a] [] [] []
  if (s.readReg r).isNone then .error (.trap 0x001 s.d.xword)
  let t ← s.d.take 0 [a] [] 1
  match (s.setD t.d).writeReg r (t.x 0) with
  | none => .error (.trap 0x001 s.d.xword)
  | some s => .ok s
/-- MTS (R362). -/
def execMts (r : BitVec 12) (a : GReg) (s : State) := finish (heldBack (mts r a)) s

/-- FRM_WRITE (R55). -/
def execFrmWrite (a : GReg) (s : State) := execMts 0x011 a s
/-- FFLAGS_WRITE (R61). -/
def execFflagsWrite (a : GReg) (s : State) := execMts 0x010 a s
/-- SRSEED_WRITE (R59). -/
def execSrseedWrite (a : GReg) (s : State) := execMts 0x012 a s
/-- LC_WRITE (R95). -/
def execLcWrite (n : BitVec 1) (a : GReg) (s : State) := execMts (0x050 + n.setWidth 12) a s
/-- VPROG_WRITE (R234). -/
def execVprogWrite (a : GReg) (s : State) := execMts 0x031 a s
/-- BIT_BUFFER_WRITE (R139): registers 0x040 to 0x044. -/
def execBitBufferWrite (r : BitVec 3) (a : GReg) (s : State) := execMts (0x040 + (if r.toNat ≤ 4 then r.setWidth 12 else 4)) a s
/-- RTREQ_WRITE (R361). -/
def execRtreqWrite (a : GReg) (s : State) := execMts 0x110 a s
/-- MONCTL_WRITE (R390). -/
def execMonctlWrite (n : BitVec 5) (a : GReg) (s : State) := execMts (0x1C0 + n.setWidth 12) a s
/-- MONDATA_READ (R390). -/
def execMondataRead (d : GReg) (s : State) := execMfs 0x1B1 d s
/-- RCCTL_WRITE (R385). -/
def execRcctlWrite (a : GReg) (s : State) := execMts 0x1A0 a s
/-- CKCTL_WRITE (R388). -/
def execCkctlWrite (a : GReg) (s : State) := execMts 0x1A8 a s
/-- STEPCNT_WRITE (R389). -/
def execStepcntWrite (a : GReg) (s : State) := execMts 0x195 a s

/-! ### TRAP and XRET (R360) -/

/-- TRAP (R360): XPC is the TRAP itself, so that its own words do not move the desk on. -/
def trapN (n : BitVec 4) (a : GReg) (s : State) : Except Stop State := do
  let t ← s.d.take 0 [a] [] 1
  .error (.trap (BitVec.ofNat 9 (0x1F0 + n.toNat)) (t.x 0))
/-- TRAP (R360). -/
def execTrap (n : BitVec 4) (a : GReg) (s : State) := finish (heldBack (trapN n a)) s

/-- A stopped remote command whose fault was raised to its desk once more goes on as the desk returns from that report (R178). -/
def State.resumeRemote (s : State) : State :=
  let d := s.d
  let back (c : MCmd) : Bool := c.remote.isSome && c.st == .stopped && c.told == .again s.desk d.xcause d.xval &&
    !d.reports.any (fun r => r.cause == d.xcause && r.xval == d.xval)
  s.setMx { s.c.mx with queue := s.c.mx.queue.map (fun c => if back c then { c with st := .queued, told := .none } else c) }
/-- XRET and XRET.skip (R360).  A follower that skips drops the word that trapped, and a leader that skips has it behind itself (R111); an
asynchronous report's return resumes the remote command that it told of (R178); in user mode it retires as any instruction (R387). -/
def xretTo (skip : Bool) (s : State) : Host.Outcome State Fault Refusal :=
  let d := s.d
  let t : Word := d.xpc.setWidth 64 + (if skip && !xASYNC d.xstat then (if xSHORT d.xstat then 2 else 4) else 0)
  if d.gen.isSome then .next (s.hold .held)
  else if d.user && !xUH d.xstat then .next (s.stopWith (.trap 0x003 d.xword))
  else if t.getLsbD 0 then .next (s.stopWith (.trap 0x005 t))
  else
    let skips := skip && !xASYNC d.xstat && !(xPUH d.xstat && !d.user)
    let e := d.xret skip
    let e := { e with pc := t, jump := none, wait := none, latch := none, icnt := if d.user then d.icnt + 1 else d.icnt
                      fwd := (match d.gang with | .follower _ => if skips then d.fwd.drop 1 else d.fwd | _ => d.fwd)
                      sent := if skips then false else d.sent }
    let s := (s.breakAt d).setD e
    .next (if xASYNC d.xstat && !d.user then s.resumeRemote else s)
/-- XRET (R360). -/
def execXret (s : State) := xretTo false s
/-- XRET.skip (R360). -/
def execXretSkip (s : State) := xretTo true s

/-! ### IDLE and asynchronous traps (R356, R361) -/

/-- IDLE (R361): the desk is not ready until RTREQ is set or its time has passed. -/
def execIdle (a : GReg) (s : State) : Host.Outcome State Fault Refusal :=
  if s.d.user then .next (s.stopWith (.trap 0x003 s.d.xword))
  else match s.d.take 0 [a] [] 1 with
  | .error e => .next (s.stopWith e)
  | .ok t =>
    if s.d.rtreq ≠ 0 then .next (s.setD t.d).retire
    else
      let until_ := if t.x 0 = 0 then 0 else Config.clkAt s.tick + (t.x 0).toNat
      .next ((s.setD { t.d with idleUntil := until_ }).hold .idle).switchDesk
/-- IDLE_WAKE (R361): the desk goes on at the next instruction. -/
def execIdleWake (c : CoreId) (i : DeskId) (s : State) : Host.Outcome State Fault Refusal :=
  event (fun s =>
    let d := s.deskAt c i
    if d.wait == some .idle && (d.rtreq != 0 || (d.idleUntil != 0 && decide (d.idleUntil ≤ Config.clkAt s.tick))) then
      let idle := s.idle c
      some ((s.setDeskAt c i d.retire).wakes idle c i)
    else none) s

/-- A desk whose asynchronous reports may be taken: at an instruction boundary in user mode (R356). -/
def Desk.mayReport (d : Desk) : Bool := d.occ && d.user && !d.stopped && d.pend.isNone && d.cw.isNone && !d.away15 && !d.reports.isEmpty
/-- ASYNC_TRAP (R356): the oldest report of a desk enters supervisor mode, with XPC the next instruction. -/
def execAsyncTrap (c : CoreId) (i : DeskId) (s : State) : Host.Outcome State Fault Refusal :=
  event (fun s =>
    let s := { s with core := c, desk := i }
    let d := s.d
    match d.reports with
    | r :: rest =>
      if d.mayReport then some ((s.setD { d with reports := rest }).takeTrap r.cause r.xval r.acc r.tf true) else none
    | [] => none) s

end Sys2Proof.Machine
end

