-- ==== Sys2Proof/Machine/Area.lean ====
section
/-! DEFINITION. The forms in which a save area holds slots, queued matrix commands, held key commands and tiles (R367).  The manual names
what each part holds; where the fields stand within a part is the model's choice (log 121). -/

namespace Sys2Proof.Machine

/-! ### Fields -/

/-- A 64-bit field. -/
def b8 (x : Word) : List Byte := natLe x.toNat 8
/-- Bytes filled with zeros up to a length. -/
def padTo (n : Nat) (bs : List Byte) : List Byte := bs ++ List.replicate (n - bs.length) 0
/-- A 64-bit field of a part's bytes. -/
def fld (bs : List Byte) (off : Nat) : Word := BitVec.ofNat 64 (leNat ((bs.drop off).take 8))
/-- A field of other width. -/
def fldN (bs : List Byte) (off n : Nat) : Nat := leNat ((bs.drop off).take n)
/-- A value that may be absent, of fewer than 16 bits: bit 15 says that it is there. -/
def optNat (x : Option Nat) : Nat := match x with | some n => n % 2 ^ 15 + 2 ^ 15 | none => 0
/-- Such a value from its code. -/
def optOf (x : Nat) : Option Nat := if 2 ^ 15 ≤ x then some (x - 2 ^ 15) else none

/-! ### Slots (R158, R168, R175 to R183) -/

/-- A kind's code, 0 for an EMPTY slot. -/
def famCode : Option Fam → Nat
  | none => 0 | some .f => 1 | some .i => 2 | some .b => 3
/-- A kind from its code. -/
def famFrom (n : Nat) : Option Fam := match n with | 1 => some .f | 2 => some .i | 3 => some .b | _ => none
/-- An epilogue's three words: control with rounding mode and SCALE, BIASADDR, STATSADDR. -/
def Epilogue.words (e : Epilogue) : Word × Word × Word :=
  (BitVec.ofNat 64 (e.ctl.toNat + e.mode.toNat * 2 ^ 12 + 2 ^ 15 + e.scale.toNat * 2 ^ 32), e.bias, e.stats)
/-- An epilogue from its words; none where there is none. -/
def epiFrom (a b c : Word) : Option Epilogue :=
  if a.getLsbD 15 then some ⟨a.extractLsb' 0 10, a.extractLsb' 32 32, b, c, a.extractLsb' 12 3⟩ else none
/-- A mask's code and bits. -/
def MMask.code : MMask → Nat × Nat
  | .row m => (0, m.toNat)
  | .blk m => (1, m.toNat)
/-- A mask from its code and bits. -/
def maskFrom (k n : Nat) : MMask := if k = 1 then .blk (BitVec.ofNat 64 n) else .row (BitVec.ofNat 128 n)
/-- The shape word of R167. -/
def Slot.shapeWord (x : Slot) : Nat := (x.m - 1) + (x.n - 1) * 2 ^ 16 + (famCode x.kind - 1) * 2 ^ 32
/-- A slot's 128 bytes, but for its elements. -/
def Slot.bytes (x : Slot) : List Byte :=
  let e : Word × Word × Word := match x.epi with | some e => e.words | none => (0, 0, 0)
  let dead (i : Nat) : Cause × Word := x.dead.getD i (0, 0)
  natLe x.shapeWord 8 ++ natLe (famCode x.kind + (if x.bad then 256 else 0)) 8 ++ b8 e.1 ++ b8 e.2.1 ++ b8 e.2.2 ++
  natLe x.prog.toNat 8 ++ natLe x.mask.code.1 8 ++ natLe x.mask.code.2 16 ++
  x.cnt.toList.flatMap (fun c => natLe c.toNat 4) ++ x.thr.toList.flatMap (fun t => natLe t.toNat 2) ++
  natLe (x.crossed.toNat + 8 * x.flags.toNat) 1 ++ natLe x.dead.length 1 ++
  natLe (optNat (x.fault.map (·.cause.toNat))) 2 ++ natLe (optNat (x.fault.bind (fun f => f.tf.map (·.toNat)))) 2 ++
  b8 (match x.fault with | some f => f.xval | none => 0) ++ b8 (dead 0).2 ++ b8 (dead 1).2 ++
  natLe (dead 0).1.toNat 2 ++ natLe (dead 1).1.toNat 2 ++ natLe (match x.fault with | some f => f.acc.toNat | none => 0) 4
/-- The bytes that a slot's elements take. -/
def Slot.space (x : Slot) : Nat := if x.kind.isNone then 0 else (4 * x.m * x.n + 63) / 64 * 64
/-- A slot's elements, row by row. -/
def Slot.elems (x : Slot) : List Byte :=
  if x.kind.isNone then []
  else padTo x.space ((List.range x.m).flatMap (fun i => (List.range x.n).flatMap (fun j => natLe (tget x.cells (128 * i + j) 0).toNat 4)))
/-- A slot from its 128 bytes; of more than two dead reports the unit keeps the rest. -/
def slotFrom (old : Slot) (bs : List Byte) : Slot :=
  let k := famFrom (fldN bs 8 1)
  let dead (i : Nat) : Cause × Word := (BitVec.ofNat 9 (fldN bs (120 + 2 * i) 2), fld bs (104 + 8 * i))
  let n := fldN bs 91 1
  { kind := k
    m := if k.isNone then 0 else fldN bs 0 2 % 128 + 1
    n := if k.isNone then 0 else fldN bs 2 2 % 128 + 1
    bad := fldN bs 9 1 % 2 == 1
    epi := epiFrom (fld bs 16) (fld bs 24) (fld bs 32)
    prog := BitVec.ofNat 17 (fldN bs 40 8)
    mask := maskFrom (fldN bs 48 8) (fldN bs 56 16)
    cnt := Vector.ofFn (fun i => BitVec.ofNat 32 (fldN bs (72 + 4 * i.val) 4))
    thr := Vector.ofFn (fun i => BitVec.ofNat 16 (fldN bs (84 + 2 * i.val) 2))
    crossed := BitVec.ofNat 3 (fldN bs 90 1)
    flags := BitVec.ofNat 3 (fldN bs 90 1 / 8)
    fault := (optOf (fldN bs 92 2)).map (fun c => ⟨BitVec.ofNat 9 c, fld bs 96, BitVec.ofNat 2 (fldN bs 124 4), (optOf (fldN bs 94 2)).map (BitVec.ofNat 9)⟩)
    dead := ((List.range (min n 2)).map dead) ++ (if 2 < n then old.dead.drop 2 else []) }
/-- Its elements from their bytes; what a product under way has committed outside the shape is kept by the unit (R175, R176). -/
def Slot.fill (x : Slot) (kept : Table (BitVec 32)) (bs : List Byte) : Slot :=
  let own := ((List.range x.m).flatMap (fun i => (List.range x.n).map (fun j =>
      (128 * i + j, BitVec.ofNat 32 (fldN bs (4 * (x.n * i + j)) 4))))).filter (fun e => e.2 != 0)
  let past := kept.filter (fun e => decide (x.m ≤ e.1 / 128) || decide (x.n ≤ e.1 % 128))
  { x with cells := past.foldl (fun t e => tset t e.1 e.2) own }

/-! ### Matrix commands (R163, R173) -/

/-- A guard's code: 0 unguarded or bound true, 1 bound false, 8 + k waiting for slot k. -/
def Bind.code : Bind → Nat
  | .yes => 0 | .no => 1 | .slot k => 8 + k.toNat
/-- A guard from its code. -/
def bindFrom (n : Nat) : Bind := if 8 ≤ n then .slot (BitVec.ofNat 3 (n - 8)) else if n = 1 then .no else .yes
/-- The FUNC of a command (R163). -/
def MOp.func : MOp → Nat
  | .mma sr => sr.toNat
  | .mmas => 8 | .mzero => 9 | .mldc => 10 | .mout => 11 | .mepi _ => 12 | .mmask _ => 13 | .msend .. => 15 | .mthr _ => 19
/-- A held MSEND's 64 bytes: its own record, in words that its form leaves zero the guard slot, the desk, bit 22 for a command, bit 23 for
this form, and at +56 its token. -/
def sendBytes (c : MCmd) (rec : List Byte) (tok : Word) : List Byte :=
  natLe ((recWord rec 0).toNat % 2 ^ 10 + c.bind.code * 2 ^ 10 + c.desk.toNat * 2 ^ 14 + (if c.maker.user then 2 ^ 20 else 0) + 2 ^ 22 + 2 ^ 23) 8 ++
  (rec.drop 8).take 48 ++ b8 tok
/-- Its record and token from them. -/
def sendFrom (bs : List Byte) : MOp := .msend (natLe (fldN bs 0 8 % 2 ^ 10) 8 ++ (bs.drop 8).take 48 ++ natLe 0 8) (fld bs 56)
/-- What a command's five address words hold: its operands, or the record, mask or word that it read as it issued. -/
def MCmd.args (c : MCmd) : Word × Word × Word × Word × Word :=
  match c.op with
  | .mepi e => let w := e.words; (w.1, w.2.1, w.2.2, 0, 0)
  | .mmask m => (BitVec.ofNat 64 m.code.1, BitVec.ofNat 64 (m.code.2 % 2 ^ 64), BitVec.ofNat 64 (m.code.2 / 2 ^ 64), 0, 0)
  | .mthr w => (w.setWidth 64, 0, 0, 0, 0)
  | _ => (c.a, c.la, c.b, c.lb, c.runs)
/-- How a command of a saved share stands: queued, or stopped by a fault. -/
def MCmd.standing (c : MCmd) : Nat :=
  (if c.st == .stopped then 1 else 0) + (match c.told with | .none => 0 | .desk d => 2 + 16 * d.toNat | .again d _ _ => 4 + 16 * d.toNat)
/-- A command's 64 bytes: the form of R173, with its guard slot, its desk and how it stands in the words that form leaves zero; bit 22
says that there is a command. -/
def MCmd.bytes (c : MCmd) : List Byte :=
  match c.op with
  | .msend rec tok => sendBytes c rec tok
  | _ =>
  let w := c.args
  let flags := [c.begun, c.onto, c.whole, c.bad, c.maker.user, c.remote.isSome, true]
  natLe (c.op.func + c.slot.toNat * 2 ^ 6 + (if c.acc then 2 ^ 8 else 0) + (if c.sat then 2 ^ 9 else 0) + c.bind.code * 2 ^ 10 +
    c.desk.toNat * 2 ^ 14 + (flags.zipIdx.map (fun f => if f.1 then 2 ^ (16 + f.2) else 0)).sum + c.standing * 2 ^ 24 +
    optNat (if c.st == .stopped then some c.why.cause.toNat else none) * 2 ^ 32 + c.why.acc.toNat * 2 ^ 44 + optNat (c.why.tf.map (·.toNat)) * 2 ^ 48) 8 ++
  b8 w.1 ++ b8 w.2.1 ++ b8 w.2.2.1 ++ b8 w.2.2.2.1 ++ b8 w.2.2.2.2 ++ b8 (c.remote.getD 0) ++ b8 c.why.xval
/-- The operation that a command's bytes name. -/
def opFrom (f : Nat) (bs : List Byte) : Option MOp :=
  if fldN bs 0 8 / 2 ^ 23 % 2 = 1 then some (sendFrom bs)
  else if f ≤ 4 then some (.mma (BitVec.ofNat 3 f))
  else match f with
    | 8 => some .mmas | 9 => some .mzero | 10 => some .mldc | 11 => some .mout
    | 12 => (epiFrom (fld bs 8) (fld bs 16) (fld bs 24)).map .mepi
    | 13 => some (.mmask (maskFrom (fldN bs 8 8) (fldN bs 16 16)))
    | 19 => some (.mthr (BitVec.ofNat 48 (fldN bs 8 8)))
    | _ => none
/-- A command from its bytes, at a place in the order of entry; none for no command. -/
def cmdFrom (old : Option MCmd) (core : CoreId) (part : PartId) (launch : Option Nat) (seq : Nat) (bs : List Byte) : Option MCmd :=
  let w := fldN bs 0 8
  let bit (i : Nat) : Bool := w / 2 ^ i % 2 == 1
  let st := w / 2 ^ 24 % 256
  let d : DeskId := BitVec.ofNat 2 (st / 16)
  let cause : Cause := BitVec.ofNat 9 (w / 2 ^ 32)
  if !bit 22 then none
  else if bit 23 then
    some { op := sendFrom bs, slot := 0, bind := bindFrom (w / 2 ^ 10 % 16), desk := BitVec.ofNat 2 (w / 2 ^ 14)
           maker := ⟨part, bit 20, launch, .matrix core⟩, seq := seq, held := match old with | some c => c.held | none => [] }
  else (opFrom (w % 64) bs).map (fun op =>
    { op := op, slot := BitVec.ofNat 2 (w / 2 ^ 6), acc := bit 8, sat := bit 9
      a := fld bs 8, la := fld bs 16, b := fld bs 24, lb := fld bs 32, runs := fld bs 40
      bind := bindFrom (w / 2 ^ 10 % 16), desk := BitVec.ofNat 2 (w / 2 ^ 14), maker := ⟨part, bit 20, launch, .matrix core⟩
      st := if st % 2 = 1 then .stopped else .queued, seq := seq
      begun := bit 16, onto := bit 17, whole := bit 18, bad := bit 19
      why := ⟨cause, fld bs 56, BitVec.ofNat 2 (w / 2 ^ 44), (optOf (w / 2 ^ 48)).map (BitVec.ofNat 9)⟩
      told := if st / 2 % 2 = 1 then .desk d else if st / 4 % 2 = 1 then .again d cause (fld bs 56) else .none
      remote := if bit 21 then some (fld bs 48) else none
      held := match old with | some c => c.held | none => [] })

/-! ### Held key commands (R298) and tiles (R148) -/

/-- A held key command's operands, in three words: the relation header's, the record's or no address; first row and count, or the tile's
offset; output, or mask.  KRUNS' column and JSCATTER's handle, node and TARGET are in the first word, JSCATTER's descriptor in the second. -/
def KOp.words : KOp → Nat × Nat × Word × Word × Word
  | .runs r first cnt col out => (1, col, r.head, BitVec.ofNat 64 (first + cnt * 2 ^ 32), out)
  | .isect _ out cap rec => (2, 0, rec, BitVec.ofNat 64 cap, out)
  | .scatter _ node own first rows mask tile n =>
    (3, n.toNat, BitVec.ofNat 64 (first + rows * 2 ^ 32 + node * 2 ^ 40 + (if own then 2 ^ 48 else 0)), BitVec.ofNat 64 tile, mask)
/-- A held key command's 32 bytes: kind, guard slot, desk, mode, and column or handle; then its operands. -/
def KCmd.bytes (c : KCmd) : List Byte :=
  let x := c.op.words
  natLe (x.1 + c.bind.code * 2 ^ 4 + c.desk.toNat * 2 ^ 8 + (if c.maker.user then 2 ^ 10 else 0) + x.2.1 * 2 ^ 12) 8 ++
  b8 x.2.2.1 ++ b8 x.2.2.2.1 ++ b8 x.2.2.2.2
/-- A held command as its bytes give it, with the relations, the handle's copy and the translations that the unit keeps of it. -/
def kcmdFrom (old : KCmd) (bs : List Byte) : KCmd :=
  let w := fldN bs 0 8
  { old with
    op := (match old.op with
      | .runs r _ _ _ _ => .runs r (fldN bs 16 4) (fldN bs 20 4) (w / 2 ^ 12 % 4) (fld bs 24)
      | .isect ins _ _ rec => .isect ins (fld bs 24) (fldN bs 16 8) rec
      | .scatter h _ _ _ _ _ _ n =>
        .scatter h (fldN bs 13 1 % 16) (fldN bs 14 1 % 2 == 1) (fldN bs 8 4) (fldN bs 12 1) (fld bs 24) (fldN bs 16 8) n)
    bind := bindFrom (w / 2 ^ 4 % 16), desk := BitVec.ofNat 2 (w / 2 ^ 8) }
/-- A tile entry's 8 bytes: TDEF's descriptor, with state and PRODUCER above it. -/
def Tile.bytes (t : Tile) : List Byte := natLe (t.size + t.base * 2 ^ 20 + t.st.code * 2 ^ 40 + t.prod.toNat * 2 ^ 44) 8
/-- A tile from its bytes; what the saved core filled itself, the new core fills (R155). -/
def tileFrom (was self : BitVec 4) (x : Nat) : Tile :=
  let st : TileSt := match x / 2 ^ 40 % 4 with | 0 => .empty | 1 => .filling | 2 => .ready | _ => .draining
  let p := BitVec.ofNat 4 (x / 2 ^ 44)
  { base := x / 2 ^ 20 % 2 ^ 19, size := x % 2 ^ 20, st := st, prod := if st == .filling && p == was then self else p }

end Sys2Proof.Machine
end

