-- ==== Sys2Proof/Machine/Context.lean ====
section
/-! DEFINITION. The context save area (R366, R367) with CTXSV and CTXRS (R368 to R370).  Every part is written to memory and read back;
what no field of it holds is kept beside the area (`Saved`, log 121). -/

namespace Sys2Proof.Machine

/-! ### The bytes of a save area (R366, R367) -/

/-- A guard slot's code. -/
def KSlot.code : KSlot → Nat
  | .no => 0 | .yes => 1 | .pending => 2
/-- A guard slot from its code. -/
def kslotOf (n : Nat) : KSlot := if n = 0 then .no else if n = 1 then .yes else .pending
/-- A snapshot slot (R223). -/
def Snap.bits (x : Snap) : Nat := 1 + x.vline.toNat * 2 ^ 6 + x.pline.toNat * 2 ^ 70 + x.version.toNat * 2 ^ 128
/-- The size of a desk part (R366). -/
def Kernel.deskPart (k : Kernel) : Nat := 0x880 + 64 * ((k.gregs + 7) / 8) + 64 * k.vregs + 4160
/-- The offset of its mailbox. -/
def Kernel.mailAt (k : Kernel) : Nat := 0x880 + 64 * ((k.gregs + 7) / 8) + 64 * k.vregs
/-- The bytes of a desk part but for its mailbox (R367). -/
def deskBytes (d : Desk) (pc : Word) (uh : Bool) (nm : List Word) : List Byte :=
  let k := d.kern
  b8 pc ++
  natLe ((if uh then 1 else 0) + (if k.queues then 2 else 0) + k.gregs * 2 ^ 8 + k.vregs * 2 ^ 16 + d.ctxid.toNat * 2 ^ 24) 8 ++
  natLe d.gup.toNat 8 ++ natLe d.vp.toNat 8 ++
  natLe d.fflags.toNat 8 ++ natLe d.frm.toNat 8 ++ b8 d.srseed ++ b8 d.vprog ++
  natLe d.xcause.toNat 8 ++ b8 d.xval ++ natLe d.xpc.toNat 8 ++ natLe d.xstat.toNat 8 ++ natLe d.xvec.toNat 8 ++ b8 d.xscr ++
  natLe ((List.range 8).foldl (fun a i => a + ((d.k.toList[i]?).getD .yes).code * 4 ^ i) 0) 8 ++
  natLe d.tfinfo.toNat 8 ++
  b8 (BitVec.allOnes 64) ++ (d.p.toList.drop 1).flatMap b8 ++
  natLe d.lc[0].count.toNat 8 ++ b8 d.lc[0].start ++ b8 d.lc[0].stop ++ natLe d.lc[1].count.toNat 8 ++ b8 d.lc[1].start ++ b8 d.lc[1].stop ++
  natLe ((if d.lc[0].active then 1 else 0) + (if d.lc[1].active then 2 else 0)) 16 ++
  padTo 64 (b8 (d.bb.buf.extractLsb' 0 64) ++ b8 (d.bb.buf.extractLsb' 64 64) ++ b8 d.bb.cnt ++ natLe d.bb.ptr.toNat 8 ++ natLe d.bb.stop.toNat 8) ++
  padTo 192 (d.snaps.flatMap (fun x => natLe x.bits 24)) ++
  padTo 64 (d.tokens.flatMap (fun x => b8 x.addr ++ b8 x.token)) ++
  padTo 64 (d.rep.words.flatMap (fun x => natLe x.word.toNat 4)) ++
  padTo 64 (natLe d.rep.words.length 8 ++ natLe d.rep.step.toNat 8 ++ natLe d.rep.mask.toNat 8 ++ b8 d.rep.count ++ b8 d.rep.pass ++
    natLe d.rep.idx 8 ++ natLe (if d.rep.active then 1 else 0) 8) ++
  padTo 32 (d.q.toList.flatMap (fun x => natLe x.length 1) ++ d.vq.toList.flatMap (fun x => natLe x.length 1)) ++
  natLe d.ucause.toNat 8 ++ b8 d.uval ++ natLe d.upc.toNat 8 ++ natLe d.ustat.toNat 8 ++
  d.q.toList.flatMap (fun x => padTo 64 (x.flatMap (fun e => b8 e.val))) ++
  d.vq.toList.flatMap (fun x => padTo 256 (x.flatMap (fun e => natLe e.val.toNat 64))) ++
  padTo 64 ((nm.take 8).flatMap b8) ++
  padTo 64 (((d.reports.filter (·.card)).take 8).flatMap (fun r => b8 r.xval)) ++
  padTo (64 * ((k.gregs + 7) / 8)) (b8 0 ++ ((d.gu.toList.take k.gregs).drop 1).flatMap b8) ++
  (d.v.toList.take k.vregs).flatMap (fun x => natLe x.toNat 64)

/-- A snapshot slot from its bits (R223). -/
def snapOf (x : Nat) : Option Snap :=
  if x % 2 = 1 then some ⟨BitVec.ofNat 32 (x / 2 ^ 128), BitVec.ofNat 46 (x / 2 ^ 70), BitVec.ofNat 51 (x / 2 ^ 6)⟩ else none
/-- Entries of a port. -/
def entriesOf {n : Nat} (bs : List Byte) (off size cnt : Nat) : List (Entry n) :=
  (List.range cnt).map (fun i => ⟨BitVec.ofNat n (fldN bs (off + size * i) size), false, false⟩)
/-- The recorded words of a repetition, with the addresses and lengths that the unit keeps. -/
def repOf (old : Rep) (bs : List Byte) : Rep :=
  let n := fldN bs 0x280 8
  { words := (List.range (min n 16)).map (fun i =>
      let w := BitVec.ofNat 32 (fldN bs (0x240 + 4 * i) 4)
      match old.words[i]? with
      | some x => { x with word := w }
      | none => ⟨0, 4, false, false, w, w.setWidth 64⟩)
    step := BitVec.ofNat 5 (fldN bs 0x288 8), mask := BitVec.ofNat 3 (fldN bs 0x290 8), count := fld bs 0x298, pass := fld bs 0x2A0
    idx := fldN bs 0x2A8 8, active := fldN bs 0x2B0 8 != 0 }
/-- The reports of a restored desk (R312, R367): those that the unit keeps, where the area still lists the card of an engine's failure, and
a failure for every other card that the area lists. -/
def reportsOf (known : List Report) (bs : List Byte) : List Report :=
  let listed := ((List.range 8).map (fun i => fld bs (0x840 + 8 * i))).filter (· != 0)
  let past := ((known.filter (·.card)).drop 8).map (·.xval)
  known.filter (fun r => !r.card || listed.contains r.xval || past.contains r.xval) ++
  (listed.filter (fun a => !known.any (fun r => r.card && r.xval == a))).map (fun a => { cause := 0x140, xval := a, card := true })
/-- A desk as CTXRS loads it (R369): the desk as the unit keeps it, with every field of its part read from the bytes, whose registers stand
where the kernel's numbers of them put them (R366). -/
def deskOf (old : Desk) (kern : Kernel) (bs : List Byte) : Desk :=
  let ustat := BitVec.ofNat 13 (fldN bs 0x2F8 8)
  let xstat := BitVec.ofNat 13 (fldN bs 0x058 8)
  let puh := xPUH xstat
  let gat := 0x880
  let vat := gat + 64 * ((kern.gregs + 7) / 8)
  { old with
    pc := fld bs 0
    ctxid := BitVec.ofNat 16 (fldN bs 0x00B 2)
    gup := BitVec.ofNat 32 (fldN bs 0x010 8), vp := BitVec.ofNat 32 (fldN bs 0x018 8)
    fflags := BitVec.ofNat 6 (fldN bs 0x020 8), frm := BitVec.ofNat 4 (fldN bs 0x028 8), srseed := fld bs 0x030, vprog := fld bs 0x038 &&& 15#64
    xcause := BitVec.ofNat 9 (fldN bs (if puh then 0x2E0 else 0x040) 8), xval := fld bs (if puh then 0x2E8 else 0x048)
    xpc := BitVec.ofNat 57 (fldN bs (if puh then 0x2F0 else 0x050) 8), xstat := if puh then ustat else xstat
    xvec := BitVec.ofNat 57 (fldN bs 0x060 8), xscr := fld bs 0x068
    ucause := BitVec.ofNat 9 (fldN bs 0x2E0 8), uval := fld bs 0x2E8, upc := BitVec.ofNat 57 (fldN bs 0x2F0 8), ustat := ustat
    k := Vector.ofFn (fun (i : Fin 8) => kslotOf (fldN bs 0x070 8 / 4 ^ i.val % 4))
    tfinfo := BitVec.ofNat 9 (fldN bs 0x078 8)
    p := Vector.ofFn (fun (i : Fin 8) => if i.val = 0 then 0 else fld bs (0x080 + 8 * i.val))
    lc := #v[⟨BitVec.ofNat 32 (fldN bs 0x0C0 8), fld bs 0x0C8, fld bs 0x0D0, (fld bs 0x0F0).getLsbD 0, old.lc[0].at_⟩,
             ⟨BitVec.ofNat 32 (fldN bs 0x0D8 8), fld bs 0x0E0, fld bs 0x0E8, (fld bs 0x0F0).getLsbD 1, old.lc[1].at_⟩]
    bb := ⟨fld bs 0x108 ++ fld bs 0x100, (fld bs 0x110).extractLsb' 8 2, (fld bs 0x110).extractLsb' 0 8, (fld bs 0x118).extractLsb' 0 19, (fld bs 0x120).extractLsb' 0 19⟩
    snaps := (List.range 8).filterMap (fun i => snapOf (fldN bs (0x140 + 24 * i) 24))
    tokens := ((List.range 4).map (fun i => Token.mk (fld bs (0x200 + 16 * i)) (fld bs (0x208 + 16 * i)))).filter (fun t => t.token != 0)
    rep := repOf old.rep bs
    q := Vector.ofFn (fun (i : Fin 4) => entriesOf bs (0x300 + 64 * i.val) 8 (min 8 (fldN bs (0x2C0 + i.val) 1)))
    vq := Vector.ofFn (fun (i : Fin 4) => entriesOf bs (0x400 + 256 * i.val) 64 (min 4 (fldN bs (0x2C4 + i.val) 1)))
    gu := Vector.ofFn (fun (i : Fin 32) => if i.val = 0 then 0 else if i.val < kern.gregs then fld bs (gat + 8 * i.val) else old.gu[i])
    v := Vector.ofFn (fun (i : Fin 32) => if i.val < kern.vregs then BitVec.ofNat 512 (fldN bs (vat + 64 * i.val) 64) else old.v[i])
    occ := true, quit := false, stopped := false, parked := false, user := true, hollow := false, gen := none, grant := 0, pend := none, cw := none, wait := none
    walk := none, seen := [], latch := none, cast := none, mark := none, gang := .none, fwd := [], sq := [], xfers := [] }

/-! ### A launch's region on a core (R75, R335) -/

/-- A region's first contents (R75, R335): the `.scratch` bytes, zeros elsewhere. -/
def scratchImage (info : List (Nat × Byte)) (len : Nat) : Image := ((info.filter (fun x => decide (x.1 < len))).foldl (fun a x => cset a x.1 x.2) [], [])
/-- The longest region of a launch's stages. -/
def Launch.regionLen (y : Launch) : Nat := (y.stages.map (fun st => st.kern.scratch)).foldl max 0
/-- A launch's region and `.scratch` contents are loaded once per core, before the first dispatch of the launch on any of its cores (R75,
R335), and the mint counter of core number `n` takes a seed (R172). -/
def Core.firstRun (c : Core) (tick n : Nat) (y : Launch) : Core :=
  if c.work.loaded then c
  else { (c.setImage c.work.base y.regionLen (scratchImage y.info.scratch y.regionLen)) with
    work := { c.work with loaded := true }
    mx := { c.mx with nonce := (Config.freeV tick (2 ^ 21 + n)).setWidth 44, caps := Vector.replicate 8 none } }

/-! ### Bringing desks to rest (R368) -/

/-- The desks that a control word names, in ascending order. -/
def ctlDesks (w : Word) : List DeskId := ([0, 1, 2, 3] : List DeskId).filter (fun i => w.getLsbD i.toNat)
/-- A control word in form (R366). -/
def ctlOk (w : Word) : Bool := w.extractLsb' 9 55 == 0#55 && w.extractLsb' 4 4 == 0#4 && w.extractLsb' 0 4 != 0#4
/-- SHARE. -/
def ctlShare (w : Word) : Bool := w.getLsbD 8

/-- A desk whose waits are withdrawn, with the PC at the instruction that waits (R368). -/
def Desk.rest (d : Desk) : Desk :=
  let d := d.discardGen
  { d with grant := 0, walk := none, seen := [], cw := none, cast := none, wait := none, mark := none, latch := none, jump := none, pend := none
           gang := (match d.gang with | .offered => .none | g => g) }
/-- Brings a desk to rest: its waits and its message not yet accepted are withdrawn. -/
def State.restDesk (s : State) (c : CoreId) (i : DeskId) : State :=
  let o := s.ownerOf c i
  let s := { s with
    mem := { s.mem with waiters := s.mem.waiters.filter (fun w => !(w.core == c && w.desk == i)) }
    sys := { s.sys with net := s.sys.net.filter (fun m => !(m.owner.same o && m.waits.isSome)) } }
  let s := { ({ s with core := c, desk := i }).moves true with core := s.core, desk := s.desk }
  s.setDeskAt c i (s.deskAt c i).rest
/-- A desk's loads have returned and its stores are performed, and it is no member of a gang (R114, R368). -/
def State.atRest (s : State) (c : CoreId) (i : DeskId) : Bool :=
  let d := s.deskAt c i
  (match d.pend with | some x => x.tent | none => true) && s.storesOut c i && !d.member
/-- The share's units can be saved (R298, R368): no command but an MMA or MMAS runs, and the writes of key commands are performed. -/
def Core.unitsRest (c : Core) : Bool :=
  c.key.adds.isEmpty && !c.key.held.any (fun x => x.bind == .yes) && c.mx.queue.all (fun x => x.isMm || (x.st != .running && x.st != .done)) && !c.mx.queue.any (fun x => x.st == .done)

/-! ### Saving (R368) -/

/-- Writes a scratchpad image line by line, each with its poison. -/
def State.areaImage (s : State) (w : Who) (va : Word) (c : Core) (base : Nat) : Nat → State
  | 0 => s
  | k + 1 => State.areaImage (s.areaPut w va (c.padRead base 64) (c.padBad base 64)) w (va + 64) c (base + 64) k
/-- The size of a share part (R366). -/
def Mx.shareSize (m : Mx) (scratch : Nat) : Nat := 0xA00 + (m.slots.toList.map Slot.space).sum + scratch
/-- The handles' addresses (R271), one that is still to be bound again included. -/
def KeyUnit.handleBytes (k : KeyUnit) : List Byte :=
  k.handles.toList.zipIdx.flatMap (fun h => match k.binds.find? (fun x => x.n.toNat == h.2), h.1 with
    | some x, _ => b8 x.type ++ b8 x.binding
    | none, some h => b8 h.type ++ b8 h.binding
    | none, none => b8 0 ++ b8 0)
/-- The share part but for the scratchpad image (R367). -/
def Core.shareBytes (c : Core) : List Byte :=
  c.mx.slots.toList.flatMap Slot.bytes ++ padTo 1024 (c.mx.queue.flatMap MCmd.bytes) ++ c.key.handleBytes ++
  padTo 128 (c.key.merge.flatMap (fun x => b8 x.2)) ++ padTo 64 (natLe c.key.held.length 8) ++
  padTo 256 ((c.key.held.take 8).flatMap KCmd.bytes) ++ c.tiles.toList.flatMap Tile.bytes ++ c.mx.slots.toList.flatMap Slot.elems
/-- The header (R366). -/
def headBytes (s : State) (c : CoreId) (ctl : Word) (d : Desk) (sp : Nat) : List Byte :=
  let w := (s.coreAt c).work
  let l : Word := match d.launch with | some l => (s.launchAt l).self | none => 0
  b8 ctl ++ natLe d.kern.deskPart 8 ++ natLe sp 8 ++ b8 l ++ natLe d.shareIx.toNat 8 ++
  natLe (match w.launch with | some l => (s.stageOf l w.stage).kernIx | none => 0) 8 ++ natLe c.toNat 8 ++ natLe 0 8

/-- Messages of a context that a core holds, by queue and then in order of arrival, with those of a mailbox still to be poured. -/
def Core.boxOf (c : Core) (ctx : BitVec 16) : List (BitVec 2 × Msg) :=
  (([0, 1, 2, 3] : List (BitVec 2)).flatMap (fun q => ((c.queue q).filter (fun m => m.ctx == ctx)).map (fun m => (q, m)))) ++
  c.mail.filter (fun m => m.2.ctx == ctx)
/-- One desk is written to its part, and leaves its core with its messages (R323). -/
def State.saveDesk (s : State) (w : Who) (c : CoreId) (me : Option DeskId) (va : Word) (i : DeskId) : State :=
  let d := s.deskAt c i
  let own := me == some i
  let pc := if own then d.xpc.setWidth 64 else d.pc
  let uh := if own then xPUH d.xstat else xUH d.xstat
  let box := (s.coreAt c).boxOf d.ctxid
  let s := s.areaPut w va (deskBytes d pc uh ((s.nmOf c i).map (·.addr))) false
  let mail := va + BitVec.ofNat 64 d.kern.mailAt
  let s := s.areaPut w mail (boxBytes box) false
  let k := s.coreAt c
  let keep (m : Msg) : Bool := m.ctx != d.ctxid
  let k := { k with inq := k.inq.map (fun (q : List Msg) => q.filter keep), mail := k.mail.filter (fun m => keep m.2) }
  let s := s.setCoreAt c (k.put i { d with occ := own, hollow := own, launch := none, tokens := [], reports := [] })
  match d.launch with
  | some l => { s with sys := { s.sys with away := s.sys.away ++ [⟨l, d.ctxid, c, (d.stage.toNat, d.shareIx), d.part, va, d.reports.countP (·.card), mail, box⟩] } }
  | none => s
/-- Saves desks of a core into an area, with the share part where asked (R368), for the partition's supervisor or for the desk that
moves.  Every page of the area is translated first, so that a fault comes before any effect. -/
def State.saveArea (s : State) (w : Who) (c : CoreId) (me : Option DeskId) (ctl area : Word) : Except Stop State :=
  let ds := ctlDesks ctl
  let d0 := s.deskAt c (ds.headD 0)
  let k := s.coreAt c
  let sp := if ctlShare ctl then k.mx.shareSize d0.kern.scratch else 0
  let n := 64 + sp + ds.length * d0.kern.deskPart
  match s.span w area area accWrite (n / 4096 + 2) n with
  | .error e => .error e
  | .ok (s, _) =>
    let raw := ds.map (fun i => (i, s.deskAt c i))
    let poison := (k.image d0.base d0.kern.scratch).2
    let keep : Saved := ⟨w.part, area, raw, if ctlShare ctl then some (k.mx, k.key, k.tiles) else none, poison⟩
    let s := s.areaPut w area (headBytes s c ctl d0 sp) false
    let s := if ctlShare ctl then
        let top := k.shareBytes
        let s := s.areaPut w (area + 64) top false
        let s := s.areaImage w (area + BitVec.ofNat 64 (64 + top.length)) k d0.base (d0.kern.scratch / 64)
        let k := s.coreAt c
        s.setCoreAt c { k.dropOver with mx := { next := k.mx.next, nonce := k.mx.nonce, res := k.mx.res }, key := {}, tiles := Vector.replicate 64 {} }
      else s
    let s := (ds.zipIdx).foldl (fun s x => s.saveDesk w c me (area + BitVec.ofNat 64 (64 + sp + x.2 * d0.kern.deskPart)) x.1) s
    .ok { s with sys := { s.sys with saved := keep :: s.sys.saved.filter (fun x => !(x.part == w.part && x.area == area)) } }

/-! ### Resume lists (R338) -/

/-- Puts an entry on a resume list, in ascending slot order. -/
def insResume : List Resume → Resume → List Resume
  | [], r => [r]
  | x :: xs, r => if x.slot ≤ r.slot then x :: insResume xs r else r :: x :: xs
/-- A core leaves its launch for another start (R338): its share's save, where one was made, and its slots not yet started go on the
stage's resume list; of a merge list that no save holds the stage's bell takes care (R277). -/
def State.vacateUrgent (s : State) (c : CoreId) (area : Option Word) : State :=
  let k := s.coreAt c
  match k.work.launch with
  | none => s
  | some l =>
    let s := s.unfuse c
    let st := s.stageOf l k.work.stage
    let now : List Resume := match area, k.work.slot with | some a, some x => [⟨x, some a, k.work.runs, k.work.snap⟩] | _, _ => []
    let es := now ++ k.work.next.toList ++ k.work.todo.map (fun x => { slot := x, area := none })
    let s := s.setStage l k.work.stage { st with
      resume := es.foldl insResume st.resume, cores := st.cores.filter (· != c), urgent := st.urgent.filter (· != c), merges := st.merges ++ k.key.merge }
    s.setCoreAt c k.vacate

/-! ### CTXSV (R368, R370) -/

/-- The launch that a core's desks belong to. -/
def Core.runs (c : Core) : Option Nat := c.work.launch
/-- Whether CTXSV is refused (R370). -/
def State.saveRefused (s : State) (ctl area : Word) : Bool :=
  !ctlOk ctl || area.toNat % 64 != 0 || (ctlShare ctl && (ctlDesks ctl).contains s.desk) ||
  (ctlDesks ctl).any (fun i =>
    let d := s.c.at i
    !d.occ || d.hollow || d.launch != s.c.runs || (i != s.desk && !d.user))
/-- A running product stops at its row-block (R176, R368). -/
def Mx.halt (m : Mx) : Mx := { m with queue := m.queue.map (fun x => if x.st == .running then { x with st := .queued, begun := true } else x) }
/-- Brings the named desks and, with the share, its units to rest; a wait where that takes time. -/
def State.bringToRest (s : State) (c : CoreId) (ctl : Word) : Except Stop State :=
  if !(ctlDesks ctl).all (s.atRest c) || (ctlShare ctl && !(s.coreAt c).unitsRest) then .error (.wait .memory)
  else
    -- the copies that the executing desk gave to an exchange are made too (R258)
    let s := (ctlDesks ctl).foldl (fun s i => if i == s.desk && c == s.core then s.moves true else s.restDesk c i) s
    .ok (if ctlShare ctl then s.setCoreAt c { s.coreAt c with mx := (s.coreAt c).mx.halt } else s)
/-- Where the timetable asked for the save, the core goes over to the other launch; otherwise the saved share awaits its restore. -/
def State.afterSave (s : State) (c : CoreId) (slot : Option Nat) (area : Word) : State :=
  let k := s.coreAt c
  match k.work.launch, slot with
  | some l, some x =>
    let st := s.stageOf l k.work.stage
    if st.urgent.contains c then s.vacateUrgent c (some area)
    else
      let s := s.setStage l k.work.stage { st with resume := insResume st.resume ⟨x, some area, k.work.runs, k.work.snap⟩ }
      s.setCoreAt c { s.coreAt c with work := { (s.coreAt c).work with slot := none, runs := 0, snap := none } }
  | _, _ => s
/-- Whether a core may be saved at once (R114, R155): no member of a gang, no tile filling from another core and no TCAST under way.  A core
that runs exchange code or has rung waits for the bell's end (log 122). -/
def State.savePoint (s : State) (c : CoreId) : Bool :=
  let k := s.coreAt c
  !k.ganged && !k.work.exch && !k.work.rung && k.desks.toList.all (fun d => d.cast.isNone) &&
  (List.range 64).all (fun t => !((k.tile t).st == .filling && (k.tile t).prod != c.extractLsb' 0 4))
/-- A core that is to be vacated at once. -/
def State.isUrgent (s : State) (c : CoreId) : Bool := (s.myStage c).urgent.contains c
/-- CTXSV (R368, R370); with the share of a core that is to be vacated at once it waits for the point that R155 permits. -/
def ctxsv (b a : GReg) (s : State) : Except Stop State := do
  let t ← s.d.take 0 [a, b] [] 2
  let area := t.x 0
  let ctl := t.x 1
  if s.saveRefused ctl area then .error (.trap 0x1D0 ctl)
  if ctlShare ctl && s.isUrgent s.core && !s.savePoint s.core then .error (.wait .memory)
  let slot := s.c.work.slot
  let s ← (s.setD t.d).bringToRest s.core ctl
  let s ← s.saveArea (s.who s.d) s.core (some s.desk) ctl area
  .ok (if ctlShare ctl then s.afterSave s.core slot area else s)
/-- CTXSV (R359, R368). -/
def execCtxsv (b a : GReg) (s : State) := finish (privileged (ctxsv b a)) s

/-! ### CTXRS (R369, R370) -/

/-- A desk that a restore may load (R369). -/
def Desk.free (d : Desk) : Bool := !d.occ || d.hollow
/-- Reads bytes of the area; poison traps with its line's address (R365). -/
def State.areaGet (s : State) (w : Who) (va : Word) (n : Nat) : Except Stop (State × List Byte × Bool) :=
  match s.span w va va accRead (n / 4096 + 2) n with
  | .error e => .error e
  | .ok (s, ps) => s.readMac w.part va (s.sealed w.part ps) false accRead
/-- Reads bytes of the area line by line; a poisoned line traps with its address (R365). -/
def State.areaClean (s : State) (w : Who) (va : Word) : Nat → Except Stop (State × List Byte)
  | 0 => .ok (s, [])
  | k + 1 =>
    match s.areaGet w va 64 with
    | .error e => .error e
    | .ok (s, bs, bad) =>
      if bad then .error (.trap 0x1C0 va)
      else match State.areaClean s w (va + 64) k with
        | .error e => .error e
        | .ok (s, t) => .ok (s, bs ++ t)
/-- Reads a scratchpad image into a core, with the poison of its lines. -/
def State.areaLoad (s : State) (w : Who) (va : Word) (c : CoreId) (base : Nat) : Nat → Except Stop State
  | 0 => .ok s
  | k + 1 =>
    match s.areaGet w va 64 with
    | .error e => .error e
    | .ok (s, bs, bad) => State.areaLoad (s.setCoreAt c ((s.coreAt c).padWrite base bs bad)) w (va + 64) c (base + 64) k
/-- What the unit keeps of an area. -/
def State.savedAt (s : State) (p : PartId) (area : Word) : Option Saved := s.sys.saved.find? (fun x => x.part == p && x.area == area)
/-- The messages of a mailbox: their queues as the unit keeps them, their bytes as the area holds them. -/
def boxOf (box : List (BitVec 2 × Msg)) (bs : List Byte) : List (BitVec 2 × Msg) :=
  (box.take (fldN bs 0 8)).zipIdx.map (fun x => (x.1.1, { x.1.2 with data := BitVec.ofNat 512 (fldN bs (64 + 64 * x.2) 64) }))
/-- The kernel of the share that a core may take up. -/
def State.kernHere (s : State) (c : CoreId) : Kernel × Nat :=
  let k := s.coreAt c
  match k.work.launch with
  | some l => let st := s.stageOf l k.work.stage; (st.kern, st.kernIx)
  | none => ((k.at 0).kern, 0)
/-- Loads one desk (R369): its part's bytes, the launch's own registers, its messages (R323) and the failures that waited for it
(R312). -/
def State.loadDesk (s : State) (c : CoreId) (old : Option Desk) (ix : BitVec 32) (i : DeskId) (bs : List Byte) : State :=
  let k := s.coreAt c
  let here := k.at i
  let base := old.getD here
  let d := deskOf base (s.kernHere c).1 bs
  let d := { d with svec := here.svec, sscr := here.sscr, gs := here.gs, gsp := here.gsp, rtreq := here.rtreq, bp := here.bp, stepcnt := here.stepcnt
                    shareIx := ix, launch := k.work.launch }
  let d := match k.work.launch with
    | some l =>
      let y := s.launchAt l
      let st := s.stageOf l k.work.stage
      { d with part := y.part, shareCt := st.shares, stage := BitVec.ofNat 4 k.work.stage, sscnt := st.sscnt, exch := k.work.exch
               cntbase := (y.info.cntbase.extractLsb' 15 42).setWidth 64 <<< 15, kern := { st.kern with dictWords := (match old with | some x => x.kern.dictWords | none => st.kern.dictWords) }
               text := y.info.text, base := y.info.base.toNat }
    | none => { d with part := here.part }
  let o : Owner := ⟨d.launch, d.ctxid, c, i⟩
  let late := (s.sys.late.filter (fun x => x.1.same o)).map (·.2)
  let box := s.sys.away.filter (fun a => some a.launch == d.launch && a.ctx == d.ctxid)
  let msgs := box.flatMap (fun a => boxOf a.box (bs.drop d.kern.mailAt))
  -- the near-memory commands that the part lists are the desk's again (R238)
  let listed := ((List.range 8).map (fun i => fld bs (0x800 + 8 * i))).filter (· != 0)
  let was := (match old with | some x => x.ctxid | none => d.ctxid)
  let mine (x : NmCmd) : Bool := x.owner.launch == d.launch && x.owner.ctx == was && listed.contains x.addr
  let s := { s with sys := { s.sys with
    nm := s.sys.nm.map (fun x => if mine x then { x with owner := o } else x)
    late := s.sys.late.filter (fun x => !x.1.same o)
    away := s.sys.away.filter (fun a => !(some a.launch == d.launch && a.ctx == d.ctxid)) } }
  s.setCoreAt c (Core.pour msgs (k.put i { d with reports := reportsOf ((match old with | some x => x.reports | none => []) ++ late) bs }))
/-- Rebinds a handle from memory for a desk of the share (R369); a failure is raised on the share's desk 0 at its next boundary.  Where a
tile that another core fills holds a header, the handle is bound later (R271). -/
def State.rebind (s : State) (w : Who) (c : CoreId) (i : DeskId) (n : BitVec 2) (type binding : Word) : State :=
  let put (s : State) (f : List Rebind → List Rebind) : State :=
    let k := s.coreAt c
    s.setCoreAt c { k with key := { k.key with binds := f (k.key.binds.filter (·.n != n)) } }
  if type = 0 then s
  else match ({ s with core := c, desk := i }).bindHandle w type binding with
    | .ok (t, h) => let t := { t with core := s.core, desk := s.desk }; t.setCoreAt c ((t.coreAt c).setHandle n (some h))
    | .error (.trap cause x acc tf) => (put s id).setDeskAt c 0 ((s.deskAt c 0).report cause x tf false acc)
    | .error (.mac l x _) => (put { s with mem := s.mem.spoil l } id).setDeskAt c 0 ((s.deskAt c 0).report 0x1E0 x)
    | .error (.wait _) => put s (fun l => l ++ [⟨n, i, type, binding⟩])
/-- The handles that a core has still to bind are tried again. -/
def State.rebindLater (s : State) (c : CoreId) : State :=
  (s.coreAt c).key.binds.foldl (fun s x => s.rebind { s.who (s.deskAt c x.desk) with hw := true } c x.desk x.n x.type x.binding) s
/-- Every handle of a restored share is bound again (R369). -/
def State.rebindAll (s : State) (c : CoreId) (ds : List DeskId) (bs : List Byte) : State :=
  let i := ds.headD 0
  let d := s.deskAt c i
  let w : Who := { s.who d with hw := true }
  ([0, 1, 2, 3] : List (BitVec 2)).foldl (fun s n => s.rebind w c i n (fld bs (0x600 + 16 * n.toNat)) (fld bs (0x608 + 16 * n.toNat))) s
/-- The matrix unit of a share part (R367): slots with their elements, and the queue, whose commands enter anew in their order. -/
def mxFrom (kept : Bool) (old k : Mx) (core : CoreId) (part : PartId) (launch : Option Nat) (bs elems : List Byte) : Mx :=
  let slots := Vector.ofFn (fun (n : Fin 4) => slotFrom old.slots[n] ((bs.drop (128 * n.val)).take 128))
  let at_ (n : Nat) : Nat := ((slots.toList.take n).map Slot.space).sum
  let cmds := (List.range 16).filterMap (fun i => cmdFrom old.queue[i]? core part launch (k.next + i) ((bs.drop (0x200 + 64 * i)).take 64))
  -- a product begun whose rows past the slot's shape no field of the area holds starts anew (R176)
  let lost (n : Nat) (x : Slot) : Bool := !kept && cmds.any (fun c => c.slot.toNat == n && c.isMm && c.begun && !c.onto &&
    (x.kind.isNone || (c.dims.1, c.dims.2.1) != (x.m, x.n)))
  { slots := Vector.ofFn (fun (n : Fin 4) =>
      let x := slots[n].fill old.slots[n].cells (elems.drop (at_ n.val))
      if lost n.val x then { x with prog := 0 } else x)
    queue := cmds, next := k.next + 16, res := k.res, nonce := k.nonce }
/-- The held key commands of a share part, with what the unit keeps of them. -/
def heldFrom (old : List KCmd) (n : Nat) (bs : List Byte) : List KCmd :=
  (old.take n).zipIdx.map (fun x => if x.2 < 8 then kcmdFrom x.1 ((bs.drop (0x700 + 32 * x.2)).take 32) else x.1)
/-- A held key command from its bytes alone (R298, R367), where the unit keeps nothing of it: its records and relations are read again and
its places translated again. -/
def State.heldAnew (s : State) (w : Who) (c : CoreId) (seq : Nat) (bs : List Byte) : Except Stop (State × KCmd) := do
  let x := fldN bs 0 8
  let i : DeskId := BitVec.ofNat 2 (x / 2 ^ 8)
  let col := x / 2 ^ 12 % 4
  let d := s.deskAt c i
  let m : Maker := { d.maker (.core c) with user := x / 2 ^ 10 % 2 == 1 }
  let done (s : State) (w : Who) (ps : List Part) (op : KOp) : Except Stop (State × KCmd) :=
    .ok (s, { op := op, bind := bindFrom (x / 2 ^ 4 % 16), desk := i, maker := m, seq := seq, held := w.held, outs := ps })
  if x % 4 = 1 then
    let (s, r) ← s.relAt w (fld bs 8)
    let cnt := fldN bs 20 4
    let (s, w, _) ← s.kGrip w (r.row (fldN bs 16 4)) (cnt * r.stride) accRead
    let (s, w, ps) ← s.kGrip w (fld bs 24) (16 + 16 * cnt) accWrite
    done s w ps (.runs r (fldN bs 16 4) cnt col (fld bs 24))
  else if x % 4 = 2 then
    let (s, r) ← s.kRecord w false (fld bs 8)
    let n := (r.extractLsb' 0 8).toNat
    let (s, rs) ← s.relsAt w ([dword r 16, dword r 24, dword r 32, dword r 40].take n)
    let (s, w) ← s.gripRels w rs
    let cap := fldN bs 16 8
    let (s, w, ps) ← s.kGrip w (fld bs 24) (16 + 32 * rs.foldl (fun m x => min m x.rows) cap) accWrite
    done s w ps (.isect (rs.zip ((List.range n).map (fun m => (r.extractLsb' (8 + 2 * m) 2).toNat))) (fld bs 24) cap (fld bs 8))
  else
    let n : BitVec 2 := BitVec.ofNat 2 col
    let h ← ({ s with core := c, desk := i }).handle n
    let node := fldN bs 13 1 % 16
    let own := fldN bs 14 1 % 2 == 1
    let (first, rows) := (fldN bs 8 4, fldN bs 12 1)
    let r := (nodeOf h.nodes node).rel
    let (s, w, _) ← s.kGrip w (r.row first) (min rows (r.rows - first) * r.stride) accRead
    let (s, w, ps) ← s.gripTables w ((scatterTabs h node own).filterMap (fun y => y.2.2))
    done s w ps (.scatter h node own first rows (fld bs 24) (fldN bs 16 8) n)
/-- The held commands of a share part whose save the unit does not keep; what stops one is raised on the share's desk 0, as for a handle. -/
def State.heldAgain (s : State) (c : CoreId) (w : Who) (bs : List Byte) : Nat → Nat → Except Stop State
  | 0, _ => .ok s
  | k + 1, n =>
    match s.heldAnew w c (s.coreAt c).key.next ((bs.drop (0x700 + 32 * n)).take 32) with
    | .error (.wait e) => .error (.wait e)
    | .error (.trap cause x acc tf) => State.heldAgain (s.setDeskAt c 0 ((s.deskAt c 0).report cause x tf false acc)) c w bs k (n + 1)
    | .error (.mac l x _) => State.heldAgain ((({ s with mem := s.mem.spoil l }).setDeskAt c 0 ((s.deskAt c 0).report 0x1E0 x))) c w bs k (n + 1)
    | .ok (s, x) =>
      let y := s.coreAt c
      State.heldAgain (s.setCoreAt c { y with key := { y.key with held := y.key.held ++ [x], next := y.key.next + 1 } }) c w bs k (n + 1)
/-- The counters that a restored share's matrix commands name are translated again (R242), where no save keeps their translations. -/
def State.regrip (s : State) (c : CoreId) : State :=
  let q := (s.coreAt c).mx.queue
  let counter (x : MCmd) : Word := match x.op with | .msend rec _ => recWord rec 48 | _ => x.remote.getD 0
  let (s, q) := q.foldl (fun (a : State × List MCmd) x =>
    let v := counter x
    if v = 0 then (a.1, a.2 ++ [x])
    else match a.1.grip (a.1.whoOf x.maker) v v accRmw 2 8 with
      | .ok (t, held) => (t, a.2 ++ [{ x with held := held }])
      | .error _ => (a.1, a.2 ++ [x])) (s, [])
  let k := s.coreAt c
  s.setCoreAt c { k with mx := { k.mx with queue := q } }
/-- Loads the share part (R369): the core's own region is set aside, held commands return to their queues, and the capability table starts
empty (R172).  It answers the part's bytes, for the handles. -/
def State.loadShare (s : State) (w : Who) (c : CoreId) (area : Word) (was ix : Nat) (keep : Option Saved) : Except Stop (State × List Byte) := do
  let (s, bs) ← s.areaClean w (area + 64) (0xA00 / 64)
  let k := s.coreAt c
  let (mx, key, _) : Mx × KeyUnit × Vector Tile 64 := match keep with
    | some x => x.share.getD ({}, {}, Vector.replicate 64 {})
    | none => ({}, {}, Vector.replicate 64 {})
  let (k, scratch, part) := match k.work.launch with
    | some l => let y := s.launchAt l; let st := s.stageOf l k.work.stage; (k.firstRun s.tick c.toNat y, st.kern.scratch, y.part)
    | none => (k, (k.at 0).kern.scratch, (k.at 0).part)
  let base := if k.work.launch.isSome then k.work.base else (k.at 0).base
  let slots := (List.range 4).map (fun n => (slotFrom {} ((bs.drop (128 * n)).take 128)).space)
  let (s, els) ← s.areaClean w (area + BitVec.ofNat 64 (64 + 0xA00)) (slots.sum / 64)
  let own := k.image base scratch
  let merge := ((List.range 16).map (fun i => fld bs (0x640 + 8 * i))).filter (· != 0)
  let st : Stage := match k.work.launch with | some l => s.stageOf l k.work.stage | none => {}
  let r : Option Resume := (k.work.next.toList ++ st.resume).find? (fun r => r.slot == ix)
  let held := (heldFrom key.held (fldN bs 0x6C0 8) bs).zipIdx.map (fun x => { x.1 with seq := k.key.next + x.2 })
  let k := { k with
    mx := mxFrom keep.isSome mx k.mx c part k.work.launch bs els
    key := { held := held, adds := k.key.adds, next := k.key.next + held.length
             merge := k.key.merge ++ (merge.map (fun x => (part, x))).filter (fun x => !k.key.merge.contains x) }
    tiles := Vector.ofFn (fun (t : Fin 64) => tileFrom (BitVec.ofNat 4 was) (c.extractLsb' 0 4) (fldN bs (0x800 + 8 * t.val) 8))
    work := { k.work with
      aside := some own, slot := some ix, resumed := true, next := none
      runs := (r.map (·.runs)).getD 1, snap := r.bind (·.snap) } }
  let s ← (s.setCoreAt c k).areaLoad w (area + BitVec.ofNat 64 (64 + 0xA00 + slots.sum)) c base (scratch / 64)
  .ok (match k.work.launch with
    | some l =>
      let st := s.stageOf l k.work.stage
      s.setStage l k.work.stage { st with resume := st.resume.filter (fun r => r.slot != ix) }
    | none => s, bs)
/-- Loads the named desks from the parts that follow. -/
def State.loadDesks (s : State) (w : Who) (c : CoreId) (dp : Nat) (ix : BitVec 32) (keep : Option Saved) (saved : List DeskId) (va : Word) :
    List DeskId → Except Stop State
  | [] => .ok s
  | i :: is =>
    match s.areaClean w (va + BitVec.ofNat 64 (saved.idxOf i * dp)) (dp / 64) with
    | .error e => .error e
    | .ok (s, bs) =>
      let old := match keep with | some x => (x.desks.find? (fun y => y.1 == i)).map (·.2) | none => none
      State.loadDesks (s.loadDesk c old ix i bs) w c dp ix keep saved va is
/-- Restores desks of a core from an area (R369), or refuses with cause 0x1D0 (R370). -/
def State.restoreArea (s : State) (w : Who) (c : CoreId) (ctl area : Word) : Except Stop State := do
  let (s, h) ← s.areaClean w area 1
  let had := fld h 0
  let (kern, kix) := s.kernHere c
  let l : Word := match (s.coreAt c).work.launch with | some l => (s.launchAt l).self | none => 0
  let bad := !ctlOk had || ctlShare had != ctlShare ctl || !(ctlDesks ctl).all (fun i => (ctlDesks had).contains i) ||
    fld h 24 != l || fldN h 40 8 != kix || fldN h 8 8 != kern.deskPart
  if bad then .error (.trap 0x1D0 ctl)
  let keep := s.savedAt w.part area
  let ix := fldN h 32 8
  let (s, bs) ← if ctlShare ctl then s.loadShare w c area (fldN h 48 8) ix keep else .ok (s, [])
  let s ← s.loadDesks w c kern.deskPart (BitVec.ofNat 32 ix) keep (ctlDesks had) (area + BitVec.ofNat 64 (64 + fldN h 16 8)) (ctlDesks ctl)
  if !ctlShare ctl then .ok (s.bumpL1 c)
  else
    -- the share's commands hold their translations on this core now
    let freed (x : Saved) : Saved := { x with share := x.share.map (fun y =>
      ({ y.1 with queue := y.1.queue.map (fun c => { c with held := [] }) }, { y.2.1 with held := y.2.1.held.map (fun c => { c with held := [] }) }, y.2.2)) }
    let s := { s with sys := { s.sys with saved := s.sys.saved.map (fun (x : Saved) => if x.part == w.part && x.area == area then freed x else x) } }
    let s := s.rebindAll c (ctlDesks ctl) bs
    let s ← if keep.isSome then .ok s
      else s.regrip c |>.heldAgain c { s.who (s.deskAt c ((ctlDesks ctl).headD 0)) with hw := true } bs (min (fldN bs 0x6C0 8) 8) 0
    .ok (s.bumpL1 c)
/-- CTXRS (R369, R370). -/
def ctxrs (b a : GReg) (s : State) : Except Stop State := do
  let t ← s.d.take 0 [a, b] [] 2
  let area := t.x 0
  let ctl := t.x 1
  if !ctlOk ctl || area.toNat % 64 ≠ 0 || (ctlShare ctl && (ctlDesks ctl).contains s.desk) || (ctlDesks ctl).any (fun i => !(s.c.at i).free) then
    .error (.trap 0x1D0 ctl)
  s.released
  (s.setD t.d).restoreArea (s.who s.d) s.core ctl area
/-- CTXRS (R359, R369).  A desk that restores itself goes on in user mode at the saved PC. -/
def execCtxrs (b a : GReg) (s : State) : Host.Outcome State Fault Refusal :=
  match privileged (ctxrs b a) s with
  | .error e => .next (s.stopWith e)
  | .ok t => .next (if t.d.user then t else t.retire)

end Sys2Proof.Machine
end

