-- ==== Sys2Proof/Machine/Timetable.lean ====
section
/-! DEFINITION. The timetable (R22 to R28, R253 to R256, R329 to R348): taking and starting launches, dealing and dispatching shares,
bells and exchanges, rebalancing, pre-emption, failure and completion. -/

namespace Sys2Proof.Machine

/-! ### Entry of a share or an exchange (R28, R256, R335) -/

/-- A seed of R335 and R256: SEED XOR n × the constant, with 0 stored as 1 (R59). -/
def seedFor (seed : Word) (n : Nat) : Word :=
  let x := seed ^^^ (BitVec.ofNat 64 n * 0x9E3779B97F4A7C15#64)
  if x = 0 then 1 else x
/-- The registers at entry (R28): g1 to g5 and g26; every other one reads zero. -/
def entryG (g1 g2 g3 g4 g5 g26 : Word) : Vector Word 32 :=
  (((((((Vector.replicate 32 0).set 1 g1).set 2 g2).set 3 g3).set 4 g4).set 5 g5).set 26 g26)
/-- A desk that enters a share or an exchange routine (R28, R100, R106, R138, R223, R251, R256, R335, R357): its own supervisor registers
stay, the v and p files hold any value. -/
def Desk.enterRoutine (d : Desk) (tick place : Nat) (l : Nat) (y : Launch) (st : Stage) (k : Nat) (base : Nat) (pc : Word) : Desk :=
  { occ := true, user := true, gs := d.gs, gsp := d.gsp
    v := Vector.ofFn (fun (i : Fin 32) => Config.freeV tick (32 * place + i.val))
    p := Vector.ofFn (fun (i : Fin 8) => (Config.freeV tick (2 ^ 20 + 8 * place + i.val)).setWidth 64)
    svec := d.svec, sscr := d.sscr, rtreq := d.rtreq, bp := d.bp, stepcnt := d.stepcnt
    reports := if d.launch == some l then d.reports else []
    part := y.part, shareCt := st.shares, stage := BitVec.ofNat 4 k, sscnt := st.sscnt
    cntbase := (y.info.cntbase.extractLsb' 15 42).setWidth 64 <<< 15
    kern := st.kern, text := y.info.text, base := base, launch := some l, pc := pc }
/-- Context ids in use by a launch's contexts (R363). -/
def State.ctxInUse (s : State) (l : Nat) (x : BitVec 16) : Bool :=
  s.cores.any (fun c => c.2.desks.toList.any (fun d => (d.occ || d.quit) && d.launch == some l && d.ctxid == x)) ||
  s.sys.away.any (fun a => a.launch == l && a.ctx == x)
/-- The context id of a desk. -/
def ctxOf (x : CtxIds) (i : DeskId) : BitVec 16 := match i with | 0 => x.d0 | 1 => x.d1 | 2 => x.d2 | _ => x.d3
/-- The ids are new to the launch, and distinct. -/
def State.ctxOk (s : State) (l : Nat) (x : CtxIds) (n : Nat) : Bool :=
  let ids := ((List.range n).map (fun i => ctxOf x (BitVec.ofNat 2 i)))
  ids.all (fun i => !s.ctxInUse l i) && decide ids.Nodup
/-- A core's units as a share's dispatch leaves them (R158, R168, R175, R271). -/
def Core.freshUnits (c : Core) : Core :=
  { c with
    mx := { c.mx with slots := Vector.replicate 4 {}, queue := [] }
    key := { c.key with handles := Vector.replicate 4 none, held := [], binds := [] } }
/-- Commands that nothing can move on: held by a slot that no desk will set, stopped by a fault, or behind one of these. -/
def Mx.stuck (m : Mx) : Bool :=
  (m.queue.dropWhile (fun x => !((match x.bind with | .slot _ => true | _ => false) || x.st == .stopped))) == m.queue
/-- Nothing of an earlier share is under way on a core: its desks are free, their stores performed, and its units at rest. -/
def State.coreQuiet (s : State) (c : CoreId) : Bool :=
  let k := s.coreAt c
  k.desks.toList.all (fun d => !d.occ && d.sq.isEmpty) && k.key.adds.isEmpty && !k.key.held.any (fun x => x.bind == .yes) && k.mx.stuck

/-! ### Input snapshots (R340) -/

/-- Bytes that a snapshot slot of a kernel takes. -/
def Kernel.snapLen (k : Kernel) : Nat := if k.restart then (k.inLen + 63) / 64 * 64 else 0
/-- Where a slot of a stage stands in the launch's snapshot area. -/
def Launch.snapAt (y : Launch) (k slot : Nat) : Word :=
  let before := ((y.stages.take k).map (fun st => st.max * st.kern.snapLen)).sum
  y.info.snap + BitVec.ofNat 64 (before + slot * (y.stages.getD k {}).kern.snapLen)
/-- A slot of a stage's snapshots that no share of it uses. -/
def State.freeSnap (s : State) (st : Stage) : Nat :=
  let used := st.cores.filterMap (fun c => (s.coreAt c).work.snap) ++ st.resume.filterMap (·.snap) ++
    st.cores.filterMap (fun c => (s.coreAt c).work.next.bind (·.snap))
  ((List.range (used.length + 1)).find? (fun i => !used.contains i)).getD 0
/-- The timetable copies a run of scratchpad bytes to memory, with its poison. -/
def State.snapSave (s : State) (p : PartId) (va : Word) (c : Core) (off : Nat) : Nat → Nat → State
  | 0, _ => s
  | k + 1, n =>
    if n = 0 then s
    else
      let m := min n (64 - off % 64)
      State.snapSave (s.ckWrite p va (c.padRead off m) (c.padBad off m)) p (va + BitVec.ofNat 64 m) c (off + m) k (n - m)
/-- And back into a core's scratchpad; none where it cannot be read. -/
def State.snapLoad (s : State) (w : Who) (va : Word) (c : CoreId) (off : Nat) : Nat → Nat → Option State
  | 0, _ => some s
  | k + 1, n =>
    if n = 0 then some s
    else
      let m := min n (64 - off % 64)
      match s.areaGet w va m with
      | .error _ => none
      | .ok (s, bs, bad) => State.snapLoad (s.setCoreAt c ((s.coreAt c).padWrite off bs bad)) w (va + BitVec.ofNat 64 m) c (off + m) k (n - m)

/-- The dictionary is loaded from the kernel image (R32); one that cannot be read leaves the words that the launch record's check found. -/
def State.loadDict (s : State) (y : Launch) (k : Kernel) : State × Kernel :=
  match s.imageTable y.part y.image k.dictAt.1 k.dictAt.2 4 with
  | .ok (s, ws) => (s, if k.dictAt.2 = 0 then k else { k with dictWords := ws.map (BitVec.ofNat 32) })
  | .error l => (s.spoilAt l, k)
/-- A desk of a share as its dispatch leaves it (R28, R335); desks past `.desks` stay as they are. -/
def Desk.enterShare (d : Desk) (tick : Nat) (c : CoreId) (i : DeskId) (l : Nat) (y : Launch) (st : Stage) (kern : Kernel) (k base slot : Nat) (x : CtxIds) : Desk :=
  if i.toNat < st.kern.desks then
    { d.enterRoutine tick (4 * c.toNat + i.toNat) l y st k base (y.info.text + st.kern.entry) with
      kern := kern, ctxid := ctxOf x i, shareIx := BitVec.ofNat 32 slot
      srseed := seedFor y.seed (4 * slot + i.toNat + 1)
      gu := entryG y.args (BitVec.ofNat 64 slot) (st.shares.setWidth 64) (BitVec.ofNat 64 base) (BitVec.ofNat 64 k)
        (BitVec.ofNat 64 (base + st.kern.scratch - i.toNat * st.kern.stack)) }
  else d
/-- Starts a share's desks (R25, R27, R28, R335); `runs` counts the share's runs in the superstep (R340).  Which of the desks issues first
the manual leaves open: desk 0 (log 122). -/
def State.startShare (s : State) (c : CoreId) (slot runs : Nat) (x : CtxIds) : State :=
  let k := s.coreAt c
  match k.work.launch with
  | none => s
  | some l =>
    let y := s.launchAt l
    let st := s.stageOf l k.work.stage
    let k := (k.firstRun s.tick c.toNat y).freshUnits
    let base := k.work.base
    let (s, kern) := s.loadDict y st.kern
    let desk (i : DeskId) (d : Desk) : Desk := d.enterShare s.tick c i l y st kern k.work.stage base slot x
    let z := k.work.snap.getD (s.freeSnap st)
    let k := { k with
      desks := #v[desk 0 (k.at 0), desk 1 (k.at 1), desk 2 (k.at 2), desk 3 (k.at 3)]
      desk := 0
      work := { k.work with slot := some slot, runs := runs, snap := if st.kern.restart then some z else none } }
    let s := s.setCoreAt c k
    let s := s.setStage l k.work.stage { st with fresh := false }
    let s := if st.kern.restart then
        s.snapSave y.part (y.snapAt k.work.stage z) k (base + st.kern.inOff) (st.kern.inLen / 64 + 2) st.kern.inLen
      else s
    s.bumpL1 c

/-! ### Idle cores (R14, R334) -/

/-- A core that the timetable may allot to a partition (R14, R334). -/
def State.idleCore (s : State) (p : PartId) (c : CoreId) : Bool :=
  let k := s.coreAt c
  k.work.launch.isNone && !k.lost && !k.retiring && Config.inPart p.toNat c.toNat && k.desks.toList.all (fun d => !d.occ)
/-- A cluster's one spare serves already (R14). -/
def State.spareUsed (s : State) (c : CoreId) : Bool :=
  s.cores.any (fun x => x.1 / 16 == c.toNat / 16 && x.2.spared)
/-- A core that waits for a launch for which cores are being pre-empted: one of those, or an idle core that the launch counts on (R334). -/
def State.promised (s : State) (c : CoreId) : Bool :=
  s.parts.any (fun p => match p.2.pre with
    | some (l, cs) => (s.launchAt l).status == .running && (cs.contains c || s.idleCore (BitVec.ofNat 14 p.1) c)
    | none => false)

/-! ### Debug stops and checkpoints that come due (R387, R388) -/

/-- A stage stands still: its launch has ended or is frozen, or a debug stop holds it. -/
def State.stopped (s : State) (l k : Nat) : Bool :=
  let y := s.launchAt l
  y.status != .running || y.frozen || !y.started || (s.stageOf l k).held
/-- A checkpoint is due at the start of a superstep (R388): under a session, with CKCTL.EN at every 2^C-th, or asked for by CKPT. -/
def State.ckDue (s : State) (l k : Nat) : Bool :=
  let y := s.launchAt l
  let st := s.stageOf l k
  let p := s.partAt y.part
  y.debug && st.fresh && !st.ckDone && !st.exch &&
    ((p.ckctl.getLsbD 5 && decide (st.sscnt.toNat % 2 ^ (p.ckctl.extractLsb' 0 5).toNat = 0)) || decide (0 < p.ckpts))
/-- A stage waits for a debug stop (R387), at its bell (`x` false) or after its exchange (`x` true): one that it asked for in that phase, or
one already taken. -/
def State.stopDue (s : State) (l k : Nat) (x : Bool) : Bool :=
  match (s.launchAt l).stop with
  | some y => y.at_.isSome || y.asked.contains (k, x)
  | none => false
/-- The bytes of a core's part of a checkpoint (R388). -/
def Kernel.ckPart (k : Kernel) : Nat := 64 + 512 + k.scratch
/-- A core on which a share may be run again (R389): an idle one of the partition, or one whose replay has stopped. -/
def State.replayCore (s : State) (p : PartId) (c : CoreId) : Bool :=
  let k := s.coreAt c
  (s.idleCore p c && !s.promised c) || (k.work.replay && k.desks.toList.all (fun d => !d.occ || d.parked || d.wait == some .bell))
/-- The run-time's choice of a launch of a partition under debug. -/
def State.debugLaunch (s : State) (p : PartId) : Option Nat :=
  let ls := s.launches.filter (fun y => y.2.part == p && y.2.debug && y.2.status == .running && y.2.started)
  (ls[Config.pickAt s.tick 0 % ls.length]?).map (·.1)
/-- A share of a checkpointed superstep starts again in step mode (R28, R335, R389): the run-time loads the core's region and tile table from
the checkpoint at CKAREA, and sets STEPCNT to a value of its choice. -/
def State.startReplay (s : State) (c : CoreId) (l : Nat) (x : CtxIds) : Option State :=
  let y := s.launchAt l
  let p := y.part
  let w := s.supWho p
  let va := (s.partAt p).ckarea + 64
  match s.areaClean w va 1 with
  | .error _ => none
  | .ok (s, h) =>
    let k := fldN h 8 8
    let n := fldN h 16 8
    let st := { s.stageOf l k with sscnt := fld h 0, shares := BitVec.ofNat 32 (fldN h 24 8) }
    let slot := Config.pickAt s.tick 1 % fldN h 24 8
    let rank := slot % n
    if y.stages.length ≤ k || n = 0 || fldN h 24 8 = 0 || fldN h 32 8 ≠ st.kern.ckPart || rank < st.far.1 || !s.ctxOk l x st.kern.desks then none
    else
      let va := va + BitVec.ofNat 64 (64 + (rank - st.far.1) * st.kern.ckPart)
      match s.areaClean w va 9 with
      | .error _ => none
      | .ok (s, bs) =>
        let base := y.info.base.toNat
        let s := s.setCoreAt c (s.coreAt c).vacate
        match s.areaLoad w (va + 576) c base (st.kern.scratch / 64) with
        | .error _ => none
        | .ok s =>
          let q := (s.coreAt c).freshUnits
          let desk (i : DeskId) : Desk := { (q.at i).enterShare s.tick c i l y st st.kern k base slot x with stepcnt := Config.freeWord (s.tick + i.toNat) }
          let q := { q with
            desks := #v[desk 0, desk 1, desk 2, desk 3], desk := 0
            tiles := Vector.ofFn (fun (t : Fin 64) => tileFrom (BitVec.ofNat 4 (fldN bs 0 8)) (c.extractLsb' 0 4) (fldN bs (64 + 8 * t.val) 8))
            work := { launch := some l, stage := k, slot := some slot, loaded := true, base := base, replay := true } }
          some ((s.setCoreAt c q).bumpL1 c)

/-- SHARE_DISPATCH (R24, R335): the next dealt slot of a core starts on its desks; on a core that stands idle it is a share run again for a
debug session (R389). -/
def execShareDispatch (c : CoreId) (x : CtxIds) (s : State) : Host.Outcome State Fault Refusal :=
  event (fun s =>
    let k := s.coreAt c
    match k.work.launch, k.work.todo with
    | some l, slot :: rest =>
      let st := s.stageOf l k.work.stage
      if !s.live || s.stopped l k.work.stage || !st.begun || st.exch || k.work.slot.isSome || !s.coreQuiet c || !s.ctxOk l x st.kern.desks ||
        s.ckDue l k.work.stage || (st.fresh && s.stopDue l k.work.stage true) then none
      else
        let k := { k with work := { k.work with todo := rest, resumed := k.work.listed } }
        some ((s.setCoreAt c k).startShare c slot 1 x)
    | _, _ =>
      match s.parts.findSome? (fun p => let p := BitVec.ofNat 14 p.1; if s.replayCore p c then s.debugLaunch p else none) with
      | some l => s.startReplay c l x
      | none => none) s
/-- STAGE_ITEM_DISPATCH (R27, R191): a core whose stage is fed by an item bumps its L1 generation. -/
def execStageItemDispatch (c : CoreId) (s : State) : Host.Outcome State Fault Refusal :=
  event (fun s =>
    let k := s.coreAt c
    match k.work.launch with
    | none => none
    | some l => if k.work.stage = 0 ∨ (s.stageOf l k.work.stage).items = 0 then none else some (s.bumpL1 c)) s

/-! ### Taking launches (R329, R330) -/

/-- The TDI that owns a partition (R396, R397). -/
def State.tdiOf (s : State) (p : PartId) : Option (BitVec 11) :=
  let r := tget s.sys.records p.toNat 0
  if r.getLsbD 49 then some (r.extractLsb' 192 11) else none
/-- The state of a TDI. -/
def State.tdi (s : State) (t : BitVec 11) : TdiState := tget s.sys.tdis t.toNat .unlocked
/-- A launch that is new to the timetable. -/
def State.addLaunch (s : State) (y : Launch) : Nat × State := (s.launches.length, s.setLaunch s.launches.length y)
/-- Writes a queue. -/
def State.setQ (s : State) (p : PartId) (q : BitVec 4) (x : LQueue) : State :=
  let y := s.partAt p
  s.setPart p { y with queues := tset y.queues q.toNat x }
/-- A record that fails at once (R330, R398): its record and count are written; its fields beyond the record's own format are not
used. -/
def State.refuseRecord (s : State) (p : PartId) (q : BitVec 4) (addr : Word) (bs : List Byte) (cause : Cause) (x : Word) : State :=
  let v := leNat bs
  let (l, s) := s.addLaunch { part := p, queue := some q, self := addr, record := wordOf v 448, donecnt := wordOf v 384, span := BitVec.ofNat 32 (fieldOf v 896 32) }
  s.failLaunch l { cause := cause, xval := x }
/-- A record's check makes it its queue's head. -/
def State.takeHead (s : State) (p : PartId) (q : BitVec 4) (x : LQueue) (addr : Word) (bs : List Byte) : State :=
  match s.checkRecord p addr bs with
  | .error l => (s.spoilAt l).refuseRecord p q addr bs 0x180 addr
  | .ok (s, y) =>
    let (l, s) := s.addLaunch { y with queue := some q }
    s.setQ p q { x with cur := some l }
/-- LAUNCH_TAKE (R329, R330): the record at a queue's head is read and checked; one that fails, or whose TDI is not in RUN (R406), is
completed as failed.  HEADCNT counts it. -/
def execLaunchTake (p : PartId) (q : BitVec 4) (s : State) : Host.Outcome State Fault Refusal :=
  event (fun s =>
    let s := s.loadQueues p
    match tget? (s.partAt p).queues q.toNat with
    | none => none
    | some x =>
      let busy := match x.cur with | some l => (s.launchAt l).status == .running && !(s.launchAt l).started | none => false
      if !s.live || busy then none
      else match s.hwWord p x.tail with
      | .error e => s.spoilOnce e.line
      | .ok (s, tail) => match s.hwWord p x.head with
        | .error e => s.spoilOnce e.line
        | .ok (s, head) =>
          if tail.toNat ≤ head.toNat then none
          else
            let addr := x.ring + BitVec.ofNat 64 (256 * (head.toNat % 2 ^ x.log2))
            match s.hwRead p addr 256 with
            | .error e => s.spoilOnce e.line
            | .ok (s, bs) =>
              let s := s.counterAdd (s.hwWho p) x.head 1
              some (match s.tdiOf p with
                | some t => if s.tdi t = .run then s.takeHead p q x addr bs else s.refuseRecord p q addr bs 0x1E1 (t.setWidth 64)
                | none => s.takeHead p q x addr bs)) s

/-! ### Eligibility and start (R331 to R334) -/

/-- Clears a queue's head. -/
def State.dropHead (s : State) (l : Nat) : State :=
  let y := s.launchAt l
  match y.queue with
  | none => s
  | some q => match tget? (s.partAt y.part).queues q.toNat with
    | some x => if x.cur = some l then s.setQ y.part q { x with cur := none } else s
    | none => s
/-- A launch ends before any share runs (R332, R333, R340). -/
def State.failStart (s : State) (l : Nat) (x : HwErr) : State := ((s.spoilAt x.line).dropHead l).failLaunch l { cause := 0x180, xval := x.va }
/-- A launch completes cancelled without running: ORIGIN and CAUSE come from the predecessor's record (R333). -/
def State.cancelStart (s : State) (l : Nat) (cause : Cause) (origin : Word) (xval : Word := 0) : State :=
  let next := s.tokenReach l
  let o : Outcome64 := { cause := cause, origin := origin, xval := xval }
  State.passToken (2 * s.launches.length + 2) next o ((s.dropHead l).endLaunch l .cancelled o)
/-- The dependency counter has reached its target (R333); the error is an address that could not be read. -/
def State.waitDone (s : State) (y : Launch) : Except HwErr (State × Bool) :=
  if y.waitcnt = 0 then .ok (s, true) else (s.hwWord y.part y.waitcnt).map (fun r => (r.1, decide (y.waittgt.toNat ≤ r.2.toNat)))
/-- The predecessors' records (R333): the cause and origin of one that failed or was cancelled. -/
def State.predecessors (s : State) (p : PartId) : List Word → Except HwErr (State × Option (Cause × Word))
  | [] => .ok (s, none)
  | a :: as =>
    if a = 0 then s.predecessors p as
    else match s.hwRead p a 64 with
      | .error x => .error x
      | .ok (s, bs) =>
        let v := leNat bs
        if 2 ≤ fieldOf v 0 2 then .ok (s, some (BitVec.ofNat 9 (fieldOf v 8 9), wordOf v 256)) else s.predecessors p as
/-- A head that has become eligible is marked with the clk; one whose predecessor failed is cancelled, and one whose reads fail fails
(R333). -/
def State.refresh (s : State) (l : Nat) : State :=
  let y := s.launchAt l
  if y.status != .running || y.started || y.eligAt.isSome then s
  else match s.waitDone y with
  | .error x => s.failStart l x
  | .ok (s, false) => s
  | .ok (s, true) =>
    match s.predecessors y.part y.waitrec with
    | .error x => s.failStart l x
    | .ok (s, some (cause, origin)) => s.cancelStart l cause origin
    | .ok (s, none) => s.setLaunch l { s.launchAt l with eligAt := some (Config.clkAt s.tick) }
/-- A launch that may start: it heads its queue, or is a child. -/
def State.candidate (s : State) (p : PartId) (l : Nat) : Bool :=
  let y := s.launchAt l
  y.part == p && y.status == .running && !y.started && y.eligAt.isSome
/-- Effective priority (R333, R342). -/
def State.effective (s : State) (l : Nat) : Nat :=
  let y := s.launchAt l
  if y.parent.isSome then y.prio else min 7 (y.prio + (Config.clkAt s.tick - y.eligAt.getD 0) / 2 ^ 24)
/-- Queue numbers in the round that starts after the one served last (R333). -/
def Partition.round (p : Partition) : List Nat :=
  (List.range 16).map (fun i => (match p.served with | some q => q.toNat + 1 + i | none => i) % 16)
/-- The launches of a partition that wait to start: its queues' heads in round order, and children in the order of SPAWN. -/
def State.waitingHeads (s : State) (p : PartId) : List Nat :=
  let x := s.partAt p
  x.round.filterMap (fun q => match tget? x.queues q with | some y => y.cur | none => none)
/-- The children that wait. -/
def State.waitingChildren (s : State) (p : PartId) : List Nat :=
  (s.launches.filter (fun y => y.2.parent.isSome && y.2.part == p && !y.2.started && y.2.status == .running)).map (·.1)
/-- The launch to start next (R333): the highest effective priority, first of its round; between a head and a child of one priority the
manual does not choose. -/
def State.best (s : State) (p : PartId) : Option Nat :=
  let xs := (if Config.choice s.tick then s.waitingHeads p ++ s.waitingChildren p else s.waitingChildren p ++ s.waitingHeads p).filter (s.candidate p)
  xs.foldl (fun (m : Option Nat) l => match m with | some x => if s.effective x < s.effective l then some l else m | none => some l) none
/-- Idle cores in ascending order. -/
def State.idleCores (s : State) (p : PartId) : List CoreId := ((List.range 1024).map (BitVec.ofNat 10)).filter (s.idleCore p)

/-- Inserts a core in ascending CORENUM. -/
def insCore : List CoreId → CoreId → List CoreId
  | [], c => [c]
  | x :: xs, c => if x.toNat < c.toNat then x :: insCore xs c else if x = c then x :: xs else c :: x :: xs
/-- Gives each stage its MIN from a list of cores in order (R334); none where they do not suffice. -/
def giveMin : List Stage → List CoreId → Option (List (List CoreId) × List CoreId)
  | [], cs => some ([], cs)
  | st :: sts, cs =>
    if cs.length < st.min then none
    else (giveMin sts (cs.drop st.min)).map (fun r => (cs.take st.min :: r.1, r.2))
/-- Gives the idle cores that remain, stage by stage up to MAX. -/
def giveMax : List Stage → List (List CoreId) → List CoreId → List (List CoreId)
  | st :: sts, g :: gs, cs => (g ++ cs.take (st.max - g.length)) :: giveMax sts gs (cs.drop (st.max - g.length))
  | _, gs, _ => gs
/-- A core joins a stage of a launch; it may hold the launch's region already (R335).  Where its cluster becomes fused by it, the one L1
starts empty (R157). -/
def State.allot (s : State) (l k : Nat) (c : CoreId) (loaded : Bool := false) : State :=
  (s.setCoreAt c { s.coreAt c with
    work := { launch := some l, stage := k, base := (s.launchAt l).info.base.toNat, loaded := loaded } }).unfuse c
/-- Deals a superstep (R24): slot s to the core of rank s mod n, ascending; a stage of several devices counts the cores ranked before
(R331). -/
def State.deal (s : State) (l k : Nat) : State :=
  let st := s.stageOf l k
  let n := st.far.1 + st.cores.length + st.far.2
  let s := st.cores.zipIdx.foldl (fun s x =>
    let c := s.coreAt x.1
    let r := st.far.1 + x.2
    let todo := (List.range ((st.shares.toNat + n - 1 - r) / n)).map (fun i => r + n * i)
    let c := c.firstRun s.tick x.1.toNat (s.launchAt l)
    s.setCoreAt x.1 { c.resetTiles with
      key := { c.key with merge := [] }
      work := { c.work with
        slot := none, todo := todo, rung := false, byBell := false, exch := false, resumed := false, listed := false, runs := 0, snap := none, next := none } }) s
  s.setStage l k { st with order := st.cores, fresh := true, ckDone := false, last := false, kept := [], merges := [], exch := false, began := Config.clkAt s.tick }
/-- How many devices of a launch's SPAN are ranked before this one (R331): those of lower device ids.  Where the fabric domain holds more
devices than the SPAN, which of them take part is free within that. -/
def State.spanRank (s : State) (y : Launch) : Nat :=
  let devs := y.spandev.toNat - 1
  let low := (s.sys.domain.filter (fun x => x.toNat < s.device.toNat)).length
  let high := (s.sys.domain.filter (fun x => s.device.toNat < x.toNat)).length
  let least := devs - min devs high
  least + Config.pickAt s.tick 0 % (min devs low - least + 1)
/-- Cores that the combined stage holds on devices ranked before and after this one: any numbers within the limits (R331). -/
def State.farCores (s : State) (y : Launch) (st : Stage) (place : Nat) : Nat × Nat :=
  if y.span = 0 then (0, 0)
  else
    let devs := y.spandev.toNat - 1
    let before := min y.rank devs
    (before * st.min + Config.pickAt s.tick (3 * place + 1) % (before * (st.max - st.min) + 1),
     (devs - before) * st.min + Config.pickAt s.tick (3 * place + 2) % ((devs - before) * (st.max - st.min) + 1))
/-- Every stage's first compute phase begins. -/
def State.beginStages (s : State) (l : Nat) : State :=
  let s := s.setLaunch l { s.launchAt l with rank := s.spanRank (s.launchAt l) }
  (List.range (s.launchAt l).stages.length).foldl (fun s k =>
    let st := s.stageOf l k
    (s.setStage l k { st with begun := true, far := s.farCores (s.launchAt l) st k }).deal l k) s

/-- The footprint regions that the argument block gives (R332, R348). -/
def State.readFoots (s : State) (y : Launch) : List FootArg → Except HwErr (State × List Foot)
  | [] => .ok (s, [])
  | f :: fs =>
    match s.hwWord y.part (y.args + BitVec.ofNat 64 f.addr) with
    | .error x => .error x
    | .ok (s, a) => match s.hwWord y.part (y.args + BitVec.ofNat 64 f.len) with
      | .error x => .error x
      | .ok (s, n) => match s.readFoots y fs with
        | .error x => .error x
        | .ok (s, rest) => .ok (s, ⟨a.toNat, n.toNat, f.kind % 2 == 1, decide (2 ≤ f.kind)⟩ :: rest)
/-- An entry's member list (R332); XVAL of a failed read is its address, of a malformed one the table's. -/
def State.readTuples (s : State) (p : PartId) (tab list : Word) : Nat → Nat → Except HwErr (State × List Word)
  | 0, _ => .ok (s, [])
  | n + 1, i =>
    match s.hwWord p (list + BitVec.ofNat 64 (8 * i)) with
    | .error x => .error x
    | .ok (s, t) =>
      if t.extractLsb' 40 24 ≠ 0 then .error ⟨tab, none⟩
      else match State.readTuples s p tab list n (i + 1) with
        | .error x => .error x
        | .ok (s, ts) => .ok (s, t :: ts)
/-- The entries of a group table (R332). -/
def State.readGroups (s : State) (y : Launch) : Nat → Nat → Except HwErr (State × List Group)
  | 0, _ => .ok (s, [])
  | n + 1, i =>
    match s.hwRead y.part (y.grouptab + BitVec.ofNat 64 (8 + 16 * i)) 16 with
    | .error x => .error x
    | .ok (s, bs) =>
      let v := leNat bs
      let k := fieldOf v 16 4
      if fieldOf v 21 11 ≠ 0 ∨ y.stages.length ≤ k then .error ⟨y.self, none⟩
      else match (if fieldOf v 20 1 = 1 then (s.readTuples y.part y.self (wordOf v 64) (fieldOf v 32 32) 0).map (fun r => (r.1, some r.2)) else .ok (s, none)) with
        | .error x => .error x
        | .ok (s, ms) => match State.readGroups s y n (i + 1) with
          | .error x => .error x
          | .ok (s, gs) => .ok (s, { id := BitVec.ofNat 16 (fieldOf v 0 16), stage := k, members := ms } :: gs)
/-- The group table (R332). -/
def State.groupTable (s : State) (y : Launch) : Except HwErr (State × List Group) :=
  if y.grouptab = 0 then .ok (s, [])
  else match s.hwWord y.part y.grouptab with
    | .error x => .error x
    | .ok (s, n) => if n = 0 ∨ 256 < n.toNat then .error ⟨y.self, none⟩ else s.readGroups y n.toNat 0
/-- What the loader fixed keeps to R17, R243 and R340.  One launch at a time is resident on a core, so that regions there are disjoint. -/
def infoOk (y : Launch) (x : LoadInfo) : Bool :=
  x.base.toNat % 64 == 0 && y.stages.all (fun st => decide (x.base.toNat + st.kern.scratch ≤ 0x80000)) && x.cntbase.toNat % 32768 == 0 &&
  x.snap.toNat % 64 == 0

/-- Starts a launch on cores given out to its stages (R332, R334, R339, R340): its tables are read first. -/
def State.startOn (s : State) (l : Nat) (info : LoadInfo) (gs : List (List CoreId)) : State :=
  let y := s.launchAt l
  let s := s.dropHead l
  if y.stages.any (fun st => st.kern.restart) && !info.snapOk then s.failStart l ⟨y.self, none⟩
  else match s.groupTable y with
  | .error x => s.failStart l x
  | .ok (s, groups) => match s.readFoots y y.footArgs with
    | .error x => s.failStart l x
    | .ok (s, foots) =>
      let prio := s.effective l
      let no := (s.launches.map (fun z => z.2.startNo)).foldl max 0 + 1
      let stages := y.stages.zipIdx.map (fun x => { x.1 with cores := (gs.getD x.2 []).foldl insCore [] })
      let s := s.setLaunch l { y with started := true, prio := prio, startNo := no, info := info, groups := groups, foots := foots, stages := stages, spanReady := y.span == 0 }
      let s := gs.zipIdx.foldl (fun s g => g.1.foldl (fun s c => s.allot l g.2 c) s) s
      let s := s.hwWrite y.part info.cntbase (List.replicate 32768 0)
      let s := s.hwWrite y.part y.record (recordBytes .running {})
      let p := s.partAt y.part
      let s := s.setPart y.part { p with pre := none, served := match y.queue with | some q => some q | none => p.served }
      if y.span = 0 then s.beginStages l else s

/-! ### Pre-emption (R334, R337, R338) -/

/-- Sets a bit of RTREQ on the desks of a core (R361). -/
def Core.request (c : Core) (b : Nat) : Core := { c with desks := c.desks.map (fun d => { d with rtreq := d.rtreq ||| BitVec.ofNat 16 (2 ^ b) }) }
/-- Cores that a stage can still lose without going below its MIN, highest rank first. -/
def Stage.loose (st : Stage) : List CoreId :=
  let here := st.cores.filter (fun c => !st.vacate.contains c && !st.urgent.contains c && !st.vacating.contains c)
  (here.reverse).take (here.length - st.min - st.gives.length - st.giving.length)
/-- Whether one victim comes before another: the lower priority, then the one started later (R334). -/
def victimFirst (a b : Nat × Launch) : Bool := decide (a.2.prio < b.2.prio) || (a.2.prio == b.2.prio && decide (b.2.startNo < a.2.startNo))
/-- Inserts a victim in order. -/
def insVictim : List (Nat × Launch) → Nat × Launch → List (Nat × Launch)
  | [], x => [x]
  | y :: ys, x => if victimFirst x y then x :: y :: ys else y :: insVictim ys x
/-- The cores to pre-empt, in the order of choice: launch, stage and core.  Among the stages of one launch the manual gives no order: the
last goes first (log 67). -/
def State.victims (s : State) (p : PartId) (prio : Nat) : List (Nat × Nat × CoreId) :=
  let vs := (s.launches.filter (fun y => y.2.part == p && y.2.started && y.2.status == .running && decide (y.2.prio < prio))).foldl insVictim []
  vs.flatMap (fun y => ((y.2.stages.zipIdx).reverse).flatMap (fun st =>
    if st.1.ended then [] else st.1.loose.map (fun c => (y.1, st.2, c))))
/-- Marks a victim's core for normal or immediate mode (R337, R338). -/
def State.claimCore (s : State) (deadline : Word) (v : Nat × Nat × CoreId) : State :=
  let y := s.launchAt v.1
  let st := s.stageOf v.1 v.2.1
  if deadline ≠ 0 ∧ deadline.toNat < st.bellint.toNat ∧ y.immok then
    (s.setStage v.1 v.2.1 { st with urgent := st.urgent ++ [v.2.2] }).setCoreAt v.2.2 ((s.coreAt v.2.2).request 0)
  else s.setStage v.1 v.2.1 { st with vacate := st.vacate ++ [v.2.2] }
/-- The cores claimed for a start that have still to come: they leave their stages at a bell or at once, and a retired one has a spare to
take its place. -/
def State.toCome (s : State) (cs : List CoreId) : List CoreId :=
  cs.filter (fun c =>
    let w := (s.coreAt c).work
    (match w.launch with
      | some l => let st := s.stageOf l w.stage; (s.launchAt l).status == .running && (st.vacate ++ st.urgent ++ st.vacating).contains c
      | none => false) && !((s.coreAt c).retiring && s.spareUsed c))
/-- The cores that a launch can start on now, in the order in which they are given out: idle cores, and among them those pre-empted for it
last (R334). -/
def State.startCores (s : State) (p : PartId) : List CoreId × List CoreId :=
  let mine := match (s.partAt p).pre with | some (_, cs) => cs | none => []
  let idle := s.idleCores p
  (idle.filter (fun c => !mine.contains c), (mine.foldl insCore []).filter (fun c => idle.contains c))

/-- Launches of a partition that have been taken and not started. -/
def State.queuedOf (s : State) (p : PartId) : List Nat :=
  (s.launches.filter (fun y => y.2.part == p && !y.2.started && y.2.status == .running)).map (·.1)
/-- The TDI of a partition, where it is not in RUN: it starts no launch (R398). -/
def State.tdiStops (s : State) (p : PartId) : Option (BitVec 11) := (s.tdiOf p).filter (fun t => s.tdi t != .run)
/-- Launches of a partition that wait to start fail, as its TDI is not in RUN (R398, R406). -/
def State.refuseQueued (s : State) (p : PartId) (t : BitVec 11) : State :=
  (s.queuedOf p).foldl (fun s l => (s.dropHead l).failLaunch l { cause := 0x1E1, xval := t.setWidth 64 }) s
/-- LAUNCH_START (R333, R334): heads that have become eligible are found; the one chosen starts where every stage can receive its MIN, or
cores are pre-empted for it; `q` names its queue, and `info` is what the loader fixes for it. -/
def execLaunchStart (p : PartId) (q : BitVec 4) (info : LoadInfo) (s : State) : Host.Outcome State Fault Refusal :=
  event (fun s =>
    if !s.live then none
    else match s.tdiStops p with
    | some t => if (s.queuedOf p).isEmpty then none else some (s.refuseQueued p t)
    | none =>
      -- a launch for which cores were being pre-empted and which has ended gives way
      let s : State := match (s.partAt p).pre with
        | some (l, _) => if (s.launchAt l).status != .running then s.setPart p { s.partAt p with pre := none } else s
        | none => s
      -- no head becomes eligible while cores are being pre-empted for another start (R333)
      let x := s.partAt p
      let s : State := if x.pre.isSome then s else (s.waitingHeads p ++ s.waitingChildren p).foldl (fun s l => s.refresh l) s
      match (match x.pre with | some (l, _) => some l | none => s.best p) with
      | none => some s
      | some l =>
        let y := s.launchAt l
        if (y.queue.isSome && y.queue != some q) || !infoOk y info then some s
        else
          let (idle, mine) := s.startCores p
          match giveMin y.stages (idle ++ mine) with
          | some (gs, _) =>
            let used := gs.flatMap id
            some (s.startOn l info (giveMax y.stages gs (idle.filter (fun c => !used.contains c))))
          | none =>
            -- cores are claimed for it, and more where some of those claimed were lost since
            let had := match x.pre with | some (_, cs) => cs | none => []
            let need := (y.stages.map (·.min)).sum - (idle ++ mine).length - (s.toCome had).length
            let vs := s.victims p (s.effective l)
            if need = 0 || vs.length < need then some s
            else
              let vs := vs.take need
              let s := vs.foldl (fun s v => s.claimCore y.deadline v) s
              some (s.setPart p { s.partAt p with pre := some (l, had ++ vs.map (·.2.2)) })) s
/-- SPAN_START (R331): the launches of every device of the SPAN have started; where they disagree, the launch fails with 0x180. -/
def execSpanStart (l : Nat) (s : State) : Host.Outcome State Fault Refusal :=
  event (fun s =>
    let y := s.launchAt l
    if !s.live || y.status != .running || !y.started || y.spanReady then none
    else if decide (1 < y.spandev.toNat) && Config.choice s.tick then some (s.failLaunch l { cause := 0x180, xval := y.self })
    else some ((s.setLaunch l { y with spanReady := true }).beginStages l)) s

/-- The desks of a core's share that have not ended. -/
def Core.shareDesks (c : Core) : List DeskId := ([0, 1, 2, 3] : List DeskId).filter (fun i => (c.at i).occ && (c.at i).launch.isSome && !(c.at i).hollow)
/-- The control word that saves a core's share. -/
def Core.shareCtl (c : Core) : Word := BitVec.ofNat 64 (256 + (c.shareDesks.map (fun i => 2 ^ i.toNat)).sum)
/-- PREEMPT_IMMEDIATE (R338): at a permitted point a chosen core's share is saved into an area of the run-time's choice, and the core is
vacated. -/
def execPreemptImmediate (c : CoreId) (area : Word) (s : State) : Host.Outcome State Fault Refusal :=
  event (fun s =>
    let k := s.coreAt c
    match k.work.launch with
    | none => none
    | some l =>
      let st := s.stageOf l k.work.stage
      if !s.live || !st.urgent.contains c || s.stopped l k.work.stage || st.exch || !s.savePoint c then none
      else if k.shareDesks.isEmpty then (if k.key.adds.isEmpty && k.work.slot.isNone then some (s.vacateUrgent c none) else none)
      else if area.toNat % 64 ≠ 0 ∨ !k.shareDesks.all (fun i => (k.at i).user) then none
      else
        let w := s.supWho (s.launchAt l).part
        match s.bringToRest c k.shareCtl with
        | .error _ => none
        | .ok s => match s.saveArea w c none k.shareCtl area with
          | .error _ => none
          | .ok s => some (s.vacateUrgent c (some area))) s
/-- The launch and stage that an idle core is returned to for their resume list: every core of the stage rang by BELL, or none is left
(R338). -/
def State.stranded (s : State) (p : PartId) : Option (Nat × Nat) :=
  s.launches.findSome? (fun y =>
    if y.2.part != p || y.2.status != .running || !y.2.started then none
    else y.2.stages.zipIdx.findSome? (fun st =>
      if !st.1.resume.isEmpty && !st.1.exch && st.1.cores.all (fun c => (s.coreAt c).work.byBell) then some (y.1, st.2) else none))
/-- A core takes an entry of its stage's resume list (R338): the one that it took as its last dealt share ended, or the lowest. -/
def State.takeEntry (s : State) (c : CoreId) : Option State :=
  let k := s.coreAt c
  match k.work.launch with
  | none => none
  | some l =>
    let st := s.stageOf l k.work.stage
    match (match k.work.next with | some r => some r | none => s.entryFor c) with
    | none => none
    | some r =>
      if !s.live || s.stopped l k.work.stage || !st.begun || st.exch || k.work.replay || k.work.slot.isSome || !k.work.todo.isEmpty || k.work.byBell || !s.coreQuiet c then none
      else match r.area with
      | none =>
        let s := s.setStage l k.work.stage { st with resume := st.resume.filter (fun x => x.slot != r.slot) }
        some (s.setCoreAt c { k with work := { k.work with todo := [r.slot], listed := true, next := none } })
      | some a =>
        let w := s.supWho (s.launchAt l).part
        let s := s.setCoreAt c (k.request 1)
        match s.areaClean w a 1 with
        | .error _ => none
        | .ok (_, h) => match s.restoreArea w c (fld h 0) a with
          | .ok s => some s
          | .error _ => none
/-- RESUME_ENTRY (R338): a core whose dealt slots have ended takes an entry; where none of the stage can, an idle core is returned to it,
but none that was pre-empted for a start still to come. -/
def execResumeEntry (c : CoreId) (s : State) : Host.Outcome State Fault Refusal :=
  event (fun s =>
    let k := s.coreAt c
    if k.work.launch.isSome then s.takeEntry c
    else if s.promised c then none
    else match s.parts.findSome? (fun p => if s.idleCore (BitVec.ofNat 14 p.1) c then s.stranded (BitVec.ofNat 14 p.1) else none) with
      | none => none
      | some (l, i) =>
        let st := s.stageOf l i
        (((s.setStage l i { st with cores := insCore st.cores c }).allot l i c)).takeEntry c) s
/-- DEADLINE_PASS (R155): the starting launch's deadline has passed; what was to be saved at once leaves at the next bell. -/
def execDeadlinePass (l : Nat) (s : State) : Host.Outcome State Fault Refusal :=
  event (fun s =>
    let y := s.launchAt l
    match (s.partAt y.part).pre with
    | some (z, _) =>
      if z ≠ l ∨ y.deadline = 0 ∨ Config.clkAt s.tick ≤ y.eligAt.getD 0 + y.deadline.toNat then none
      else some { s with launches := s.launches.map (fun v =>
        if v.2.part == y.part then (v.1, { v.2 with stages := v.2.stages.map (fun st => { st with vacate := st.vacate ++ st.urgent, urgent := [] }) }) else v) }
    | none => none) s

/-! ### Bells and exchanges (R22, R23, R253 to R256, R336) -/

/-- A core has rung (R23, R253, R254): by BELL, or with every dealt slot ended and what R254 asks for performed. -/
def State.hasRung (s : State) (l : Nat) (c : CoreId) : Bool :=
  let k := s.coreAt c
  k.work.rung || (k.work.slot.isNone && k.work.todo.isEmpty && k.work.next.isNone && s.coreQuiet c && k.mx.queue.isEmpty &&
    !s.sys.nm.any (fun x => x.owner.launch == some l && x.owner.core == c) && !s.allCards.any (fun x => s.ownCard c x && !x.exch))
/-- Whether a stage receives a core at its bell (R336). -/
def stageReceives (sts : List Stage) (k : Nat) : Bool :=
  let st := sts.getD k {}
  if k = 0 then
    match sts[1]? with
    | none => false
    | some o => decide (4 * o.items < o.depth) && (sts.drop 1).any (fun x => !x.ended && decide (x.cores.length < x.max))
  else decide (3 * st.depth < 4 * st.items)
/-- Whether a stage gives a core (R336). -/
def stageGives (sts : List Stage) (k : Nat) : Bool :=
  let st := sts.getD k {}
  !st.ended && decide (st.min + st.gives.length + st.giving.length + st.vacate.length + st.vacating.length + st.urgent.length < st.cores.length) &&
  (if k = 0 then match sts[1]? with | none => false | some o => decide (3 * o.depth < 4 * o.items)
   else decide (4 * st.items < st.depth))
/-- The comparison of occupancies at a stage's bell (R336): the lowest-numbered giving stage will give it a core at its own next bell,
provided that this stage stays within its MAX with those already on their way. -/
def State.rebalance (s : State) (l k : Nat) : State :=
  let sts := (s.launchAt l).stages
  let st := sts.getD k {}
  let pending := st.getting.length + (sts.map (fun x => (x.gives ++ x.giving).countP (· == k))).sum
  if stageReceives sts k && decide (st.cores.length + pending < st.max) then
    match (List.range sts.length).find? (fun j => j != k && stageGives sts j) with
    | some j => s.setStage l j { s.stageOf l j with gives := (s.stageOf l j).gives ++ [k] }
    | none => s
  else s
/-- A core's exchange starts (R253, R256): at xlabel on desk 0 with a context id of its own, after BELL where its desks wait, or not at
all where the stage has no xlabel. -/
def State.startExchange (s : State) (l k rank n : Nat) (c : CoreId) (ctx : BitVec 16) : State :=
  let y := s.launchAt l
  let st := s.stageOf l k
  let q := s.coreAt c
  let idle := s.idle c
  let s := s.setCoreAt c { q with work := { q.work with exch := true } }
  if q.work.byBell then
    let s := ([0, 1, 2, 3] : List DeskId).foldl (fun s i =>
      let d := s.deskAt c i
      if d.occ && d.wait == some .bell then
        let s := s.breakOf c i
        s.setDeskAt c i { d.retire with exch := true }
      else s) s
    -- they are ready in one clk: the nearest in ring order after the desk that issued last goes on (R16)
    match (s.coreAt c).nextReady q.desk with
    | some i => if idle then s.setCoreAt c { s.coreAt c with desk := i } else s
    | none => s
  else match st.kern.xentry with
    | none => s
    | some e =>
      let d := (s.deskAt c 0).enterRoutine s.tick (4 * c.toNat) l y st k q.work.base (y.info.text + e)
      let was := q.at 0
      let d := { d with
        kern := { st.kern with dictWords := if was.launch == some l then was.kern.dictWords else st.kern.dictWords }
        exch := true, ctxid := ctx, srseed := seedFor y.seed (4 * (st.shares.toNat + rank) + 1)
        gu := entryG y.args (BitVec.ofNat 64 rank) (BitVec.ofNat 64 n) (BitVec.ofNat 64 q.work.base) (BitVec.ofNat 64 k)
          (BitVec.ofNat 64 (q.work.base + st.kern.scratch)) }
      s.setCoreAt c { s.coreAt c with desk := 0, desks := (s.coreAt c).desks.set 0 d }
/-- What copies of a stage's exchange find in any core of the launch is its scratchpad as it is at the stage's bell (R259). -/
def State.takeBell (s : State) (l k : Nat) : State :=
  { s with cores := s.cores.map (fun c =>
    if c.2.work.launch == some l then (c.1, { c.2 with bells := tset c.2.bells k (c.2.pad, c.2.padPoison) }) else c) }
/-- The capability tables of a stage's cores are empty (R172). -/
def State.clearCaps (s : State) (cs : List CoreId) : State :=
  cs.foldl (fun s c =>
    let x := s.coreAt c
    s.setCoreAt c { x with mx := { x.mx with caps := Vector.replicate 8 none } }) s
/-- How a bell changes the cores of a stage (R14, R26, R336, R337). -/
structure Remap where
  /-- cores that become idle -/
  out : List CoreId
  /-- cores that go to other stages -/
  gone : List CoreId
  /-- the cores of the next superstep -/
  new : List CoreId
/-- The next superstep's cores: cores lost, vacated or given at the bell leave, cores received join. -/
def State.remapOf (s : State) (st : Stage) : Remap :=
  let gone1 (c : CoreId) : Bool := (s.coreAt c).lost || ((s.coreAt c).retiring && s.spareUsed c)
  let lost := st.cores.filter gone1
  let out := lost ++ st.vacating.filter (fun c => st.cores.contains c && !lost.contains c)
  let stay := st.cores.filter (fun c => !out.contains c)
  let gone := (stay.reverse).take (min st.giving.length (stay.length - st.min))
  let stay := stay.filter (fun c => !gone.contains c)
  let join := st.joining.filter (fun c => !gone1 c)
  let room := join.take (st.max - stay.length)
  ⟨out ++ st.joining.filter (fun c => !room.contains c), gone, room.foldl insCore stay⟩
/-- At the bell of a remap of a stage its capability tables are emptied (R172). -/
def State.bellRemap (s : State) (l k : Nat) : State :=
  let st := s.stageOf l k
  if (s.remapOf st).new != st.order || st.farNext != st.far then (s.clearCaps st.cores).setStage l k { st with cleared := true } else s
/-- BELL_COMPLETE (R22, R253 to R256, R277, R336): every core has rung and the resume list is empty; recorded tables are merged once, and
the exchange starts on every core, with the context ids from `x` on. -/
def execBellComplete (l k : Nat) (x : BitVec 16) (s : State) : Host.Outcome State Fault Refusal :=
  event (fun s =>
    let st := s.stageOf l k
    let n := st.far.1 + st.cores.length + st.far.2
    if !s.live || s.stopped l k || st.ended || !st.begun || st.exch || !st.resume.isEmpty || s.stopDue l k false || s.ckDue l k ||
      st.cores.isEmpty || !st.cores.all (s.hasRung l) || (st.cores.zipIdx).any (fun c => s.ctxInUse l (x + BitVec.ofNat 16 c.2)) then none
    else
      let tabs := (st.merges ++ st.cores.flatMap (fun c => (s.coreAt c).key.merge)).eraseDups
      let s := tabs.foldl (fun s t => s.bellMerge t) s
      let s := s.rebalance l k
      let st := s.stageOf l k
      let prod := decide (0 < k) && (s.stageOf l (k - 1)).ended
      let s := s.setStage l k { st with
        exch := true, joining := st.getting.take 1, getting := st.getting.drop 1, giving := st.gives.filter (fun j => !(s.stageOf l j).ended), gives := []
        vacating := st.vacate ++ st.urgent, vacate := [], urgent := [], last := st.supersteps == 0 && st.items == 0 && prod
        farNext := s.farCores (s.launchAt l) st k, merges := [] }
      let s := (s.bellRemap l k).takeBell l k
      let s := s.note (s.launchAt l).part 4 (st.cores.map coreDie).eraseDups
      some (st.cores.zipIdx.foldl (fun s c => s.startExchange l k (st.far.1 + c.2) n c.1 (x + BitVec.ofNat 16 c.2)) s)) s

/-- The persistent ranges of a region that comes from another device: any contents. -/
def Kernel.farRanges (k : Kernel) (tick place : Nat) : Image :=
  ((k.persist.flatMap (fun r => (List.range r.2).map (r.1 + ·))).foldl (fun a o => cset a o (Config.freeByte tick (place + o))) [], [])
/-- The persistent ranges that the core of a rank receives (R26): those of the region that the same rank owned, with the `.scratch` contents
for a rank that is new.  Ranks count the whole combined stage (R331). -/
def State.persistOf (s : State) (l k rank : Nat) : Image :=
  let y := s.launchAt l
  let st := s.stageOf l k
  let fresh := st.kern.cut (scratchImage y.info.scratch st.kern.scratch)
  match tget? st.kept rank with
  | some m => m
  | none =>
    if st.far.1 + st.order.length + st.far.2 ≤ rank then fresh
    else match (if rank < st.far.1 then none else st.order[rank - st.far.1]?) with
      | none => st.kern.farRanges s.tick (2 ^ 20 * rank)
      | some c =>
        let x := s.coreAt c
        if x.work.launch == some l && x.work.loaded then st.kern.cut (x.image y.info.base.toNat st.kern.scratch) else fresh
/-- The regions of a remapped stage (R26): the cores of the new ranks, from `first` on, take what their ranks own. -/
def State.movePersist (s : State) (l k first : Nat) (new : List CoreId) : State :=
  let y := s.launchAt l
  let st := s.stageOf l k
  let base := y.info.base.toNat
  let len := st.kern.scratch
  let imgs := new.zipIdx.map (fun x => s.persistOf l k (first + x.2))
  (new.zip imgs).foldl (fun s x =>
    let c := (s.coreAt x.1).firstRun s.tick x.1.toNat y
    s.setCoreAt x.1 (c.setImage base len (st.kern.paste (c.image base len) x.2))) s
/-- A core that leaves a launch is idle, and what its units held goes. -/
def State.releaseCore (s : State) (c : CoreId) : State :=
  let s := s.unfuse c
  s.setCoreAt c (s.coreAt c).vacate
/-- A core goes over to another stage of its launch: its region stays (R335). -/
def State.moveCore (s : State) (l k : Nat) (c : CoreId) : State := (s.releaseCore c).allot l k c (s.coreAt c).work.loaded
/-- A core due to be retired is replaced by its cluster's spare, or lost, which the management controller learns (R14, R374). -/
def State.relieve (s : State) (c : CoreId) : State :=
  let k := s.coreAt c
  if !k.retiring then s
  else if s.spareUsed c then
    let e : LogEntry := { kind := .exhausted, ras := some (.core c), at_ := Config.clkAt s.tick }
    { s with sys := { s.sys with log := s.sys.log ++ [e] } }.setCoreAt c { k with retiring := false, lost := true }
  else s.setCoreAt c { k with retiring := false, spared := true }
/-- A stage that was remapped (R332): a group of the stage is formed again, and its instances are numbered anew. -/
def State.afterRemap (s : State) (l k : Nat) : State :=
  let y := s.launchAt l
  let ids := (y.groups.filter (fun g => g.stage == k)).map (·.id)
  let s := s.setLaunch l { y with groups := y.groups.map (fun g => if g.stage == k then { g with drawn := [] } else g) }
  { s with sys := { s.sys with insts := s.sys.insts.filter (fun i => !(i.launch == l && ids.contains i.group)) } }
/-- The exchange of a bell has ended, and the stage goes over to its next cores (R14, R26, R331, R336, R337); a core that awaited retirement
is relieved, and one that the loss of a core since the bell brings is a remap too. -/
def State.remap (s : State) (l k : Nat) : State :=
  let st := s.stageOf l k
  let s := (st.cores ++ st.joining).foldl (fun s c => s.relieve c) s
  let m := s.remapOf st
  let changed := m.new != st.order || st.farNext != st.far
  let s := if changed || !st.kept.isEmpty then s.movePersist l k st.farNext.1 m.new else s
  let s := m.out.foldl (fun s c => s.releaseCore c) s
  let s := (m.gone.zip st.giving).foldl (fun s x =>
    let dest := s.stageOf l x.2
    if dest.ended then s.releaseCore x.1
    else (s.moveCore l x.2 x.1).setStage l x.2 { dest with getting := dest.getting ++ [x.1] }) s
  let now := s.stageOf l k
  let s := s.setStage l k { now with cores := m.new, vacating := [], giving := [], joining := [], far := st.farNext, cleared := false }
  if changed then (if st.cleared then s else s.clearCaps m.new).afterRemap l k else s
/-- EXCHANGE_END (R22, R253, R256, R345, R346): the exchanges of every core have ended; SSCNT advances, and the stage ends or is dealt
anew. -/
def execExchangeEnd (l k : Nat) (s : State) : Host.Outcome State Fault Refusal :=
  event (fun s =>
    let st := s.stageOf l k
    if !s.live || s.stopped l k || !st.exch || !st.cores.all (fun c => (s.coreAt c).desks.toList.all (fun d => !d.occ || d.launch != some l) && (s.coreAt c).mx.stuck) then none
    else
      let n := st.sscnt + 1
      let ends := st.endReq || (st.supersteps != 0 && decide (st.supersteps.toNat ≤ n.toNat)) || st.last
      let s := s.setStage l k { st with sscnt := n }
      let s := { s with cores := s.cores.map (fun (c : Nat × Core) => if c.2.work.launch == some l then (c.1, { c.2 with bells := tdel c.2.bells k }) else c) }
      let s := if ends then
          let s := (st.cores ++ st.joining ++ st.getting).foldl (fun s c => (s.relieve c).releaseCore c) s
          s.setStage l k { s.stageOf l k with
            cores := [], joining := [], getting := [], vacate := [], vacating := [], urgent := [], gives := [], giving := [], ended := true, exch := false }
        else (s.remap l k).deal l k
      some s) s

/-! ### Failure, re-runs and completion (R339, R340, R347) -/

/-- HANG_DETECT (R339): a compute phase has run past HANGLIMIT. -/
def execHangDetect (l k : Nat) (s : State) : Host.Outcome State Fault Refusal :=
  event (fun s =>
    let y := s.launchAt l
    let st := s.stageOf l k
    if !s.live || s.stopped l k || y.hang = 0 || !st.begun || st.exch || st.ended || Config.clkAt s.tick ≤ st.began + y.hang.toNat then none
    else some (s.failLaunch l { cause := 0x183, stage := k, sscnt := st.sscnt, xval := st.sscnt })) s
/-- A desk whose trap the run-time holds: it stands in supervisor mode with this cause, value and PC. -/
def State.trapped (s : State) (c : CoreId) (l : Nat) (p : Desk → Bool) : Option Desk :=
  ([0, 1, 2, 3] : List DeskId).findSome? (fun i =>
    let d := s.deskAt c i
    if d.occ && !d.user && !d.hollow && d.launch == some l && p d then some d else none)
/-- A hardware error in a share that can run again (R340, R354). -/
def State.rerunnable (s : State) (c : CoreId) (d : Desk) : Bool :=
  d.kern.restart && !d.exch && decide (0x1C0 ≤ d.xcause.toNat ∧ d.xcause.toNat ≤ 0x1C3) && decide ((s.coreAt c).work.runs < 3)
/-- The failure or cancellation of a launch of the same SPAN on another device reaches a launch: it is cancelled with the cause and the
origin, and so is what depends on it (R331, R339). -/
def State.spanFails (s : State) (l : Nat) (cause : Cause) (origin : Word) : Option State :=
  let y := s.launchAt l
  if !s.live || y.status != .running || y.span = 0 || y.spandev.toNat ≤ 1 then none
  else some (s.cancelStart l cause origin)
/-- LAUNCH_FAIL (R331, R339, R354): the run-time's handler ends a trap as a program fault of the launch.  An XPC has 57 bits, so no trap has a
`pc` beyond them: with such a `pc` it is a launch of the same SPAN on another device that failed or was cancelled, and `v` is its ORIGIN. -/
def execLaunchFail (l : Nat) (cause : Cause) (v pc : Word) (c : CoreId) (s : State) : Host.Outcome State Fault Refusal :=
  event (fun s =>
    if 2 ^ 57 ≤ pc.toNat then s.spanFails l cause v
    else match s.trapped c l (fun d => d.xcause == cause && d.xval == v && d.xpc.setWidth 64 == pc) with
    | none => none
    | some d =>
      if s.rerunnable c d then none
      else some (s.failLaunch l { cause := cause, stage := d.stage.toNat, core := c.toNat, sscnt := d.sscnt, xval := v, xpc := pc })) s
/-- The core that a share runs again on (R340): an idle core, or the cluster's spare under the same number. -/
def State.rerunCore (s : State) (p : PartId) (c : CoreId) : Option CoreId :=
  let xs := (s.idleCores p).filter (fun x => !s.promised x) ++ (if s.spareUsed c || (s.coreAt c).lost then [] else [c])
  xs[Config.pickAt s.tick 0 % xs.length]?
/-- SHARE_RERUN (R340): the share is taken from its core and dispatched afresh, with `.scratch` and its input snapshot in its region; a
snapshot that cannot be read back ends in the launch's failure with the error's cause. -/
def execShareRerun (c : CoreId) (x : CtxIds) (s : State) : Host.Outcome State Fault Refusal :=
  event (fun s =>
    let k := s.coreAt c
    match k.work.launch, k.work.slot with
    | some l, some slot =>
      let y := s.launchAt l
      let st := s.stageOf l k.work.stage
      match s.trapped c l (s.rerunnable c), s.rerunCore y.part c with
      | some d, some c' =>
        if !s.live || s.stopped l k.work.stage || k.work.replay || k.desks.toList.any (fun d => !d.sq.isEmpty) || !k.key.adds.isEmpty then none
        else
          let w := k.work
          let fail := s.failLaunch l { cause := d.xcause, stage := d.stage.toNat, core := c.toNat, sscnt := d.sscnt, xval := d.xval, xpc := d.xpc.setWidth 64 }
          let s := s.releaseCore c
          let s := if c' = c then s.setCoreAt c { s.coreAt c with spared := true } else s
          let s := s.allot l w.stage c'
          let k' := s.coreAt c'
          let k' := { k' with work := { k'.work with todo := w.todo, resumed := w.resumed, listed := w.listed, snap := w.snap, aside := w.aside } }
          let sub (z : CoreId) : CoreId := if z = c then c' else z
          let s := (s.setCoreAt c' (k'.firstRun s.tick c'.toNat y)).setStage l w.stage { st with
            merges := st.merges ++ k.key.merge
            cores := insCore (st.cores.filter (· != c)) c', order := st.order.map sub
            vacate := st.vacate.map sub, urgent := st.urgent.map sub }
          if !s.ctxOk l x st.kern.desks then none
          else match s.snapLoad (s.supWho y.part) (y.snapAt w.stage (w.snap.getD 0)) c' (w.base + st.kern.inOff) (st.kern.inLen / 64 + 2) st.kern.inLen with
            | none => some fail
            | some s => some (s.startShare c' slot (w.runs + 1) x)
      | _, _ => none
    | _, _ => none) s
/-- LAUNCH_COMPLETE (R342, R347): every stage has ended, its commands are done and its children have completed. -/
def execLaunchComplete (l : Nat) (s : State) : Host.Outcome State Fault Refusal :=
  event (fun s =>
    let y := s.launchAt l
    let busy := s.allCards.any (fun c => c.owner.launch == some l && c.bind == .yes) ||
      s.sys.nm.any (fun c => c.owner.launch == some l && c.bind == .yes && (match c.st with | .fault .. => false | _ => true))
    if !s.live || y.status != .running || !y.started || y.stages.isEmpty || !y.stages.all (·.ended) || !(s.childrenOf l).isEmpty || busy ||
      (List.range y.stages.length).any (fun k => s.stopDue l k true) then none
    else some (s.endLaunch l .done {})) s

end Sys2Proof.Machine
end

