-- ==== Sys2Proof/Machine/Debug.lean ====
section
/-! DEFINITION. TLBINV (R384), roll call (R385, R386), stops, checkpoints and replay (R387 to R389), and monitors (R390). -/

namespace Sys2Proof.Machine

/-! ### TLBINV (R384) -/

/-- A cached translation that TLBINV removes. -/
def TlbEntry.picked (e : TlbEntry) (p : PartId) (kind : Nat) (a : Word) : Bool :=
  e.part == p &&
  (match kind with
   | 0 => decide (e.va ≤ a.toNat) && decide (a.toNat < e.va + 2 ^ e.log2)
   | 1 => !pteBit e.pte 10
   | _ => true)
/-- Whether a range of addresses meets a translation's page. -/
def TlbEntry.meets (e : TlbEntry) (a : Word) (n : Nat) : Bool := decide (a.toNat < e.va + 2 ^ e.log2) && decide (e.va < a.toNat + n)
/-- A cached entry of an upper level that TLBINV removes: those over an address, or all of the partition's. -/
def WalkEntry.picked (e : WalkEntry) (p : PartId) (kind : Nat) (a : Word) : Bool :=
  e.part == p && (kind != 0 || a.toNat / 2 ^ (12 + 9 * e.level) == e.va)
/-- The translations that issued commands hold until their accesses are made: completion counters (R242), near-memory arrays (R236), second
phases of JSCATTER (R297) and held key commands (R298), those of a saved share included. -/
def State.heldEntries (s : State) : List TlbEntry :=
  s.allCards.flatMap (·.held) ++ s.sys.nm.flatMap (·.held) ++
  s.cores.flatMap (fun k => k.2.key.held.flatMap (·.held) ++ k.2.key.adds.flatMap (·.held) ++ k.2.mx.queue.flatMap (·.held)) ++
  s.sys.saved.flatMap (fun x => match x.share with | some (q, k, _) => k.held.flatMap (·.held) ++ q.queue.flatMap (·.held) | none => [])
/-- The addresses that the loads and stores under way of a partition's desks have translated. -/
def State.loadStoreRanges (s : State) (p : PartId) : List (Word × Nat) :=
  s.cores.flatMap (fun k => (k.2.desks.toList.filter (fun d => d.part == p)).flatMap (fun d =>
    (match d.pend with | some x => x.units.map (fun u => (u.va, (u.parts.map (·.n)).sum)) | none => []) ++
    d.sq.flatMap (fun it => it.ops.map (fun o => (o.va, o.bytes.length)))))
/-- Translations go from every TLB, walk cache and walk under way of the package (R384). -/
def State.forget (s : State) (f : TlbEntry → Bool) (g : WalkEntry → Bool) : State :=
  let stale (d : Desk) : Bool := match d.walk.bind (·.found) with | some t => f t | none => false
  { s with
    mem := { s.mem with tlbs := s.mem.tlbs.map (fun k => (k.1, k.2.filter (fun e => !f e))), walks := s.mem.walks.map (fun k => (k.1, k.2.filter (fun e => !g e))) }
    cores := s.cores.map (fun k => (k.1, { k.2 with desks := k.2.desks.map (fun d => if stale d then { d with walk := none } else d) })) }
/-- TLBINV (R384): the desk's stores first, then every access that uses a translation to be removed; then the translations go. -/
def tlbinv (b a : GReg) (s : State) : Except Stop State := do
  let t ← s.d.take 0 [a, b] [] 2
  let va := t.x 0
  let w := t.x 1
  let kind := (w.extractLsb' 0 2).toNat
  if w.extractLsb' 2 62 ≠ 0 ∨ kind = 3 then .error (.trap 0x04E w)
  if kind = 0 ∧ va.extractLsb' 57 7 ≠ 0 then .error (.trap 0x04E va)
  s.released
  let p := s.d.part
  let gone := (s.mem.tlbs.flatMap (·.2)).filter (fun e => e.picked p kind va)
  if s.heldEntries.any (fun e => e.picked p kind va) || (s.loadStoreRanges p).any (fun r => gone.any (fun e => e.meets r.1 r.2)) then
    .error (.wait .memory)
  .ok ((s.setD t.d).forget (fun e => e.picked p kind va) (fun e => e.picked p kind va))
/-- TLBINV (R359, R384). -/
def execTlbinv (b a : GReg) (s : State) := finish (privileged (tlbinv b a)) s

/-! ### BRKPT, ROLL, CKPT -/

/-- BRKPT (R387): it records a stop under a debug session. -/
def execBrkpt (b : BitVec 5) (s : State) := finish (heldBack (fun s => .ok (s.recordStop s.d 0 b))) s
/-- ROLL (R386): one extra roll call; gD takes its record's sequence number. -/
def roll (d : GReg) (s : State) : Except Stop State := do
  s.d.limG d
  s.d.roomG d
  let p := s.partAt s.d.part
  let s := s.setPart s.d.part { p with rolls := p.rolls + 1 }
  .ok (s.setD (s.d.pushG d (p.rcseq + BitVec.ofNat 64 p.rolls) false))
/-- ROLL (R359, R386). -/
def execRoll (d : GReg) (s : State) := finish (privileged (roll d)) s
/-- CKPT (R388): one more checkpoint at the next start of compute. -/
def execCkpt (s : State) :=
  finish (privileged (fun s => let p := s.partAt s.d.part; .ok (s.setPart s.d.part { p with ckpts := p.ckpts + 1 }))) s

/-! ### Roll call (R385, R386) -/

/-- A desk's run state (R385). -/
def Desk.runState (d : Desk) (p : PartId) : Nat :=
  if !d.occ || d.part != p then 9
  else if !d.user then 8
  else if d.wait == some .bell then 5
  else if d.cw.isSome || d.wait == some .counter then 4
  else match d.wait with
    | some .mrecv => 1
    | some (.port _ _) => 2
    | some (.tile _) => 3
    | some .idle => 7
    | w => if d.pend.isSome || w == some .memory || w == some .reference then 1 else if d.exch then 6 else 0
/-- The PC that a record carries. -/
def Desk.rollPc (d : Desk) : Word := if d.user then d.pc else d.xpc.setWidth 64
/-- LEB128 of a number. -/
def leb128 : Nat → Nat → List Byte
  | 0, _ => []
  | k + 1, x => if x < 128 then [BitVec.ofNat 8 x] else BitVec.ofNat 8 (x % 128 + 128) :: leb128 k (x / 128)
/-- zigzag (R386). -/
def zigzag (x : Int) : Nat := if 0 ≤ x then (2 * x).toNat else (-2 * x - 1).toNat
/-- The reference of a desk's PC (R386). -/
def rollRef (prev : List (Nat × BitVec 16 × Word)) (seq : Word) (i : Nat) (ctx : BitVec 16) : Word :=
  if seq.toNat % 64 = 0 then 0 else match prev.find? (fun x => x.1 == i && x.2.1 == ctx) with | some x => x.2.2 | none => 0
/-- The desks of the module, by nibble: desk d of core c is 4c + d. -/
def State.allDesks (s : State) : List (Nat × Desk) :=
  (List.range 4096).map (fun i => (i, s.deskAt (BitVec.ofNat 10 (i / 4)) (BitVec.ofNat 2 (i % 4))))
/-- Bytes from nibbles. -/
def nibbles : List Nat → List Byte
  | a :: b :: t => BitVec.ofNat 8 (a + 16 * b) :: nibbles t
  | _ => []
/-- A roll-call record (R386) and the PCs that it holds. -/
def State.rollRecord (s : State) (p : PartId) (clk : Nat) : List Byte × List (Nat × BitVec 16 × Word) :=
  let x := s.partAt p
  let ds := s.allDesks
  let noPc := x.conf && !(tget s.sys.records p.toNat 0).getLsbD 256
  let live := ds.filter (fun d => d.2.runState p != 9)
  let pcs := if noPc then [] else live.map (fun d => (d.1, d.2.ctxid, d.2.rollPc))
  let field (y : Nat × BitVec 16 × Word) : List Byte := leb128 10 (zigzag (((y.2.2.toNat : Int) - ((rollRef x.rcprev x.rcseq y.1 y.2.1).toNat : Int)) / 2))
  let tail := pcs.flatMap field
  let tail := padTo ((tail.length + 63) / 64 * 64) tail
  let len := 64 + 2048 + tail.length
  (natLe clk 8 ++ natLe p.toNat 8 ++ natLe x.rcctl.toNat 8 ++ natLe (if noPc then 1 else 0) 8 ++ natLe len 8 ++ b8 x.rcseq ++ natLe 0 16 ++
    nibbles (ds.map (fun d => d.2.runState p)) ++ tail, pcs)
/-- Writes bytes into a ring from a place on, going round at its end. -/
def State.ringPut (s : State) (p : PartId) (base : Word) (size pos : Nat) (bs : List Byte) : State :=
  let n := size - pos % size
  let s := s.supWrite p (base + BitVec.ofNat 64 (pos % size)) (bs.take n) false
  if bs.length ≤ n then s else s.supWrite p base (bs.drop n) false
/-- RCRING's LOG2 names a ring (R385). -/
def ringLog2Ok (n : Nat) : Bool := decide (16 ≤ n) && decide (n ≤ 30)
/-- A partition's record of a tick is written (R385); it is counted, and lost, where RCRING names no ring. -/
def State.rollOne (s : State) (p : PartId) (clk : Nat) : State :=
  let (bs, pcs) := s.rollRecord p clk
  let x := s.partAt p
  let n := (x.rcring.extractLsb' 0 6).toNat
  let s := if ringLog2Ok n then s.ringPut p (x.rcring &&& ~~~4095#64) (2 ^ n) x.rcpos bs else s
  s.setPart p { s.partAt p with rcseq := x.rcseq + 1, rcpos := (x.rcpos + bs.length) % 2 ^ n, rcprev := pcs }
/-- ROLL_CALL (R385, R386): on a tick, every partition receives the extra records that its ROLLs asked for, and one more where it completes
its period. -/
def execRollCall (s : State) : Host.Outcome State Fault Refusal :=
  event (fun s =>
    let clk := Config.clkAt s.tick
    if clk % 1024 ≠ 0 then none
    else some (s.parts.foldl (fun s x =>
      let p := BitVec.ofNat 14 x.1
      let s := (List.range x.2.rolls).foldl (fun s _ => s.rollOne p clk) s
      let s := s.setPart p { s.partAt p with rolls := 0 }
      if x.2.rcctl ≠ 0 ∧ clk % 2 ^ x.2.rcctl.toNat = 0 then s.rollOne p clk else s) s)) s

/-! ### Stops (R387) -/

/-- A stage stands at its bell (`x` false: after the last ring, before exchange) or where an exchange has ended (`x` true). -/
def State.atPoint (s : State) (l k : Nat) (x : Bool) : Bool :=
  let st := s.stageOf l k
  st.begun && !st.exch &&
  (if x then st.fresh || st.ended else !st.ended && !st.fresh && st.resume.isEmpty && !st.cores.isEmpty && st.cores.all (s.hasRung l))
/-- A stage that is to freeze stands at one of these points (R387). -/
def State.stopPoint (s : State) (l k : Nat) : Bool :=
  !(s.stageOf l k).held && !(s.stageOf l k).ended && (s.atPoint l k false || s.atPoint l k true)
/-- The stop record (R387): its fields in the order in which the manual lists them, a dword each. -/
def stopRecord (st : DbgStop) (sscnt : Word) (k : Nat) : List Byte :=
  b8 sscnt ++ natLe k 8 ++ natLe (st.kind.toNat + st.n.toNat * 256) 8 ++ natLe st.core.toNat 8 ++ b8 st.pc ++ natLe st.merged 8 ++ natLe 0 16
/-- The place at which a stop is taken: of the stages that asked, the first to stand at its bell, or at the end of the exchange in which it
asked. -/
def State.takenAt (s : State) (l : Nat) (x : DbgStop) : Option (Nat × Word) :=
  match x.at_ with
  | some a => some a
  | none => (x.asked.find? (fun a => s.atPoint l a.1 a.2)).map (fun a => (a.1, (s.stageOf l a.1).sscnt))
/-- DEBUG_STOP (R387): a stop is taken; from then on each stage freezes at its own next point, and once all of them have, the stop record
is written. -/
def execDebugStop (l : Nat) (s : State) : Host.Outcome State Fault Refusal :=
  event (fun s =>
    let y := s.launchAt l
    match y.stop with
    | none => none
    | some x =>
      if !y.debug || y.status != .running || !y.started || x.written then none
      else match s.takenAt l x with
      | none => none
      | some a =>
        let ks := (List.range y.stages.length).filter (s.stopPoint l)
        let s := ks.foldl (fun s k => s.setStage l k { s.stageOf l k with held := true }) s
        let all := (s.launchAt l).stages.all (fun st => st.held || st.ended || !st.begun)
        let s := s.setLaunch l { s.launchAt l with stop := some { x with at_ := some a, written := all } }
        some (if all then s.ckWrite y.part (s.partAt y.part).ckarea (stopRecord x a.2 a.1) false else s)) s
/-- HOST_STOP_REQUEST (R387): the request is one of every stage, in the phase in which it stands. -/
def execHostStopRequest (l : Nat) (s : State) : Host.Outcome State Fault Refusal :=
  event (fun s =>
    let y := s.launchAt l
    if !y.debug || y.status != .running || !y.started then none
    else
      let ks := (y.stages.zipIdx.filter (fun k => k.1.begun && !k.1.ended)).map (fun k => (k.2, k.1.exch))
      let x : DbgStop := match y.stop with
        | some x => { x with asked := x.asked ++ ks, merged := x.merged + 1 }
        | none => ⟨2, 0, ks, BitVec.allOnes 10, 0, 1, none, false⟩
      some (s.setLaunch l { y with stop := some x })) s
/-- DEBUG_RESUME (R387, R389): a launch that has stopped goes on, and a stop whose record is not yet written stays; a replayed desk goes
one instruction further. -/
def execDebugResume (l : Nat) (s : State) : Host.Outcome State Fault Refusal :=
  event (fun s =>
    let y := s.launchAt l
    if !y.debug then none
    else
      let s := s.setLaunch l { y with stop := y.stop.filter (fun x => !x.written), stages := if y.stop.all (·.written) then y.stages.map (fun st => { st with held := false }) else y.stages }
      some { s with cores := s.cores.map (fun c => (c.1, { c.2 with desks := c.2.desks.map (fun d =>
        if d.parked && d.launch == some l then { d with parked := false, stepcnt := d.stepcnt + 1 } else d) })) }) s
/-- DEBUG_SESSION_ATTACH (R387). -/
def execDebugSessionAttach (l : Nat) (s : State) : Host.Outcome State Fault Refusal :=
  event (fun s => let y := s.launchAt l; if y.status != .running then none else some (s.setLaunch l { y with debug := true })) s

/-! ### Checkpoints and replay (R388, R389) -/

/-- Writes a region's image, line by line with its poison. -/
def State.ckImage (s : State) (p : PartId) (va : Word) (c : Core) (base : Nat) : Nat → State
  | 0 => s
  | k + 1 => State.ckImage (s.ckWrite p va (c.padRead base 64) (c.padBad base 64)) p (va + 64) c (base + 64) k
/-- A tile table whose entries are all undefined and EMPTY, as it is at the start of compute (R147). -/
def emptyTiles : List Byte := natLe 0 512
/-- Writes the core parts of a checkpoint in rank order. -/
def State.ckCores (s : State) (l k : Nat) (p : PartId) (va : Word) : List (CoreId × Nat) → State
  | [] => s
  | (c, r) :: t =>
    let y := s.launchAt l
    let st := s.stageOf l k
    let x := (s.coreAt c).firstRun s.tick c.toNat y
    let s := s.setCoreAt c x
    let s := s.ckWrite p va (padTo 64 (natLe c.toNat 8 ++ natLe r 8) ++ emptyTiles) false
    let s := s.ckImage p (va + 576) x x.work.base (st.kern.scratch / 64)
    State.ckCores s l k p (va + BitVec.ofNat 64 st.kern.ckPart) t
/-- CHECKPOINT (R388): at the start of compute, the header, each core's tiles and region, and the counter segment; of a stage that several
devices run, each writes the parts of its own cores, with their ranks in the whole stage (R331). -/
def execCheckpoint (l k : Nat) (s : State) : Host.Outcome State Fault Refusal :=
  event (fun s =>
    let y := s.launchAt l
    let st := s.stageOf l k
    if !s.live || s.stopped l k || !st.begun || st.ended || !s.ckDue l k then none
    else
      let p := s.partAt y.part
      let va := p.ckarea + 64
      let head := padTo 64 (b8 st.sscnt ++ natLe k 8 ++ natLe (st.far.1 + st.order.length + st.far.2) 8 ++ natLe st.shares.toNat 8 ++ natLe st.kern.ckPart 8)
      let s := s.ckWrite y.part va head false
      let s := s.ckCores l k y.part (va + 64) (st.order.zipIdx.map (fun x => (x.1, st.far.1 + x.2)))
      let (s, seg) := match s.hwRead y.part y.info.cntbase 32768 with | .ok (s, bs) => (s, bs) | .error e => (s.spoilAt e.line, [])
      let s := s.ckWrite y.part (va + BitVec.ofNat 64 (64 + st.order.length * st.kern.ckPart)) seg false
      let s := s.setPart y.part { s.partAt y.part with ckpts := (s.partAt y.part).ckpts - 1 }
      some (s.setStage l k { s.stageOf l k with ckDone := true })) s
/-- A desk in step mode has reached its count (R389). -/
def Desk.stepDone (d : Desk) : Bool := d.occ && d.user && !d.parked && !d.exploring && d.stepcnt != 0 && decide (d.stepcnt.toNat ≤ d.icnt.toNat)
/-- REPLAY_STOP (R389): a replayed desk stops before issuing further; its desk part and the share part go to the debug area, past the
place of a checkpoint. -/
def execReplayStop (c : CoreId) (i : DeskId) (s : State) : Host.Outcome State Fault Refusal :=
  event (fun s =>
    let d := s.deskAt c i
    if !d.stepDone then none
    else
      let k := s.coreAt c
      let n := match d.launch with | some l => (s.stageOf l d.stage.toNat).order.length | none => 0
      let va := (s.partAt d.part).ckarea + BitVec.ofNat 64 (128 + n * d.kern.ckPart + 32768)
      let s := s.ckWrite d.part va (deskBytes d d.pc (xUH d.xstat) ((s.nmOf c i).map (·.addr))) false
      let s := s.ckWrite d.part (va + BitVec.ofNat 64 d.kern.mailAt) (boxBytes (k.boxOf d.ctxid)) false
      let va := va + BitVec.ofNat 64 d.kern.deskPart
      let top := k.shareBytes
      let s := s.ckWrite d.part va top false
      let s := s.ckImage d.part (va + BitVec.ofNat 64 top.length) k d.base (d.kern.scratch / 64)
      some (s.setDeskAt c i { s.deskAt c i with parked := true })) s

/-! ### Monitors (R390) -/

/-- MONITOR_SAMPLE (R390): the partition's oldest event that no monitor has taken enters those that watch it; where there is none, a monitor
of a level source samples, once in each window of 2^16 clk. -/
def execMonitorSample (p : PartId) (n : BitVec 5) (v : Word) (s : State) : Host.Outcome State Fault Refusal :=
  event (fun s =>
    let x := s.partAt p
    match s.mem.events.find? (fun e => e.1 == p.toNat) with
    | some e => some ({ s with mem := { s.mem with events := s.mem.events.erase e } }.setPart p (x.sampled e.2.1 e.2.2 v))
    | none =>
      let m := x.mon n
      let window := Config.clkAt s.tick / 2 ^ 16
      if m.source < 5 || m.last == window || !m.sees m.source [0, 1, 2, 3] then none
      else some (s.setPart p { x with mons := x.mons.set n.toNat { m.sample v with last := window } n.isLt })) s

end Sys2Proof.Machine
end

