-- ==== Sys2Proof/Machine/Reliability.lean ====
section
/-! DEFINITION. Hardware errors, their containment, and the retirement of units (R10, R14, R364, R371 to R374). -/

namespace Sys2Proof.Machine

/-! ### Counting (R373) -/

/-- The unit that counts an event at a core. -/
def coreUnit (c : CoreId) : RasUnit := .core c
/-- The unit that counts an event at a line: its L2 data entry, or its HBM4E row; a line of the second tier has none of these. -/
def State.lineUnit (s : State) (line : Nat) : Option RasUnit :=
  let b := s.mem.bankNo line
  match (s.mem.tag line).bind (·.entry) with
  | some e => some (.entry (BitVec.ofNat 2 (b / 64)) (BitVec.ofNat 6 (b % 64)) (BitVec.ofNat 14 e))
  | none =>
    let pa := line * 64
    if hbmEnd ≤ pa then none
    else some (.row (BitVec.ofNat 4 (stackOf pa)) (BitVec.ofNat 32 (Config.rowOf (pa / 4096 / 12 * 4096 + pa % 4096))))
/-- A corrected event is counted by its unit, with its ECC granule. -/
def State.corrected (s : State) (u : RasUnit) (granule : Nat) : State :=
  { s with sys := { s.sys with counts := s.sys.counts ++ [(u, granule)] } }
/-- So is one of a near-memory unit, by its stack, or of a second-tier port, by 16 + its number, which R373 names no unit for: nothing there is
retired (log 123). -/
def State.correctedAt (s : State) (n : Nat) : State :=
  { s with sys := { s.sys with others := tset s.sys.others n (tget s.sys.others n 0 + 1) } }
/-- A unit is lasting (R373): more than 16 events in the window, or two at one granule. -/
def Sys.lasting (y : Sys) (u : RasUnit) : Bool :=
  let gs := (y.counts.filter (fun x => x.1 == u)).map (·.2)
  decide (16 < gs.length) || gs.any (fun g => decide (2 ≤ gs.count g))

/-! ### Errors (R371) -/

/-- The running launches of a partition. -/
def State.runningOf (s : State) (p : PartId) : List Nat :=
  (s.launches.filter (fun y => y.2.part == p && y.2.started && y.2.status == .running)).map (·.1)
/-- An uncorrectable error leaves what it struck with any value (R364, R371): a register, a queue entry or a tile of a desk's core. -/
def State.strike (s : State) (c : CoreId) (i : DeskId) (unit : Nat) : State :=
  let k := s.coreAt c
  let d := k.at i
  let n := Config.pickAt s.tick 0 % 32
  let w := Config.freeWord s.tick
  let scalar : Desk := { d with gu := Vector.ofFn (fun j => if j.val = n then w else d.gu[j]) }
  let vector : Desk := { d with v := Vector.ofFn (fun j => if j.val = n then Config.freeV s.tick n else d.v[j]) }
  let preds : Desk := { d with p := Vector.ofFn (fun j => if j.val = n % 8 then w else d.p[j]) }
  let guards : Desk := { d with k := Vector.ofFn (fun j => if j.val = n % 8 && d.k[j] != .pending then (if w.getLsbD 0 then .yes else .no) else d.k[j]) }
  let queues : Desk := { d with
    q := Vector.ofFn (fun j => if j.val = n % 4 then (d.q[j]).map (fun e => { e with val := w }) else d.q[j])
    vq := Vector.ofFn (fun j => if j.val = n % 4 then (d.vq[j]).map (fun e => { e with val := Config.freeV s.tick n }) else d.vq[j]) }
  let st : TileSt := match w.toNat % 4 with | 0 => .empty | 1 => .filling | 2 => .ready | _ => .draining
  match unit with
  | 0 => s.setDeskAt c i scalar
  | 1 => s.setDeskAt c i vector
  | 2 => s.setDeskAt c i (match Config.pickAt s.tick 1 % 4 with | 0 => scalar | 1 => vector | 2 => preds | _ => guards)
  | 3 => s.setDeskAt c i queues
  | _ =>
    let m := Config.pickAt s.tick 2 % 64
    s.setCoreAt c { k with tiles := Vector.ofFn (fun j => if j.val = m && (k.tiles[j]).size != 0 then { k.tiles[j] with st := st } else k.tiles[j]) }
/-- A set of tags is invalidated (R371): dirty lines of it are lost, so that their bytes in memory are any earlier content, and the
launches of their partitions fail. -/
def State.loseSet (s : State) (line : Nat) : State :=
  let b := tget s.mem.banks (s.mem.bankNo line) {}
  let ts := b.tags.filter (fun t => setOf t.line == setOf line)
  let dirty := ts.filter (·.dirty)
  let m := ts.foldl (fun m t => m.onBank t.line (·.evict t.line)) s.mem
  let m := { m with bytes := dirty.foldl (fun b t => cwrites b (t.line * 64) ((List.range 64).map (fun i => Config.freeByte s.tick (t.line * 64 + i)))) m.bytes }
  let s := { s with mem := m }
  dirty.foldl (fun s t => (match t.part with | some p => s.runningOf p | none => []).foldl
    (fun s l => s.failLaunch l { cause := 0x1C3, xval := BitVec.ofNat 64 (t.line * 64) }) s) s
/-- ERROR_EVENT (R371): an error is corrected and counted, contained, or raised. -/
def execErrorEvent (u : ErrUnit) (s : State) : Host.Outcome State Fault Refusal :=
  event (fun s =>
    if s.sys.off then none
    else match u with
    | .scratchpad c off bad =>
      let n := off.toNat / 64
      if bad then let k := s.coreAt c; some (s.setCoreAt c { k with padPoison := insN k.padPoison n })
      else some (s.corrected (coreUnit c) n)
    | .line pa bad =>
      let line := pa.toNat / 64
      if !s.mem.inMemory pa.toNat then none
      else
        let count (s : State) : State := match s.lineUnit line with | some u => s.corrected u line | none => s.correctedAt (16 + (s.mem.port pa.toNat).getD 0)
        let clean := match s.mem.tag line with | some t => !t.dirty | none => false
        -- a clean L2 line is fetched again and counted as corrected
        if bad && !clean then some { s with mem := s.mem.spoil line } else some (count s)
    | .l1 c bad =>
      let k := s.coreAt c
      let n := Config.pickAt s.tick 0
      let s := s.corrected (coreUnit c) (2 ^ 20 + n)
      if !bad then some s
      else if Config.choice s.tick then some (s.setCoreAt c { k with l1 := k.l1.eraseIdx (n % (k.l1.length + 1)) })
      else
        let l := tget s.mem.tlbs c.toNat []
        some { s with mem := { s.mem with tlbs := tset s.mem.tlbs c.toNat (l.eraseIdx (n % (l.length + 1))) } }
    | .l2tag pa bad =>
      let line := pa.toNat / 64
      if !s.mem.inMemory pa.toNat then none
      else if bad then some (s.loseSet line)
      else
        let b := s.mem.bankNo line
        some (s.corrected (.way (BitVec.ofNat 2 (b / 64)) (BitVec.ofNat 6 (b % 64)) (BitVec.ofNat 11 (setOf line)) (BitVec.ofNat 4 (Config.pickAt s.tick 0))) line)
    | .desk c i unit bad =>
      let d := s.deskAt c i
      if 4 < unit.toNat || !d.occ then none
      else if !bad then some (s.corrected (coreUnit c) (2 ^ 21 + Config.pickAt s.tick 0))
      else
        let s := s.strike c i unit.toNat
        some (s.setDeskAt c i ((s.deskAt c i).report 0x1C1 (unit.setWidth 64)))
    | .matrix c n bad =>
      let s := { s with core := c }
      match s.c.mx.first n with
      | some (_, x) =>
        if x.st != .running || !x.isMm then none
        else
          -- the panel is computed again, which RES counts whether or not it then agrees (R182)
          let s := s.setMx { s.c.mx with res := s.c.mx.res + 1 }
          some (if bad then s.mxRecord x 0x1C2 (n.setWidth 64) else s.corrected (coreUnit c) (2 ^ 22 + Config.pickAt s.tick 0))
      | none => none
    | .engine e i bad =>
      match (s.queueOf (engNo e))[i]? with
      | none => none
      | some c =>
        if !c.started then none
        else if !bad then some (s.corrected (.engine e) (Config.pickAt s.tick 0))
        else if c.kind == 4 then some (s.failInst (c.owner.launch.getD 0) (cGroup c.raw) c.inst { cause := 0x1C3 })
        else some (s.failCard c { cause := 0x1C3 })
    | .nearMem c i k bad =>
      match s.nmHead c i k with
      | none => none
      | some x =>
        match x.st with
        | .running .. => if bad then some (s.nmSet x.seq (fun x => some { x with st := .fault { cause := 0x1C3, xval := x.addr } false }))
          else some (s.correctedAt (Config.pickAt s.tick 0 % 12))
        | _ => none) s

/-! ### Windows and retirement (R373, R374) -/

/-- WINDOW_ROLLOVER (R373): each window starts every count at 0. -/
def execWindowRollover (s : State) : Host.Outcome State Fault Refusal :=
  event (fun s => some { s with sys := { s.sys with counts := [], others := [] } }) s
/-- The management controller logs a retirement, and a kind whose spares are exhausted (R374). -/
def State.logUnit (s : State) (k : LogKind) (u : RasUnit) : State :=
  { s with sys := { s.sys with log := s.sys.log ++ [{ kind := k, ras := some u, at_ := Config.clkAt s.tick }] } }
/-- A bank's entry leaves its pool for good: the lines that use it leave the bank. -/
def Bank.retire (b : Bank) (e : Nat) : Bank :=
  let b := (b.tags.filter (fun t => t.entry == some e)).foldl (fun b t => b.evict t.line) b
  { b with gone := insN b.gone e }
/-- A way of a set is disabled: where the set then holds more lines than ways, its least recent line leaves. -/
def Bank.loseWay (b : Bank) (set : Nat) : Bank :=
  let n := tget b.ways set 0 + 1
  let b := { b with ways := tset b.ways set n }
  let inSet (t : L2Tag) : Bool := setOf t.line == set
  if (b.tags.filter inSet).length ≤ 16 - n then b
  else match b.lru inSet with | some t => b.evict t.line | none => b
/-- Changes a bank by its number. -/
def MemSys.onBankNo (m : MemSys) (n : Nat) (f : Bank → Bank) : MemSys := { m with banks := tset m.banks n (f (tget m.banks n {})) }
/-- A core is retired (R14, R374): its desks see bit 2 of RTREQ, and it is vacated at its stage's next bell; a core that runs no desk is
replaced at once by the cluster's spare, or lost where that serves already. -/
def State.retireCore (s : State) (c : CoreId) : State :=
  let k := s.coreAt c
  let busy := k.desks.toList.any (·.occ) || k.work.launch.isSome
  let s := s.setCoreAt c { (if busy then k.request 2 else k) with retiring := true }
  if busy then s else s.relieve c
/-- UNIT_RETIRE (R14, R374): a lasting unit is retired by its kind; no value that a program reads changes.  A core that awaited the end of
its desks is replaced. -/
def execUnitRetire (u : RasUnit) (s : State) : Host.Outcome State Fault Refusal :=
  event (fun s =>
    let waits := match u with | .core c => (s.coreAt c).retiring && !(s.coreAt c).desks.toList.any (·.occ) && (s.coreAt c).work.launch.isNone | _ => false
    if s.sys.off then none
    else if waits then (match u with | .core c => some (s.relieve c) | _ => none)
    else if !s.sys.lasting u then none
    else
      let again := s.sys.retired.contains u
      let s1 := (s.logUnit .retirement u)
      let s1 := { s1 with sys := { s1.sys with retired := if again then s1.sys.retired else s1.sys.retired ++ [u], counts := s1.sys.counts.filter (fun x => x.1 != u) } }
      match u with
      | .core c =>
        if (s.coreAt c).retiring || (s.coreAt c).lost then none
        else some (s1.retireCore c)
      | .entry die bank e => if again then none else some { s1 with mem := s1.mem.onBankNo (die.toNat * 64 + bank.toNat) (·.retire e.toNat) }
      | .way die bank set _ => if again then none else some { s1 with mem := s1.mem.onBankNo (die.toNat * 64 + bank.toNat) (·.loseWay set.toNat) }
      | .row _ _ => some s1
      | .engine e =>
        if again then none
        else
          let spare := match e with | .copy cl k => !s.sys.retired.contains (.engine (.copy cl (~~~k))) | _ => false
          some (if spare then s1 else s1.logUnit .exhausted u)) s
/-- CLOCK_STEP (R10): the arithmetic clock takes a step on every core of a die at once; nothing that is counted in clk changes. -/
def execClockStep (die k : BitVec 2) (s : State) : Host.Outcome State Fault Refusal :=
  event (fun s => some { s with sys := { s.sys with clock := s.sys.clock.set die.toNat k die.isLt } }) s

end Sys2Proof.Machine
end

