-- ==== Sys2Proof/Machine/Host.lean ====
section
/-! DEFINITION. The host, assignable interfaces, attestation, links, the management port and firmware (R396 to R406). -/

namespace Sys2Proof.Machine

/-- Horuf answers: the module serves, and the physical function is up. -/
def State.horuf (s : State) : Bool := s.live && s.sys.hostUp
/-- The host or the port is answered. -/
def State.answer (s : State) (r : Reply) : State := { s with sys := { s.sys with reply := some r } }

/-! ### Resets, power and firmware (R3, R404, R405) -/

/-- The 36 links after a cold reset: partners of the module's place in the fabric, with the identities that their sessions give. -/
def freshLinks (tick : Nat) : Table Link :=
  (List.range 36).map (fun k => (k, { partner := (Config.freeV tick (2 ^ 23 + 2 * k)).setWidth 64, identity := Config.freeV tick (2 ^ 23 + 2 * k + 1) }))
/-- The module starts again: every register at its reset value, with a memory as given.  The one image slot, the log of the management
controller and the module's place in the fabric stay.  The slot's image runs if it verifies and boots, with the security processor's
configuration and the links as they are found and measured; else the module serves its management port alone (R399, R405). -/
def State.boot (s : State) (m : MemSys) : State :=
  let run : Option (BitVec 512) := match s.sys.slot with | .good i => if Config.choice s.tick then some i else none | .broken => none
  let links := freshLinks s.tick
  { tick := s.tick, turns := s.turns, device := s.device, mem := m
    sys := { domain := s.sys.domain, slot := s.sys.slot, log := s.sys.log, signed := s.sys.signed, reply := s.sys.reply
             links := links, linkMap := links, spConf := Config.freeV s.tick (2 ^ 23 + 100)
             running := run, mgmtOnly := run.isNone, hostUp := run.isSome } }
/-- The second-tier windows that the management controller configures (R187): for each of the eight ports any range of whole GiB in the
second-tier range that overlaps none before it, or none. -/
def tierMap (tick : Nat) : List (Nat × Nat × Nat) :=
  (List.range 8).foldl (fun ws p =>
    let base := 0x4000 + Config.pickAt tick (2 * p) % 0x4000
    let n := Config.pickAt tick (2 * p + 1) % (0x8000 - base + 1)
    let w := (p, base * 2 ^ 30, n * 2 ^ 30)
    if n = 0 ∨ ws.any (fun x => decide (w.2.1 < x.2.1 + x.2.2) && decide (x.2.1 < w.2.1 + w.2.2)) then ws else ws ++ [w]) []
/-- Memory over a cold reset: what it holds stays (log 135), but for lines under a partition's key, which no longer verify, as the partitions
and their keys are gone (R398, R400); the controller maps the second tier anew (R187). -/
def MemSys.afterReset (m : MemSys) (tick : Nat) : MemSys :=
  { bytes := m.bytes, poison := m.poison, badMac := m.keyOf.foldl (fun b x => insN b x.1) m.badMac, windows := tierMap tick }
/-- A cold reset of the module (R3, R187, R405). -/
def State.coldReset (s : State) : State := s.boot (s.mem.afterReset s.tick)
/-- COLD_RESET (R3, R187, R405). -/
def execColdReset (s : State) : Host.Outcome State Fault Refusal := event (fun s => some s.coldReset) s
/-- Every launch fails, with one cause (R404). -/
def State.failAll (s : State) (o : Outcome64) : State :=
  (s.launches.filter (fun y => y.2.status == .running)).foldl (fun s y => s.failLaunch y.1 o) s
/-- MGMT_RESET (R404): a cold reset by the management port, at once: every launch fails with 0x1E4, and the host sees the physical function
go down. -/
def execMgmtReset (s : State) : Host.Outcome State Fault Refusal :=
  event (fun s => some ((s.failAll { cause := 0x1E4 }).coldReset.answer .down)) s
/-- POWER_LOSS (R405): all that is not kept without power goes; an image that was being written is left half written.  The management
controller, in its own power domain, goes on (R404). -/
def execPowerLoss (s : State) : Host.Outcome State Fault Refusal :=
  event (fun s =>
    let t := s.boot { windows := s.mem.windows }
    some { t with sys := { t.sys with off := true, running := none, hostUp := false, links := [], linkMap := [], spConf := 0 } }) s
/-- FIRMWARE_UPDATE (R404, R405): on a free device an image that verifies opens a session, in which the one slot is written; the same
request, made again, is the end of the write.  While a session runs any other request is refused, and changes nothing. -/
def execFirmwareUpdate (port : Bool) (img : BitVec 512) (s : State) : Host.Outcome State Fault Refusal :=
  event (fun s =>
    if !port && !s.horuf then none
    else match s.sys.update with
    | some u =>
      if u = (port, img) then some { s with sys := { s.sys with slot := .good img, update := none } } else some (s.answer .updating)
    | none =>
      if Config.verifies img then some { s with sys := { s.sys with slot := .broken, update := some (port, img) } } else some (s.answer .refused)) s

/-! ### Partitions and interfaces (R396 to R398) -/

/-- The partitions of a TDI, by number. -/
def State.partsOf (s : State) (t : BitVec 11) : List PartId :=
  (s.sys.records.filter (fun r => s.tdiOf (BitVec.ofNat 14 r.1) == some t)).map (fun r => BitVec.ofNat 14 r.1)
/-- A key as a line's key is numbered (R400). -/
def keyNo (p : PartId) : Nat := p.toNat + 1
/-- A record that waits in a ring completes cancelled (R398). -/
def State.cancelRecord (s : State) (t : BitVec 11) (p : PartId) (bs : List Byte) : State :=
  let v := leNat bs
  let (l, s) := s.addLaunch { part := p, record := wordOf v 448, donecnt := wordOf v 384, span := BitVec.ofNat 32 (fieldOf v 896 32) }
  s.cancelStart l 0x1E1 0 (t.setWidth 64)
/-- The published records of a queue complete cancelled, and HEADCNT counts them. -/
def State.cancelRing (s : State) (t : BitVec 11) (p : PartId) (x : LQueue) : Nat → State
  | 0 => s
  | n + 1 =>
    match s.hwWord p x.tail, s.hwWord p x.head with
    | .ok (_, tail), .ok (_, head) =>
      if tail.toNat ≤ head.toNat then s
      else match s.hwRead p (x.ring + BitVec.ofNat 64 (256 * (head.toNat % 2 ^ x.log2))) 256 with
        | .error e => s.spoilAt e.line
        | .ok (s, bs) => ((s.cancelRecord t p bs).counterAdd (s.hwWho p) x.head 1).cancelRing t p x n
    | _, _ => s
/-- A partition of a TDI in ERROR (R398). -/
def State.partFail (s : State) (t : BitVec 11) (p : PartId) : State :=
  let s := (s.runningOf p).foldl (fun s l => s.failLaunch l { cause := 0x1E1, xval := t.setWidth 64 }) s
  let s := (s.queuedOf p).foldl (fun s l => s.cancelStart l 0x1E1 0 (t.setWidth 64)) s
  let s := (s.partAt p).queues.foldl (fun s q => s.cancelRing t p q.2 (2 ^ q.2.log2)) s
  { s with mem := { s.mem with erased := insN s.mem.erased (keyNo p) } }
/-- A TDI enters ERROR (R398). -/
def State.tdiFail (s : State) (t : BitVec 11) : State :=
  let s := { s with sys := { s.sys with tdis := tset s.sys.tdis t.toNat .error } }
  (s.partsOf t).foldl (fun s p => s.partFail t p) s
/-- TDI_ERROR (R398). -/
def execTdiError (t : BitVec 11) (s : State) : Host.Outcome State Fault Refusal :=
  event (fun s => if !s.live || s.tdi t == .error then none else some (s.tdiFail t)) s

/-- PARTID of a partition record (R397). -/
def recPart (r : BitVec 512) : PartId := r.extractLsb' 0 14
/-- OWNER and TDI of a partition record. -/
def recTdi (r : BitVec 512) : Option (BitVec 11) := if r.getLsbD 49 then some (r.extractLsb' 192 11) else none
/-- WAYS of a partition record, by slot. -/
def recWays (r : BitVec 512) : List Nat := (List.range 8).map (fun i => (r.extractLsb' (64 + 4 * i) 4).toNat)
/-- DOMAIN of a partition record. -/
def recDomain (r : BitVec 512) : BitVec 16 := r.extractLsb' 32 16
/-- A partition record within its limits (R397): its new owner is the physical function or a TDI in CONFIG_UNLOCKED, no way count is
reserved, and DOMAIN is nonzero and no other partition's. -/
def State.recordFits (s : State) (r : BitVec 512) : Bool :=
  (match recTdi r with | some u => s.tdi u == .unlocked | none => true) && (recWays r).all (fun n => decide (n ≤ 8)) &&
  recDomain r != 0 && s.sys.records.all (fun x => x.1 == (recPart r).toNat || recDomain x.2 != recDomain r)
/-- A partition takes its record's fields (R216, R224, R329, R397); one that the record creates starts its event counts at 0 (R226). -/
def State.configure (s : State) (r : BitVec 512) : State :=
  let p := recPart r
  let x := s.partAt p
  let same := (tget s.sys.records p.toNat 0).extractLsb' 128 64 == (r.extractLsb' 128 64)
  let s := if (tget? s.sys.records p.toNat).isNone then { s with mem := { s.mem with stats := tdel s.mem.stats p.toNat } } else s
  let s := { s with sys := { s.sys with records := tset s.sys.records p.toNat r } }
  let s := s.setPart p { x with conf := r.getLsbD 48, domain := recDomain r, ways := recWays r, queues := if same then x.queues else [] }
  s.loadQueues p
/-- PARTITION_CONFIG_WRITE (R397, R398): a record of a TDI that is not CONFIG_UNLOCKED is refused, and the TDI of a frozen record goes to
ERROR; a record beyond its limits makes no change. -/
def execPartitionConfigWrite (r : BitVec 512) (s : State) : Host.Outcome State Fault Refusal :=
  event (fun s =>
    if !s.horuf then none
    else match s.tdiOf (recPart r) with
    | some t =>
      if s.tdi t != .unlocked then some ((if s.tdi t == .error then s else s.tdiFail t).answer .refused)
      else some (if s.recordFits r then s.configure r else s.answer .refused)
    | none => some (if s.recordFits r then s.configure r else s.answer .refused)) s
/-- The records of a TDI as bytes, in order of PARTID. -/
def State.recordsOf (s : State) (t : BitVec 11) : List Byte :=
  (s.partsOf t).flatMap (fun p => natLe (tget s.sys.records p.toNat 0).toNat 64)
/-- LOCK_INTERFACE (R398, R399): the records are frozen and measured. -/
def execLockInterface (t : BitVec 11) (s : State) : Host.Outcome State Fault Refusal :=
  event (fun s =>
    if !s.horuf || s.tdi t != .unlocked then none
    else some { s with sys := { s.sys with tdis := tset s.sys.tdis t.toNat .locked, frozen := tset s.sys.frozen t.toNat (Config.sha3 (s.recordsOf t)) } }) s
/-- A key slot takes a new key: what was written under an erased one never verifies again (R398). -/
def MemSys.renew (m : MemSys) (k : Nat) : MemSys :=
  if m.erased.contains k then
    { m with erased := m.erased.filter (· != k), badMac := (m.keyOf.filter (fun x => x.2 == k)).foldl (fun b x => insN b x.1) m.badMac }
  else m
/-- START_INTERFACE (R399): a locked TDI goes to RUN, with keys of the tenant's session. -/
def execStartInterface (t : BitVec 11) (s : State) : Host.Outcome State Fault Refusal :=
  event (fun s =>
    if !s.horuf || s.tdi t != .locked then none
    else
      let s := { s with mem := (s.partsOf t).foldl (fun m p => m.renew (keyNo p)) s.mem }
      some { s with sys := { s.sys with tdis := tset s.sys.tdis t.toNat .run } }) s
/-- STOP_INTERFACE (R398): a TDI goes back to CONFIG_UNLOCKED, and its records are no longer frozen. -/
def execStopInterface (t : BitVec 11) (s : State) : Host.Outcome State Fault Refusal :=
  event (fun s =>
    if !s.horuf || s.tdi t == .unlocked then none
    else some { s with sys := { s.sys with tdis := tset s.sys.tdis t.toNat .unlocked, frozen := tdel s.sys.frozen t.toNat } }) s

/-! ### The operator's view (R396, R403) -/

/-- What the operator sees of a log entry (R403): of a confidential partition's faults CAUSE, SSCNT and CORENUM, and XVAL and XPC only where
the tenant permits it; of a double trap the core, the cause and the time; of a retirement the unit and the time. -/
def State.shown (s : State) (e : LogEntry) : LogEntry :=
  let r := tget s.sys.records e.part.toNat 0
  if !(s.partAt e.part).conf then e
  else match e.kind with
    | .fault => if r.getLsbD 258 then e else { e with xval := 0, xpc := 0 }
    | .doubleTrap => { e with xval := 0, xpc := 0, sscnt := 0 }
    | _ => e
/-- A bit of a partition's record (R397). -/
def State.tenantSets (s : State) (p : PartId) (bit : Nat) : Bool := (tget s.sys.records p.toNat 0).getLsbD bit
/-- A completion record as the operator sees it (R339, R403): of a confidential partition CAUSE, SSCNT and CORENUM, and XVAL and XPC only where
the tenant permits it. -/
def State.recordShown (s : State) (p : PartId) (v : Vec) : Vec :=
  if !(s.partAt p).conf then v
  else v &&& BitVec.ofNat 512 (0x1FF * 2 ^ 8 + 0x3FF * 2 ^ 24 + (2 ^ 64 - 1) * 2 ^ 64 + (if s.tenantSets p 258 then (2 ^ 128 - 1) * 2 ^ 128 else 0))
/-- The size of a context save area (R366). -/
def Saved.size (x : Saved) : Nat :=
  let k := match x.desks with | y :: _ => y.2.kern | [] => {}
  64 + (match x.share with | some y => y.1.shareSize k.scratch | none => 0) + x.desks.length * k.deskPart
/-- The operator's view of a partition (R403), by what a request asks for: bits 7:0 the kind, 31:16 the partition, 63:32 an index.  0 the log;
1 the completion record of a launch; 2 a word of a monitor; 3 busy time; 4 energy; 5 an L2STAT total; 6 the size of a save area; 7 the size
of a core's part of a checkpoint.  The bytes of these areas the physical function reads where they stand, as ciphertext. -/
def State.view (s : State) (req : Vec) : Reply :=
  let p : PartId := req.extractLsb' 16 14
  let i := (req.extractLsb' 32 32).toNat
  let x := s.partAt p
  match (req.extractLsb' 0 8).toNat with
  | 0 => .log (s.sys.log.map s.shown)
  | 1 =>
    let y := s.launchAt i
    if y.part != p then .refused
    else match s.hwRead p y.record 64 with
      | .ok (_, bs) => .view (s.recordShown p (BitVec.ofNat 512 (leNat bs)))
      | .error _ => .failed
  | 2 => if x.conf && !s.tenantSets p 257 then .refused else .sensor ((x.mon (BitVec.ofNat 5 i)).word (i / 32))
  | 3 => .sensor (Config.freeWord s.tick)
  | 4 => .sensor (Config.freeWord s.tick)
  | 5 => if x.conf && !s.tenantSets p 259 then .refused else .sensor ((s.mem.asRead s.tick).stat p (i % 8))
  | 6 => match (s.sys.saved.filter (fun x => x.part == p))[i]? with
    | some x => .sensor (BitVec.ofNat 64 x.size)
    | none => .refused
  | 7 => .sensor (BitVec.ofNat 64 ((((s.launchAt i).stages.map (fun st => st.kern.ckPart)).head?).getD 0))
  | _ => .refused

/-! ### The host's own accesses (R329, R396, R401) -/

/-- A frame holds lines written under a partition's key (R401). -/
def MemSys.secret (m : MemSys) (pa : Nat) : Bool :=
  (List.range 64).any (fun i => (tget? m.keyOf (pa / 4096 * 64 + i)).isSome)
/-- Whether a host write at an address of a partition meets a frame with confidential lines (R401). -/
def State.hostRefused (s : State) (p : PartId) (va : Word) (n : Nat) : Bool :=
  match s.span (s.hwWho p) va va accWrite 2 n with
  | .error _ => false
  | .ok (_, ps) => ps.any (fun q => q.conf || s.mem.secret q.pa.toNat)
/-- HOST_TAIL_WRITE (R329, R396): the host stores a record into the ring of a host-fed queue that has room and adds 1 to TAILCNT; where either
lies in a frame with confidential lines the write is refused (R401). -/
def execHostTailWrite (p : PartId) (q : BitVec 4) (r : BitVec 2048) (s : State) : Host.Outcome State Fault Refusal :=
  event (fun s =>
    if !s.horuf then none
    else
      let s := s.loadQueues p
      match tget? (s.partAt p).queues q.toNat with
      | none => none
      | some x =>
        if !x.hostfed then none
        else match s.hwWord p x.tail with
        | .error e => s.spoilOnce e.line
        | .ok (_, tail) =>
          if s.hostRefused p (x.ring + BitVec.ofNat 64 (256 * (tail.toNat % 2 ^ x.log2))) 256 || s.hostRefused p x.tail 8 then
            some (s.answer .refused)
          else match s.publish p x (natLe r.toNat 256) with
          | .error l => s.spoilOnce l
          | .ok (s', v) => if v = BitVec.allOnes 64 then none else some s') s
/-- HOST_MEMORY_ACCESS (R396, R401, R403): of a frame with confidential lines a read gives the ciphertext, and a write is refused and leaves
the line as it is; other lines are read and written whole.  A read outside memory is one of the physical function's own registers: what
it asks for of the operator's view is `v` (log 136). -/
def execHostMemoryAccess (wr : Bool) (pa : PAddr) (v : Vec) (s : State) : Host.Outcome State Fault Refusal :=
  event (fun s =>
    let line := pa.toNat / 64
    let x : Part := ⟨BitVec.ofNat 52 (line * 64), 64, 0, false, false, false⟩
    if !s.horuf then none
    else if !s.mem.inMemory pa.toNat then some (s.answer (if wr then .refused else s.view v))
    else if s.msBusy x then none
    else if s.mem.secret pa.toNat then
      some (s.answer (if wr then .refused else .cipher (Config.cipher (tget s.mem.keyOf line 0) line (creads s.mem.bytes (line * 64) 64))))
    else if wr then some { s with mem := s.mem.writePart x {} false (natLe v.toNat 64) }
    else if s.mem.macBad false line none then some ({ s with mem := s.mem.spoil line }.answer .failed)
    else
      let (m, bs, bad) := s.mem.readPart x {}
      some ({ s with mem := m }.answer (.data (BitVec.ofNat 512 (leNat bs)) bad))) s

/-! ### Attestation (R399) and the management port (R403, R404) -/

/-- The bytes of a measurement block (R399). -/
def State.measurement (s : State) (ix : BitVec 16) : Option (BitVec 512) :=
  if ix = 1 then (s.sys.running).map (fun i => Config.sha3 (natLe i.toNat 64))
  else if ix = 2 then (s.sys.running).map (fun _ => Config.sha3 (natLe s.sys.spConf.toNat 64))
  else if ix = 3 then (s.sys.running).map (fun _ => Config.sha3 (s.sys.linkMap.flatMap (fun x => natLe x.1 1 ++ natLe x.2.partner.toNat 8 ++ natLe x.2.identity.toNat 64)))
  else if 16 ≤ ix.toNat then tget? s.sys.frozen (ix.toNat - 16)
  else none
/-- SPDM_REQUEST (R399): the security processor answers with a measurement and a signature over the transcript's digest. -/
def execSpdmRequest (ix : BitVec 16) (nonce : BitVec 256) (s : State) : Host.Outcome State Fault Refusal :=
  event (fun s =>
    match s.measurement ix with
    | none => some (s.answer .refused)
    | some d =>
      let sig := Config.sign (Config.sha3 (natLe ix.toNat 2 ++ natLe nonce.toNat 32 ++ natLe d.toNat 64))
      let s := { s with sys := { s.sys with signed := s.sys.signed + 1 } }
      some (s.answer (.signed ix d sig))) s
/-- PLDM_MONITOR (R404): request 0 asks for the log, every other one for a sensor. -/
def execPldmMonitor (r : BitVec 8) (s : State) : Host.Outcome State Fault Refusal :=
  event (fun s =>
    if r = 0 then some (s.answer (.log (s.sys.log.map s.shown)))
    else some (s.answer (.sensor (Config.freeWord s.tick)))) s

/-! ### Links (R402) -/

/-- The module has 36 Horuf ports (R11). -/
def isLink (k : BitVec 6) : Bool := decide (k.toNat < 36)
/-- A link. -/
def State.link (s : State) (k : BitVec 6) : Link := tget s.sys.links k.toNat {}
/-- Writes a link. -/
def State.setLink (s : State) (k : BitVec 6) (x : Link) : State := { s with sys := { s.sys with links := tset s.sys.links k.toNat x } }
/-- How often a group has failed its tag. -/
def Link.failures (x : Link) (g : Word) : Nat := ((x.fails.find? (fun f => f.1 == g)).map (·.2)).getD 0
/-- A group fails its tag once more. -/
def Link.failed (x : Link) (g : Word) : Link := { x with fails := (g, x.failures g + 1) :: x.fails.filter (fun f => f.1 != g) }
/-- A group has failed three times: the link goes down. -/
def Link.spent (x : Link) : Bool := x.fails.any (fun f => decide (3 ≤ f.2))
/-- LINK_GROUP_FAIL (R402): a group that fails its tag is discarded and asked for again. -/
def execLinkGroupFail (k : BitVec 6) (g : Word) (s : State) : Host.Outcome State Fault Refusal :=
  event (fun s =>
    let x := s.link k
    if !s.horuf || !isLink k || !x.up || x.spent then none
    else some (s.setLink k (x.failed g))) s
/-- Cards that had a group in flight on a link fail (R402): which ones is free. -/
def State.dropCards (s : State) : State :=
  (s.allCards.filter s.farCard).foldl (fun s c =>
    if !Config.chance s.tick c.seq || !s.allCards.any (fun x => x.seq == c.seq) then s
    else if c.kind = 4 then s.failInst (c.owner.launch.getD 0) (cGroup c.raw) c.inst { cause := 0x1E2 }
    else s.failCard c { cause := 0x1E2 }) s
/-- Messages that had a group in flight on a link fail: a desk that waits traps, and one that does not learns of it. -/
def State.dropMsgs (s : State) : State :=
  let hit (x : NetMsg × Nat) : Bool := x.1.bind == .yes && targetDevice x.1.target != s.device && Config.chance s.tick (2 ^ 32 + x.2)
  let lost := (s.sys.net.zipIdx.filter hit).map (·.1)
  let s := { s with sys := { s.sys with net := (s.sys.net.zipIdx.filter (fun x => !hit x)).map (·.1) } }
  lost.foldl (fun s x => match x.waits with
    | none => s.reportOwner x.owner 0x1E2 x.target
    | some _ => s.trapAt x.owner.core x.owner.desk 0x1E2 x.target) s
/-- LINK_DOWN (R402): the third failure of a group takes the link down. -/
def execLinkDown (k : BitVec 6) (s : State) : Host.Outcome State Fault Refusal :=
  event (fun s =>
    let x := s.link k
    if !s.horuf || !isLink k || !x.up || !x.spent then none
    else some ((s.setLink k { x with up := false }).dropCards.dropMsgs)) s
/-- LINK_REKEY (R402): the partners change keys while they hold both, so that no group is lost. -/
def execLinkRekey (k : BitVec 6) (s : State) : Host.Outcome State Fault Refusal :=
  event (fun s =>
    let x := s.link k
    if !s.horuf || !isLink k || !x.up then none else some (s.setLink k { x with key := x.key + 1 })) s
/-- NEW_SPDM_SESSION (R402): a link that was taken down serves again, with new keys. -/
def execNewSpdmSession (k : BitVec 6) (s : State) : Host.Outcome State Fault Refusal :=
  event (fun s =>
    let x := s.link k
    if !s.horuf || !isLink k || x.up then none else some (s.setLink k { up := true, partner := x.partner, identity := Config.freeV s.tick 0, key := x.key + 1 })) s

end Sys2Proof.Machine
end

