-- ==== Sys2Proof/Machine/Streams.lean ====
section
/-! DEFINITION. The two streams of a desk (R87, R98, R100, R411): an instruction that waits to push to a full port blocks its own stream
only.  The other one goes on past it, on a path that shows whether a later pop makes room; then the instruction has its place, and what
ran ahead takes effect in program order (log 112). -/

namespace Sys2Proof.Machine

/-! ### What an instruction uses -/

/-- A set of registers by number. -/
def regSet (rs : List GReg) : BitVec 32 := rs.foldl (fun m r => m ||| (1#32 <<< r.toNat)) 0
/-- A set of predicates. -/
def predSet (ps : List PReg) : BitVec 8 := ps.foldl (fun m p => m ||| (1#8 <<< p.toNat)) 0
/-- What an instruction uses, by the registers that its fields name: with queues enabled the numbers 28 to 31 are ports (R37); g0 and p0
hold nothing. -/
def useOf (queues : Bool) (gr gw vr vw : List GReg) (pr pw : List PReg) (sure : Bool := true) : Use :=
  let cut (x : BitVec 32) : BitVec 32 := if queues then x &&& 0x0FFFFFFF#32 else x
  let ports (g v : BitVec 32) : BitVec 8 := if queues then v.extractLsb' 28 4 ++ g.extractLsb' 28 4 else 0
  let (a, b, c, d) := (regSet gr, regSet gw, regSet vr, regSet vw)
  { gr := cut a &&& ~~~1#32, gw := cut b &&& ~~~1#32, vr := cut c, vw := cut d, pr := predSet pr &&& ~~~1#8, pw := predSet pw &&& ~~~1#8
    pop := ports a c, push := ports b d, sure := sure }
/-- What two instructions use together. -/
def Use.join (u v : Use) : Use :=
  ⟨u.gr ||| v.gr, u.gw ||| v.gw, u.vr ||| v.vr, u.vw ||| v.vw, u.pr ||| v.pr, u.pw ||| v.pw, u.pop ||| v.pop, u.push ||| v.push, u.sure && v.sure⟩
/-- Whether an instruction must stay behind others that wait (R37, R87): it reads what they write, or it shares an end of a port with
them. -/
def Use.blocks (w u : Use) : Bool :=
  (w.gw &&& u.gr) != 0 || (w.vw &&& u.vr) != 0 || (w.pw &&& u.pr) != 0 || (w.pop &&& u.pop) != 0 || (w.push &&& u.push) != 0
/-- What those others still have to write, once an instruction past them has written its own: a later reader takes the later value. -/
def Use.past (w u : Use) : Use :=
  if u.sure then { w with gw := w.gw &&& ~~~u.gw, vw := w.vw &&& ~~~u.vw, pw := w.pw &&& ~~~u.pw } else w

/-- The predicate of a guard code. -/
def guardP (g : Guard) : PReg := g.extractLsb' 0 3
/-- A group of registers from one. -/
def groupOf (r : GReg) (n : Nat) : List GReg := (List.range n).map (fun i => r + BitVec.ofNat 5 i)
/-- What a vector instruction uses (R117 to R133). -/
def VIns.use (q : Bool) (v : VIns) : Use :=
  let p := [guardP v.g]
  let old := if v.g = 0 then [] else [v.d]
  let whole := v.g == 0
  match v.op with
  | .cmpEq | .cmpNe | .cmpLt | .cmpLe => useOf q [] [] [v.a, v.b] [] (if v.g = 0 then p else [guardP v.g, v.d.setWidth 3]) [v.d.setWidth 3] whole
  | .nfin => useOf q [] [] [v.a] [] p [v.d.setWidth 3]
  | .sel => useOf q [] [] [v.a, v.b] [v.d] p []
  | .fma | .fms => useOf q [] [] [v.a, v.b, v.d] [v.d] p []
  | .iota => useOf q [] [] old [v.d] p []
  | .bcast => useOf q [v.a] [] old [v.d] p []
  | .extr => useOf q [v.b] [v.d] [v.a] [] p [] whole
  | .ins => useOf q [v.a, v.b] [] [v.d] [v.d] p []
  | .red | .scan => useOf q [] [] [v.a] [v.d] p []
  | .dot => useOf q [] [] [v.a, v.b] [v.d] p []
  | .had => let k := 2 ^ (v.b.toNat % 4); useOf q [] [] (groupOf v.a k) (groupOf v.d k) p []
  | .pack => useOf q [] [] (groupOf v.a ((sxOf v.t).n / 16)) [v.d] p []
  | .unpk => useOf q [] [] [v.a] (groupOf v.d ((sxOf v.t).n / 16)) p []
  | .cvt =>
    let wd := tyWidth v.t
    let ws := tyWidth (v.b.extractLsb' 0 3)
    let ds := groupOf v.d (if ws < wd then wd / ws else 1)
    useOf q [] [] (groupOf v.a (if wd < ws then ws / wd else 1) ++ (if v.g = 0 then [] else ds)) ds p []
  | _ => useOf q [] [] ((if v.op.readsA then [v.a] else []) ++ (if v.op.readsB then [v.b] else []) ++ old) [v.d] p []
/-- What a matrix command uses: g registers alone (R160, R172 to R176). -/
def matrixUse (q : Bool) (w : BitVec 32) : Use :=
  let f := (fF w).toNat
  useOf q (if f ≤ 8 ∨ f = 15 then [fA w, fB w] else if f = 14 ∨ f = 20 then [] else [fA w])
    (if f = 16 ∨ f = 18 ∨ f = 20 then [fD w] else []) [] [] [] []
/-- What an access-stream instruction uses (R89 to R94, R189, R192); of the classes that a path does not run ahead of (R104) only the
fields are looked at, each of them as read and written.  None: nothing is passed or runs ahead. -/
def accessUse (q : Bool) (w : BitVec 32) : Option Use :=
  let (a, b, d) := (fA w, fB w, fD w)
  let g := [guardP (fG w)]
  let whole := fG w == 0
  let f := (fF w).toNat
  match (fM w).toNat / 2 with
  | 0x01 =>
    if f = 30 then some (useOf q [a, b] [d] [] [] g [])
    else some (useOf q (if 21 ≤ f ∧ f ≤ 29 then [a] else [a, b]) [d] [] [] g [] whole)
  | 0x02 | 0x03 | 0x04 | 0x05 | 0x06 | 0x07 => some (useOf q [a] [d] [] [] [] [])
  | 0x08 | 0x09 | 0x0D => some (useOf q [] [d] [] [] [] [])
  | 0x0A =>
    let p (r : GReg) : PReg := r.setWidth 3
    if f ≤ 5 then some (useOf q [a, b] [] [] [] g [p d] whole)
    else if f ≤ 13 then some (useOf q [] [] [] [] [guardP (fG w), p a, p b] [p d] whole)
    else some (useOf q [] [d] [] [] [guardP (fG w), p a] [] whole)
  | 0x0B => some (useOf q [a, d] [] [] [] [] [])
  | 0x0C => some (useOf q [] [] [] [] [d.setWidth 3] [])
  | 0x0E =>
    if f = 0 then some (useOf q [a] [d] [] [] [] [])
    else if f = 1 then some (useOf q [a] [] [] [] [] [])
    else if f = 5 then some (useOf q [] [d] [] [] [] [])
    else none
  | 0x0F => some (useOf q [w.extractLsb' 8 5] [] [] [] [] [])
  | 0x10 => some {}
  | 0x18 | 0x1A => some (useOf q [a] [d] [] [] [] [])
  | 0x19 | 0x1B => some (useOf q [a, d] [] [] [] [] [])
  | 0x1C | 0x1E => some (useOf q [a] [] [] [d] [] [])
  | 0x1D | 0x1F => some (useOf q [a] [] [d] [] [] [])
  | 0x20 =>
    let old := if fG w = 0 then [] else [d]
    match f with
    | 0 => some (useOf q [a] [d] [] [] g [] whole)
    | 1 => some (useOf q [a, b] [] [] [] g [])
    | 2 => some (useOf q [a, b] [] old [d] g [])
    | 3 => some (useOf q [a, b] [] [d] [] g [])
    | 4 | 5 => some (useOf q [a] [] (b :: old) [d] g [])
    | 6 | 7 => some (useOf q [a] [] [b, d] [] g [])
    | 8 => some (useOf q [a, b] [] [] [] g [])
    | _ => some {}
  | 0x21 | 0x23 | 0x34 => let r := [a, b, d, d + 1]; some (useOf q r r r r g [] false)
  | 0x22 | 0x24 | 0x25 | 0x26 | 0x38 => let r := [a, b, d, d + 1]; some (useOf q r r [] [] g [] false)
  | 0x35 => let r := [a, b, d, d + 1]; some (useOf q r r r r [] [1, 2, 3, 4, 5, 6, 7] false)
  | 0x3C => some (useOf q [] [d] [] [] [] [])
  | _ => none

/-- Whether a code word is of the execute stream (R100): a short form, a vector word, or a matrix word. -/
def executeCode : Code → Bool
  | .half h => h.extractLsb' 0 2 == 0#2
  | .full w => let m := (fM w).toNat / 2; decide (0x28 ≤ m ∧ m ≤ 0x2D) || m == 0x30
/-- What a code word uses. -/
def codeUse (q : Bool) : Code → Option Use
  | .half h => (shortOf h).map (fun v => v.1.use q)
  | .full w => if (fM w).toNat / 2 = 0x30 then some (matrixUse q w)
    else match vopOf w with | some v => some (v.use q) | none => accessUse q w
/-- What the passes of a REP use that are still to come, from where it stands; the staggered numbers come round after 32 passes (R98). -/
def Rep.useLeft (q : Bool) (r : Rep) : Use :=
  let pass (k : Nat) (ws : List RepWord) : Use := ws.foldl (fun u w => match w.ins with
    | some v => u.join (({ r with pass := r.pass + BitVec.ofNat 64 k }.stagger w v).use q)
    | none => u) { sure := true }
  (List.range (min (r.count.toNat - r.pass.toNat - 1) 32)).foldl (fun u k => u.join (pass (k + 1) r.words)) (pass 0 (r.words.drop r.idx))

/-! ### Past an instruction that waits -/

/-- The code word that a desk has issued. -/
def Desk.codeNow (d : Desk) : Code := let (w, half) := d.fwdWord; if half then .half (w.setWidth 16) else .full w
/-- Goes on past the instruction at the pc, which waits: a follower leaves its forwarded word too; JAL goes on at its target. -/
def Desk.passBy (d : Desk) : Desk :=
  let w := d.fwdWord.1
  let e := if !d.fwdWord.2 && (fM w).toNat / 2 == 0x0D then { d with jump := some (targetJ d.pc (imm20 w), fD w != 0#5) }.advance
    else d.fall (d.pc + BitVec.ofNat 64 d.len)
  let e := { e with wait := none, latch := none }
  match d.gang with
  | .follower _ => if d.inStream then { e with fwd := d.fwd.drop 1, gen := e.gen.map (fun g => { g with taken := g.taken ++ d.fwd.take 1 }) } else e
  | _ => e
/-- A waiting push lets the other stream go on (R100): the desk goes on past it on a run-ahead path. -/
def Desk.goAhead (d : Desk) (n : BitVec 3) : Desk :=
  let start (x : Bool) (u : Use) : Desk := let e := d.openGen (.behind n x); { e with gen := e.gen.map (fun g => { g with skip := u }) }
  if d.gen.isSome then d
  else if d.rep.active && d.repAt.isSome then
    let e := start true (d.rep.useLeft d.kern.queues)
    { e with wait := none, latch := none, pc := match d.rep.words.getLast? with | some w => w.addr | none => d.pc }.fall d.rep.stop
  else match codeUse d.kern.queues d.codeNow with
    | some u => (start (executeCode d.codeNow) u).passBy
    | none => d

/-- What a run-ahead path does with a code word. -/
inductive PathAct where
  /-- runs it -/
  | run (u : Use)
  /-- leaves it where it is and goes on past it -/
  | pass (d : Desk)
  /-- waits at it -/
  | hold
  deriving DecidableEq, Repr
/-- Whether a word may transfer on a condition or opens a body: the path goes past it only by running it. -/
def steers : Code → Bool
  | .half _ => false
  | .full w => let m := (fM w).toNat / 2; m == 0x0B || m == 0x0C || m == 0x0F || m == 0x10 || (m == 0x0E && decide ((fF w).toNat ≤ 1))
/-- A matrix command on a path of the execute stream: its operands are taken from their ports, and it is left for its own turn. -/
def Desk.lookAt (d : Desk) (u : Use) (w : BitVec 32) : PathAct :=
  let ports := ([fA w, fB w] : List GReg).filter (fun r => d.isPort r && u.pop.getLsbD (portIx r).toNat)
  match d.popsG ports with
  | .error _ => .hold
  | .ok (_, e) => .pass (Desk.passBy { e with gen := e.gen.map (fun g => { g with skip := g.skip.join { gw := u.gw, push := u.push } }) })
/-- What a path past a waiting push does with a code word: an instruction of the stream that waits stays behind, and so does one of the
other that needs what those behind have still to write, pop or push (R87, R100). -/
def Desk.pathAct (d : Desk) (c : Code) : PathAct :=
  match d.gen with
  | none => .run {}
  | some g => match g.kind with
    | .brq _ _ _ _ _ _ _ => .run {}
    | .behind _ x =>
      let dict := match c with | .half h => h.extractLsb' 0 2 == 2#2 | _ => false
      if dict then .run {}
      else match codeUse d.kern.queues c with
        | none => .hold
        | some u =>
          if executeCode c == x then
            if !steers c then .pass (Desk.passBy { d with gen := some { g with skip := g.skip.join u } })
            else if g.skip.blocks u then .hold else .run u
          else if g.skip.blocks u then .hold
          else match c with
            | .full w => if (fM w).toNat / 2 = 0x30 then d.lookAt u w else .run u
            | .half _ => .run u

/-- EXECUTE_CLEAR (R411): a pop that ran ahead has made room in the port.  The instruction that waited has its place, and what ran ahead
takes effect as it executes again, in program order. -/
def execExecuteClear (c : CoreId) (i : DeskId) (s : State) : Host.Outcome State Fault Refusal :=
  event (fun s =>
    let d := s.deskAt c i
    match d.gen with
    | some g => match g.kind with
      | .behind n _ =>
        if d.portRoom n then
          let e := d.discardGen
          some (s.setDeskAt c i { e with grant := e.grant ||| (1#8 <<< n.toNat), wait := none })
        else none
      | .brq _ _ _ _ _ _ _ => none
    | none => none) s

end Sys2Proof.Machine
end

