-- ==== Sys2Proof/Machine/Dispatch.lean ====
section
/-! DEFINITION. One arm per operation of the table: each a call of its meaning. -/

namespace Sys2Proof.Machine

def exec (i : Instr) (s : State) : Host.Outcome State Fault Refusal :=
  match i with
  | .add g b a d => Sys2Proof.Machine.execAdd g b a d s
  | .sub g b a d => Sys2Proof.Machine.execSub g b a d s
  | .mul g b a d => Sys2Proof.Machine.execMul g b a d s
  | .mulh g b a d => Sys2Proof.Machine.execMulh g b a d s
  | .mulhU g b a d => Sys2Proof.Machine.execMulhU g b a d s
  | .div g b a d => Sys2Proof.Machine.execDiv g b a d s
  | .divU g b a d => Sys2Proof.Machine.execDivU g b a d s
  | .rem g b a d => Sys2Proof.Machine.execRem g b a d s
  | .remU g b a d => Sys2Proof.Machine.execRemU g b a d s
  | .and g b a d => Sys2Proof.Machine.execAnd g b a d s
  | .or g b a d => Sys2Proof.Machine.execOr g b a d s
  | .xor g b a d => Sys2Proof.Machine.execXor g b a d s
  | .shl g b a d => Sys2Proof.Machine.execShl g b a d s
  | .shr g b a d => Sys2Proof.Machine.execShr g b a d s
  | .sha g b a d => Sys2Proof.Machine.execSha g b a d s
  | .slt g b a d => Sys2Proof.Machine.execSlt g b a d s
  | .sltU g b a d => Sys2Proof.Machine.execSltU g b a d s
  | .min g b a d => Sys2Proof.Machine.execMin g b a d s
  | .minU g b a d => Sys2Proof.Machine.execMinU g b a d s
  | .max g b a d => Sys2Proof.Machine.execMax g b a d s
  | .maxU g b a d => Sys2Proof.Machine.execMaxU g b a d s
  | .clz g a d => Sys2Proof.Machine.execClz g a d s
  | .ctz g a d => Sys2Proof.Machine.execCtz g a d s
  | .popc g a d => Sys2Proof.Machine.execPopc g a d s
  | .extB g a d => Sys2Proof.Machine.execExtB g a d s
  | .extH g a d => Sys2Proof.Machine.execExtH g a d s
  | .extW g a d => Sys2Proof.Machine.execExtW g a d s
  | .extBu g a d => Sys2Proof.Machine.execExtBu g a d s
  | .extHu g a d => Sys2Proof.Machine.execExtHu g a d s
  | .extWu g a d => Sys2Proof.Machine.execExtWu g a d s
  | .sel c b a d => Sys2Proof.Machine.execSel c b a d s
  | .addImm imm a d => Sys2Proof.Machine.execAddImm imm a d s
  | .andImm imm a d => Sys2Proof.Machine.execAndImm imm a d s
  | .orImm imm a d => Sys2Proof.Machine.execOrImm imm a d s
  | .xorImm imm a d => Sys2Proof.Machine.execXorImm imm a d s
  | .shlImm s1 a d => Sys2Proof.Machine.execShlImm s1 a d s
  | .shrImm s1 a d => Sys2Proof.Machine.execShrImm s1 a d s
  | .shaImm s1 a d => Sys2Proof.Machine.execShaImm s1 a d s
  | .sltImm imm a d => Sys2Proof.Machine.execSltImm imm a d s
  | .lui imm d => Sys2Proof.Machine.execLui imm d s
  | .addpc imm d => Sys2Proof.Machine.execAddpc imm d s
  | .pcmpEq g b a d => Sys2Proof.Machine.execPcmpEq g b a d s
  | .pcmpNe g b a d => Sys2Proof.Machine.execPcmpNe g b a d s
  | .pcmpLt g b a d => Sys2Proof.Machine.execPcmpLt g b a d s
  | .pcmpGe g b a d => Sys2Proof.Machine.execPcmpGe g b a d s
  | .pcmpLtU g b a d => Sys2Proof.Machine.execPcmpLtU g b a d s
  | .pcmpGeU g b a d => Sys2Proof.Machine.execPcmpGeU g b a d s
  | .pand g b a d => Sys2Proof.Machine.execPand g b a d s
  | .por g b a d => Sys2Proof.Machine.execPor g b a d s
  | .pxor g b a d => Sys2Proof.Machine.execPxor g b a d s
  | .pandn g b a d => Sys2Proof.Machine.execPandn g b a d s
  | .pnot g a d => Sys2Proof.Machine.execPnot g a d s
  | .pmov g a d => Sys2Proof.Machine.execPmov g a d s
  | .pcnt g a d => Sys2Proof.Machine.execPcnt g a d s
  | .pfirst g a d => Sys2Proof.Machine.execPfirst g a d s
  | .pall g a d => Sys2Proof.Machine.execPall g a d s
  | .pnone g a d => Sys2Proof.Machine.execPnone g a d s
  | .b o l c b a => Sys2Proof.Machine.execB o l c b a s
  | .bpAny o l w p => Sys2Proof.Machine.execBpAny o l w p s
  | .bpAll o l w p => Sys2Proof.Machine.execBpAll o l w p s
  | .bpNone o l w p => Sys2Proof.Machine.execBpNone o l w p s
  | .jal o d => Sys2Proof.Machine.execJal o d s
  | .jr a d => Sys2Proof.Machine.execJr a d s
  | .rep m s1 a n => Sys2Proof.Machine.execRep m s1 a n s
  | .setk a d => Sys2Proof.Machine.execSetk a d s
  | .pendk d => Sys2Proof.Machine.execPendk d s
  | .qflush d => Sys2Proof.Machine.execQflush d s
  | .qcnt a d => Sys2Proof.Machine.execQcnt a d s
  | .gang a => Sys2Proof.Machine.execGang a s
  | .ungang => Sys2Proof.Machine.execUngang s
  | .loop l r imm => Sys2Proof.Machine.execLoop l r imm s
  | .loopi l c imm => Sys2Proof.Machine.execLoopi l c imm s
  | .brd o l c b a => Sys2Proof.Machine.execBrd o l c b a s
  | .brq o l c b q => Sys2Proof.Machine.execBrq o l c b q s
  | .rejoin o => Sys2Proof.Machine.execRejoin o s
  | .ld o q s1 b d => Sys2Proof.Machine.execLd o q s1 b d s
  | .st o q s1 b d => Sys2Proof.Machine.execSt o q s1 b d s
  | .ldl o s1 b d => Sys2Proof.Machine.execLdl o s1 b d s
  | .stl o s1 b d => Sys2Proof.Machine.execStl o s1 b d s
  | .vld o q b d => Sys2Proof.Machine.execVld o q b d s
  | .vst o q b d => Sys2Proof.Machine.execVst o q b d s
  | .vldl o b d => Sys2Proof.Machine.execVldl o b d s
  | .vstl o b d => Sys2Proof.Machine.execVstl o b d s
  | .lda g b a d => Sys2Proof.Machine.execLda g b a d s
  | .str g b a s1 => Sys2Proof.Machine.execStr g b a s1 s
  | .vlds g b a d => Sys2Proof.Machine.execVlds g b a d s
  | .vsts g b a d => Sys2Proof.Machine.execVsts g b a d s
  | .vgathW g b a d => Sys2Proof.Machine.execVgathW g b a d s
  | .vgathD g b a d => Sys2Proof.Machine.execVgathD g b a d s
  | .vscatW g b a d => Sys2Proof.Machine.execVscatW g b a d s
  | .vscatD g b a d => Sys2Proof.Machine.execVscatD g b a d s
  | .pref g b a => Sys2Proof.Machine.execPref g b a s
  | .fence g k s1 => Sys2Proof.Machine.execFence g k s1 s
  | .l1gen => Sys2Proof.Machine.execL1gen s
  | .ldv g a d => Sys2Proof.Machine.execLdv g a d s
  | .ldvs g a d => Sys2Proof.Machine.execLdvs g a d s
  | .valset g d => Sys2Proof.Machine.execValset g d s
  | .vclr g => Sys2Proof.Machine.execVclr g s
  | .vcas g b a d => Sys2Proof.Machine.execVcas g b a d s
  | .lver g a d => Sys2Proof.Machine.execLver g a d s
  | .l2ret g b a n => Sys2Proof.Machine.execL2ret g b a n s
  | .unpin g n => Sys2Proof.Machine.execUnpin g n s
  | .l2stat g b d => Sys2Proof.Machine.execL2stat g b d s
  | .amoAdd s1 o b a d => Sys2Proof.Machine.execAmoAdd s1 o b a d s
  | .amoAnd s1 o b a d => Sys2Proof.Machine.execAmoAnd s1 o b a d s
  | .amoOr s1 o b a d => Sys2Proof.Machine.execAmoOr s1 o b a d s
  | .amoXor s1 o b a d => Sys2Proof.Machine.execAmoXor s1 o b a d s
  | .amoMin s1 o b a d => Sys2Proof.Machine.execAmoMin s1 o b a d s
  | .amoMax s1 o b a d => Sys2Proof.Machine.execAmoMax s1 o b a d s
  | .amoMinU s1 o b a d => Sys2Proof.Machine.execAmoMinU s1 o b a d s
  | .amoMaxU s1 o b a d => Sys2Proof.Machine.execAmoMaxU s1 o b a d s
  | .amoSwap s1 o b a d => Sys2Proof.Machine.execAmoSwap s1 o b a d s
  | .amoFadd s1 o b a d => Sys2Proof.Machine.execAmoFadd s1 o b a d s
  | .amoFmin s1 o b a d => Sys2Proof.Machine.execAmoFmin s1 o b a d s
  | .amoFmax s1 o b a d => Sys2Proof.Machine.execAmoFmax s1 o b a d s
  | .amoAddW s1 o b a d => Sys2Proof.Machine.execAmoAddW s1 o b a d s
  | .amoAndW s1 o b a d => Sys2Proof.Machine.execAmoAndW s1 o b a d s
  | .amoOrW s1 o b a d => Sys2Proof.Machine.execAmoOrW s1 o b a d s
  | .amoXorW s1 o b a d => Sys2Proof.Machine.execAmoXorW s1 o b a d s
  | .amoMinW s1 o b a d => Sys2Proof.Machine.execAmoMinW s1 o b a d s
  | .amoMaxW s1 o b a d => Sys2Proof.Machine.execAmoMaxW s1 o b a d s
  | .amoMinUW s1 o b a d => Sys2Proof.Machine.execAmoMinUW s1 o b a d s
  | .amoMaxUW s1 o b a d => Sys2Proof.Machine.execAmoMaxUW s1 o b a d s
  | .amoSwapW s1 o b a d => Sys2Proof.Machine.execAmoSwapW s1 o b a d s
  | .cas s1 o b a d => Sys2Proof.Machine.execCas s1 o b a d s
  | .casW s1 o b a d => Sys2Proof.Machine.execCasW s1 o b a d s
  | .aredAdd s1 o b a => Sys2Proof.Machine.execAredAdd s1 o b a s
  | .aredAnd s1 o b a => Sys2Proof.Machine.execAredAnd s1 o b a s
  | .aredOr s1 o b a => Sys2Proof.Machine.execAredOr s1 o b a s
  | .aredXor s1 o b a => Sys2Proof.Machine.execAredXor s1 o b a s
  | .aredMin s1 o b a => Sys2Proof.Machine.execAredMin s1 o b a s
  | .aredMax s1 o b a => Sys2Proof.Machine.execAredMax s1 o b a s
  | .aredMinU s1 o b a => Sys2Proof.Machine.execAredMinU s1 o b a s
  | .aredMaxU s1 o b a => Sys2Proof.Machine.execAredMaxU s1 o b a s
  | .aredSwap s1 o b a => Sys2Proof.Machine.execAredSwap s1 o b a s
  | .aredFadd s1 o b a => Sys2Proof.Machine.execAredFadd s1 o b a s
  | .aredFmin s1 o b a => Sys2Proof.Machine.execAredFmin s1 o b a s
  | .aredFmax s1 o b a => Sys2Proof.Machine.execAredFmax s1 o b a s
  | .aredAddW s1 o b a => Sys2Proof.Machine.execAredAddW s1 o b a s
  | .aredAndW s1 o b a => Sys2Proof.Machine.execAredAndW s1 o b a s
  | .aredOrW s1 o b a => Sys2Proof.Machine.execAredOrW s1 o b a s
  | .aredXorW s1 o b a => Sys2Proof.Machine.execAredXorW s1 o b a s
  | .aredMinW s1 o b a => Sys2Proof.Machine.execAredMinW s1 o b a s
  | .aredMaxW s1 o b a => Sys2Proof.Machine.execAredMaxW s1 o b a s
  | .aredMinUW s1 o b a => Sys2Proof.Machine.execAredMinUW s1 o b a s
  | .aredMaxUW s1 o b a => Sys2Proof.Machine.execAredMaxUW s1 o b a s
  | .aredSwapW s1 o b a => Sys2Proof.Machine.execAredSwapW s1 o b a s
  | .vamoAdd g b a d => Sys2Proof.Machine.execVamoAdd g b a d s
  | .vamoAnd g b a d => Sys2Proof.Machine.execVamoAnd g b a d s
  | .vamoOr g b a d => Sys2Proof.Machine.execVamoOr g b a d s
  | .vamoXor g b a d => Sys2Proof.Machine.execVamoXor g b a d s
  | .vamoMin g b a d => Sys2Proof.Machine.execVamoMin g b a d s
  | .vamoMax g b a d => Sys2Proof.Machine.execVamoMax g b a d s
  | .vamoMinU g b a d => Sys2Proof.Machine.execVamoMinU g b a d s
  | .vamoMaxU g b a d => Sys2Proof.Machine.execVamoMaxU g b a d s
  | .vamoSwap g b a d => Sys2Proof.Machine.execVamoSwap g b a d s
  | .vamoFadd g b a d => Sys2Proof.Machine.execVamoFadd g b a d s
  | .vamoFmin g b a d => Sys2Proof.Machine.execVamoFmin g b a d s
  | .vamoFmax g b a d => Sys2Proof.Machine.execVamoFmax g b a d s
  | .varedAdd g b a d => Sys2Proof.Machine.execVaredAdd g b a d s
  | .varedAnd g b a d => Sys2Proof.Machine.execVaredAnd g b a d s
  | .varedOr g b a d => Sys2Proof.Machine.execVaredOr g b a d s
  | .varedXor g b a d => Sys2Proof.Machine.execVaredXor g b a d s
  | .varedMin g b a d => Sys2Proof.Machine.execVaredMin g b a d s
  | .varedMax g b a d => Sys2Proof.Machine.execVaredMax g b a d s
  | .varedMinU g b a d => Sys2Proof.Machine.execVaredMinU g b a d s
  | .varedMaxU g b a d => Sys2Proof.Machine.execVaredMaxU g b a d s
  | .varedSwap g b a d => Sys2Proof.Machine.execVaredSwap g b a d s
  | .varedFadd g b a d => Sys2Proof.Machine.execVaredFadd g b a d s
  | .varedFmin g b a d => Sys2Proof.Machine.execVaredFmin g b a d s
  | .varedFmax g b a d => Sys2Proof.Machine.execVaredFmax g b a d s
  | .nmop a k => Sys2Proof.Machine.execNmop a k s
  | .nmwait a => Sys2Proof.Machine.execNmwait a s
  | .cadd s1 o b a d => Sys2Proof.Machine.execCadd s1 o b a d s
  | .cwait b a => Sys2Proof.Machine.execCwait b a s
  | .ctest b a d => Sys2Proof.Machine.execCtest b a d s
  | .barv b a d => Sys2Proof.Machine.execBarv b a d s
  | .bwait b a => Sys2Proof.Machine.execBwait b a s
  | .bell => Sys2Proof.Machine.execBell s
  | .xdone => Sys2Proof.Machine.execXdone s
  | .xput b a d => Sys2Proof.Machine.execXput b a d s
  | .xget b a d => Sys2Proof.Machine.execXget b a d s
  | .tdef g b a => Sys2Proof.Machine.execTdef g b a s
  | .tfill g b a => Sys2Proof.Machine.execTfill g b a s
  | .tready g a => Sys2Proof.Machine.execTready g a s
  | .tdrain g a => Sys2Proof.Machine.execTdrain g a s
  | .tfree g a => Sys2Proof.Machine.execTfree g a s
  | .tstat g a d => Sys2Proof.Machine.execTstat g a d s
  | .twait g b a => Sys2Proof.Machine.execTwait g b a s
  | .tcast g b a d => Sys2Proof.Machine.execTcast g b a d s
  | .bbinit g b a => Sys2Proof.Machine.execBbinit g b a s
  | .bbinitw g b a => Sys2Proof.Machine.execBbinitw g b a s
  | .bbpeek g b d => Sys2Proof.Machine.execBbpeek g b d s
  | .bbget g b d => Sys2Proof.Machine.execBbget g b d s
  | .bbskip g b => Sys2Proof.Machine.execBbskip g b s
  | .bbseek g a => Sys2Proof.Machine.execBbseek g a s
  | .bbpos g d => Sys2Proof.Machine.execBbpos g d s
  | .bblut g b a d => Sys2Proof.Machine.execBblut g b a d s
  | .bbput g b a => Sys2Proof.Machine.execBbput g b a s
  | .bbflush g => Sys2Proof.Machine.execBbflush g s
  | .bfx g b a d => Sys2Proof.Machine.execBfx g b a d s
  | .bfi g b a d => Sys2Proof.Machine.execBfi g b a d s
  | .fshl g b a d => Sys2Proof.Machine.execFshl g b a d s
  | .fshr g b a d => Sys2Proof.Machine.execFshr g b a d s
  | .brev g a d => Sys2Proof.Machine.execBrev g a d s
  | .vadd t g b a d => Sys2Proof.Machine.execVadd t g b a d s
  | .vsub t g b a d => Sys2Proof.Machine.execVsub t g b a d s
  | .vmul t g b a d => Sys2Proof.Machine.execVmul t g b a d s
  | .vfma t g b a d => Sys2Proof.Machine.execVfma t g b a d s
  | .vfms t g b a d => Sys2Proof.Machine.execVfms t g b a d s
  | .vmin t g b a d => Sys2Proof.Machine.execVmin t g b a d s
  | .vmax t g b a d => Sys2Proof.Machine.execVmax t g b a d s
  | .vdiv t g b a d => Sys2Proof.Machine.execVdiv t g b a d s
  | .vabs t g a d => Sys2Proof.Machine.execVabs t g a d s
  | .vneg t g a d => Sys2Proof.Machine.execVneg t g a d s
  | .vsqrt t g a d => Sys2Proof.Machine.execVsqrt t g a d s
  | .vrcp t g a d => Sys2Proof.Machine.execVrcp t g a d s
  | .vrsqrt t g a d => Sys2Proof.Machine.execVrsqrt t g a d s
  | .vexp2 t g a d => Sys2Proof.Machine.execVexp2 t g a d s
  | .vlog2 t g a d => Sys2Proof.Machine.execVlog2 t g a d s
  | .vmov t g a d => Sys2Proof.Machine.execVmov t g a d s
  | .vact t g f a d => Sys2Proof.Machine.execVact t g f a d s
  | .vdact t g f a d => Sys2Proof.Machine.execVdact t g f a d s
  | .vcmpEq t g b a p => Sys2Proof.Machine.execVcmpEq t g b a p s
  | .vcmpNe t g b a p => Sys2Proof.Machine.execVcmpNe t g b a p s
  | .vcmpLt t g b a p => Sys2Proof.Machine.execVcmpLt t g b a p s
  | .vcmpLe t g b a p => Sys2Proof.Machine.execVcmpLe t g b a p s
  | .vsel t c b a d => Sys2Proof.Machine.execVsel t c b a d s
  | .vnfin t g a p => Sys2Proof.Machine.execVnfin t g a p s
  | .vand t g b a d => Sys2Proof.Machine.execVand t g b a d s
  | .vor t g b a d => Sys2Proof.Machine.execVor t g b a d s
  | .vxor t g b a d => Sys2Proof.Machine.execVxor t g b a d s
  | .vnot t g a d => Sys2Proof.Machine.execVnot t g a d s
  | .vshl t g b a d => Sys2Proof.Machine.execVshl t g b a d s
  | .vshr t g b a d => Sys2Proof.Machine.execVshr t g b a d s
  | .vsha t g b a d => Sys2Proof.Machine.execVsha t g b a d s
  | .viota t g d => Sys2Proof.Machine.execViota t g d s
  | .vbcast t g a d => Sys2Proof.Machine.execVbcast t g a d s
  | .vextr t g b a d => Sys2Proof.Machine.execVextr t g b a d s
  | .vins t g b a d => Sys2Proof.Machine.execVins t g b a d s
  | .vperm t g b a d => Sys2Proof.Machine.execVperm t g b a d s
  | .vred t g o a d => Sys2Proof.Machine.execVred t g o a d s
  | .vscan t g o a d => Sys2Proof.Machine.execVscan t g o a d s
  | .vdot t g b a d => Sys2Proof.Machine.execVdot t g b a d s
  | .vhad n a d => Sys2Proof.Machine.execVhad n a d s
  | .vcvt t g r s1 a d => Sys2Proof.Machine.execVcvt t g r s1 a d s
  | .vpack t a d => Sys2Proof.Machine.execVpack t a d s
  | .vunpk t a d => Sys2Proof.Machine.execVunpk t a d s
  | .vaddF32S s1 d => Sys2Proof.Machine.execVaddF32S s1 d s
  | .vsubF32S s1 d => Sys2Proof.Machine.execVsubF32S s1 d s
  | .vmulF32S s1 d => Sys2Proof.Machine.execVmulF32S s1 d s
  | .vmaxF32S s1 d => Sys2Proof.Machine.execVmaxF32S s1 d s
  | .vminF32S s1 d => Sys2Proof.Machine.execVminF32S s1 d s
  | .vaddBf16S s1 d => Sys2Proof.Machine.execVaddBf16S s1 d s
  | .vmulBf16S s1 d => Sys2Proof.Machine.execVmulBf16S s1 d s
  | .vaddI32S s1 d => Sys2Proof.Machine.execVaddI32S s1 d s
  | .vsubI32S s1 d => Sys2Proof.Machine.execVsubI32S s1 d s
  | .vandS s1 d => Sys2Proof.Machine.execVandS s1 d s
  | .vorS s1 d => Sys2Proof.Machine.execVorS s1 d s
  | .vxorS s1 d => Sys2Proof.Machine.execVxorS s1 d s
  | .vmovS s1 d => Sys2Proof.Machine.execVmovS s1 d s
  | .vabsF32S s1 d => Sys2Proof.Machine.execVabsF32S s1 d s
  | .vreluF32S s1 d => Sys2Proof.Machine.execVreluF32S s1 d s
  | .dictRef imm g => Sys2Proof.Machine.execDictRef imm g s
  | .mmaPt k b a s1 c n => Sys2Proof.Machine.execMmaPt k b a s1 c n s
  | .mmaMinp k b a s1 c n => Sys2Proof.Machine.execMmaMinp k b a s1 c n s
  | .mmaMaxp k b a s1 c n => Sys2Proof.Machine.execMmaMaxp k b a s1 c n s
  | .mmaMaxt k b a s1 c n => Sys2Proof.Machine.execMmaMaxt k b a s1 c n s
  | .mmaOrand k b a s1 c n => Sys2Proof.Machine.execMmaOrand k b a s1 c n s
  | .mmas k b a s1 c n => Sys2Proof.Machine.execMmas k b a s1 c n s
  | .mzero k a n => Sys2Proof.Machine.execMzero k a n s
  | .mldc k a n => Sys2Proof.Machine.execMldc k a n s
  | .mout k a n => Sys2Proof.Machine.execMout k a n s
  | .mepi k a n => Sys2Proof.Machine.execMepi k a n s
  | .mmaskRow k a n => Sys2Proof.Machine.execMmaskRow k a n s
  | .mmaskBlk k a n => Sys2Proof.Machine.execMmaskBlk k a n s
  | .mwait n => Sys2Proof.Machine.execMwait n s
  | .msend k b a => Sys2Proof.Machine.execMsend k b a s
  | .mcap a d => Sys2Proof.Machine.execMcap a d s
  | .mrevoke a => Sys2Proof.Machine.execMrevoke a s
  | .mstat n a d => Sys2Proof.Machine.execMstat n a d s
  | .mthr k a n => Sys2Proof.Machine.execMthr k a n s
  | .mprogRd n d => Sys2Proof.Machine.execMprogRd n d s
  | .mprogWr a n => Sys2Proof.Machine.execMprogWr a n s
  | .khash g b a d => Sys2Proof.Machine.execKhash g b a d s
  | .kfind g b a d => Sys2Proof.Machine.execKfind g b a d s
  | .kins g b a d => Sys2Proof.Machine.execKins g b a d s
  | .kdel g b a d => Sys2Proof.Machine.execKdel g b a d s
  | .kacc g b a d => Sys2Proof.Machine.execKacc g b a d s
  | .kget g b a d => Sys2Proof.Machine.execKget g b a d s
  | .kput g b a d => Sys2Proof.Machine.execKput g b a d s
  | .khot g b a d => Sys2Proof.Machine.execKhot g b a d s
  | .kmerge g b a => Sys2Proof.Machine.execKmerge g b a s
  | .kscan g b a d => Sys2Proof.Machine.execKscan g b a d s
  | .kdirty g b a => Sys2Proof.Machine.execKdirty g b a s
  | .kcount g b a d => Sys2Proof.Machine.execKcount g b a d s
  | .jbind b a n => Sys2Proof.Machine.execJbind b a n s
  | .jnode b n d => Sys2Proof.Machine.execJnode b n d s
  | .krange b a d => Sys2Proof.Machine.execKrange b a d s
  | .kruns k b a d => Sys2Proof.Machine.execKruns k b a d s
  | .kisect k a => Sys2Proof.Machine.execKisect k a s
  | .jgather b a n p => Sys2Proof.Machine.execJgather b a n p s
  | .jscatter k b a n p => Sys2Proof.Machine.execJscatter k b a n p s
  | .cpy k a => Sys2Proof.Machine.execCpy k a s
  | .cpyq k a => Sys2Proof.Machine.execCpyq k a s
  | .gath k a => Sys2Proof.Machine.execGath k a s
  | .coll k a => Sys2Proof.Machine.execColl k a s
  | .fput k a => Sys2Proof.Machine.execFput k a s
  | .fget k a => Sys2Proof.Machine.execFget k a s
  | .jobx a d => Sys2Proof.Machine.execJobx a d s
  | .msg k b a => Sys2Proof.Machine.execMsg k b a s
  | .mrecv q d => Sys2Proof.Machine.execMrecv q d s
  | .mpeek q d => Sys2Proof.Machine.execMpeek q d s
  | .msgNb b a d => Sys2Proof.Machine.execMsgNb b a d s
  | .launch b a d => Sys2Proof.Machine.execLaunch b a d s
  | .spawn a d => Sys2Proof.Machine.execSpawn a d s
  | .share d => Sys2Proof.Machine.execShare d s
  | .tend => Sys2Proof.Machine.execTend s
  | .esignal b a => Sys2Proof.Machine.execEsignal b a s
  | .sqput a d => Sys2Proof.Machine.execSqput a d s
  | .sqget a d => Sys2Proof.Machine.execSqget a d s
  | .sqlen x d => Sys2Proof.Machine.execSqlen x d s
  | .mfs r d => Sys2Proof.Machine.execMfs r d s
  | .mts r a => Sys2Proof.Machine.execMts r a s
  | .trap n a => Sys2Proof.Machine.execTrap n a s
  | .xret => Sys2Proof.Machine.execXret s
  | .xretSkip => Sys2Proof.Machine.execXretSkip s
  | .ctxsv b a => Sys2Proof.Machine.execCtxsv b a s
  | .ctxrs b a => Sys2Proof.Machine.execCtxrs b a s
  | .tlbinv b a => Sys2Proof.Machine.execTlbinv b a s
  | .brkpt b => Sys2Proof.Machine.execBrkpt b s
  | .roll d => Sys2Proof.Machine.execRoll d s
  | .ckpt => Sys2Proof.Machine.execCkpt s
  | .idle a => Sys2Proof.Machine.execIdle a s
  | .frmWrite a => Sys2Proof.Machine.execFrmWrite a s
  | .fflagsWrite a => Sys2Proof.Machine.execFflagsWrite a s
  | .srseedWrite a => Sys2Proof.Machine.execSrseedWrite a s
  | .lcWrite n a => Sys2Proof.Machine.execLcWrite n a s
  | .vprogWrite a => Sys2Proof.Machine.execVprogWrite a s
  | .bitBufferWrite r a => Sys2Proof.Machine.execBitBufferWrite r a s
  | .rtreqWrite a => Sys2Proof.Machine.execRtreqWrite a s
  | .monctlWrite n a => Sys2Proof.Machine.execMonctlWrite n a s
  | .mondataRead d => Sys2Proof.Machine.execMondataRead d s
  | .rcctlWrite a => Sys2Proof.Machine.execRcctlWrite a s
  | .ckctlWrite a => Sys2Proof.Machine.execCkctlWrite a s
  | .stepcntWrite a => Sys2Proof.Machine.execStepcntWrite a s
  | .asyncTrap c d => Sys2Proof.Machine.execAsyncTrap c d s
  | .deskResume c => Sys2Proof.Machine.execDeskResume c s
  | .loadReturn c d => Sys2Proof.Machine.execLoadReturn c d s
  | .storePerform c d imm => Sys2Proof.Machine.execStorePerform c d imm s
  | .l2Fill pa => Sys2Proof.Machine.execL2Fill pa s
  | .twinStep pa => Sys2Proof.Machine.execTwinStep pa s
  | .msRequestForward pa => Sys2Proof.Machine.execMsRequestForward pa s
  | .walk c d va acc => Sys2Proof.Machine.execWalk c d va acc s
  | .cwaitWake pa => Sys2Proof.Machine.execCwaitWake pa s
  | .waiterReread c d => Sys2Proof.Machine.execWaiterReread c d s
  | .queueWatchdog c d => Sys2Proof.Machine.execQueueWatchdog c d s
  | .gangWatchdog c d => Sys2Proof.Machine.execGangWatchdog c d s
  | .tileWatchdog c d => Sys2Proof.Machine.execTileWatchdog c d s
  | .msgWatchdog c d => Sys2Proof.Machine.execMsgWatchdog c d s
  | .idleWake c d => Sys2Proof.Machine.execIdleWake c d s
  | .gangForward c => Sys2Proof.Machine.execGangForward c s
  | .brqResolve c d => Sys2Proof.Machine.execBrqResolve c d s
  | .executeClear c d => Sys2Proof.Machine.execExecuteClear c d s
  | .repPass c d => Sys2Proof.Machine.execRepPass c d s
  | .tcastDelivery c d => Sys2Proof.Machine.execTcastDelivery c d s
  | .matrixCommandStart c n => Sys2Proof.Machine.execMatrixCommandStart c n s
  | .mmaBlockCommit c n => Sys2Proof.Machine.execMmaBlockCommit c n s
  | .matrixCommandComplete c n => Sys2Proof.Machine.execMatrixCommandComplete c n s
  | .matrixOperandFault c n => Sys2Proof.Machine.execMatrixOperandFault c n s
  | .remoteCommandAccept c d => Sys2Proof.Machine.execRemoteCommandAccept c d s
  | .remoteCommandComplete c n => Sys2Proof.Machine.execRemoteCommandComplete c n s
  | .cardStart e imm => Sys2Proof.Machine.execCardStart e imm s
  | .cardComplete e imm => Sys2Proof.Machine.execCardComplete e imm s
  | .cardFailure e imm => Sys2Proof.Machine.execCardFailure e imm s
  | .collectiveInstance l g k => Sys2Proof.Machine.execCollectiveInstance l g k s
  | .switchCombine l g k w => Sys2Proof.Machine.execSwitchCombine l g k w s
  | .messageArrival imm => Sys2Proof.Machine.execMessageArrival imm s
  | .nmTranslationPhase c d imm => Sys2Proof.Machine.execNmTranslationPhase c d imm s
  | .nmUpdatePhase c d imm => Sys2Proof.Machine.execNmUpdatePhase c d imm s
  | .jscatterPhase2 c => Sys2Proof.Machine.execJscatterPhase2 c s
  | .keyAccumulate c => Sys2Proof.Machine.execKeyAccumulate c s
  | .hotPromotion p h slot n => Sys2Proof.Machine.execHotPromotion p h slot n s
  | .launchTake p q => Sys2Proof.Machine.execLaunchTake p q s
  | .launchStart p q info => Sys2Proof.Machine.execLaunchStart p q info s
  | .spanStart l => Sys2Proof.Machine.execSpanStart l s
  | .shareDispatch c x => Sys2Proof.Machine.execShareDispatch c x s
  | .stageItemDispatch c => Sys2Proof.Machine.execStageItemDispatch c s
  | .bellComplete l k x => Sys2Proof.Machine.execBellComplete l k x s
  | .exchangeEnd l k => Sys2Proof.Machine.execExchangeEnd l k s
  | .preemptImmediate c area => Sys2Proof.Machine.execPreemptImmediate c area s
  | .resumeEntry c => Sys2Proof.Machine.execResumeEntry c s
  | .hangDetect l k => Sys2Proof.Machine.execHangDetect l k s
  | .launchFail l cause v pc c => Sys2Proof.Machine.execLaunchFail l cause v pc c s
  | .shareRerun c x => Sys2Proof.Machine.execShareRerun c x s
  | .launchComplete l => Sys2Proof.Machine.execLaunchComplete l s
  | .debugStop l => Sys2Proof.Machine.execDebugStop l s
  | .checkpoint l k => Sys2Proof.Machine.execCheckpoint l k s
  | .replayStop c d => Sys2Proof.Machine.execReplayStop c d s
  | .rollCall => Sys2Proof.Machine.execRollCall s
  | .monitorSample p n v => Sys2Proof.Machine.execMonitorSample p n v s
  | .errorEvent u => Sys2Proof.Machine.execErrorEvent u s
  | .windowRollover => Sys2Proof.Machine.execWindowRollover s
  | .unitRetire u => Sys2Proof.Machine.execUnitRetire u s
  | .clockStep die k => Sys2Proof.Machine.execClockStep die k s
  | .coldReset => Sys2Proof.Machine.execColdReset s
  | .hostTailWrite p q r => Sys2Proof.Machine.execHostTailWrite p q r s
  | .hostMemoryAccess wr pa v => Sys2Proof.Machine.execHostMemoryAccess wr pa v s
  | .partitionConfigWrite r => Sys2Proof.Machine.execPartitionConfigWrite r s
  | .lockInterface t => Sys2Proof.Machine.execLockInterface t s
  | .startInterface t => Sys2Proof.Machine.execStartInterface t s
  | .tdiError t => Sys2Proof.Machine.execTdiError t s
  | .spdmRequest ix nonce => Sys2Proof.Machine.execSpdmRequest ix nonce s
  | .linkGroupFail k g => Sys2Proof.Machine.execLinkGroupFail k g s
  | .linkDown k => Sys2Proof.Machine.execLinkDown k s
  | .linkRekey k => Sys2Proof.Machine.execLinkRekey k s
  | .mgmtReset => Sys2Proof.Machine.execMgmtReset s
  | .pldmMonitor r => Sys2Proof.Machine.execPldmMonitor r s
  | .firmwareUpdate port img => Sys2Proof.Machine.execFirmwareUpdate port img s
  | .reservedEncoding w full => Sys2Proof.Machine.execReservedEncoding w full s
  | .deadlinePass l => Sys2Proof.Machine.execDeadlinePass l s
  | .hostStopRequest l => Sys2Proof.Machine.execHostStopRequest l s
  | .debugResume l => Sys2Proof.Machine.execDebugResume l s
  | .debugSessionAttach l => Sys2Proof.Machine.execDebugSessionAttach l s
  | .newSpdmSession k => Sys2Proof.Machine.execNewSpdmSession k s
  | .powerLoss => Sys2Proof.Machine.execPowerLoss s
  | .stopInterface t => Sys2Proof.Machine.execStopInterface t s

end Sys2Proof.Machine
end

