-- ==== Sys2Proof/Machine/Run.lean ====
section
/-! DEFINITION. Running a code word: the instruction that it decodes to, or the trap of a reserved encoding (R48).  `runCode` says it;
`runCodeC` says the same without building the instruction, so that the compiler of this Lean, which builds no constructor past
the 245th, can run it too.  The theorem `runCode_eq` states that they are one function. -/

namespace Sys2Proof.Machine

/-- What a step of an instruction ends in. -/
abbrev Out := Host.Outcome State Fault Refusal
/-- Runs what a decoder answered; `no` is what runs in place of a reserved encoding. -/
noncomputable def runOpt (x : Option Instr) (no : State → Out) (s : State) : Out :=
  match x with
  | some i => if i.wellFormed then exec i s else no s
  | none => no s

/-- The instructions of `decMajor01`. -/
def runMajor01 (w : BitVec 32) (no : State → Out) (s : State) : Out :=
  match fF w with
  | 0#6 => (if guardOk (fG w) then execAdd (fG w) (fB w) (fA w) (fD w) s else no s)
  | 1#6 => (if guardOk (fG w) then execSub (fG w) (fB w) (fA w) (fD w) s else no s)
  | 2#6 => (if guardOk (fG w) then execMul (fG w) (fB w) (fA w) (fD w) s else no s)
  | 3#6 => (if guardOk (fG w) then execMulh (fG w) (fB w) (fA w) (fD w) s else no s)
  | 4#6 => (if guardOk (fG w) then execMulhU (fG w) (fB w) (fA w) (fD w) s else no s)
  | 5#6 => (if guardOk (fG w) then execDiv (fG w) (fB w) (fA w) (fD w) s else no s)
  | 6#6 => (if guardOk (fG w) then execDivU (fG w) (fB w) (fA w) (fD w) s else no s)
  | 7#6 => (if guardOk (fG w) then execRem (fG w) (fB w) (fA w) (fD w) s else no s)
  | 8#6 => (if guardOk (fG w) then execRemU (fG w) (fB w) (fA w) (fD w) s else no s)
  | 9#6 => (if guardOk (fG w) then execAnd (fG w) (fB w) (fA w) (fD w) s else no s)
  | 10#6 => (if guardOk (fG w) then execOr (fG w) (fB w) (fA w) (fD w) s else no s)
  | 11#6 => (if guardOk (fG w) then execXor (fG w) (fB w) (fA w) (fD w) s else no s)
  | 12#6 => (if guardOk (fG w) then execShl (fG w) (fB w) (fA w) (fD w) s else no s)
  | 13#6 => (if guardOk (fG w) then execShr (fG w) (fB w) (fA w) (fD w) s else no s)
  | 14#6 => (if guardOk (fG w) then execSha (fG w) (fB w) (fA w) (fD w) s else no s)
  | 15#6 => (if guardOk (fG w) then execSlt (fG w) (fB w) (fA w) (fD w) s else no s)
  | 16#6 => (if guardOk (fG w) then execSltU (fG w) (fB w) (fA w) (fD w) s else no s)
  | 17#6 => (if guardOk (fG w) then execMin (fG w) (fB w) (fA w) (fD w) s else no s)
  | 18#6 => (if guardOk (fG w) then execMinU (fG w) (fB w) (fA w) (fD w) s else no s)
  | 19#6 => (if guardOk (fG w) then execMax (fG w) (fB w) (fA w) (fD w) s else no s)
  | 20#6 => (if guardOk (fG w) then execMaxU (fG w) (fB w) (fA w) (fD w) s else no s)
  | 21#6 => if fB w = 0#5 then (if guardOk (fG w) then execClz (fG w) (fA w) (fD w) s else no s) else no s
  | 22#6 => if fB w = 0#5 then (if guardOk (fG w) then execCtz (fG w) (fA w) (fD w) s else no s) else no s
  | 23#6 => if fB w = 0#5 then (if guardOk (fG w) then execPopc (fG w) (fA w) (fD w) s else no s) else no s
  | 24#6 => if fB w = 0#5 then (if guardOk (fG w) then execExtB (fG w) (fA w) (fD w) s else no s) else no s
  | 25#6 => if fB w = 0#5 then (if guardOk (fG w) then execExtH (fG w) (fA w) (fD w) s else no s) else no s
  | 26#6 => if fB w = 0#5 then (if guardOk (fG w) then execExtW (fG w) (fA w) (fD w) s else no s) else no s
  | 27#6 => if fB w = 0#5 then (if guardOk (fG w) then execExtBu (fG w) (fA w) (fD w) s else no s) else no s
  | 28#6 => if fB w = 0#5 then (if guardOk (fG w) then execExtHu (fG w) (fA w) (fD w) s else no s) else no s
  | 29#6 => if fB w = 0#5 then (if guardOk (fG w) then execExtWu (fG w) (fA w) (fD w) s else no s) else no s
  | 30#6 => (if condOk (fG w) then execSel (fG w) (fB w) (fA w) (fD w) s else no s)
  | _ => no s
/-- They are those that it decodes. -/
theorem runMajor01_eq (w : BitVec 32) (no : State → Out) (s : State) : runOpt (decMajor01 w) no s = runMajor01 w no s := by
  unfold decMajor01 runMajor01
  first
    | rfl
    | (split
       all_goals first
         | rfl
         | (rename_i h; simp only [h]; first | rfl | (split <;> first | rfl | (split <;> first | rfl | (split <;> rfl))))
         | (repeat' (first | rfl | contradiction | split)))

/-- The instructions of `decMajor02`. -/
def runMajor02 (w : BitVec 32) (_no : State → Out) (s : State) : Out :=
  execAddImm (imm15 w) (fA w) (fD w) s
/-- They are those that it decodes. -/
theorem runMajor02_eq (w : BitVec 32) (no : State → Out) (s : State) : runOpt (decMajor02 w) no s = runMajor02 w no s := by
  unfold decMajor02 runMajor02
  repeat' (first | rfl | split)

/-- The instructions of `decMajor03`. -/
def runMajor03 (w : BitVec 32) (_no : State → Out) (s : State) : Out :=
  execAndImm (imm15 w) (fA w) (fD w) s
/-- They are those that it decodes. -/
theorem runMajor03_eq (w : BitVec 32) (no : State → Out) (s : State) : runOpt (decMajor03 w) no s = runMajor03 w no s := by
  unfold decMajor03 runMajor03
  repeat' (first | rfl | split)

/-- The instructions of `decMajor04`. -/
def runMajor04 (w : BitVec 32) (_no : State → Out) (s : State) : Out :=
  execOrImm (imm15 w) (fA w) (fD w) s
/-- They are those that it decodes. -/
theorem runMajor04_eq (w : BitVec 32) (no : State → Out) (s : State) : runOpt (decMajor04 w) no s = runMajor04 w no s := by
  unfold decMajor04 runMajor04
  repeat' (first | rfl | split)

/-- The instructions of `decMajor05`. -/
def runMajor05 (w : BitVec 32) (_no : State → Out) (s : State) : Out :=
  execXorImm (imm15 w) (fA w) (fD w) s
/-- They are those that it decodes. -/
theorem runMajor05_eq (w : BitVec 32) (no : State → Out) (s : State) : runOpt (decMajor05 w) no s = runMajor05 w no s := by
  unfold decMajor05 runMajor05
  repeat' (first | rfl | split)

/-- The instructions of `decMajor06`. -/
def runMajor06 (w : BitVec 32) (no : State → Out) (s : State) : Out :=
  if shZ w = 0#7 ∧ shK w = 0#2 then execShlImm (shS w) (fA w) (fD w) s
  else if shZ w = 0#7 ∧ shK w = 1#2 then execShrImm (shS w) (fA w) (fD w) s
  else if shZ w = 0#7 ∧ shK w = 2#2 then execShaImm (shS w) (fA w) (fD w) s
  else no s
/-- They are those that it decodes. -/
theorem runMajor06_eq (w : BitVec 32) (no : State → Out) (s : State) : runOpt (decMajor06 w) no s = runMajor06 w no s := by
  unfold decMajor06 runMajor06
  repeat' (first | rfl | split)

/-- The instructions of `decMajor07`. -/
def runMajor07 (w : BitVec 32) (_no : State → Out) (s : State) : Out :=
  execSltImm (imm15 w) (fA w) (fD w) s
/-- They are those that it decodes. -/
theorem runMajor07_eq (w : BitVec 32) (no : State → Out) (s : State) : runOpt (decMajor07 w) no s = runMajor07 w no s := by
  unfold decMajor07 runMajor07
  repeat' (first | rfl | split)

/-- The instructions of `decMajor08`. -/
def runMajor08 (w : BitVec 32) (_no : State → Out) (s : State) : Out :=
  execLui (imm20 w) (fD w) s
/-- They are those that it decodes. -/
theorem runMajor08_eq (w : BitVec 32) (no : State → Out) (s : State) : runOpt (decMajor08 w) no s = runMajor08 w no s := by
  unfold decMajor08 runMajor08
  repeat' (first | rfl | split)

/-- The instructions of `decMajor09`. -/
def runMajor09 (w : BitVec 32) (_no : State → Out) (s : State) : Out :=
  execAddpc (imm20 w) (fD w) s
/-- They are those that it decodes. -/
theorem runMajor09_eq (w : BitVec 32) (no : State → Out) (s : State) : runOpt (decMajor09 w) no s = runMajor09 w no s := by
  unfold decMajor09 runMajor09
  repeat' (first | rfl | split)

/-- The instructions of `decMajor0A`. -/
def runMajor0A (w : BitVec 32) (no : State → Out) (s : State) : Out :=
  match fF w with
  | 0#6 => if (fD w).extractLsb' 3 2 = 0#2 then (if guardOk (fG w) && predOk ((fD w).extractLsb' 0 3) then execPcmpEq (fG w) (fB w) (fA w) ((fD w).extractLsb' 0 3) s else no s) else no s
  | 1#6 => if (fD w).extractLsb' 3 2 = 0#2 then (if guardOk (fG w) && predOk ((fD w).extractLsb' 0 3) then execPcmpNe (fG w) (fB w) (fA w) ((fD w).extractLsb' 0 3) s else no s) else no s
  | 2#6 => if (fD w).extractLsb' 3 2 = 0#2 then (if guardOk (fG w) && predOk ((fD w).extractLsb' 0 3) then execPcmpLt (fG w) (fB w) (fA w) ((fD w).extractLsb' 0 3) s else no s) else no s
  | 3#6 => if (fD w).extractLsb' 3 2 = 0#2 then (if guardOk (fG w) && predOk ((fD w).extractLsb' 0 3) then execPcmpGe (fG w) (fB w) (fA w) ((fD w).extractLsb' 0 3) s else no s) else no s
  | 4#6 => if (fD w).extractLsb' 3 2 = 0#2 then (if guardOk (fG w) && predOk ((fD w).extractLsb' 0 3) then execPcmpLtU (fG w) (fB w) (fA w) ((fD w).extractLsb' 0 3) s else no s) else no s
  | 5#6 => if (fD w).extractLsb' 3 2 = 0#2 then (if guardOk (fG w) && predOk ((fD w).extractLsb' 0 3) then execPcmpGeU (fG w) (fB w) (fA w) ((fD w).extractLsb' 0 3) s else no s) else no s
  | 8#6 => if (fB w).extractLsb' 3 2 = 0#2 ∧ (fA w).extractLsb' 3 2 = 0#2 ∧ (fD w).extractLsb' 3 2 = 0#2 then (if guardOk (fG w) && predOk ((fD w).extractLsb' 0 3) then execPand (fG w) ((fB w).extractLsb' 0 3) ((fA w).extractLsb' 0 3) ((fD w).extractLsb' 0 3) s else no s) else no s
  | 9#6 => if (fB w).extractLsb' 3 2 = 0#2 ∧ (fA w).extractLsb' 3 2 = 0#2 ∧ (fD w).extractLsb' 3 2 = 0#2 then (if guardOk (fG w) && predOk ((fD w).extractLsb' 0 3) then execPor (fG w) ((fB w).extractLsb' 0 3) ((fA w).extractLsb' 0 3) ((fD w).extractLsb' 0 3) s else no s) else no s
  | 10#6 => if (fB w).extractLsb' 3 2 = 0#2 ∧ (fA w).extractLsb' 3 2 = 0#2 ∧ (fD w).extractLsb' 3 2 = 0#2 then (if guardOk (fG w) && predOk ((fD w).extractLsb' 0 3) then execPxor (fG w) ((fB w).extractLsb' 0 3) ((fA w).extractLsb' 0 3) ((fD w).extractLsb' 0 3) s else no s) else no s
  | 11#6 => if (fB w).extractLsb' 3 2 = 0#2 ∧ (fA w).extractLsb' 3 2 = 0#2 ∧ (fD w).extractLsb' 3 2 = 0#2 then (if guardOk (fG w) && predOk ((fD w).extractLsb' 0 3) then execPandn (fG w) ((fB w).extractLsb' 0 3) ((fA w).extractLsb' 0 3) ((fD w).extractLsb' 0 3) s else no s) else no s
  | 12#6 => if fB w = 0#5 ∧ (fA w).extractLsb' 3 2 = 0#2 ∧ (fD w).extractLsb' 3 2 = 0#2 then (if guardOk (fG w) && predOk ((fD w).extractLsb' 0 3) then execPnot (fG w) ((fA w).extractLsb' 0 3) ((fD w).extractLsb' 0 3) s else no s) else no s
  | 13#6 => if fB w = 0#5 ∧ (fA w).extractLsb' 3 2 = 0#2 ∧ (fD w).extractLsb' 3 2 = 0#2 then (if guardOk (fG w) && predOk ((fD w).extractLsb' 0 3) then execPmov (fG w) ((fA w).extractLsb' 0 3) ((fD w).extractLsb' 0 3) s else no s) else no s
  | 14#6 => if fB w = 0#5 ∧ (fA w).extractLsb' 3 2 = 0#2 then (if guardOk (fG w) then execPcnt (fG w) ((fA w).extractLsb' 0 3) (fD w) s else no s) else no s
  | 15#6 => if fB w = 0#5 ∧ (fA w).extractLsb' 3 2 = 0#2 then (if guardOk (fG w) then execPfirst (fG w) ((fA w).extractLsb' 0 3) (fD w) s else no s) else no s
  | 16#6 => if fB w = 0#5 ∧ (fA w).extractLsb' 3 2 = 0#2 then (if guardOk (fG w) then execPall (fG w) ((fA w).extractLsb' 0 3) (fD w) s else no s) else no s
  | 17#6 => if fB w = 0#5 ∧ (fA w).extractLsb' 3 2 = 0#2 then (if guardOk (fG w) then execPnone (fG w) ((fA w).extractLsb' 0 3) (fD w) s else no s) else no s
  | _ => no s
/-- They are those that it decodes. -/
theorem runMajor0A_eq (w : BitVec 32) (no : State → Out) (s : State) : runOpt (decMajor0A w) no s = runMajor0A w no s := by
  unfold decMajor0A runMajor0A
  first
    | rfl
    | (split
       all_goals first
         | rfl
         | (rename_i h; simp only [h]; first | rfl | (split <;> first | rfl | (split <;> first | rfl | (split <;> rfl))))
         | (repeat' (first | rfl | contradiction | split)))

/-- The instructions of `decMajor0B`. -/
def runMajor0B (w : BitVec 32) (no : State → Out) (s : State) : Out :=
  (if decide ((cond w).toNat ≤ 5) then execB (off11 w) (likely w) (cond w) (fA w) (fD w) s else no s)
/-- They are those that it decodes. -/
theorem runMajor0B_eq (w : BitVec 32) (no : State → Out) (s : State) : runOpt (decMajor0B w) no s = runMajor0B w no s := by
  unfold decMajor0B runMajor0B
  repeat' (first | rfl | split)

/-- The instructions of `decMajor0C`. -/
def runMajor0C (w : BitVec 32) (no : State → Out) (s : State) : Out :=
  if cond w = 0#3 ∧ (fA w).extractLsb' 4 1 = 0#1 ∧ (fA w).extractLsb' 0 2 = 0#2 ∧ (fD w).extractLsb' 3 2 = 0#2 then execBpAny (off11 w) (likely w) ((fA w).extractLsb' 2 2) ((fD w).extractLsb' 0 3) s
  else if cond w = 0#3 ∧ (fA w).extractLsb' 4 1 = 0#1 ∧ (fA w).extractLsb' 0 2 = 1#2 ∧ (fD w).extractLsb' 3 2 = 0#2 then execBpAll (off11 w) (likely w) ((fA w).extractLsb' 2 2) ((fD w).extractLsb' 0 3) s
  else if cond w = 0#3 ∧ (fA w).extractLsb' 4 1 = 0#1 ∧ (fA w).extractLsb' 0 2 = 2#2 ∧ (fD w).extractLsb' 3 2 = 0#2 then execBpNone (off11 w) (likely w) ((fA w).extractLsb' 2 2) ((fD w).extractLsb' 0 3) s
  else no s
/-- They are those that it decodes. -/
theorem runMajor0C_eq (w : BitVec 32) (no : State → Out) (s : State) : runOpt (decMajor0C w) no s = runMajor0C w no s := by
  unfold decMajor0C runMajor0C
  repeat' (first | rfl | split)

/-- The instructions of `decMajor0D`. -/
def runMajor0D (w : BitVec 32) (_no : State → Out) (s : State) : Out :=
  execJal (imm20 w) (fD w) s
/-- They are those that it decodes. -/
theorem runMajor0D_eq (w : BitVec 32) (no : State → Out) (s : State) : runOpt (decMajor0D w) no s = runMajor0D w no s := by
  unfold decMajor0D runMajor0D
  repeat' (first | rfl | split)

/-- The instructions of `decMajor0E`. -/
def runMajor0E (w : BitVec 32) (no : State → Out) (s : State) : Out :=
  match fF w with
  | 0#6 => if fG w = 0#4 ∧ fB w = 0#5 then execJr (fA w) (fD w) s else no s
  | 1#6 => if (fG w).extractLsb' 3 1 = 0#1 ∧ (fD w).extractLsb' 4 1 = 0#1 then execRep ((fG w).extractLsb' 0 3) (fB w) (fA w) ((fD w).extractLsb' 0 4) s else no s
  | 2#6 => if fG w = 0#4 ∧ fB w = 0#5 ∧ (fA w).extractLsb' 3 2 = 0#2 ∧ (fD w).extractLsb' 3 2 = 0#2 then execSetk ((fA w).extractLsb' 0 3) ((fD w).extractLsb' 0 3) s else no s
  | 3#6 => if fG w = 0#4 ∧ fB w = 0#5 ∧ fA w = 0#5 ∧ (fD w).extractLsb' 3 2 = 0#2 then execPendk ((fD w).extractLsb' 0 3) s else no s
  | 4#6 => if fG w = 0#4 ∧ fB w = 0#5 ∧ fA w = 0#5 ∧ (fD w).extractLsb' 3 2 = 0#2 then execQflush ((fD w).extractLsb' 0 3) s else no s
  | 5#6 => if fG w = 0#4 ∧ fB w = 0#5 ∧ (fA w).extractLsb' 3 2 = 0#2 then execQcnt ((fA w).extractLsb' 0 3) (fD w) s else no s
  | 6#6 => if fG w = 0#4 ∧ fB w = 0#5 ∧ fD w = 0#5 then execGang (fA w) s else no s
  | 7#6 => if fG w = 0#4 ∧ fB w = 0#5 ∧ fA w = 0#5 ∧ fD w = 0#5 then execUngang s else no s
  | _ => no s
/-- They are those that it decodes. -/
theorem runMajor0E_eq (w : BitVec 32) (no : State → Out) (s : State) : runOpt (decMajor0E w) no s = runMajor0E w no s := by
  unfold decMajor0E runMajor0E
  first
    | rfl
    | (split
       all_goals first
         | rfl
         | (rename_i h; simp only [h]; first | rfl | (split <;> first | rfl | (split <;> first | rfl | (split <;> rfl))))
         | (repeat' (first | rfl | contradiction | split)))

/-- The instructions of `decMajor0F`. -/
def runMajor0F (w : BitVec 32) (no : State → Out) (s : State) : Out :=
  if loopZ w = 0#5 then (if (len14 w) != 0#14 then execLoop (len14 w) (loopR w) (loopId w) s else no s)
  else no s
/-- They are those that it decodes. -/
theorem runMajor0F_eq (w : BitVec 32) (no : State → Out) (s : State) : runOpt (decMajor0F w) no s = runMajor0F w no s := by
  unfold decMajor0F runMajor0F
  repeat' (first | rfl | split)

/-- The instructions of `decMajor10`. -/
def runMajor10 (w : BitVec 32) (no : State → Out) (s : State) : Out :=
  (if (len14 w) != 0#14 then execLoopi (len14 w) (loopC w) (loopId w) s else no s)
/-- They are those that it decodes. -/
theorem runMajor10_eq (w : BitVec 32) (no : State → Out) (s : State) : runOpt (decMajor10 w) no s = runMajor10 w no s := by
  unfold decMajor10 runMajor10
  repeat' (first | rfl | split)

/-- The instructions of `decMajor11`. -/
def runMajor11 (w : BitVec 32) (no : State → Out) (s : State) : Out :=
  (if decide ((cond w).toNat ≤ 5) then execBrd (off11 w) (likely w) (cond w) (fA w) (fD w) s else no s)
/-- They are those that it decodes. -/
theorem runMajor11_eq (w : BitVec 32) (no : State → Out) (s : State) : runOpt (decMajor11 w) no s = runMajor11 w no s := by
  unfold decMajor11 runMajor11
  repeat' (first | rfl | split)

/-- The instructions of `decMajor12`. -/
def runMajor12 (w : BitVec 32) (no : State → Out) (s : State) : Out :=
  if (fD w).extractLsb' 2 3 = 7#3 then (if decide ((cond w).toNat ≤ 5) then execBrq (off11 w) (likely w) (cond w) (fA w) ((fD w).extractLsb' 0 2) s else no s)
  else no s
/-- They are those that it decodes. -/
theorem runMajor12_eq (w : BitVec 32) (no : State → Out) (s : State) : runOpt (decMajor12 w) no s = runMajor12 w no s := by
  unfold decMajor12 runMajor12
  repeat' (first | rfl | split)

/-- The instructions of `decMajor13`. -/
def runMajor13 (w : BitVec 32) (no : State → Out) (s : State) : Out :=
  if fD w = 0#5 then execRejoin (imm20 w) s
  else no s
/-- They are those that it decodes. -/
theorem runMajor13_eq (w : BitVec 32) (no : State → Out) (s : State) : runOpt (decMajor13 w) no s = runMajor13 w no s := by
  unfold decMajor13 runMajor13
  repeat' (first | rfl | split)

/-- The instructions of `decMajor18`. -/
def runMajor18 (w : BitVec 32) (no : State → Out) (s : State) : Out :=
  (if decide ((size w).toNat ≤ 6) then execLd (off10 w) (qual w) (size w) (fA w) (fD w) s else no s)
/-- They are those that it decodes. -/
theorem runMajor18_eq (w : BitVec 32) (no : State → Out) (s : State) : runOpt (decMajor18 w) no s = runMajor18 w no s := by
  unfold decMajor18 runMajor18
  repeat' (first | rfl | split)

/-- The instructions of `decMajor19`. -/
def runMajor19 (w : BitVec 32) (no : State → Out) (s : State) : Out :=
  (if decide ((size w).toNat ≤ 3) && !(qual w).getLsbD 0 then execSt (off10 w) (qual w) (size w) (fA w) (fD w) s else no s)
/-- They are those that it decodes. -/
theorem runMajor19_eq (w : BitVec 32) (no : State → Out) (s : State) : runOpt (decMajor19 w) no s = runMajor19 w no s := by
  unfold decMajor19 runMajor19
  repeat' (first | rfl | split)

/-- The instructions of `decMajor1A`. -/
def runMajor1A (w : BitVec 32) (no : State → Out) (s : State) : Out :=
  if qual w = 0#2 then (if decide ((size w).toNat ≤ 6) then execLdl (off10 w) (size w) (fA w) (fD w) s else no s)
  else no s
/-- They are those that it decodes. -/
theorem runMajor1A_eq (w : BitVec 32) (no : State → Out) (s : State) : runOpt (decMajor1A w) no s = runMajor1A w no s := by
  unfold decMajor1A runMajor1A
  repeat' (first | rfl | split)

/-- The instructions of `decMajor1B`. -/
def runMajor1B (w : BitVec 32) (no : State → Out) (s : State) : Out :=
  if qual w = 0#2 ∧ (size w).extractLsb' 2 1 = 0#1 then execStl (off10 w) ((size w).extractLsb' 0 2) (fA w) (fD w) s
  else no s
/-- They are those that it decodes. -/
theorem runMajor1B_eq (w : BitVec 32) (no : State → Out) (s : State) : runOpt (decMajor1B w) no s = runMajor1B w no s := by
  unfold decMajor1B runMajor1B
  repeat' (first | rfl | split)

/-- The instructions of `decMajor1C`. -/
def runMajor1C (w : BitVec 32) (no : State → Out) (s : State) : Out :=
  if size w = 0#3 then execVld (off10 w) (qual w) (fA w) (fD w) s
  else no s
/-- They are those that it decodes. -/
theorem runMajor1C_eq (w : BitVec 32) (no : State → Out) (s : State) : runOpt (decMajor1C w) no s = runMajor1C w no s := by
  unfold decMajor1C runMajor1C
  repeat' (first | rfl | split)

/-- The instructions of `decMajor1D`. -/
def runMajor1D (w : BitVec 32) (no : State → Out) (s : State) : Out :=
  if size w = 0#3 then (if !(qual w).getLsbD 0 then execVst (off10 w) (qual w) (fA w) (fD w) s else no s)
  else no s
/-- They are those that it decodes. -/
theorem runMajor1D_eq (w : BitVec 32) (no : State → Out) (s : State) : runOpt (decMajor1D w) no s = runMajor1D w no s := by
  unfold decMajor1D runMajor1D
  repeat' (first | rfl | split)

/-- The instructions of `decMajor1E`. -/
def runMajor1E (w : BitVec 32) (no : State → Out) (s : State) : Out :=
  if qual w = 0#2 ∧ size w = 0#3 then execVldl (off10 w) (fA w) (fD w) s
  else no s
/-- They are those that it decodes. -/
theorem runMajor1E_eq (w : BitVec 32) (no : State → Out) (s : State) : runOpt (decMajor1E w) no s = runMajor1E w no s := by
  unfold decMajor1E runMajor1E
  repeat' (first | rfl | split)

/-- The instructions of `decMajor1F`. -/
def runMajor1F (w : BitVec 32) (no : State → Out) (s : State) : Out :=
  if qual w = 0#2 ∧ size w = 0#3 then execVstl (off10 w) (fA w) (fD w) s
  else no s
/-- They are those that it decodes. -/
theorem runMajor1F_eq (w : BitVec 32) (no : State → Out) (s : State) : runOpt (decMajor1F w) no s = runMajor1F w no s := by
  unfold decMajor1F runMajor1F
  repeat' (first | rfl | split)

/-- The instructions of `decMajor20`. -/
def runMajor20 (w : BitVec 32) (no : State → Out) (s : State) : Out :=
  match fF w with
  | 0#6 => (if guardOk (fG w) && scopeOk (fB w) then execLda (fG w) (fB w) (fA w) (fD w) s else no s)
  | 1#6 => (if guardOk (fG w) && scopeOk (fD w) then execStr (fG w) (fB w) (fA w) (fD w) s else no s)
  | 2#6 => (if guardOk (fG w) then execVlds (fG w) (fB w) (fA w) (fD w) s else no s)
  | 3#6 => (if guardOk (fG w) then execVsts (fG w) (fB w) (fA w) (fD w) s else no s)
  | 4#6 => (if guardOk (fG w) then execVgathW (fG w) (fB w) (fA w) (fD w) s else no s)
  | 5#6 => (if guardOk (fG w) then execVgathD (fG w) (fB w) (fA w) (fD w) s else no s)
  | 6#6 => (if guardOk (fG w) then execVscatW (fG w) (fB w) (fA w) (fD w) s else no s)
  | 7#6 => (if guardOk (fG w) then execVscatD (fG w) (fB w) (fA w) (fD w) s else no s)
  | 8#6 => if fD w = 0#5 then (if guardOk (fG w) then execPref (fG w) (fB w) (fA w) s else no s) else no s
  | 9#6 => if (fB w).extractLsb' 4 1 = 0#1 ∧ fA w = 0#5 then (if guardOk (fG w) && scopeOk (fD w) then execFence (fG w) ((fB w).extractLsb' 0 4) (fD w) s else no s) else no s
  | 10#6 => if fG w = 0#4 ∧ fB w = 0#5 ∧ fA w = 0#5 ∧ fD w = 0#5 then execL1gen s else no s
  | _ => no s
/-- They are those that it decodes. -/
theorem runMajor20_eq (w : BitVec 32) (no : State → Out) (s : State) : runOpt (decMajor20 w) no s = runMajor20 w no s := by
  unfold decMajor20 runMajor20
  first
    | rfl
    | (split
       all_goals first
         | rfl
         | (rename_i h; simp only [h]; first | rfl | (split <;> first | rfl | (split <;> first | rfl | (split <;> rfl))))
         | (repeat' (first | rfl | contradiction | split)))

/-- The instructions of `decMajor21`. -/
def runMajor21 (w : BitVec 32) (no : State → Out) (s : State) : Out :=
  match fF w with
  | 0#6 => if fB w = 0#5 then (if guardOk (fG w) && pairOk (fD w) then execLdv (fG w) (fA w) (fD w) s else no s) else no s
  | 1#6 => if fB w = 0#5 then (if guardOk (fG w) && pairOk (fD w) then execLdvs (fG w) (fA w) (fD w) s else no s) else no s
  | 2#6 => if fB w = 0#5 ∧ fA w = 0#5 then (if guardOk (fG w) then execValset (fG w) (fD w) s else no s) else no s
  | 3#6 => if fB w = 0#5 ∧ fA w = 0#5 ∧ fD w = 0#5 then (if guardOk (fG w) then execVclr (fG w) s else no s) else no s
  | 4#6 => (if guardOk (fG w) && pairOk (fD w) then execVcas (fG w) (fB w) (fA w) (fD w) s else no s)
  | 5#6 => if fB w = 0#5 then (if guardOk (fG w) then execLver (fG w) (fA w) (fD w) s else no s) else no s
  | 6#6 => if (fD w).extractLsb' 3 2 = 0#2 then (if guardOk (fG w) then execL2ret (fG w) (fB w) (fA w) ((fD w).extractLsb' 0 3) s else no s) else no s
  | 7#6 => if fB w = 0#5 ∧ fA w = 0#5 ∧ (fD w).extractLsb' 3 2 = 0#2 then (if guardOk (fG w) then execUnpin (fG w) ((fD w).extractLsb' 0 3) s else no s) else no s
  | 8#6 => if fA w = 0#5 then (if guardOk (fG w) then execL2stat (fG w) (fB w) (fD w) s else no s) else no s
  | _ => no s
/-- They are those that it decodes. -/
theorem runMajor21_eq (w : BitVec 32) (no : State → Out) (s : State) : runOpt (decMajor21 w) no s = runMajor21 w no s := by
  unfold decMajor21 runMajor21
  first
    | rfl
    | (split
       all_goals first
         | rfl
         | (rename_i h; simp only [h]; first | rfl | (split <;> first | rfl | (split <;> first | rfl | (split <;> rfl))))
         | (repeat' (first | rfl | contradiction | split)))

/-- The instructions of `decMajor22`. -/
def runMajor22 (w : BitVec 32) (no : State → Out) (s : State) : Out :=
  match fF w with
  | 0#6 => execAmoAdd ((fG w).extractLsb' 2 2) ((fG w).extractLsb' 0 2) (fB w) (fA w) (fD w) s
  | 1#6 => execAmoAnd ((fG w).extractLsb' 2 2) ((fG w).extractLsb' 0 2) (fB w) (fA w) (fD w) s
  | 2#6 => execAmoOr ((fG w).extractLsb' 2 2) ((fG w).extractLsb' 0 2) (fB w) (fA w) (fD w) s
  | 3#6 => execAmoXor ((fG w).extractLsb' 2 2) ((fG w).extractLsb' 0 2) (fB w) (fA w) (fD w) s
  | 4#6 => execAmoMin ((fG w).extractLsb' 2 2) ((fG w).extractLsb' 0 2) (fB w) (fA w) (fD w) s
  | 5#6 => execAmoMax ((fG w).extractLsb' 2 2) ((fG w).extractLsb' 0 2) (fB w) (fA w) (fD w) s
  | 6#6 => execAmoMinU ((fG w).extractLsb' 2 2) ((fG w).extractLsb' 0 2) (fB w) (fA w) (fD w) s
  | 7#6 => execAmoMaxU ((fG w).extractLsb' 2 2) ((fG w).extractLsb' 0 2) (fB w) (fA w) (fD w) s
  | 8#6 => execAmoSwap ((fG w).extractLsb' 2 2) ((fG w).extractLsb' 0 2) (fB w) (fA w) (fD w) s
  | 9#6 => execAmoFadd ((fG w).extractLsb' 2 2) ((fG w).extractLsb' 0 2) (fB w) (fA w) (fD w) s
  | 10#6 => execAmoFmin ((fG w).extractLsb' 2 2) ((fG w).extractLsb' 0 2) (fB w) (fA w) (fD w) s
  | 11#6 => execAmoFmax ((fG w).extractLsb' 2 2) ((fG w).extractLsb' 0 2) (fB w) (fA w) (fD w) s
  | 16#6 => execAmoAddW ((fG w).extractLsb' 2 2) ((fG w).extractLsb' 0 2) (fB w) (fA w) (fD w) s
  | 17#6 => execAmoAndW ((fG w).extractLsb' 2 2) ((fG w).extractLsb' 0 2) (fB w) (fA w) (fD w) s
  | 18#6 => execAmoOrW ((fG w).extractLsb' 2 2) ((fG w).extractLsb' 0 2) (fB w) (fA w) (fD w) s
  | 19#6 => execAmoXorW ((fG w).extractLsb' 2 2) ((fG w).extractLsb' 0 2) (fB w) (fA w) (fD w) s
  | 20#6 => execAmoMinW ((fG w).extractLsb' 2 2) ((fG w).extractLsb' 0 2) (fB w) (fA w) (fD w) s
  | 21#6 => execAmoMaxW ((fG w).extractLsb' 2 2) ((fG w).extractLsb' 0 2) (fB w) (fA w) (fD w) s
  | 22#6 => execAmoMinUW ((fG w).extractLsb' 2 2) ((fG w).extractLsb' 0 2) (fB w) (fA w) (fD w) s
  | 23#6 => execAmoMaxUW ((fG w).extractLsb' 2 2) ((fG w).extractLsb' 0 2) (fB w) (fA w) (fD w) s
  | 24#6 => execAmoSwapW ((fG w).extractLsb' 2 2) ((fG w).extractLsb' 0 2) (fB w) (fA w) (fD w) s
  | 28#6 => execCas ((fG w).extractLsb' 2 2) ((fG w).extractLsb' 0 2) (fB w) (fA w) (fD w) s
  | 29#6 => execCasW ((fG w).extractLsb' 2 2) ((fG w).extractLsb' 0 2) (fB w) (fA w) (fD w) s
  | 32#6 => if fD w = 0#5 then (if !((fG w).extractLsb' 0 2).getLsbD 0 then execAredAdd ((fG w).extractLsb' 2 2) ((fG w).extractLsb' 0 2) (fB w) (fA w) s else no s) else no s
  | 33#6 => if fD w = 0#5 then (if !((fG w).extractLsb' 0 2).getLsbD 0 then execAredAnd ((fG w).extractLsb' 2 2) ((fG w).extractLsb' 0 2) (fB w) (fA w) s else no s) else no s
  | 34#6 => if fD w = 0#5 then (if !((fG w).extractLsb' 0 2).getLsbD 0 then execAredOr ((fG w).extractLsb' 2 2) ((fG w).extractLsb' 0 2) (fB w) (fA w) s else no s) else no s
  | 35#6 => if fD w = 0#5 then (if !((fG w).extractLsb' 0 2).getLsbD 0 then execAredXor ((fG w).extractLsb' 2 2) ((fG w).extractLsb' 0 2) (fB w) (fA w) s else no s) else no s
  | 36#6 => if fD w = 0#5 then (if !((fG w).extractLsb' 0 2).getLsbD 0 then execAredMin ((fG w).extractLsb' 2 2) ((fG w).extractLsb' 0 2) (fB w) (fA w) s else no s) else no s
  | 37#6 => if fD w = 0#5 then (if !((fG w).extractLsb' 0 2).getLsbD 0 then execAredMax ((fG w).extractLsb' 2 2) ((fG w).extractLsb' 0 2) (fB w) (fA w) s else no s) else no s
  | 38#6 => if fD w = 0#5 then (if !((fG w).extractLsb' 0 2).getLsbD 0 then execAredMinU ((fG w).extractLsb' 2 2) ((fG w).extractLsb' 0 2) (fB w) (fA w) s else no s) else no s
  | 39#6 => if fD w = 0#5 then (if !((fG w).extractLsb' 0 2).getLsbD 0 then execAredMaxU ((fG w).extractLsb' 2 2) ((fG w).extractLsb' 0 2) (fB w) (fA w) s else no s) else no s
  | 40#6 => if fD w = 0#5 then (if !((fG w).extractLsb' 0 2).getLsbD 0 then execAredSwap ((fG w).extractLsb' 2 2) ((fG w).extractLsb' 0 2) (fB w) (fA w) s else no s) else no s
  | 41#6 => if fD w = 0#5 then (if !((fG w).extractLsb' 0 2).getLsbD 0 then execAredFadd ((fG w).extractLsb' 2 2) ((fG w).extractLsb' 0 2) (fB w) (fA w) s else no s) else no s
  | 42#6 => if fD w = 0#5 then (if !((fG w).extractLsb' 0 2).getLsbD 0 then execAredFmin ((fG w).extractLsb' 2 2) ((fG w).extractLsb' 0 2) (fB w) (fA w) s else no s) else no s
  | 43#6 => if fD w = 0#5 then (if !((fG w).extractLsb' 0 2).getLsbD 0 then execAredFmax ((fG w).extractLsb' 2 2) ((fG w).extractLsb' 0 2) (fB w) (fA w) s else no s) else no s
  | 48#6 => if fD w = 0#5 then (if !((fG w).extractLsb' 0 2).getLsbD 0 then execAredAddW ((fG w).extractLsb' 2 2) ((fG w).extractLsb' 0 2) (fB w) (fA w) s else no s) else no s
  | 49#6 => if fD w = 0#5 then (if !((fG w).extractLsb' 0 2).getLsbD 0 then execAredAndW ((fG w).extractLsb' 2 2) ((fG w).extractLsb' 0 2) (fB w) (fA w) s else no s) else no s
  | 50#6 => if fD w = 0#5 then (if !((fG w).extractLsb' 0 2).getLsbD 0 then execAredOrW ((fG w).extractLsb' 2 2) ((fG w).extractLsb' 0 2) (fB w) (fA w) s else no s) else no s
  | 51#6 => if fD w = 0#5 then (if !((fG w).extractLsb' 0 2).getLsbD 0 then execAredXorW ((fG w).extractLsb' 2 2) ((fG w).extractLsb' 0 2) (fB w) (fA w) s else no s) else no s
  | 52#6 => if fD w = 0#5 then (if !((fG w).extractLsb' 0 2).getLsbD 0 then execAredMinW ((fG w).extractLsb' 2 2) ((fG w).extractLsb' 0 2) (fB w) (fA w) s else no s) else no s
  | 53#6 => if fD w = 0#5 then (if !((fG w).extractLsb' 0 2).getLsbD 0 then execAredMaxW ((fG w).extractLsb' 2 2) ((fG w).extractLsb' 0 2) (fB w) (fA w) s else no s) else no s
  | 54#6 => if fD w = 0#5 then (if !((fG w).extractLsb' 0 2).getLsbD 0 then execAredMinUW ((fG w).extractLsb' 2 2) ((fG w).extractLsb' 0 2) (fB w) (fA w) s else no s) else no s
  | 55#6 => if fD w = 0#5 then (if !((fG w).extractLsb' 0 2).getLsbD 0 then execAredMaxUW ((fG w).extractLsb' 2 2) ((fG w).extractLsb' 0 2) (fB w) (fA w) s else no s) else no s
  | 56#6 => if fD w = 0#5 then (if !((fG w).extractLsb' 0 2).getLsbD 0 then execAredSwapW ((fG w).extractLsb' 2 2) ((fG w).extractLsb' 0 2) (fB w) (fA w) s else no s) else no s
  | _ => no s
/-- They are those that it decodes. -/
theorem runMajor22_eq (w : BitVec 32) (no : State → Out) (s : State) : runOpt (decMajor22 w) no s = runMajor22 w no s := by
  unfold decMajor22 runMajor22
  first
    | rfl
    | (split
       all_goals first
         | rfl
         | (rename_i h; simp only [h]; first | rfl | (split <;> first | rfl | (split <;> first | rfl | (split <;> rfl))))
         | (repeat' (first | rfl | contradiction | split)))

/-- The instructions of `decMajor23`. -/
def runMajor23 (w : BitVec 32) (no : State → Out) (s : State) : Out :=
  match fF w with
  | 0#6 => (if guardOk (fG w) then execVamoAdd (fG w) (fB w) (fA w) (fD w) s else no s)
  | 1#6 => (if guardOk (fG w) then execVamoAnd (fG w) (fB w) (fA w) (fD w) s else no s)
  | 2#6 => (if guardOk (fG w) then execVamoOr (fG w) (fB w) (fA w) (fD w) s else no s)
  | 3#6 => (if guardOk (fG w) then execVamoXor (fG w) (fB w) (fA w) (fD w) s else no s)
  | 4#6 => (if guardOk (fG w) then execVamoMin (fG w) (fB w) (fA w) (fD w) s else no s)
  | 5#6 => (if guardOk (fG w) then execVamoMax (fG w) (fB w) (fA w) (fD w) s else no s)
  | 6#6 => (if guardOk (fG w) then execVamoMinU (fG w) (fB w) (fA w) (fD w) s else no s)
  | 7#6 => (if guardOk (fG w) then execVamoMaxU (fG w) (fB w) (fA w) (fD w) s else no s)
  | 8#6 => (if guardOk (fG w) then execVamoSwap (fG w) (fB w) (fA w) (fD w) s else no s)
  | 9#6 => (if guardOk (fG w) then execVamoFadd (fG w) (fB w) (fA w) (fD w) s else no s)
  | 10#6 => (if guardOk (fG w) then execVamoFmin (fG w) (fB w) (fA w) (fD w) s else no s)
  | 11#6 => (if guardOk (fG w) then execVamoFmax (fG w) (fB w) (fA w) (fD w) s else no s)
  | 16#6 => (if guardOk (fG w) then execVaredAdd (fG w) (fB w) (fA w) (fD w) s else no s)
  | 17#6 => (if guardOk (fG w) then execVaredAnd (fG w) (fB w) (fA w) (fD w) s else no s)
  | 18#6 => (if guardOk (fG w) then execVaredOr (fG w) (fB w) (fA w) (fD w) s else no s)
  | 19#6 => (if guardOk (fG w) then execVaredXor (fG w) (fB w) (fA w) (fD w) s else no s)
  | 20#6 => (if guardOk (fG w) then execVaredMin (fG w) (fB w) (fA w) (fD w) s else no s)
  | 21#6 => (if guardOk (fG w) then execVaredMax (fG w) (fB w) (fA w) (fD w) s else no s)
  | 22#6 => (if guardOk (fG w) then execVaredMinU (fG w) (fB w) (fA w) (fD w) s else no s)
  | 23#6 => (if guardOk (fG w) then execVaredMaxU (fG w) (fB w) (fA w) (fD w) s else no s)
  | 24#6 => (if guardOk (fG w) then execVaredSwap (fG w) (fB w) (fA w) (fD w) s else no s)
  | 25#6 => (if guardOk (fG w) then execVaredFadd (fG w) (fB w) (fA w) (fD w) s else no s)
  | 26#6 => (if guardOk (fG w) then execVaredFmin (fG w) (fB w) (fA w) (fD w) s else no s)
  | 27#6 => (if guardOk (fG w) then execVaredFmax (fG w) (fB w) (fA w) (fD w) s else no s)
  | 48#6 => if fG w = 0#4 ∧ fB w = 0#5 ∧ (fD w).extractLsb' 4 1 = 0#1 then (if slotOk ((fD w).extractLsb' 0 4) then execNmop (fA w) ((fD w).extractLsb' 0 4) s else no s) else no s
  | 49#6 => if fG w = 0#4 ∧ fB w = 0#5 ∧ fD w = 0#5 then execNmwait (fA w) s else no s
  | _ => no s
/-- They are those that it decodes. -/
theorem runMajor23_eq (w : BitVec 32) (no : State → Out) (s : State) : runOpt (decMajor23 w) no s = runMajor23 w no s := by
  unfold decMajor23 runMajor23
  first
    | rfl
    | (split
       all_goals first
         | rfl
         | (rename_i h; simp only [h]; first | rfl | (split <;> first | rfl | (split <;> first | rfl | (split <;> rfl))))
         | (repeat' (first | rfl | contradiction | split)))

/-- The instructions of `decMajor24`. -/
def runMajor24 (w : BitVec 32) (no : State → Out) (s : State) : Out :=
  match fF w with
  | 0#6 => (if (!((fG w).extractLsb' 0 2).getLsbD 0 || (fD w) != 0#5) then execCadd ((fG w).extractLsb' 2 2) ((fG w).extractLsb' 0 2) (fB w) (fA w) (fD w) s else no s)
  | 1#6 => if fG w = 0#4 ∧ fD w = 0#5 then execCwait (fB w) (fA w) s else no s
  | 2#6 => if fG w = 0#4 then execCtest (fB w) (fA w) (fD w) s else no s
  | 3#6 => if fG w = 0#4 then execBarv (fB w) (fA w) (fD w) s else no s
  | 4#6 => if fG w = 0#4 ∧ fD w = 0#5 then execBwait (fB w) (fA w) s else no s
  | 5#6 => if fG w = 0#4 ∧ fB w = 0#5 ∧ fA w = 0#5 ∧ fD w = 0#5 then execBell s else no s
  | 6#6 => if fG w = 0#4 ∧ fB w = 0#5 ∧ fA w = 0#5 ∧ fD w = 0#5 then execXdone s else no s
  | 7#6 => if fG w = 0#4 then execXput (fB w) (fA w) (fD w) s else no s
  | 8#6 => if fG w = 0#4 then execXget (fB w) (fA w) (fD w) s else no s
  | _ => no s
/-- They are those that it decodes. -/
theorem runMajor24_eq (w : BitVec 32) (no : State → Out) (s : State) : runOpt (decMajor24 w) no s = runMajor24 w no s := by
  unfold decMajor24 runMajor24
  first
    | rfl
    | (split
       all_goals first
         | rfl
         | (rename_i h; simp only [h]; first | rfl | (split <;> first | rfl | (split <;> first | rfl | (split <;> rfl))))
         | (repeat' (first | rfl | contradiction | split)))

/-- The instructions of `decMajor25`. -/
def runMajor25 (w : BitVec 32) (no : State → Out) (s : State) : Out :=
  match fF w with
  | 0#6 => if fD w = 0#5 then (if guardOk (fG w) then execTdef (fG w) (fB w) (fA w) s else no s) else no s
  | 1#6 => if fD w = 0#5 then (if guardOk (fG w) then execTfill (fG w) (fB w) (fA w) s else no s) else no s
  | 2#6 => if fB w = 0#5 ∧ fD w = 0#5 then (if guardOk (fG w) then execTready (fG w) (fA w) s else no s) else no s
  | 3#6 => if fB w = 0#5 ∧ fD w = 0#5 then (if guardOk (fG w) then execTdrain (fG w) (fA w) s else no s) else no s
  | 4#6 => if fB w = 0#5 ∧ fD w = 0#5 then (if guardOk (fG w) then execTfree (fG w) (fA w) s else no s) else no s
  | 5#6 => if fB w = 0#5 then (if guardOk (fG w) then execTstat (fG w) (fA w) (fD w) s else no s) else no s
  | 6#6 => if fD w = 0#5 then (if guardOk (fG w) then execTwait (fG w) (fB w) (fA w) s else no s) else no s
  | 7#6 => (if guardOk (fG w) then execTcast (fG w) (fB w) (fA w) (fD w) s else no s)
  | _ => no s
/-- They are those that it decodes. -/
theorem runMajor25_eq (w : BitVec 32) (no : State → Out) (s : State) : runOpt (decMajor25 w) no s = runMajor25 w no s := by
  unfold decMajor25 runMajor25
  first
    | rfl
    | (split
       all_goals first
         | rfl
         | (rename_i h; simp only [h]; first | rfl | (split <;> first | rfl | (split <;> first | rfl | (split <;> rfl))))
         | (repeat' (first | rfl | contradiction | split)))

/-- The instructions of `decMajor26`. -/
def runMajor26 (w : BitVec 32) (no : State → Out) (s : State) : Out :=
  match fF w with
  | 0#6 => if fD w = 0#5 then (if guardOk (fG w) then execBbinit (fG w) (fB w) (fA w) s else no s) else no s
  | 1#6 => if fD w = 0#5 then (if guardOk (fG w) then execBbinitw (fG w) (fB w) (fA w) s else no s) else no s
  | 2#6 => if fA w = 0#5 then (if guardOk (fG w) then execBbpeek (fG w) (fB w) (fD w) s else no s) else no s
  | 3#6 => if fA w = 0#5 then (if guardOk (fG w) then execBbget (fG w) (fB w) (fD w) s else no s) else no s
  | 4#6 => if fA w = 0#5 ∧ fD w = 0#5 then (if guardOk (fG w) then execBbskip (fG w) (fB w) s else no s) else no s
  | 5#6 => if fB w = 0#5 ∧ fD w = 0#5 then (if guardOk (fG w) then execBbseek (fG w) (fA w) s else no s) else no s
  | 6#6 => if fB w = 0#5 ∧ fA w = 0#5 then (if guardOk (fG w) then execBbpos (fG w) (fD w) s else no s) else no s
  | 7#6 => (if guardOk (fG w) then execBblut (fG w) (fB w) (fA w) (fD w) s else no s)
  | 8#6 => if fD w = 0#5 then (if guardOk (fG w) then execBbput (fG w) (fB w) (fA w) s else no s) else no s
  | 9#6 => if fB w = 0#5 ∧ fA w = 0#5 ∧ fD w = 0#5 then (if guardOk (fG w) then execBbflush (fG w) s else no s) else no s
  | 10#6 => (if guardOk (fG w) then execBfx (fG w) (fB w) (fA w) (fD w) s else no s)
  | 11#6 => (if guardOk (fG w) then execBfi (fG w) (fB w) (fA w) (fD w) s else no s)
  | 12#6 => (if guardOk (fG w) then execFshl (fG w) (fB w) (fA w) (fD w) s else no s)
  | 13#6 => (if guardOk (fG w) then execFshr (fG w) (fB w) (fA w) (fD w) s else no s)
  | 14#6 => if fB w = 0#5 then (if guardOk (fG w) then execBrev (fG w) (fA w) (fD w) s else no s) else no s
  | _ => no s
/-- They are those that it decodes. -/
theorem runMajor26_eq (w : BitVec 32) (no : State → Out) (s : State) : runOpt (decMajor26 w) no s = runMajor26 w no s := by
  unfold decMajor26 runMajor26
  first
    | rfl
    | (split
       all_goals first
         | rfl
         | (rename_i h; simp only [h]; first | rfl | (split <;> first | rfl | (split <;> first | rfl | (split <;> rfl))))
         | (repeat' (first | rfl | contradiction | split)))

/-- The instructions of `decMajor28`. -/
def runMajor28 (w : BitVec 32) (no : State → Out) (s : State) : Out :=
  match (fF w).extractLsb' 3 3 with
  | 0#3 => (if guardOk (fG w) && tyFI ((fF w).extractLsb' 0 3) then execVadd ((fF w).extractLsb' 0 3) (fG w) (fB w) (fA w) (fD w) s else no s)
  | 1#3 => (if guardOk (fG w) && tyFI ((fF w).extractLsb' 0 3) then execVsub ((fF w).extractLsb' 0 3) (fG w) (fB w) (fA w) (fD w) s else no s)
  | 2#3 => (if guardOk (fG w) && tyFI ((fF w).extractLsb' 0 3) then execVmul ((fF w).extractLsb' 0 3) (fG w) (fB w) (fA w) (fD w) s else no s)
  | 3#3 => (if guardOk (fG w) && tyFI ((fF w).extractLsb' 0 3) then execVfma ((fF w).extractLsb' 0 3) (fG w) (fB w) (fA w) (fD w) s else no s)
  | 4#3 => (if guardOk (fG w) && tyFI ((fF w).extractLsb' 0 3) then execVfms ((fF w).extractLsb' 0 3) (fG w) (fB w) (fA w) (fD w) s else no s)
  | 5#3 => (if guardOk (fG w) && tyFI ((fF w).extractLsb' 0 3) then execVmin ((fF w).extractLsb' 0 3) (fG w) (fB w) (fA w) (fD w) s else no s)
  | 6#3 => (if guardOk (fG w) && tyFI ((fF w).extractLsb' 0 3) then execVmax ((fF w).extractLsb' 0 3) (fG w) (fB w) (fA w) (fD w) s else no s)
  | 7#3 => (if guardOk (fG w) && tyF ((fF w).extractLsb' 0 3) then execVdiv ((fF w).extractLsb' 0 3) (fG w) (fB w) (fA w) (fD w) s else no s)
  | _ => no s
/-- They are those that it decodes. -/
theorem runMajor28_eq (w : BitVec 32) (no : State → Out) (s : State) : runOpt (decMajor28 w) no s = runMajor28 w no s := by
  unfold decMajor28 runMajor28
  first
    | rfl
    | (split
       all_goals first
         | rfl
         | (rename_i h; simp only [h]; first | rfl | (split <;> first | rfl | (split <;> first | rfl | (split <;> rfl))))
         | (repeat' (first | rfl | contradiction | split)))

/-- The instructions of `decMajor29`. -/
def runMajor29 (w : BitVec 32) (no : State → Out) (s : State) : Out :=
  match (fF w).extractLsb' 3 3 with
  | 0#3 => if fB w = 0#5 then (if guardOk (fG w) && tyFI ((fF w).extractLsb' 0 3) then execVabs ((fF w).extractLsb' 0 3) (fG w) (fA w) (fD w) s else no s) else no s
  | 1#3 => if fB w = 0#5 then (if guardOk (fG w) && tyFI ((fF w).extractLsb' 0 3) then execVneg ((fF w).extractLsb' 0 3) (fG w) (fA w) (fD w) s else no s) else no s
  | 2#3 => if fB w = 0#5 then (if guardOk (fG w) && tyF ((fF w).extractLsb' 0 3) then execVsqrt ((fF w).extractLsb' 0 3) (fG w) (fA w) (fD w) s else no s) else no s
  | 3#3 => if fB w = 0#5 then (if guardOk (fG w) && tyF ((fF w).extractLsb' 0 3) then execVrcp ((fF w).extractLsb' 0 3) (fG w) (fA w) (fD w) s else no s) else no s
  | 4#3 => if fB w = 0#5 then (if guardOk (fG w) && tyF ((fF w).extractLsb' 0 3) then execVrsqrt ((fF w).extractLsb' 0 3) (fG w) (fA w) (fD w) s else no s) else no s
  | 5#3 => if fB w = 0#5 then (if guardOk (fG w) && tyF ((fF w).extractLsb' 0 3) then execVexp2 ((fF w).extractLsb' 0 3) (fG w) (fA w) (fD w) s else no s) else no s
  | 6#3 => if fB w = 0#5 then (if guardOk (fG w) && tyF ((fF w).extractLsb' 0 3) then execVlog2 ((fF w).extractLsb' 0 3) (fG w) (fA w) (fD w) s else no s) else no s
  | 7#3 => if fB w = 0#5 then (if guardOk (fG w) then execVmov ((fF w).extractLsb' 0 3) (fG w) (fA w) (fD w) s else no s) else no s
  | _ => no s
/-- They are those that it decodes. -/
theorem runMajor29_eq (w : BitVec 32) (no : State → Out) (s : State) : runOpt (decMajor29 w) no s = runMajor29 w no s := by
  unfold decMajor29 runMajor29
  first
    | rfl
    | (split
       all_goals first
         | rfl
         | (rename_i h; simp only [h]; first | rfl | (split <;> first | rfl | (split <;> first | rfl | (split <;> rfl))))
         | (repeat' (first | rfl | contradiction | split)))

/-- The instructions of `decMajor2A`. -/
def runMajor2A (w : BitVec 32) (no : State → Out) (s : State) : Out :=
  match (fF w).extractLsb' 3 3 with
  | 0#3 => (if guardOk (fG w) && tyF ((fF w).extractLsb' 0 3) && decide ((fB w).toNat ≤ 5) then execVact ((fF w).extractLsb' 0 3) (fG w) (fB w) (fA w) (fD w) s else no s)
  | 1#3 => (if guardOk (fG w) && tyF ((fF w).extractLsb' 0 3) && (decide ((fB w).toNat ≤ 2) || (fB w) == 4#5) then execVdact ((fF w).extractLsb' 0 3) (fG w) (fB w) (fA w) (fD w) s else no s)
  | 2#3 => if (fD w).extractLsb' 3 2 = 0#2 then (if guardOk (fG w) && tyFI ((fF w).extractLsb' 0 3) && predOk ((fD w).extractLsb' 0 3) then execVcmpEq ((fF w).extractLsb' 0 3) (fG w) (fB w) (fA w) ((fD w).extractLsb' 0 3) s else no s) else no s
  | 3#3 => if (fD w).extractLsb' 3 2 = 0#2 then (if guardOk (fG w) && tyFI ((fF w).extractLsb' 0 3) && predOk ((fD w).extractLsb' 0 3) then execVcmpNe ((fF w).extractLsb' 0 3) (fG w) (fB w) (fA w) ((fD w).extractLsb' 0 3) s else no s) else no s
  | 4#3 => if (fD w).extractLsb' 3 2 = 0#2 then (if guardOk (fG w) && tyFI ((fF w).extractLsb' 0 3) && predOk ((fD w).extractLsb' 0 3) then execVcmpLt ((fF w).extractLsb' 0 3) (fG w) (fB w) (fA w) ((fD w).extractLsb' 0 3) s else no s) else no s
  | 5#3 => if (fD w).extractLsb' 3 2 = 0#2 then (if guardOk (fG w) && tyFI ((fF w).extractLsb' 0 3) && predOk ((fD w).extractLsb' 0 3) then execVcmpLe ((fF w).extractLsb' 0 3) (fG w) (fB w) (fA w) ((fD w).extractLsb' 0 3) s else no s) else no s
  | 6#3 => (if condOk (fG w) then execVsel ((fF w).extractLsb' 0 3) (fG w) (fB w) (fA w) (fD w) s else no s)
  | 7#3 => if fB w = 0#5 ∧ (fD w).extractLsb' 3 2 = 0#2 then (if guardOk (fG w) && (tyF ((fF w).extractLsb' 0 3) || tyF8 ((fF w).extractLsb' 0 3)) && predOk ((fD w).extractLsb' 0 3) then execVnfin ((fF w).extractLsb' 0 3) (fG w) (fA w) ((fD w).extractLsb' 0 3) s else no s) else no s
  | _ => no s
/-- They are those that it decodes. -/
theorem runMajor2A_eq (w : BitVec 32) (no : State → Out) (s : State) : runOpt (decMajor2A w) no s = runMajor2A w no s := by
  unfold decMajor2A runMajor2A
  first
    | rfl
    | (split
       all_goals first
         | rfl
         | (rename_i h; simp only [h]; first | rfl | (split <;> first | rfl | (split <;> first | rfl | (split <;> rfl))))
         | (repeat' (first | rfl | contradiction | split)))

/-- The instructions of `decMajor2B`. -/
def runMajor2B (w : BitVec 32) (no : State → Out) (s : State) : Out :=
  match (fF w).extractLsb' 3 3 with
  | 0#3 => (if guardOk (fG w) then execVand ((fF w).extractLsb' 0 3) (fG w) (fB w) (fA w) (fD w) s else no s)
  | 1#3 => (if guardOk (fG w) then execVor ((fF w).extractLsb' 0 3) (fG w) (fB w) (fA w) (fD w) s else no s)
  | 2#3 => (if guardOk (fG w) then execVxor ((fF w).extractLsb' 0 3) (fG w) (fB w) (fA w) (fD w) s else no s)
  | 3#3 => if fB w = 0#5 then (if guardOk (fG w) then execVnot ((fF w).extractLsb' 0 3) (fG w) (fA w) (fD w) s else no s) else no s
  | 4#3 => (if guardOk (fG w) && tyI ((fF w).extractLsb' 0 3) then execVshl ((fF w).extractLsb' 0 3) (fG w) (fB w) (fA w) (fD w) s else no s)
  | 5#3 => (if guardOk (fG w) && tyI ((fF w).extractLsb' 0 3) then execVshr ((fF w).extractLsb' 0 3) (fG w) (fB w) (fA w) (fD w) s else no s)
  | 6#3 => (if guardOk (fG w) && tyI ((fF w).extractLsb' 0 3) then execVsha ((fF w).extractLsb' 0 3) (fG w) (fB w) (fA w) (fD w) s else no s)
  | 7#3 => if fB w = 0#5 ∧ fA w = 0#5 then (if guardOk (fG w) && tyI ((fF w).extractLsb' 0 3) then execViota ((fF w).extractLsb' 0 3) (fG w) (fD w) s else no s) else no s
  | _ => no s
/-- They are those that it decodes. -/
theorem runMajor2B_eq (w : BitVec 32) (no : State → Out) (s : State) : runOpt (decMajor2B w) no s = runMajor2B w no s := by
  unfold decMajor2B runMajor2B
  first
    | rfl
    | (split
       all_goals first
         | rfl
         | (rename_i h; simp only [h]; first | rfl | (split <;> first | rfl | (split <;> first | rfl | (split <;> rfl))))
         | (repeat' (first | rfl | contradiction | split)))

/-- The instructions of `decMajor2C`. -/
def runMajor2C (w : BitVec 32) (no : State → Out) (s : State) : Out :=
  match (fF w).extractLsb' 3 3 with
  | 0#3 => if fB w = 0#5 then (if guardOk (fG w) then execVbcast ((fF w).extractLsb' 0 3) (fG w) (fA w) (fD w) s else no s) else no s
  | 1#3 => (if guardOk (fG w) then execVextr ((fF w).extractLsb' 0 3) (fG w) (fB w) (fA w) (fD w) s else no s)
  | 2#3 => (if guardOk (fG w) then execVins ((fF w).extractLsb' 0 3) (fG w) (fB w) (fA w) (fD w) s else no s)
  | 3#3 => (if guardOk (fG w) then execVperm ((fF w).extractLsb' 0 3) (fG w) (fB w) (fA w) (fD w) s else no s)
  | 4#3 => (if guardOk (fG w) && tyFI ((fF w).extractLsb' 0 3) && decide ((fB w).toNat ≤ 2) then execVred ((fF w).extractLsb' 0 3) (fG w) (fB w) (fA w) (fD w) s else no s)
  | 5#3 => (if guardOk (fG w) && tyFI ((fF w).extractLsb' 0 3) && decide ((fB w).toNat ≤ 2) then execVscan ((fF w).extractLsb' 0 3) (fG w) (fB w) (fA w) (fD w) s else no s)
  | 6#3 => (if guardOk (fG w) && tyFI ((fF w).extractLsb' 0 3) then execVdot ((fF w).extractLsb' 0 3) (fG w) (fB w) (fA w) (fD w) s else no s)
  | 7#3 => if (fF w).extractLsb' 0 3 = 0#3 ∧ fG w = 0#4 then (if decide ((fB w).toNat ≤ 2) then execVhad (fB w) (fA w) (fD w) s else no s) else no s
  | _ => no s
/-- They are those that it decodes. -/
theorem runMajor2C_eq (w : BitVec 32) (no : State → Out) (s : State) : runOpt (decMajor2C w) no s = runMajor2C w no s := by
  unfold decMajor2C runMajor2C
  first
    | rfl
    | (split
       all_goals first
         | rfl
         | (rename_i h; simp only [h]; first | rfl | (split <;> first | rfl | (split <;> first | rfl | (split <;> rfl))))
         | (repeat' (first | rfl | contradiction | split)))

/-- The instructions of `decMajor2D`. -/
def runMajor2D (w : BitVec 32) (no : State → Out) (s : State) : Out :=
  match (fF w).extractLsb' 3 3 with
  | 0#3 => (if guardOk (fG w) then execVcvt ((fF w).extractLsb' 0 3) (fG w) ((fB w).extractLsb' 3 2) ((fB w).extractLsb' 0 3) (fA w) (fD w) s else no s)
  | 1#3 => if fG w = 0#4 ∧ fB w = 0#5 then (if tyF8 ((fF w).extractLsb' 0 3) then execVpack ((fF w).extractLsb' 0 3) (fA w) (fD w) s else no s) else no s
  | 2#3 => if fG w = 0#4 ∧ fB w = 0#5 then (if tyF8 ((fF w).extractLsb' 0 3) then execVunpk ((fF w).extractLsb' 0 3) (fA w) (fD w) s else no s) else no s
  | _ => no s
/-- They are those that it decodes. -/
theorem runMajor2D_eq (w : BitVec 32) (no : State → Out) (s : State) : runOpt (decMajor2D w) no s = runMajor2D w no s := by
  unfold decMajor2D runMajor2D
  first
    | rfl
    | (split
       all_goals first
         | rfl
         | (rename_i h; simp only [h]; first | rfl | (split <;> first | rfl | (split <;> first | rfl | (split <;> rfl))))
         | (repeat' (first | rfl | contradiction | split)))

/-- The instructions of `decMajor30`. -/
def runMajor30 (w : BitVec 32) (no : State → Out) (s : State) : Out :=
  match fF w with
  | 0#6 => if (fD w).extractLsb' 4 1 = 0#1 then (if slotOk (fG w) && pairOk (fA w) && pairOk (fB w) then execMmaPt (fG w) (fB w) (fA w) ((fD w).extractLsb' 3 1) ((fD w).extractLsb' 2 1) ((fD w).extractLsb' 0 2) s else no s) else no s
  | 1#6 => if (fD w).extractLsb' 4 1 = 0#1 then (if slotOk (fG w) && pairOk (fA w) && pairOk (fB w) then execMmaMinp (fG w) (fB w) (fA w) ((fD w).extractLsb' 3 1) ((fD w).extractLsb' 2 1) ((fD w).extractLsb' 0 2) s else no s) else no s
  | 2#6 => if (fD w).extractLsb' 4 1 = 0#1 then (if slotOk (fG w) && pairOk (fA w) && pairOk (fB w) then execMmaMaxp (fG w) (fB w) (fA w) ((fD w).extractLsb' 3 1) ((fD w).extractLsb' 2 1) ((fD w).extractLsb' 0 2) s else no s) else no s
  | 3#6 => if (fD w).extractLsb' 4 1 = 0#1 then (if slotOk (fG w) && pairOk (fA w) && pairOk (fB w) then execMmaMaxt (fG w) (fB w) (fA w) ((fD w).extractLsb' 3 1) ((fD w).extractLsb' 2 1) ((fD w).extractLsb' 0 2) s else no s) else no s
  | 4#6 => if (fD w).extractLsb' 4 1 = 0#1 then (if slotOk (fG w) && pairOk (fA w) && pairOk (fB w) then execMmaOrand (fG w) (fB w) (fA w) ((fD w).extractLsb' 3 1) ((fD w).extractLsb' 2 1) ((fD w).extractLsb' 0 2) s else no s) else no s
  | 8#6 => if (fD w).extractLsb' 4 1 = 0#1 then (if slotOk (fG w) && pairOk (fA w) && decide ((fB w).toNat ≤ 29) then execMmas (fG w) (fB w) (fA w) ((fD w).extractLsb' 3 1) ((fD w).extractLsb' 2 1) ((fD w).extractLsb' 0 2) s else no s) else no s
  | 9#6 => if fB w = 0#5 ∧ (fD w).extractLsb' 2 3 = 0#3 then (if slotOk (fG w) then execMzero (fG w) (fA w) ((fD w).extractLsb' 0 2) s else no s) else no s
  | 10#6 => if fB w = 0#5 ∧ (fD w).extractLsb' 2 3 = 0#3 then (if slotOk (fG w) && pairOk (fA w) then execMldc (fG w) (fA w) ((fD w).extractLsb' 0 2) s else no s) else no s
  | 11#6 => if fB w = 0#5 ∧ (fD w).extractLsb' 2 3 = 0#3 then (if slotOk (fG w) && pairOk (fA w) then execMout (fG w) (fA w) ((fD w).extractLsb' 0 2) s else no s) else no s
  | 12#6 => if fB w = 0#5 ∧ (fD w).extractLsb' 2 3 = 0#3 then (if slotOk (fG w) then execMepi (fG w) (fA w) ((fD w).extractLsb' 0 2) s else no s) else no s
  | 13#6 => if fB w = 0#5 ∧ (fD w).extractLsb' 2 3 = 0#3 then (if slotOk (fG w) && pairOk (fA w) then execMmaskRow (fG w) (fA w) ((fD w).extractLsb' 0 2) s else no s) else if fB w = 0#5 ∧ (fD w).extractLsb' 2 3 = 1#3 then (if slotOk (fG w) then execMmaskBlk (fG w) (fA w) ((fD w).extractLsb' 0 2) s else no s) else no s
  | 14#6 => if fG w = 0#4 ∧ fB w = 0#5 ∧ fA w = 0#5 ∧ (fD w).extractLsb' 2 3 = 0#3 then execMwait ((fD w).extractLsb' 0 2) s else no s
  | 15#6 => if fD w = 0#5 then (if slotOk (fG w) then execMsend (fG w) (fB w) (fA w) s else no s) else no s
  | 16#6 => if fG w = 0#4 ∧ fB w = 0#5 then execMcap (fA w) (fD w) s else no s
  | 17#6 => if fG w = 0#4 ∧ fB w = 0#5 ∧ fD w = 0#5 then execMrevoke (fA w) s else no s
  | 18#6 => if fG w = 0#4 ∧ (fB w).extractLsb' 2 3 = 0#3 then execMstat ((fB w).extractLsb' 0 2) (fA w) (fD w) s else no s
  | 19#6 => if fB w = 0#5 ∧ (fD w).extractLsb' 2 3 = 0#3 then (if slotOk (fG w) then execMthr (fG w) (fA w) ((fD w).extractLsb' 0 2) s else no s) else no s
  | 20#6 => if fG w = 0#4 ∧ (fB w).extractLsb' 2 3 = 0#3 ∧ fA w = 0#5 then execMprogRd ((fB w).extractLsb' 0 2) (fD w) s else no s
  | 21#6 => if fG w = 0#4 ∧ fB w = 0#5 ∧ (fD w).extractLsb' 2 3 = 0#3 then execMprogWr (fA w) ((fD w).extractLsb' 0 2) s else no s
  | _ => no s
/-- They are those that it decodes. -/
theorem runMajor30_eq (w : BitVec 32) (no : State → Out) (s : State) : runOpt (decMajor30 w) no s = runMajor30 w no s := by
  unfold decMajor30 runMajor30
  first
    | rfl
    | (split
       all_goals first
         | rfl
         | (rename_i h; simp only [h]; first | rfl | (split <;> first | rfl | (split <;> first | rfl | (split <;> rfl))))
         | (repeat' (first | rfl | contradiction | split)))

/-- The instructions of `decMajor34`. -/
def runMajor34 (w : BitVec 32) (no : State → Out) (s : State) : Out :=
  match fF w with
  | 0#6 => (if guardOk (fG w) then execKhash (fG w) (fB w) (fA w) (fD w) s else no s)
  | 1#6 => (if guardOk (fG w) then execKfind (fG w) (fB w) (fA w) (fD w) s else no s)
  | 2#6 => (if guardOk (fG w) then execKins (fG w) (fB w) (fA w) (fD w) s else no s)
  | 3#6 => (if guardOk (fG w) then execKdel (fG w) (fB w) (fA w) (fD w) s else no s)
  | 4#6 => (if guardOk (fG w) then execKacc (fG w) (fB w) (fA w) (fD w) s else no s)
  | 5#6 => (if guardOk (fG w) then execKget (fG w) (fB w) (fA w) (fD w) s else no s)
  | 6#6 => (if guardOk (fG w) then execKput (fG w) (fB w) (fA w) (fD w) s else no s)
  | 7#6 => (if guardOk (fG w) then execKhot (fG w) (fB w) (fA w) (fD w) s else no s)
  | 8#6 => if fD w = 0#5 then (if guardOk (fG w) then execKmerge (fG w) (fB w) (fA w) s else no s) else no s
  | 9#6 => (if guardOk (fG w) && pairOk (fD w) then execKscan (fG w) (fB w) (fA w) (fD w) s else no s)
  | 10#6 => if fD w = 0#5 then (if guardOk (fG w) then execKdirty (fG w) (fB w) (fA w) s else no s) else no s
  | 11#6 => (if guardOk (fG w) then execKcount (fG w) (fB w) (fA w) (fD w) s else no s)
  | _ => no s
/-- They are those that it decodes. -/
theorem runMajor34_eq (w : BitVec 32) (no : State → Out) (s : State) : runOpt (decMajor34 w) no s = runMajor34 w no s := by
  unfold decMajor34 runMajor34
  first
    | rfl
    | (split
       all_goals first
         | rfl
         | (rename_i h; simp only [h]; first | rfl | (split <;> first | rfl | (split <;> first | rfl | (split <;> rfl))))
         | (repeat' (first | rfl | contradiction | split)))

/-- The instructions of `decMajor35`. -/
def runMajor35 (w : BitVec 32) (no : State → Out) (s : State) : Out :=
  match fF w with
  | 0#6 => if fG w = 0#4 ∧ (fD w).extractLsb' 2 3 = 0#3 then execJbind (fB w) (fA w) ((fD w).extractLsb' 0 2) s else no s
  | 1#6 => if fG w = 0#4 ∧ (fA w).extractLsb' 2 3 = 0#3 then execJnode (fB w) ((fA w).extractLsb' 0 2) (fD w) s else no s
  | 2#6 => if fG w = 0#4 then (if pairOk (fD w) then execKrange (fB w) (fA w) (fD w) s else no s) else no s
  | 3#6 => (if slotOk (fG w) && pairOk (fD w) then execKruns (fG w) (fB w) (fA w) (fD w) s else no s)
  | 4#6 => if fB w = 0#5 ∧ fD w = 0#5 then (if slotOk (fG w) then execKisect (fG w) (fA w) s else no s) else no s
  | 5#6 => if fG w = 0#4 then (if predOk ((fD w).extractLsb' 0 3) then execJgather (fB w) (fA w) ((fD w).extractLsb' 3 2) ((fD w).extractLsb' 0 3) s else no s) else no s
  | 6#6 => (if slotOk (fG w) then execJscatter (fG w) (fB w) (fA w) ((fD w).extractLsb' 3 2) ((fD w).extractLsb' 0 3) s else no s)
  | _ => no s
/-- They are those that it decodes. -/
theorem runMajor35_eq (w : BitVec 32) (no : State → Out) (s : State) : runOpt (decMajor35 w) no s = runMajor35 w no s := by
  unfold decMajor35 runMajor35
  first
    | rfl
    | (split
       all_goals first
         | rfl
         | (rename_i h; simp only [h]; first | rfl | (split <;> first | rfl | (split <;> first | rfl | (split <;> rfl))))
         | (repeat' (first | rfl | contradiction | split)))

/-- The instructions of `decMajor38`. -/
def runMajor38 (w : BitVec 32) (no : State → Out) (s : State) : Out :=
  match fF w with
  | 0#6 => if fB w = 0#5 ∧ fD w = 0#5 then (if slotOk (fG w) then execCpy (fG w) (fA w) s else no s) else no s
  | 1#6 => if fB w = 0#5 ∧ fD w = 0#5 then (if slotOk (fG w) then execCpyq (fG w) (fA w) s else no s) else no s
  | 2#6 => if fB w = 0#5 ∧ fD w = 0#5 then (if slotOk (fG w) then execGath (fG w) (fA w) s else no s) else no s
  | 3#6 => if fB w = 0#5 ∧ fD w = 0#5 then (if slotOk (fG w) then execColl (fG w) (fA w) s else no s) else no s
  | 4#6 => if fB w = 0#5 ∧ fD w = 0#5 then (if slotOk (fG w) then execFput (fG w) (fA w) s else no s) else no s
  | 5#6 => if fB w = 0#5 ∧ fD w = 0#5 then (if slotOk (fG w) then execFget (fG w) (fA w) s else no s) else no s
  | 6#6 => if fG w = 0#4 ∧ fB w = 0#5 then execJobx (fA w) (fD w) s else no s
  | 7#6 => if fD w = 0#5 then (if slotOk (fG w) then execMsg (fG w) (fB w) (fA w) s else no s) else no s
  | 8#6 => if fG w = 0#4 ∧ fB w = 0#5 ∧ (fA w).extractLsb' 2 3 = 0#3 then execMrecv ((fA w).extractLsb' 0 2) (fD w) s else no s
  | 9#6 => if fG w = 0#4 ∧ fB w = 0#5 ∧ (fA w).extractLsb' 2 3 = 0#3 then execMpeek ((fA w).extractLsb' 0 2) (fD w) s else no s
  | 10#6 => if fG w = 0#4 then execMsgNb (fB w) (fA w) (fD w) s else no s
  | _ => no s
/-- They are those that it decodes. -/
theorem runMajor38_eq (w : BitVec 32) (no : State → Out) (s : State) : runOpt (decMajor38 w) no s = runMajor38 w no s := by
  unfold decMajor38 runMajor38
  first
    | rfl
    | (split
       all_goals first
         | rfl
         | (rename_i h; simp only [h]; first | rfl | (split <;> first | rfl | (split <;> first | rfl | (split <;> rfl))))
         | (repeat' (first | rfl | contradiction | split)))

/-- The instructions of `decMajor3A`. -/
def runMajor3A (w : BitVec 32) (no : State → Out) (s : State) : Out :=
  match fF w with
  | 0#6 => if fG w = 0#4 then execLaunch (fB w) (fA w) (fD w) s else no s
  | 1#6 => if fG w = 0#4 ∧ fB w = 0#5 then execSpawn (fA w) (fD w) s else no s
  | 2#6 => if fG w = 0#4 ∧ fB w = 0#5 ∧ fA w = 0#5 then (if pairOk (fD w) then execShare (fD w) s else no s) else no s
  | 3#6 => if fG w = 0#4 ∧ fB w = 0#5 ∧ fA w = 0#5 ∧ fD w = 0#5 then execTend s else no s
  | 4#6 => if fG w = 0#4 ∧ fD w = 0#5 then execEsignal (fB w) (fA w) s else no s
  | 5#6 => if fG w = 0#4 ∧ fB w = 0#5 then execSqput (fA w) (fD w) s else no s
  | 6#6 => if fG w = 0#4 ∧ fB w = 0#5 then execSqget (fA w) (fD w) s else no s
  | 7#6 => if fG w = 0#4 ∧ fB w = 0#5 ∧ (fA w).extractLsb' 1 4 = 0#4 then execSqlen ((fA w).extractLsb' 0 1) (fD w) s else no s
  | _ => no s
/-- They are those that it decodes. -/
theorem runMajor3A_eq (w : BitVec 32) (no : State → Out) (s : State) : runOpt (decMajor3A w) no s = runMajor3A w no s := by
  unfold decMajor3A runMajor3A
  first
    | rfl
    | (split
       all_goals first
         | rfl
         | (rename_i h; simp only [h]; first | rfl | (split <;> first | rfl | (split <;> first | rfl | (split <;> rfl))))
         | (repeat' (first | rfl | contradiction | split)))

/-- The instructions of `decMajor3C`. -/
def runMajor3C (w : BitVec 32) (no : State → Out) (s : State) : Out :=
  if (imm15 w).extractLsb' 12 3 = 0#3 ∧ fA w = 0#5 then execMfs ((imm15 w).extractLsb' 0 12) (fD w) s
  else no s
/-- They are those that it decodes. -/
theorem runMajor3C_eq (w : BitVec 32) (no : State → Out) (s : State) : runOpt (decMajor3C w) no s = runMajor3C w no s := by
  unfold decMajor3C runMajor3C
  repeat' (first | rfl | split)

/-- The instructions of `decMajor3D`. -/
def runMajor3D (w : BitVec 32) (no : State → Out) (s : State) : Out :=
  if (imm15 w).extractLsb' 12 3 = 0#3 ∧ fD w = 0#5 then execMts ((imm15 w).extractLsb' 0 12) (fA w) s
  else no s
/-- They are those that it decodes. -/
theorem runMajor3D_eq (w : BitVec 32) (no : State → Out) (s : State) : runOpt (decMajor3D w) no s = runMajor3D w no s := by
  unfold decMajor3D runMajor3D
  repeat' (first | rfl | split)

/-- The instructions of `decMajor3E`. -/
def runMajor3E (w : BitVec 32) (no : State → Out) (s : State) : Out :=
  match fF w with
  | 0#6 => if fG w = 0#4 ∧ (fB w).extractLsb' 4 1 = 0#1 ∧ fD w = 0#5 then execTrap ((fB w).extractLsb' 0 4) (fA w) s else no s
  | 1#6 => if fG w = 0#4 ∧ fB w = 0#5 ∧ fA w = 0#5 ∧ fD w = 0#5 then execXret s else if fG w = 0#4 ∧ fB w = 0#5 ∧ fA w = 0#5 ∧ fD w = 1#5 then execXretSkip s else no s
  | 3#6 => if fG w = 0#4 ∧ fD w = 0#5 then execCtxsv (fB w) (fA w) s else no s
  | 4#6 => if fG w = 0#4 ∧ fD w = 0#5 then execCtxrs (fB w) (fA w) s else no s
  | 5#6 => if fG w = 0#4 ∧ fD w = 0#5 then execTlbinv (fB w) (fA w) s else no s
  | 6#6 => if fG w = 0#4 ∧ fA w = 0#5 ∧ fD w = 0#5 then execBrkpt (fB w) s else no s
  | 7#6 => if fG w = 0#4 ∧ fB w = 0#5 ∧ fA w = 0#5 then execRoll (fD w) s else no s
  | 8#6 => if fG w = 0#4 ∧ fB w = 0#5 ∧ fA w = 0#5 ∧ fD w = 0#5 then execCkpt s else no s
  | 9#6 => if fG w = 0#4 ∧ fB w = 0#5 ∧ fD w = 0#5 then execIdle (fA w) s else no s
  | _ => no s
/-- They are those that it decodes. -/
theorem runMajor3E_eq (w : BitVec 32) (no : State → Out) (s : State) : runOpt (decMajor3E w) no s = runMajor3E w no s := by
  unfold decMajor3E runMajor3E
  first
    | rfl
    | (split
       all_goals first
         | rfl
         | (rename_i h; simp only [h]; first | rfl | (split <;> first | rfl | (split <;> first | rfl | (split <;> rfl))))
         | (repeat' (first | rfl | contradiction | split)))

/-- The instructions of `decode32`. -/
def run32 (w : BitVec 32) (no : State → Out) (s : State) : Out :=
  match fM w with
  | 3#7 => runMajor01 w no s
  | 5#7 => runMajor02 w no s
  | 7#7 => runMajor03 w no s
  | 9#7 => runMajor04 w no s
  | 11#7 => runMajor05 w no s
  | 13#7 => runMajor06 w no s
  | 15#7 => runMajor07 w no s
  | 17#7 => runMajor08 w no s
  | 19#7 => runMajor09 w no s
  | 21#7 => runMajor0A w no s
  | 23#7 => runMajor0B w no s
  | 25#7 => runMajor0C w no s
  | 27#7 => runMajor0D w no s
  | 29#7 => runMajor0E w no s
  | 31#7 => runMajor0F w no s
  | 33#7 => runMajor10 w no s
  | 35#7 => runMajor11 w no s
  | 37#7 => runMajor12 w no s
  | 39#7 => runMajor13 w no s
  | 49#7 => runMajor18 w no s
  | 51#7 => runMajor19 w no s
  | 53#7 => runMajor1A w no s
  | 55#7 => runMajor1B w no s
  | 57#7 => runMajor1C w no s
  | 59#7 => runMajor1D w no s
  | 61#7 => runMajor1E w no s
  | 63#7 => runMajor1F w no s
  | 65#7 => runMajor20 w no s
  | 67#7 => runMajor21 w no s
  | 69#7 => runMajor22 w no s
  | 71#7 => runMajor23 w no s
  | 73#7 => runMajor24 w no s
  | 75#7 => runMajor25 w no s
  | 77#7 => runMajor26 w no s
  | 81#7 => runMajor28 w no s
  | 83#7 => runMajor29 w no s
  | 85#7 => runMajor2A w no s
  | 87#7 => runMajor2B w no s
  | 89#7 => runMajor2C w no s
  | 91#7 => runMajor2D w no s
  | 97#7 => runMajor30 w no s
  | 105#7 => runMajor34 w no s
  | 107#7 => runMajor35 w no s
  | 113#7 => runMajor38 w no s
  | 117#7 => runMajor3A w no s
  | 121#7 => runMajor3C w no s
  | 123#7 => runMajor3D w no s
  | 125#7 => runMajor3E w no s
  | _ => no s
set_option linter.unusedSimpArgs false in
/-- They are those that it decodes. -/
theorem run32_eq (w : BitVec 32) (no : State → Out) (s : State) : runOpt (decode32 w) no s = run32 w no s := by
  unfold decode32 run32
  split
  all_goals first
    | (rename_i h; simp only [h, runMajor01_eq, runMajor02_eq, runMajor03_eq, runMajor04_eq, runMajor05_eq, runMajor06_eq, runMajor07_eq, runMajor08_eq, runMajor09_eq, runMajor0A_eq, runMajor0B_eq, runMajor0C_eq, runMajor0D_eq, runMajor0E_eq, runMajor0F_eq, runMajor10_eq, runMajor11_eq, runMajor12_eq, runMajor13_eq, runMajor18_eq, runMajor19_eq, runMajor1A_eq, runMajor1B_eq, runMajor1C_eq, runMajor1D_eq, runMajor1E_eq, runMajor1F_eq, runMajor20_eq, runMajor21_eq, runMajor22_eq, runMajor23_eq, runMajor24_eq, runMajor25_eq, runMajor26_eq, runMajor28_eq, runMajor29_eq, runMajor2A_eq, runMajor2B_eq, runMajor2C_eq, runMajor2D_eq, runMajor30_eq, runMajor34_eq, runMajor35_eq, runMajor38_eq, runMajor3A_eq, runMajor3C_eq, runMajor3D_eq, runMajor3E_eq]; done)
    | (simp only [runMajor01_eq, runMajor02_eq, runMajor03_eq, runMajor04_eq, runMajor05_eq, runMajor06_eq, runMajor07_eq, runMajor08_eq, runMajor09_eq, runMajor0A_eq, runMajor0B_eq, runMajor0C_eq, runMajor0D_eq, runMajor0E_eq, runMajor0F_eq, runMajor10_eq, runMajor11_eq, runMajor12_eq, runMajor13_eq, runMajor18_eq, runMajor19_eq, runMajor1A_eq, runMajor1B_eq, runMajor1C_eq, runMajor1D_eq, runMajor1E_eq, runMajor1F_eq, runMajor20_eq, runMajor21_eq, runMajor22_eq, runMajor23_eq, runMajor24_eq, runMajor25_eq, runMajor26_eq, runMajor28_eq, runMajor29_eq, runMajor2A_eq, runMajor2B_eq, runMajor2C_eq, runMajor2D_eq, runMajor30_eq, runMajor34_eq, runMajor35_eq, runMajor38_eq, runMajor3A_eq, runMajor3C_eq, runMajor3D_eq, runMajor3E_eq]; done)
    | (rename_i h; simp only [h]; rfl)
    | (repeat' (first | rfl | contradiction | split))

/-- The instructions of `decode16`. -/
def run16 (h : BitVec 16) (no : State → Out) (s : State) : Out :=
  if h.extractLsb' 0 2 = 2#2 then execDictRef (h.extractLsb' 6 10) (h.extractLsb' 2 4) s
  else if h.extractLsb' 0 2 = 0#2 then
    let r := h.extractLsb' 11 5
    let d := h.extractLsb' 6 5
    match h.extractLsb' 2 4 with
    | 1#4 => execVaddF32S r d s
    | 2#4 => execVsubF32S r d s
    | 3#4 => execVmulF32S r d s
    | 4#4 => execVmaxF32S r d s
    | 5#4 => execVminF32S r d s
    | 6#4 => execVaddBf16S r d s
    | 7#4 => execVmulBf16S r d s
    | 8#4 => execVaddI32S r d s
    | 9#4 => execVsubI32S r d s
    | 10#4 => execVandS r d s
    | 11#4 => execVorS r d s
    | 12#4 => execVxorS r d s
    | 13#4 => execVmovS r d s
    | 14#4 => execVabsF32S r d s
    | 15#4 => execVreluF32S r d s
    | _ => no s
  else no s
/-- They are those that it decodes. -/
theorem run16_eq (h : BitVec 16) (no : State → Out) (s : State) : runOpt (decode16 h) no s = run16 h no s := by
  unfold decode16 run16
  split
  · rfl
  · split
    · dsimp only
      split
      all_goals first
        | rfl
        | (rename_i h; simp only [h]; rfl)
        | (repeat' (first | rfl | contradiction | split))
    · rfl

/-- A reserved encoding (R48). -/
def noCode (c : Code) (s : State) : Out :=
  match c with
  | .half h => execReservedEncoding (h.setWidth 32) false s
  | .full w => execReservedEncoding w true s
/-- Runs the instruction that a code word decodes to. -/
noncomputable def runCode (c : Code) (s : State) : Out :=
  match decodeCode c with
  | some i => exec i s
  | none => noCode c s
/-- The same, without the instruction. -/
def runCodeC (c : Code) (s : State) : Out :=
  match c with
  | .half h => run16 h (noCode c) s
  | .full w => run32 w (noCode c) s
/-- They are one function. -/
@[csimp] theorem runCode_eq : @runCode = @runCodeC := by
  funext c s
  have key (x : Option Instr) (no : State → Out) :
      (match (match x with | some i => if i.wellFormed then some i else none | none => none) with
        | some i => exec i s | none => no s) = runOpt x no s := by
    cases x with
    | none => rfl
    | some i =>
      simp only [runOpt]
      cases i.wellFormed <;> rfl
  cases c with
  | half h => exact (key (decode16 h) _).trans (run16_eq h _ s)
  | full w => exact (key (decode32 w) _).trans (run32_eq w _ s)

end Sys2Proof.Machine
end

