-- ==== Sys2Proof/Machine/Step.lean ====
section
/-! DEFINITION. One step of the machine (R15, R29, R88, R111, R356): a core issues, or an event takes place. -/

namespace Sys2Proof.Machine

/-! ### A core issues -/

/-- The desk as it issues a code word that it has fetched. -/
def Desk.issuing (d : Desk) (c : Code) : Desk := { d with len := codeLen c, dict := false, xword := codeXval c }
/-- A word that stands in place of the one in memory. -/
def latched (w : BitVec 32) (half : Bool) : Code := if half then .half (w.setWidth 16) else .full w
/-- What an issue leads to, as the streams of the desk see it: a push that waits lets the other stream go on (R100, R411), and what a path
has run itself it need not wait for. -/
def State.streams (s : State) (u : Use) (o : Out) : Out :=
  match o with
  | .next t =>
    let d := t.deskAt s.core s.desk
    match d.wait, d.gen with
    | some (.port n false), none => .next (t.setDeskAt s.core s.desk (d.goAhead n))
    | none, some g => .next (t.setDeskAt s.core s.desk { d with gen := some { g with skip := g.skip.past u } })
    | _, _ => .next t
  | o => o
/-- Runs a code word, if a run-ahead path does not leave it behind or wait at it. -/
def State.runWord (s : State) (c : Code) : Out :=
  match s.d.pathAct c with
  | .run u => s.streams u (runCode c s)
  | .pass d => .next (s.setD d)
  | .hold => .next (s.hold .held)
/-- Runs the passes of the repetition buffer, where a run-ahead path may. -/
def State.runPass (s : State) (c : CoreId) (i : DeskId) : Out :=
  match s.d.gen with
  | some g => if g.skip.blocks (s.d.rep.useLeft s.d.kern.queues) then .next (s.hold .held) else s.streams {} (execRepPass c i s)
  | none => s.streams {} (execRepPass c i s)
/-- Fetches at the desk's address and runs what stands there; a fetch that fails traps at that address (R378). -/
def State.fetchRun (s : State) : Out :=
  let s := s.setD { s.d with len := 4, dict := false, xword := 0 }
  match s.fetchCode s.d s.d.pc with
  | .error e => .next (s.stopWith e)
  | .ok (s, c) => (s.setD (s.d.issuing c)).runWord c
/-- What the desk of a core does next: a report at its boundary (R356), a stop of replay (R389), a pass of its repetition buffer (R98),
the word that a leader forwarded (R111), a word that stands ready (R33), or the instruction at its address. -/
def State.issueDesk (s : State) (c : CoreId) (i : DeskId) : Out :=
  let d := s.d
  if d.mayReport then execAsyncTrap c i s
  else if d.stepDone then execReplayStop c i s
  else if d.repAt.isSome then s.runPass c i
  else match d.latch with
    | some (w, h) => s.runWord (latched w h)
    | none =>
      match d.gang with
      | .follower _ => if d.inStream then execGangForward c s else s.fetchRun
      | _ => s.fetchRun
/-- A core issues from its desk, if that is ready (R15). -/
def State.issue (s : State) (c : CoreId) : Out :=
  let k := s.coreAt c
  let s := { s with core := c, desk := k.desk }
  -- copies of an exchange that are still under way go on by some units (R258, R259)
  let s := s.moves false
  if (k.at k.desk).ready && (!k.ganged || k.desk == 0) then s.issueDesk c k.desk else .next s

/-! ### What may happen -/

/-- An off-core reference that has issued and waits to be performed may be performed now; its desk is ready again once it is (R15, R16). -/
def State.retryRef (s : State) (c : CoreId) (i : DeskId) : Out :=
  let d := s.deskAt c i
  if d.wait != some .reference || !d.occ || d.stopped || d.parked then .next s
  else
    let k := s.coreAt c
    let idle := s.idle c
    match ({ s with core := c, desk := i }.setD { d with reports := [] }).issueDesk c i with
    | .next t =>
      let x := t.deskAt c i
      let t := t.setDeskAt c i { x with reports := d.reports ++ x.reports }
      .next ((t.setCoreAt c { t.coreAt c with desk := k.desk }).wakes idle c i)
    | o => o
/-- A KGET or JGATHER that a desk has at its pc reads some elements now and the others later (R280). -/
def State.glimpseAt (s : State) (c : CoreId) (i : DeskId) : State :=
  let k := s.coreAt c
  let d := k.at i
  let off := d.wait == some .reference
  if !d.occ || d.stopped || d.parked || d.gen.isSome || d.pend.isSome || d.cw.isSome || !d.reports.isEmpty || d.stepDone || d.repAt.isSome ||
      State.leaderFull { s with core := c, desk := i } || (d.wait.isSome && !off && d.wait != some .key) || (!off && k.desk != i) || (k.ganged && i != 0) then s
  else
    let idle := s.idle c
    let t := { s with core := c, desk := i }
    let t := match d.latch with
      | some (w, false) => t.glimpse w
      | some (_, true) => t
      | none => match d.gang with
        | .follower _ => t
        | _ => match t.fetchCode d d.pc with
          | .ok (t, .full w) => (t.setD (d.issuing (.full w))).glimpse w
          | _ => t
    -- an off-core reference that has left its core already moves no desk of it
    if off then (t.setCoreAt c { t.coreAt c with desk := k.desk }).wakes idle c i else t
/-- Desks. -/
def deskIds : List DeskId := [0, 1, 2, 3]
/-- Things that may happen at a core without anything from outside it. -/
def State.coreActs (s : State) (c : CoreId) : List (State → Out) :=
  [fun s => s.issue c, execDeskResume c, fun s => .next (s.l1Chance c), execJscatterPhase2 c, execKeyAccumulate c, fun s => .next (s.rebindLater c), execStageItemDispatch c, execResumeEntry c] ++
  deskIds.flatMap (fun i =>
    [fun s => s.retryRef c i, fun s => .next (s.glimpseAt c i), execLoadReturn c i, execWaiterReread c i, execQueueWatchdog c i, execGangWatchdog c i, execTileWatchdog c i, execMsgWatchdog c i,
     execIdleWake c i, execBrqResolve c i, execExecuteClear c i, execTcastDelivery c i, execRemoteCommandAccept c i] ++
    (List.range (s.deskAt c i).sq.length).map (fun n => execStorePerform c i n) ++
    (List.range (s.nmOf c i).length).flatMap (fun n => [execNmTranslationPhase c i n, execNmUpdatePhase c i n])) ++
  ([0, 1, 2, 3] : List (BitVec 2)).flatMap (fun n =>
    [execMatrixCommandStart c n, execMmaBlockCommit c n, execMatrixCommandComplete c n, execMatrixOperandFault c n, execRemoteCommandComplete c n])
/-- An engine by its number. -/
def engineNo (n : Nat) : EngineId :=
  if n < 128 then .copy (BitVec.ofNat 6 (n / 2)) (BitVec.ofNat 1 n) else if n < 132 then .coll (BitVec.ofNat 2 (n - 128)) else .gateway
/-- Things that may happen at the units outside the cores, and in the timetable. -/
def State.unitActs (s : State) : List (State → Out) :=
  s.sys.cards.flatMap (fun q => (List.range q.2.length).flatMap (fun i =>
    [execCardStart (engineNo q.1) i, execCardComplete (engineNo q.1) i, execCardFailure (engineNo q.1) i])) ++
  (s.allCards.filter (fun c => c.kind == 4)).map (fun c => execCollectiveInstance (c.owner.launch.getD 0) (cGroup c.raw) c.inst) ++
  s.sys.hots.map (fun h => execHotPromotion h.part h.head h.slot h.count) ++
  (List.range s.sys.net.length).map (fun i => execMessageArrival i) ++
  s.mem.waiters.map (fun w => execCwaitWake w.pa) ++
  s.mem.banks.flatMap (fun b => (b.2.tags.filter (·.due)).map (fun t => execTwinStep (BitVec.ofNat 52 (t.line * 64)))) ++
  s.parts.flatMap (fun p => p.2.queues.map (fun q => execLaunchTake (BitVec.ofNat 14 p.1) (BitVec.ofNat 4 q.1))) ++
  s.launches.flatMap (fun l =>
    [execSpanStart l.1, execLaunchComplete l.1, execDebugStop l.1, execDeadlinePass l.1,
     execLaunchFail l.1 ((Config.freeWord s.tick).setWidth 9) (Config.freeWord (s.tick + 1)) (BitVec.allOnes 64) 0] ++
    (List.range l.2.stages.length).flatMap (fun k =>
      [execBellComplete l.1 k (BitVec.ofNat 16 (Config.pickAt s.tick k)), execExchangeEnd l.1 k, execHangDetect l.1 k, execCheckpoint l.1 k])) ++
  s.parts.map (fun p => execMonitorSample (BitVec.ofNat 14 p.1) (BitVec.ofNat 5 (Config.pickAt s.tick p.1)) (Config.freeWord s.tick)) ++
  s.mem.asked.map (fun q => execL2Fill (BitVec.ofNat 52 (q.1 * 64))) ++
  [execRollCall, fun s => .next s.tlbChance]
/-- Everything that may happen next without anything from outside: the host, the run-time's choices, errors and the management port come by
`turns` alone (log 3). -/
def State.acts (s : State) : List (State → Out) :=
  s.cores.flatMap (fun c => s.coreActs (BitVec.ofNat 10 c.1)) ++ s.unitActs

/-! ### The step -/

/-- What may happen to a module without power: a cold reset, and what the management controller serves in its own power domain (R404). -/
def servesOff : Instr → Bool
  | .coldReset => true
  | .mgmtReset => true
  | .pldmMonitor _ => true
  | .spdmRequest _ _ => true
  | .firmwareUpdate port _ => port
  | _ => false
/-- One step: the next of the moves laid down, or any that may happen.  Without power the management controller alone serves (R404, R405). -/
def step (s : State) : Host.Outcome State Fault Refusal :=
  let t := { s with tick := s.tick + 1, turns := s.turns.drop 1 }
  match s.turns with
  | .issue c :: _ => if s.sys.off then .next t else t.issue c
  | .event i :: _ => if s.sys.off && !servesOff i then .next t else exec i t
  | [] =>
    if s.sys.off then .next t
    else
      let as := t.acts
      match as[Config.pick t.tick % as.length]? with
      | some f => f t
      | none => .next t

/-! ### One word placed (the host's probe) -/

/-- Where a placed word stands. -/
def probePc : Word := 0x1000
/-- A memory whose first GiB is mapped to itself, readable, writable and executable, through tables at 1 MiB. -/
def probeTables (m : Cells) : Cells :=
  cwrites (cwrites (cwrites m 0x100000 (natLe 0x101001 8)) 0x101000 (natLe 0x102001 8)) 0x102000 (natLe 0x83F 8)
/-- The desk that runs it: desk 0 of core 0, at the word's address, with nothing under way. -/
def Desk.probe (d : Desk) : Desk :=
  { d with
    occ := true, stopped := false, parked := false, pc := probePc, pend := none, walk := none, seen := [], cw := none, gen := none, grant := 0, rep := {}, latch := none
    wait := none, jump := none, cast := none, mark := none, reports := [], stepcnt := 0, gang := .none, fwd := [] }
/-- A state whose next step fetches and runs a word, its bits numbered as the operation table numbers them. -/
def State.withFetchWord (s : State) (nbits w : Nat) : State :=
  let k := s.coreAt 0
  let s := s.setCoreAt 0 { k.put 0 (k.at 0).probe with desk := 0 }
  let p := (s.deskAt 0 0).part
  let x := s.partAt p
  let s := s.setPart p { x with ptroot := 0x100001, sptroot := 0x100001 }
  let bytes := cwrites (probeTables s.mem.bytes) probePc.toNat (bytesOf w (max 4 (nbits / 8)))
  { s with
    core := 0, desk := 0, turns := [.issue 0]
    mem := { s.mem with bytes := bytes, tlbs := [], walks := [], poison := s.mem.poison.filter (· != 0x40), badMac := s.mem.badMac.filter (· != 0x40), keyOf := tdel s.mem.keyOf 0x40 }
    sys := { s.sys with off := false } }

end Sys2Proof.Machine
end

