-- ==== Sys2Proof/Safety.lean ====
section
/-! DEFINITION. What the claims speak of: a state whose memory is in canonical form, a run that does not stop, and when the desk that
moves issues freely.  On this hardware nothing ends the machine: what goes wrong in a program is a trap (R353), what goes wrong in a
launch is its failure (R339), a module without power waits for its cold reset (R405), and all of them are next states. -/

namespace Sys2Proof.Machine

/-- A state that has power and whose memory is in canonical form. -/
def State.Safe (s : State) : Prop := s.sys.off = false ∧ Memory.wf s.mem.bytes = true

/-- `n` steps from a state all answer a next state. -/
def SafeRun : Nat → State → Prop
  | 0, _ => True
  | n + 1, s => ∃ t, step s = .next t ∧ SafeRun n t

/-- The desk that moves issues freely: it runs on no run-ahead path, where some instructions are held (R104), and it leads no gang with a
full forwarding queue, where every instruction waits (R18). -/
def State.Issues (s : State) : Prop := s.d.gen = none ∧ s.leaderFull = false

/-- The instruction traps: the desk takes the trap and nothing else changes (R353). -/
def State.traps (s : State) (c : Cause) (x : Word) (acc : BitVec 2) : State := s.takeTrap c x acc none false

/-- Two states have the same bytes at every address. -/
def SameBytes (s t : State) : Prop := ∀ a, cget t.mem.bytes a = cget s.mem.bytes a
/-- Two states have the same bytes outside some ranges of physical addresses, each a first address and a length. -/
def SameBytesOutside (s t : State) (ps : List Part) : Prop :=
  ∀ a, (∀ p ∈ ps, a < p.pa.toNat ∨ p.pa.toNat + p.n ≤ a) → cget t.mem.bytes a = cget s.mem.bytes a

end Sys2Proof.Machine
end

