-- ==== Sys2Proof/Certificates/Slice0/Obligations.lean ====
section
/-! DEFINITION. The statements for the provers: one `def Obligations.<Name> : Prop` each.  Every instruction and event has a statement that it
completes; the vocabulary of the statements (tables of values, conditions, addresses) is in the namespace `Sys2Proof.Claims`. -/

namespace Sys2Proof.Claims
end Sys2Proof.Claims
open Sys2Proof Sys2Proof.Machine Sys2Proof.Claims

/-! ### Scalar arithmetic, predicates, fields (R89 to R91, R143, R286) -/

/-- The i-th of some values. -/
def Sys2Proof.Claims.arg (x : List Word) (i : Nat) : Word := x.getD i 0
/-- 1 or 0. -/
def Sys2Proof.Claims.flag (b : Bool) : Word := if b then 1 else 0

/-- The scalar instructions by the spec's tables (R89, R90, R91, R286): the guard, the g sources in field order, the destination, and the
value written, from the desk and the sources. -/
def Sys2Proof.Claims.scalarRule : Instr → Option (Guard × List GReg × GReg × (Desk → List Word → Word))
  | .add g b a d => some (g, [a, b], d, fun _ x => arg x 0 + arg x 1)
  | .sub g b a d => some (g, [a, b], d, fun _ x => arg x 0 - arg x 1)
  | .mul g b a d => some (g, [a, b], d, fun _ x => arg x 0 * arg x 1)
  | .mulh g b a d => some (g, [a, b], d, fun _ x => BitVec.ofInt 64 ((arg x 0).toInt * (arg x 1).toInt / 2 ^ 64))
  | .mulhU g b a d => some (g, [a, b], d, fun _ x => BitVec.ofNat 64 ((arg x 0).toNat * (arg x 1).toNat / 2 ^ 64))
  | .div g b a d => some (g, [a, b], d, fun _ x => if arg x 1 = 0 then BitVec.allOnes 64 else BitVec.ofInt 64 ((arg x 0).toInt.tdiv (arg x 1).toInt))
  | .divU g b a d => some (g, [a, b], d, fun _ x => if arg x 1 = 0 then BitVec.allOnes 64 else BitVec.ofNat 64 ((arg x 0).toNat / (arg x 1).toNat))
  | .rem g b a d => some (g, [a, b], d, fun _ x => if arg x 1 = 0 then arg x 0 else BitVec.ofInt 64 ((arg x 0).toInt.tmod (arg x 1).toInt))
  | .remU g b a d => some (g, [a, b], d, fun _ x => if arg x 1 = 0 then arg x 0 else BitVec.ofNat 64 ((arg x 0).toNat % (arg x 1).toNat))
  | .and g b a d => some (g, [a, b], d, fun _ x => arg x 0 &&& arg x 1)
  | .or g b a d => some (g, [a, b], d, fun _ x => arg x 0 ||| arg x 1)
  | .xor g b a d => some (g, [a, b], d, fun _ x => arg x 0 ^^^ arg x 1)
  | .shl g b a d => some (g, [a, b], d, fun _ x => arg x 0 <<< ((arg x 1).toNat % 64))
  | .shr g b a d => some (g, [a, b], d, fun _ x => arg x 0 >>> ((arg x 1).toNat % 64))
  | .sha g b a d => some (g, [a, b], d, fun _ x => (arg x 0).sshiftRight ((arg x 1).toNat % 64))
  | .slt g b a d => some (g, [a, b], d, fun _ x => flag ((arg x 0).slt (arg x 1)))
  | .sltU g b a d => some (g, [a, b], d, fun _ x => flag ((arg x 0).ult (arg x 1)))
  | .min g b a d => some (g, [a, b], d, fun _ x => if (arg x 1).slt (arg x 0) then arg x 1 else arg x 0)
  | .minU g b a d => some (g, [a, b], d, fun _ x => if (arg x 1).ult (arg x 0) then arg x 1 else arg x 0)
  | .max g b a d => some (g, [a, b], d, fun _ x => if (arg x 0).slt (arg x 1) then arg x 1 else arg x 0)
  | .maxU g b a d => some (g, [a, b], d, fun _ x => if (arg x 0).ult (arg x 1) then arg x 1 else arg x 0)
  | .clz g a d => some (g, [a], d, fun _ x => clz64 (arg x 0))
  | .ctz g a d => some (g, [a], d, fun _ x => ctz64 (arg x 0))
  | .popc g a d => some (g, [a], d, fun _ x => popc64 (arg x 0))
  | .extB g a d => some (g, [a], d, fun _ x => ((arg x 0).setWidth 8).signExtend 64)
  | .extH g a d => some (g, [a], d, fun _ x => ((arg x 0).setWidth 16).signExtend 64)
  | .extW g a d => some (g, [a], d, fun _ x => ((arg x 0).setWidth 32).signExtend 64)
  | .extBu g a d => some (g, [a], d, fun _ x => ((arg x 0).setWidth 8).setWidth 64)
  | .extHu g a d => some (g, [a], d, fun _ x => ((arg x 0).setWidth 16).setWidth 64)
  | .extWu g a d => some (g, [a], d, fun _ x => ((arg x 0).setWidth 32).setWidth 64)
  | .sel c b a d => some (0, [a, b], d, fun k x => if k.guard c then arg x 0 else arg x 1)
  | .addImm i a d => some (0, [a], d, fun _ x => arg x 0 + i.signExtend 64)
  | .andImm i a d => some (0, [a], d, fun _ x => arg x 0 &&& i.signExtend 64)
  | .orImm i a d => some (0, [a], d, fun _ x => arg x 0 ||| i.signExtend 64)
  | .xorImm i a d => some (0, [a], d, fun _ x => arg x 0 ^^^ i.signExtend 64)
  | .shlImm n a d => some (0, [a], d, fun _ x => arg x 0 <<< n.toNat)
  | .shrImm n a d => some (0, [a], d, fun _ x => arg x 0 >>> n.toNat)
  | .shaImm n a d => some (0, [a], d, fun _ x => (arg x 0).sshiftRight n.toNat)
  | .sltImm i a d => some (0, [a], d, fun _ x => flag ((arg x 0).slt (i.signExtend 64)))
  | .lui i d => some (0, [], d, fun _ _ => (i ++ 0#12).signExtend 64)
  | .addpc i d => some (0, [], d, fun k _ => k.pc + (i ++ 0#12).signExtend 64)
  | .pcnt g a d => some (g, [], d, fun k _ => popc64 (k.getP a))
  | .pfirst g a d => some (g, [], d, fun k _ => ctz64 (k.getP a))
  | .pall g a d => some (g, [], d, fun k _ => flag (k.getP a == BitVec.allOnes 64))
  | .pnone g a d => some (g, [], d, fun k _ => flag (k.getP a == 0))
  | .khash g b a d => some (g, [a, b], d, fun _ x => let h := (arg x 0 ^^^ arg x 1) * 0x9E3779B97F4A7C15#64; h ^^^ (h >>> 29))
  | _ => none

/-- Part of O1. Every scalar instruction completes on every operand: where its register numbers are within the kernel's limits (R49), its ports have their entries and its
destination has room (R37), the next state has its value in the destination and nothing else changed but the pops, the poison of the sources in the destination, and the
retirement; where its guard selects it out, only the pops (R39). -/
def Sys2Proof.Claims.ScalarValues : Prop :=
  ∀ i g rs d f, scalarRule i = some (g, rs, d, f) → ∀ s xs k, s.Issues → s.d.limsG (rs ++ [d]) = .ok () → s.d.popsG rs = .ok (xs, k) →
    (s.d.guard g = true → k.roomG d = .ok ()) →
    exec i s = .next ((s.setD (if s.d.guard g then k.pushG d (f s.d (xs.map (·.1))) (xs.any (·.2)) else k)).retire)

/-- Part of O1. CLZ, CTZ and POPC count (R89): leading zeros and trailing zeros are 64 for 0, and otherwise place the highest and the lowest set bit; the number of set bits
of a value is that of its halves. -/
def Sys2Proof.Claims.BitCounts : Prop :=
  (clz64 0 = 64 ∧ ctz64 0 = 64 ∧ popc64 0 = 0) ∧
  (∀ x : Word, x ≠ 0 → (clz64 x).toNat < 64 ∧ x.getLsbD (63 - (clz64 x).toNat) = true ∧ ∀ j, 63 - (clz64 x).toNat < j → x.getLsbD j = false) ∧
  (∀ x : Word, x ≠ 0 → (ctz64 x).toNat < 64 ∧ x.getLsbD (ctz64 x).toNat = true ∧ ∀ j, j < (ctz64 x).toNat → x.getLsbD j = false) ∧
  (∀ x : Word, (popc64 x).toNat = ((List.range 64).filter (fun j => x.getLsbD j)).length)
/-- O1. Every scalar arithmetic instruction writes the value of its table, and CLZ, CTZ, POPC count. Where the spec leaves a point open it rests on the model's own choice:
log 16. -/
def Obligations.ScalarResult : Prop := ScalarValues ∧ BitCounts


/-- The bit-field instructions (R143): the guard, the g sources in field order, the destination, and bit `j` of the value written, from the
sources. -/
def Sys2Proof.Claims.fieldRule : Instr → Option (Guard × List GReg × GReg × (List Word → Nat → Bool))
  | .bfx g b a d => some (g, [a, b], d, fun x j =>
    let n := (arg x 1).toNat % 256; let p := (arg x 1).toNat / 256 % 256
    decide (p ≤ 63) && decide (j < n) && (arg x 0).getLsbD (p + j))
  | .bfi g b a d => some (g, [a, b, d], d, fun x j =>
    let n := (arg x 1).toNat % 256; let p := (arg x 1).toNat / 256 % 256
    if p ≤ j ∧ j < p + n then (arg x 0).getLsbD (j - p) else (arg x 2).getLsbD j)
  | .fshl g b a d => some (g, [a, b, d], d, fun x j =>
    let n := (arg x 1).toNat % 64
    if j < n then (arg x 0).getLsbD (64 + j - n) else (arg x 2).getLsbD (j - n))
  | .fshr g b a d => some (g, [a, b, d], d, fun x j =>
    let n := (arg x 1).toNat % 64
    if j + n < 64 then (arg x 2).getLsbD (j + n) else (arg x 0).getLsbD (j + n - 64))
  | .brev g a d => some (g, [a], d, fun x j => (arg x 0).getLsbD (63 - j))
  | _ => none

/-- O2. BFX, BFI, FSHL, FSHR and BREV, bit by bit (R143): the length is b[7:0] and the position b[15:8], the higher bits of b are ignored, the result is exact and no flag
changes; BFI, FSHL and FSHR read their destination too. Each completes on every operand: where its register numbers are within the kernel's limits (R49), its ports have
their entries and its destination has room (R37). Where the spec leaves a point open it rests on the model's own choice: log 16. -/
def Obligations.BitFields : Prop :=
  ∀ i g rs d f, fieldRule i = some (g, rs, d, f) → ∀ s xs k, s.Issues → s.d.limsG (rs ++ [d]) = .ok () → s.d.popsG rs = .ok (xs, k) →
    (s.d.guard g = true → k.roomG d = .ok ()) →
    ∃ v : Word, (∀ j, j < 64 → v.getLsbD j = f (xs.map (·.1)) j) ∧
      exec i s = .next ((s.setD (if s.d.guard g then k.pushG d v (xs.any (·.2)) else k)).retire)

/-- The predicate instructions (R91): the guard, the g sources, the destination, and the value written. -/
def Sys2Proof.Claims.predRule : Instr → Option (Guard × List GReg × PReg × (Desk → List Word → Word))
  | .pcmpEq g b a d => some (g, [a, b], d, fun _ x => if arg x 0 = arg x 1 then BitVec.allOnes 64 else 0)
  | .pcmpNe g b a d => some (g, [a, b], d, fun _ x => if arg x 0 ≠ arg x 1 then BitVec.allOnes 64 else 0)
  | .pcmpLt g b a d => some (g, [a, b], d, fun _ x => if (arg x 0).slt (arg x 1) then BitVec.allOnes 64 else 0)
  | .pcmpGe g b a d => some (g, [a, b], d, fun _ x => if (arg x 0).slt (arg x 1) then 0 else BitVec.allOnes 64)
  | .pcmpLtU g b a d => some (g, [a, b], d, fun _ x => if (arg x 0).ult (arg x 1) then BitVec.allOnes 64 else 0)
  | .pcmpGeU g b a d => some (g, [a, b], d, fun _ x => if (arg x 0).ult (arg x 1) then 0 else BitVec.allOnes 64)
  | .pand g b a d => some (g, [], d, fun k _ => k.getP a &&& k.getP b)
  | .por g b a d => some (g, [], d, fun k _ => k.getP a ||| k.getP b)
  | .pxor g b a d => some (g, [], d, fun k _ => k.getP a ^^^ k.getP b)
  | .pandn g b a d => some (g, [], d, fun k _ => k.getP a &&& ~~~(k.getP b))
  | .pnot g a d => some (g, [], d, fun k _ => ~~~(k.getP a))
  | .pmov g a d => some (g, [], d, fun k _ => k.getP a)
  | _ => none

/-- Part of O3. Every predicate instruction completes: the next state has its value in the predicate, and nothing else changed; PCMP needs clean operands where its guard
selects it. -/
def Sys2Proof.Claims.PredicateValues : Prop :=
  ∀ i g rs d f, predRule i = some (g, rs, d, f) → ∀ s xs k, s.Issues → s.d.limsG rs = .ok () → s.d.popsG rs = .ok (xs, k) →
    (s.d.guard g = true → xs.any (·.2) = false) →
    exec i s = .next ((s.setD (if s.d.guard g then k.setP d (f s.d (xs.map (·.1))) else k)).retire)
/-- Part of O3. PCMP of a poisoned operand that its guard selects traps with cause 0x1C0 and writes nothing (R91, R365): XVAL names the first poisoned operand. -/
def Sys2Proof.Claims.PcmpPoison : Prop :=
  ∀ i g a b d f, predRule i = some (g, [a, b], d, f) → ∀ s, s.Issues → s.d.limsG [a, b] = .ok () → s.d.kern.queues = false →
    s.d.guard g = true → (s.d.poisonG a || s.d.poisonG b) = true →
    exec i s = .next (s.traps 0x1C0 (0x8000000000000000#64 ||| (if s.d.poisonG a then a else b).setWidth 64) 0)
/-- O3. Every predicate instruction writes its predicate; PCMP of poison traps. -/
def Obligations.PredicateResult : Prop := PredicateValues ∧ PcmpPoison


/-! ### Branches, jumps, loops (R92 to R97), queue ports (R101), guard slots (R106), run-ahead (R103 to R105) -/

/-- The condition a branch names (R92): eq, ne, lt, ge, lt.u, ge.u. -/
def Sys2Proof.Claims.condOn (c : BitVec 3) (x y : Word) : Bool :=
  match c.toNat with
  | 0 => x == y
  | 1 => x != y
  | 2 => decide (x.toInt < y.toInt)
  | 3 => decide (y.toInt ≤ x.toInt)
  | 4 => decide (x.toNat < y.toNat)
  | _ => decide (y.toNat ≤ x.toNat)
/-- The low 64 / 2^w bits of a predicate (R93). -/
def Sys2Proof.Claims.bpLow (w : BitVec 2) (x : Word) : Nat := x.toNat % 2 ^ (64 / 2 ^ w.toNat)

/-- Branches within the instruction stream (R92, R93, R112, R113): the g sources, whether it is taken, its offset in halfwords,
and whether the rule is for a desk outside a gang. -/
def Sys2Proof.Claims.branchRule : Instr → Option (List GReg × (Desk → List Word → Bool) × Word × Bool)
  | .b o _ c b a => some ([a, b], fun _ x => condOn c (arg x 0) (arg x 1), o.signExtend 64, false)
  | .brd o _ c b a => some ([a, b], fun _ x => condOn c (arg x 0) (arg x 1), o.signExtend 64, true)
  | .bpAny o _ w p => some ([], fun k _ => bpLow w (k.getP p) != 0, o.signExtend 64, false)
  | .bpAll o _ w p => some ([], fun k _ => bpLow w (k.getP p) == 2 ^ (64 / 2 ^ w.toNat) - 1, o.signExtend 64, false)
  | .bpNone o _ w p => some ([], fun k _ => bpLow w (k.getP p) == 0, o.signExtend 64, false)
  | .rejoin o => some ([], fun _ _ => true, o.signExtend 64, true)
  | _ => none

/-- Part of O4. Every branch completes on clean operands (R92, R93; BRD and REJOIN outside a gang, R112, R113): it is taken where its condition holds, and then goes to its
own address plus twice its offset (R35); nothing is written. -/
def Sys2Proof.Claims.BranchTargets : Prop :=
  ∀ i rs f o solo, branchRule i = some (rs, f, o, solo) → ∀ s xs k, s.Issues → s.d.pc.getLsbD 0 = false → (solo = true → s.d.gang = .none) →
    s.d.limsG rs = .ok () → s.d.popsG rs = .ok (xs, k) → xs.any (·.2) = false →
    exec i s = .next ((s.setD (if f s.d (xs.map (·.1)) then { k with jump := some (s.d.pc + 2 * o, false) } else k)).retire)

/-- Part of O4. JAL and JR complete (R94): the destination takes the address of the next instruction, and the desk goes to the target; a link other than g0 makes the jump a
call, which ends no loop (R96). An odd target of JR traps with 0x005 and writes nothing (R30). -/
def Sys2Proof.Claims.JumpTargets : Prop :=
  (∀ o d s, s.Issues → s.d.pc.getLsbD 0 = false → s.d.limG d = .ok () → s.d.roomG d = .ok () →
    exec (.jal o d) s = .next ((s.setD ({ s.d with jump := some (s.d.pc + 2 * o.signExtend 64, d != 0#5) }.pushG d
      (s.d.pc + BitVec.ofNat 64 s.d.len) false)).retire)) ∧
  (∀ a d s t k, s.Issues → s.d.limsG [a, d] = .ok () → s.d.popsG [a] = .ok ([(t, false)], k) → k.roomG d = .ok () →
    exec (.jr a d) s = if t.getLsbD 0 then .next (s.traps 0x005 t 0) else
      .next ((s.setD ({ k with jump := some (t, d != 0#5) }.pushG d (s.d.pc + BitVec.ofNat 64 s.d.len) false)).retire))
/-- O4. Branches and jumps go where their condition, offset or register sends them. -/
def Obligations.BranchResult : Prop := BranchTargets ∧ JumpTargets


/-- The loops: id, body length in halfwords, and where the count comes from (R95). -/
def Sys2Proof.Claims.loopRule : Instr → Option (BitVec 1 × BitVec 14 × List GReg × (List Word → Word))
  | .loop l r i => some (i, l, [r], fun x => arg x 0)
  | .loopi l c i => some (i, l, [], fun _ => c.setWidth 64)
  | _ => none
/-- Part of O5. A LOOP with a count from 1 to 2^32 - 1 that keeps the nesting (R97) opens its loop: body from the next instruction to twice the length after it, count as
given, and the body starts. With count 0 the body is skipped; with a count above it traps with 0x009 (R95). -/
def Sys2Proof.Claims.LoopStart : Prop :=
  ∀ i id l rs f, loopRule i = some (id, l, rs, f) → ∀ s xs k, s.Issues → s.d.limsG rs = .ok () → s.d.popsG rs = .ok (xs, k) →
    xs.any (·.2) = false → ∀ c, f (xs.map (·.1)) = c → ∀ start stop, start = s.d.pc + BitVec.ofNat 64 s.d.len → stop = start + 2 * l.setWidth 64 →
    exec i s =
      if 2 ^ 32 ≤ c.toNat then .next (s.traps 0x009 c 0)
      else if c = 0 then .next ((s.setD (k.skipTo stop)).retire)
      else if (if id = 0#1 then s.d.lc[1] else s.d.lc[0]).broken s.d.pc start stop then .next (s.traps 0x007 stop 0)
      else .next ((s.setD { k with
        lc := if id = 0#1 then #v[⟨c.setWidth 32, start, stop, true, s.d.pc⟩, s.d.lc[1]]
          else #v[s.d.lc[0], ⟨c.setWidth 32, start, stop, true, s.d.pc⟩]
        jump := some (start, true) }).retire)

/-- Part of O5. Where an instruction that completes falls through to the end of a loop's body from inside it (R95): with a count above 1 the count goes down by one and the
desk goes to the start of the body; with a count of 1 or 0 the loop ends and the desk goes on at the end. Elsewhere it goes to the next instruction. The other loop is not
active here. Where two loops share an end (R97), the inner one, which starts later, is checked first, and the outer one as if alone only where the inner one ends. A taken
transfer from inside a body to outside it ends its loop with count 0, a call does not (R96). -/
def Sys2Proof.Claims.LoopEnd : Prop :=
  (∀ (d : Desk) (id : BitVec 1) (l m : Loop), d.jump = none → (if id = 0#1 then d.lc = #v[l, m] else d.lc = #v[m, l]) → m.active = false →
    ∀ next, next = d.pc + BitVec.ofNat 64 d.len →
    let ends := l.active = true ∧ l.stop = next ∧ l.start.toNat ≤ d.pc.toNat ∧ d.pc.toNat < l.stop.toNat
    (ends → 1 < l.count.toNat → d.advance.pc = l.start ∧
      (if id = 0#1 then d.advance.lc[0] else d.advance.lc[1]) = { l with count := l.count - 1 }) ∧
    (ends → l.count.toNat ≤ 1 → d.advance.pc = next ∧
      (if id = 0#1 then d.advance.lc[0] else d.advance.lc[1]) = { l with count := 0, active := false }) ∧
    (¬ ends → d.advance.pc = next ∧ d.advance.lc = d.lc)) ∧
  (∀ (d : Desk) (id : BitVec 1) (inner outer : Loop), d.jump = none → (if id = 0#1 then d.lc = #v[inner, outer] else d.lc = #v[outer, inner]) →
    inner.active = true → outer.active = true → ∀ next, next = d.pc + BitVec.ofNat 64 d.len → inner.stop = next → outer.stop = next →
    outer.start.toNat < inner.start.toNat → inner.start.toNat ≤ d.pc.toNat → d.pc.toNat < next.toNat →
    let lcs (i o : Loop) : Vector Loop 2 := if id = 0#1 then #v[i, o] else #v[o, i]
    (1 < inner.count.toNat → d.advance.pc = inner.start ∧ d.advance.lc = lcs { inner with count := inner.count - 1 } outer) ∧
    (inner.count.toNat ≤ 1 → 1 < outer.count.toNat → d.advance.pc = outer.start ∧
      d.advance.lc = lcs { inner with count := 0, active := false } { outer with count := outer.count - 1 }) ∧
    (inner.count.toNat ≤ 1 → outer.count.toNat ≤ 1 → d.advance.pc = next ∧
      d.advance.lc = lcs { inner with count := 0, active := false } { outer with count := 0, active := false })) ∧
  (∀ (d : Desk) t call, d.jump = some (t, call) → d.advance.pc = t ∧ ∀ i, (h : i < 2) →
    let l := d.lc[i]
    let inside (a : Word) : Prop := l.start.toNat ≤ a.toNat ∧ a.toNat < l.stop.toNat
    (call = true → d.advance.lc[i] = l) ∧
    (call = false → l.active = true → inside d.pc → ¬ inside t → d.advance.lc[i] = { l with count := 0, active := false }) ∧
    (call = false → (l.active = false ∨ ¬ inside d.pc ∨ inside t) → d.advance.lc[i] = l))
/-- O5. LOOP and LOOPI open, skip or refuse a body, and a body ends by its count. Where the spec leaves a point open it rests on the model's own choice: log 14, 15. -/
def Obligations.LoopResult : Prop := LoopStart ∧ LoopEnd


/-- Part of O6. The queue and slot instructions complete (R101, R106): QFLUSH empties its port; QCNT counts the confirmed entries of its port; PENDK makes a slot pending.
Without `.queues on`, QFLUSH and QCNT trap with 0x001. -/
def Sys2Proof.Claims.QueuePorts : Prop :=
  (∀ n s, s.Issues → exec (.qflush n) s =
    if s.d.kern.queues = false then .next (s.traps 0x001 s.d.xword 0)
    else if h : n.toNat < 4 then .next ((s.setD { s.d with q := s.d.q.set n.toNat [] h }).retire)
    else .next ((s.setD { s.d with vq := s.d.vq.set (n.toNat - 4) [] (by omega) }).retire)) ∧
  (∀ n d s, s.Issues → s.d.kern.queues = true → s.d.limG d = .ok () → s.d.roomG d = .ok () →
    exec (.qcnt n d) s = .next ((s.setD (s.d.pushG d (BitVec.ofNat 64 (if h : n.toNat < 4 then (s.d.q[n.toNat].filter (fun e => !e.tent)).length
      else ((s.d.vq[n.toNat - 4]'(by omega)).filter (fun e => !e.tent)).length)) false)).retire)) ∧
  (∀ n s, s.Issues → exec (.pendk n) s = .next ((s.setD { s.d with k := s.d.k.set n.toNat .pending n.isLt }).retire))

/-- Part of O6. SETK gives its slot bit 0 of its predicate (R106), and what the desk that issues it gave its units under that slot is bound (R107): in the matrix queue and
the key unit of the core no command of the desk still waits for the slot, and memory and every other slot stay as they are. -/
def Sys2Proof.Claims.SlotSet : Prop :=
  ∀ a n s, s.Issues → s.d.gang = .none → ∃ t, exec (.setk a n) s = .next t ∧
    t.d.k = s.d.k.set n.toNat (if (s.d.getP a).getLsbD 0 then .yes else .no) n.isLt ∧ t.mem.bytes = s.mem.bytes ∧
    (∀ x ∈ t.c.mx.queue, x.desk = s.desk → x.bind ≠ .slot n) ∧ (∀ x ∈ t.c.key.held, x.desk = s.desk → x.bind ≠ .slot n)
/-- O6. QFLUSH, QCNT, PENDK and SETK do what their tables say. -/
def Obligations.QueueAndSlots : Prop := QueuePorts ∧ SlotSet


/-- Part of O7. BRQ (R103): with a confirmed entry at the head of its port it is an ordinary branch that compares the entry with its operand and pops nothing of the port;
with none it opens a run-ahead path, the one its likely bit names, and keeps what the branch compares. An operand from another port is popped as the path opens. -/
def Sys2Proof.Claims.BrqBranch : Prop :=
  ∀ o l c b q s k y, s.Issues → s.d.kern.queues = true → s.d.pc.getLsbD 0 = false → s.d.limG b = .ok () → s.d.popG b = .ok ⟨y, false, k⟩ →
    (∀ e rest, s.d.q[q.toNat] = e :: rest → e.tent = false → e.poison = false → exec (.brq o l c b q) s =
      .next ((s.setD (if condOn c e.val y then { k with jump := some (s.d.pc + 2 * o.signExtend 64, false) } else k)).retire)) ∧
    (s.d.q[q.toNat] = [] → s.d.isPort b = false → exec (.brq o l c b q) s =
      let d := s.d.openGen (.brq q c y none (s.d.pc + 2 * o.signExtend 64) (s.d.pc + BitVec.ofNat 64 s.d.len) (l == 1#1))
      .next ((s.setD (if l = 1#1 then { d with jump := some (s.d.pc + 2 * o.signExtend 64, false) } else d)).retire)) ∧
    (s.d.q[q.toNat] = [] → s.d.isPort b = true → ∃ t g, exec (.brq o l c b q) s = .next t ∧ t.d.q = k.q ∧ t.d.gen = some g ∧
      g.kind = .brq q c y (some (portIx b)) (s.d.pc + 2 * o.signExtend 64) (s.d.pc + BitVec.ofNat 64 s.d.len) (l == 1#1) ∧ g.was = s.d.shadow ∧
      (l = 1#1 → t.d.pc = s.d.pc + 2 * o.signExtend 64))

/-- Part of O7. What a discard undoes (R105): the registers of the mode, predicates, loops, the pc and the flags stand as they did where the path began, each port has the
entries that it popped again before the confirmed ones it holds, no load or entry of the path remains, and the forwarded words that a follower's path has executed wait in
their order to be executed again (R111). -/
def Sys2Proof.Claims.PathUndone : Prop :=
  ∀ (d : Desk) g, d.gen = some g →
    let u := d.discardGen
    u.gen = none ∧ u.shadow = g.was ∧ u.fwd = g.taken ++ d.fwd ∧ (∀ p, u.pend = some p → p.tent = false) ∧
    (∀ i, (h : i < 4) → u.q[i] = g.popQ[i] ++ d.q[i].filter (fun e => !e.tent)) ∧
    (∀ i, (h : i < 4) → u.vq[i] = g.popV[i] ++ d.vq[i].filter (fun e => !e.tent))

/-- Part of O7. The run-ahead events (R105, R411) and the queue watchdog (R102). When the head of the port arrives, clean: where the condition agrees with the path, the path
is confirmed, and the words that a leader held back go to its followers in order; where it does not, everything that it did is undone, but for the branch's own pop and,
of a follower, the branch's own word, and the desk goes to the other path. Where an instruction waits to push to a full port and the other stream has made room by running
ahead of it, what ran ahead is undone and its place is granted, so that it and the rest take effect in program order. A desk whose instruction waits on a port takes
0x0C8, which names the port and whether it is to be popped, also while a path runs ahead of that wait, whether or not the path itself waits. -/
def Sys2Proof.Claims.RunAheadEvents : Prop :=
  (∀ c i s g q cc rhs own taken fall likely e, (s.deskAt c i).gen = some g → g.kind = .brq q cc rhs own taken fall likely →
    (s.deskAt c i).head q = some e → e.poison = false →
      let d := s.deskAt c i
      let g' : Gen := { g with taken := g.taken.drop 1 }
      let k : Gen := match own with | some j => { g' with popQ := g'.popQ.set j.toNat (g'.popQ[j.toNat].drop 1) } | none => g'
      let v := ({ d with gen := some k }).discardGen
      let u := { v with wait := none, icnt := v.icnt + 1 }
      (condOn cc e.val rhs = likely → exec (.brqResolve c i) s =
        .next ((s.release c i g.breaks g.sent).setDeskAt c i { d.confirmGen with wait := none })) ∧
      (condOn cc e.val rhs ≠ likely → exec (.brqResolve c i) s =
        .next ((s.release c i ((g.breaks.take 1).filter (· == g.was.pc)) (g.sent.take 1)).setDeskAt c i
          (if likely then u.fall fall else { u with jump := some (taken, false) }.advance)))) ∧
  (∀ c i (s : State), (s.release c i [] [] = s) ∧ ∀ n ws w, (s.deskAt c i).gang = .leader n →
    s.release c i [] (ws ++ [w]) = (s.release c i [] ws).forward c n w) ∧
  (∀ c i s g n e, (s.deskAt c i).gen = some g → g.kind = .behind n e → (s.deskAt c i).portRoom n = true →
    exec (.executeClear c i) s = .next (s.setDeskAt c i { (s.deskAt c i).discardGen with
      grant := (s.deskAt c i).discardGen.grant ||| (1#8 <<< n.toNat), wait := none })) ∧
  (∀ c i s n pop, ((s.deskAt c i).gen = none ∧ (s.deskAt c i).wait = some (.port n pop)) ∨
      (∃ g q cc rhs own taken fall likely, (s.deskAt c i).gen = some g ∧ g.kind = .brq q cc rhs own taken fall likely ∧
        (s.deskAt c i).head q = none ∧ n.toNat = q.toNat ∧ pop = true) ∨
      (∃ g e, (s.deskAt c i).gen = some g ∧ g.kind = .behind n e ∧ (s.deskAt c i).portRoom n = false ∧ pop = false) →
    exec (.queueWatchdog c i) s =
      .next (({ s with core := c, desk := i }).takeTrap 0x0C8 (BitVec.ofNat 64 (n.toNat + if pop then 256 else 0)) 0 none false))
/-- O7. BRQ branches or opens a run-ahead path, which is confirmed or undone. Where the spec leaves a point open it rests on the model's own choice: log 17, 18, 112. -/
def Obligations.RunAhead : Prop := BrqBranch ∧ PathUndone ∧ RunAheadEvents


/-! ### The repetition buffer (R98, R99) and gangs (R109 to R114) -/

/-- Part of O8. REP outside a gang completes where its count is below 2^32 and the instructions after it can be recorded (R98): the buffer holds them with the stagger, and
its passes start where the count is not 0; with count 0 the body is skipped. -/
def Sys2Proof.Claims.RepStart : Prop :=
  ∀ m step a n s c k s' ws, s.Issues → s.d.gang = .none → s.d.rep.active = false → s.d.limG a = .ok () → s.d.popG a = .ok ⟨c, false, k⟩ →
    c.toNat < 2 ^ 32 → (s.setD k).recordRep k (s.d.pc + BitVec.ofNat 64 s.d.len) (n.toNat + 1) = .ok (s', ws) →
    ws.length = n.toNat + 1 ∧ exec (.rep m step a n) s =
      let d := { s'.d with rep := { words := ws, step := step, mask := m, count := c, active := c != 0, user := s.d.user } }
      .next ((s'.setD (if c = 0 then d.skipTo d.rep.stop else d)).retire)

/-- Part of O8. A pass over a one-instruction buffer (R98): where the instruction completes, it counts as one in user mode; while passes remain the next pass begins at its
address, and after the last the buffer is inactive and the desk stands at the end of the body. On pass i a register field that the mask names is moved forward by i times
the step, modulo 32. -/
def Sys2Proof.Claims.RepPass : Prop :=
  (∀ c i s w d', let x := { s with core := c, desk := i }
    x.d.repAt = some 0 → x.d.rep.words = [w] → repOne w (x.d.atWord 0 w) = .ok d' → d'.rep = (x.d.atWord 0 w).rep →
    x.d.rep.pass.toNat < x.d.rep.count.toNat → x.d.rep.count.toNat < 2 ^ 32 → (∀ l ∈ d'.lc.toList, l.active = false) →
    ∃ t, exec (.repPass c i) s = .next t ∧ (t.deskAt c i).v = d'.v ∧ (t.deskAt c i).gu = d'.gu ∧ (t.deskAt c i).icnt = (if x.d.user then d'.icnt + 1 else d'.icnt) ∧
      (t.deskAt c i).rep.pass = x.d.rep.pass + 1 ∧
      (if x.d.rep.pass.toNat + 1 < x.d.rep.count.toNat then (t.deskAt c i).pc = w.addr ∧ (t.deskAt c i).rep.active = true
       else (t.deskAt c i).pc = w.addr + BitVec.ofNat 64 w.len ∧ (t.deskAt c i).rep.active = false)) ∧
  (∀ (r : Rep) (w : RepWord) (v : VIns), w.both = false → v.op.readsA = true → v.op.readsB = true →
    let k := r.pass.toNat * r.step.toNat
    (r.stagger w v).d.toNat = (if r.mask.getLsbD 0 then (v.d.toNat + k) % 32 else v.d.toNat) ∧
    (r.stagger w v).a.toNat = (if r.mask.getLsbD 1 then (v.a.toNat + k) % 32 else v.a.toNat) ∧
    (r.stagger w v).b.toNat = (if r.mask.getLsbD 2 then (v.b.toNat + k) % 32 else v.b.toNat))
/-- O8. REP records its body and a pass runs it with staggered fields. Where the spec leaves a point open it rests on the model's own choice: log 100, 112, 113. -/
def Obligations.RepResult : Prop := RepStart ∧ RepPass


/-- Part of O9. A leader's GANG of n cores completes where they fit its cluster and the n - 1 next cores of its launch wait at their own (R109): they become its followers, a
port that their GANG names popped (R37), and it their leader; no byte of memory changes. A GANG of 0 offers the core and waits. GANG on a desk other than 0, or in a gang,
traps with 0x011, and one of 1, of more than 16, or past the cluster's end with 0x010. -/
def Sys2Proof.Claims.GangStart : Prop :=
  ∀ a s n k, s.d.gen = none → s.leaderFull = false → s.d.limG a = .ok () → s.d.popG a = .ok ⟨n, false, k⟩ →
    (s.desk ≠ 0 ∨ (s.d.gang ≠ .none ∧ s.d.gang ≠ .offered) → exec (.gang a) s = .next (s.traps 0x011 s.d.xword 0)) ∧
    (s.desk = 0 → s.d.gang = .none ∨ s.d.gang = .offered →
      (n = 0 → exec (.gang a) s = .next ((s.setD { s.d with gang := .offered }).hold .gangFollower)) ∧
      (n ≠ 0 → (n.toNat = 1 ∨ 16 < n.toNat ∨ 16 < s.core.toNat % 16 + n.toNat) → exec (.gang a) s = .next (s.traps 0x010 n 0)) ∧
      (2 ≤ n.toNat → n.toNat ≤ 16 → s.core.toNat % 16 + n.toNat ≤ 16 →
        (∀ c ∈ gangCores s.core n.toNat, (s.deskAt c 0).gang = .offered ∧ (s.deskAt c 0).wait = some .gangFollower ∧ (s.deskAt c 0).launch = s.d.launch) →
        ∃ t, exec (.gang a) s = .next t ∧ t.d.gang = .leader n.toNat ∧ t.mem = s.mem ∧ ∀ c ∈ gangCores s.core n.toNat,
          (t.deskAt c 0).gang = .follower s.core ∧ (t.deskAt c 0).pc = (s.deskAt c 0).advance.pc ∧ (t.deskAt c 0).fwd = [] ∧
          ∀ x, (s.deskAt c 0).popG ((s.deskAt c 0).fwdWord.1.extractLsb' 12 5) = .ok x → (t.deskAt c 0).q = x.d.q))

/-- Part of O9. A leader's UNGANG completes where every follower waits at it (R114): no core is in the gang any more, and each follower goes on after its own GANG. Outside a
gang UNGANG traps with 0x011 (R110). A leader's REJOIN completes where every detached follower has arrived at its label, or at UNGANG (R113): each is attached and goes on
at the label, as does the leader; attached followers that no forwarded BRD could detach keep their place in the stream. -/
def Sys2Proof.Claims.GangEnd : Prop :=
  (∀ s n, s.Issues → s.desk = 0 → s.d.gang = .leader n → s.core.toNat % 16 + n ≤ 16 → s.d.forwards = false →
    (∀ c ∈ gangCores s.core n, (s.deskAt c 0).gang = .follower s.core ∧ (s.deskAt c 0).wait = some .ungang) →
    ∃ t, exec .ungang s = .next t ∧ t.d.gang = .none ∧ t.mem = s.mem ∧
      ∀ c ∈ gangCores s.core n, (t.deskAt c 0).gang = .none ∧ (t.deskAt c 0).pc = (s.deskAt c 0).gangPc) ∧
  (∀ s, s.Issues → (s.d.gang = .none ∨ s.d.gang = .offered) → exec .ungang s = .next (s.traps 0x011 s.d.xword 0)) ∧
  (∀ o s n, s.Issues → s.desk = 0 → s.d.gang = .leader n → s.core.toNat % 16 + n ≤ 16 → s.d.pc.getLsbD 0 = false →
    (∀ c ∈ gangCores s.core n,
      (((s.deskAt c 0).gang = .follower s.core ∧ ∀ f ∈ (s.deskAt c 0).fwd, f.diverges = false) ∨ ((s.deskAt c 0).gang = .detached s.core ∧
        ((s.deskAt c 0).wait = some (.rejoin (s.d.pc + 2 * o.signExtend 64)) ∨ (s.deskAt c 0).wait = some .ungang)))) →
    ∃ t, exec (.rejoin o) s = .next t ∧ t.d.pc = s.d.pc + 2 * o.signExtend 64 ∧ t.mem = s.mem ∧
      ∀ c ∈ gangCores s.core n, (t.deskAt c 0).gang = .follower s.core ∧
        ((s.deskAt c 0).gang = .detached s.core → (t.deskAt c 0).pc = s.d.pc + 2 * o.signExtend 64))

/-- Part of O9. The gang events (R18, R110, R111). GANG_FORWARD hands an attached follower the oldest word of its queue, at the leader's address. A follower whose BRD goes
the other way than its leader's is detached (R112). GANG_WATCHDOG gives 0x012 to a leader that waits at GANG, to a member that waits at REJOIN, and to a core that stands
offered (R110), which is then in no gang. -/
def Sys2Proof.Claims.GangEvents : Prop :=
  (∀ c s l f rest, (s.deskAt c 0).gang = .follower l → (s.deskAt c 0).fwd = f :: rest → (s.deskAt c 0).inStream = true →
    (s.deskAt c 0).latch = none → exec (.gangForward c) s = .next (s.setDeskAt c 0 { s.deskAt c 0 with
      latch := some (f.word, f.half), pc := f.addr, len := f.len, dict := f.dict, xword := f.xval })) ∧
  (∀ o lk c b a s l f rest xs k, s.Issues → s.d.gang = .follower l → s.d.fwd = f :: rest → s.d.inStream = true → s.d.jump = none →
    s.d.pc.getLsbD 0 = false → s.d.limsG [a, b] = .ok () → s.d.popsG [a, b] = .ok (xs, k) → xs.any (·.2) = false →
    ∃ t, exec (.brd o lk c b a) s = .next t ∧
      t.d.gang = if condOn c (arg (xs.map (·.1)) 0) (arg (xs.map (·.1)) 1) = f.taken then .follower l else .detached l) ∧
  (∀ c i s, ((s.deskAt c i).wait = some .gangLeader ∨ ∃ x, (s.deskAt c i).wait = some (.rejoin x)) → exec (.gangWatchdog c i) s =
    .next (({ s with core := c, desk := i }).takeTrap 0x012 0 0 none false)) ∧
  (∀ c i s, (s.deskAt c i).gang = .offered → (s.deskAt c i).wait = some .gangFollower → exec (.gangWatchdog c i) s =
    .next (({ s.setDeskAt c i { s.deskAt c i with gang := .none } with core := c, desk := i }).takeTrap 0x012 0 0 none false))
/-- O9. GANG, UNGANG, BRD, REJOIN and the followers of a gang. Where the spec leaves a point open it rests on the model's own choice: log 101. -/
def Obligations.GangResult : Prop := GangStart ∧ GangEnd ∧ GangEvents


/-! ### Loads and stores (R188 to R193), the store queue, fences, the L1 and the banks (R194 to R196, R208, R213, R217, R380) -/

/-- A load by the spec (R189, R192, R193). -/
structure Sys2Proof.Claims.LoadRule where
  /-- guard -/
  g : Guard
  /-- g sources in field order -/
  rs : List GReg
  /-- v sources -/
  vs : List GReg
  /-- destination -/
  dst : GReg
  /-- v destination -/
  vec : Bool
  /-- bytes of a lane -/
  size : Nat
  /-- lanes: address and bit of the destination, from the desk, the g values and the v values -/
  lanes : Desk → List Word → List Vec → List (Word × Nat)
  /-- sign-extended -/
  signed : Bool
  /-- reads its home -/
  home : Bool
  /-- .ef -/
  ef : Bool
  /-- keeps the lanes that its guard leaves out -/
  merge : Bool

/-- The bytes of a size code (R189). -/
def Sys2Proof.Claims.widthOf (z : BitVec 3) : Nat := [1, 2, 4, 8, 1, 2, 4, 8].getD z.toNat 0
/-- The lanes below c that a guard selects (R117, R192). -/
def Sys2Proof.Claims.lanesOf (k : Desk) (g : Guard) (c : Nat) : List Nat := (List.range c).filter (k.sel g)
/-- The i-th of some vectors. -/
def Sys2Proof.Claims.varg (x : List Vec) (i : Nat) : Vec := x.getD i 0
/-- A gather lane's address: the base plus the sign-extended 32-bit index of the lane (R192). -/
def Sys2Proof.Claims.indexed (a : Word) (v : Vec) (e : Nat) : Word := a + ((v >>> (32 * e)).setWidth 32).signExtend 64

/-- The loads. -/
def Sys2Proof.Claims.loadRule : Instr → Option LoadRule
  | .ld o q z b d => some ⟨0, [b], [], d, false, widthOf z, fun _ x _ => [(arg x 0 + o.signExtend 64 * BitVec.ofNat 64 (widthOf z), 0)],
      decide (z.toNat < 4), q.getLsbD 0, q.getLsbD 1, false⟩
  | .vld o q b d => some ⟨0, [b], [], d, true, 64, fun _ x _ => [(arg x 0 + o.signExtend 64 * 64, 0)], false, q.getLsbD 0, q.getLsbD 1, false⟩
  | .lda g _ a d => some ⟨g, [a], [], d, false, 8, fun _ x _ => [(arg x 0, 0)], false, true, false, false⟩
  | .vlds g b a d => some ⟨g, [a, b], [], d, true, 4, fun k x _ => (lanesOf k g 16).map (fun e => (arg x 0 + BitVec.ofNat 64 e * arg x 1, 32 * e)),
      false, false, false, g != 0#4⟩
  | .vgathW g b a d => some ⟨g, [a], [b], d, true, 4, fun k x v => (lanesOf k g 16).map (fun e => (indexed (arg x 0) (varg v 0) e, 32 * e)),
      false, false, false, g != 0#4⟩
  | .vgathD g b a d => some ⟨g, [a], [b], d, true, 8, fun k x v => (lanesOf k g 8).map (fun e => (indexed (arg x 0) (varg v 0) e, 64 * e)),
      false, false, false, g != 0#4⟩
  | _ => none

/-- What the desk keeps of a load until it returns. -/
def Sys2Proof.Claims.LoadRule.pending (r : LoadRule) (ls : List LoadUnit) : Pending :=
  { dst := r.dst, vec := r.vec, units := ls, signed := r.signed, home := r.home, ef := r.ef, merge := r.merge, gs := r.rs, vs := r.vs,
    tent := false }

/-- v operands popped in field order: values and the desk after. -/
def Sys2Proof.Claims.popsV (k : Desk) : List GReg → Except Stop (List (Vec × Bool) × Desk)
  | [] => .ok ([], k)
  | r :: rs => match k.popV r with
    | .error e => .error e
    | .ok x => match popsV x.d rs with | .error e => .error e | .ok (ys, d) => .ok ((x.val, x.bad) :: ys, d)

/-- Part of O10. A load whose lanes translate is issued (R189, R192, R193, R15): the desk keeps it as its off-core reference, with the physical parts of each read that it
makes, and the core goes on with its next ready desk; a vector load whose every lane hits the L1 completes at once instead. LDA takes addresses that are multiples of 8. -/
def Sys2Proof.Claims.LoadIssue : Prop :=
  ∀ i r, loadRule i = some r → ∀ s xs k vs k' s' ls, s.Issues → s.d.limsG (r.rs ++ if r.vec then [] else [r.dst]) = .ok () →
    s.d.limsV (r.vs ++ if r.vec then [r.dst] else []) = .ok () → s.d.guard r.g = true ∨ r.vec = true → s.d.popsG r.rs = .ok (xs, k) → xs.any (·.2) = false →
    popsV k r.vs = .ok (vs, k') → vs.any (·.2) = false →
    s.d.await r.rs (r.vs ++ if r.merge then [r.dst] else []) (if r.vec then [] else [r.dst]) (if r.vec then [r.dst] else []) = .ok () →
    ((∃ g b a d, i = .lda g b a d) → (arg (xs.map (·.1)) 0).toNat % 8 = 0) →
    s.loadLanes s.d r.size (r.lanes s.d (xs.map (·.1)) (vs.map (·.1))) = .ok (s', ls) →
    let p := r.pending ls
    let hits := r.vec = true ∧ r.home = false ∧ s'.loadClear s'.core s'.desk p = true ∧
      ∀ l ∈ p.units, ∀ q ∈ l.parts, (s'.l1Part s'.core q).isSome = true
    (¬ hits → exec i s = .next ((s'.setD { s'.d with pend := some p, wait := some .memory }).switchDesk)) ∧
    (hits → ∀ t, s'.completeLoad p = .ok t → exec i s = .next t.retire)

/-- Byte j of a vector once the bytes read stand at the bits of their lanes. -/
def Sys2Proof.Claims.laneByte (got : List (Nat × List Byte)) (o : Vec) (j : Nat) : Byte :=
  match got.reverse.find? (fun x => decide (x.1 ≤ 8 * j) && decide (8 * j < x.1 + 8 * x.2.length)) with
  | some x => x.2.getD ((8 * j - x.1) / 8) 0
  | none => o.extractLsb' (8 * j) 8

/-- Part of O10. LOAD_RETURN makes the next read of a load (R188 to R190, R192): of a lane the lowest byte left. A read that is not the last is kept with those before it, and
the load goes on waiting. With the last one a scalar load has its value: little-endian bytes, sign-extended where the load says so and zero-extended where not, with the
poison of the lines read; a vector load has the bytes of each lane at the lane's place, and elsewhere 0 or, under a guard, what its destination held; the load's operands
are popped and it retires. A misaligned load is read byte by byte, its bytes in ascending address order. Read at its home, the bytes are those of memory, and no byte of
memory changes. -/
def Sys2Proof.Claims.LoadReturn : Prop :=
  (∀ c i s p l bs bad x y k, let s0 := { s with core := c, desk := i }
    s0.d.pend = some p → p.amo = none → p.vec = false → p.vs = [] → p.units = [l] → s0.unitClear c i p l = true →
    s0.readUnit c s0.d.part p l = .ok (x, bs, bad) → { x.d with pend := none }.popsG p.gs = .ok (y, k) → k.roomG p.dst = .ok () →
    let all := p.got.flatMap (·.2) ++ bs
    exec (.loadReturn c i) s = .next (((x.setD (k.pushG p.dst
      (if p.signed then (BitVec.ofNat (8 * all.length) (leNat all)).signExtend 64 else BitVec.ofNat 64 (leNat all)) (p.bad || bad))).retire).wakes
        (s0.idle c) c i)) ∧
  (∀ c i s p l bs bad x y k0 z z' k1 o badO k, let s0 := { s with core := c, desk := i }
    s0.d.pend = some p → p.amo = none → p.vec = true → p.units = [l] → s0.unitClear c i p l = true →
    s0.readUnit c s0.d.part p l = .ok (x, bs, bad) → { x.d with pend := none }.popsG p.gs = .ok (y, k0) → k0.popsV p.vs = .ok (z, z', k1) →
    (p.merge = false → o = 0 ∧ badO = false ∧ k = k1) → (p.merge = true → k1.popV p.dst = .ok ⟨o, badO, k⟩) → k.roomV p.dst = .ok () →
    (∀ g ∈ p.got ++ [(l.bit, bs)], g.1 % 8 = 0) →
    ∃ v : Vec, (∀ j, j < 64 → v.extractLsb' (8 * j) 8 = laneByte (p.got ++ [(l.bit, bs)]) o j) ∧
      exec (.loadReturn c i) s = .next (((x.setD (k.pushV p.dst v (p.bad || bad || badO))).retire).wakes (s0.idle c) c i)) ∧
  (∀ c i s p l bs bad x, let s0 := { s with core := c, desk := i }
    s0.d.pend = some p → p.amo = none → 1 < p.units.length → p.pick s.tick = some l → s0.unitClear c i p l = true →
    s0.readUnit c s0.d.part p l = .ok (x, bs, bad) → exec (.loadReturn c i) s =
      .next (x.setD { x.d with pend := some { p with units := p.units.erase l, got := p.got ++ [(l.bit, bs)], bad := p.bad || bad } })) ∧
  (∀ (p : Pending) tick l, p.pick tick = some l → p.units.find? (·.lane == l.lane) = some l) ∧
  (∀ (va : Word) (n bit lane : Nat) (q : Part), n ≠ 0 → q.n = n → q.pa.toNat + n ≤ 2 ^ 52 →
    (va.toNat % n = 0 → unitsOf va n bit lane [q] = [⟨va, [q], bit, lane⟩]) ∧
    (va.toNat % n ≠ 0 → (unitsOf va n bit lane [q]).length = n ∧ ∀ j, (h : j < (unitsOf va n bit lane [q]).length) →
      (unitsOf va n bit lane [q])[j] = ⟨va + BitVec.ofNat 64 j, [{ q with pa := q.pa + BitVec.ofNat 52 j, n := 1 }], bit + 8 * j, lane⟩)) ∧
  (∀ (s : State) c part p l, p.home = true → s.macFail part l.parts = none → ∃ x, s.readUnit c part p l =
    .ok (x, l.parts.flatMap (fun q => creads s.mem.bytes q.pa.toNat q.n),
      l.parts.any (fun q => (linesOf q.pa.toNat q.n (q.n + 1)).any (fun m => s.mem.poison.contains m.1))) ∧ SameBytes s x)
/-- O10. Loads check, issue, read their bytes and return them. Where the spec leaves a point open it rests on the model's own choice: log 7, 9, 11, 20, 25. -/
def Obligations.LoadResult : Prop := LoadIssue ∧ LoadReturn


/-- A store by the spec (R189, R192, R193): guard, g sources, v sources, and its writes: address, bytes and poison. -/
structure Sys2Proof.Claims.StoreRule where
  /-- guard -/
  g : Guard
  /-- g sources in field order -/
  rs : List GReg
  /-- v sources -/
  vs : List GReg
  /-- writes -/
  ws : Desk → List (Word × Bool) → List (Vec × Bool) → List (Word × List Byte × Bool)
  /-- .ef -/
  ef : Bool
  /-- release -/
  release : Option Scope
  /-- g values whose poison traps: the first so many -/
  uses : Nat

/-- The stores. -/
def Sys2Proof.Claims.storeRule : Instr → Option StoreRule
  | .st o q z b d => some ⟨0, [b, d], [], fun _ x _ => [(arg (x.map (·.1)) 0 + o.signExtend 64 * BitVec.ofNat 64 (widthOf z),
      natLe (arg (x.map (·.1)) 1).toNat (widthOf z), (x.getD 1 (0, false)).2)], q.getLsbD 1, none, 1⟩
  | .vst o q b d => some ⟨0, [b], [d], fun _ x v => [(arg (x.map (·.1)) 0 + o.signExtend 64 * 64,
      natLe (varg (v.map (·.1)) 0).toNat 64, (v.getD 0 (0, false)).2)], q.getLsbD 1, none, 1⟩
  | .str g b a d => some ⟨g, [a, b], [], fun _ x _ => [(arg (x.map (·.1)) 0, natLe (arg (x.map (·.1)) 1).toNat 8, (x.getD 1 (0, false)).2)],
      false, some ([Scope.core, .cluster, .die, .device].getD d.toNat .system), 1⟩
  | .vsts g b a d => some ⟨0, [a, b], [d], fun k x v => (lanesOf k g 16).map (fun e => (arg (x.map (·.1)) 0 + BitVec.ofNat 64 e * arg (x.map (·.1)) 1,
      natLe ((varg (v.map (·.1)) 0).toNat / 2 ^ (32 * e)) 4, (v.getD 0 (0, false)).2)), false, none, 2⟩
  | .vscatW g b a d => some ⟨0, [a], [b, d], fun k x v => (lanesOf k g 16).map (fun e => (indexed (arg (x.map (·.1)) 0) (varg (v.map (·.1)) 0) e,
      natLe ((varg (v.map (·.1)) 1).toNat / 2 ^ (32 * e)) 4, (v.getD 1 (0, false)).2)), false, none, 1⟩
  | .vscatD g b a d => some ⟨0, [a], [b, d], fun k x v => (lanesOf k g 8).map (fun e => (indexed (arg (x.map (·.1)) 0) (varg (v.map (·.1)) 0) e,
      natLe ((varg (v.map (·.1)) 1).toNat / 2 ^ (64 * e)) 8, (v.getD 1 (0, false)).2)), false, none, 1⟩
  | _ => none

/-- Part of O11. A store whose writes translate retires at once (R189, R192, R193): they join its desk's store queue, which has room, as one entry with their physical parts,
each misaligned one as a write of each byte (R188); a store of no lane has no effect, nor has STR where its guard leaves it out (R39). -/
def Sys2Proof.Claims.StoreIssue : Prop :=
  (∀ i r, storeRule i = some r → ∀ s xs k vs k' s' ops, s.Issues → s.d.limsG r.rs = .ok () → s.d.limsV r.vs = .ok () → s.d.guard r.g = true →
    s.d.popsG r.rs = .ok (xs, k) → (xs.take r.uses).any (·.2) = false → popsV k r.vs = .ok (vs, k') →
    ((∃ g b a d, i = .vscatW g b a d ∨ i = .vscatD g b a d) → (vs.take 1).any (·.2) = false) →
    ((∃ g b a d, i = .str g b a d) → (arg (xs.map (·.1)) 0).toNat % 8 = 0) → s.d.sq.length < 16 →
    s.storeOps s.d 1 (r.ws s.d xs vs) = .ok (s', ops) →
    exec i s = .next ((s'.setD (if ops = [] then k' else { k' with sq := k'.sq ++
      [⟨.plain, ops, r.ef, r.release, s.d.part, s'.c.key.next⟩] })).retire)) ∧
  (∀ g b a d s xs k, s.Issues → s.d.limsG [a, b] = .ok () → s.d.guard g = false → s.d.popsG [a, b] = .ok (xs, k) →
    exec (.str g b a d) s = .next ((s.setD k).retire))

/-- Part of O11. STORE_PERFORM applies the next write of a queued store at its home (R188, R189): its bytes stand at its physical addresses, every other byte of memory is as
before, and the write leaves the queue. A poisoned write poisons each line it touches; a clean whole line is cleaned (R364). Where a line that the write does not cover
whole fails its MAC, the desk has 0x1E0 with the address to take at its next boundary (R401). -/
def Sys2Proof.Claims.StorePerform : Prop :=
  ∀ c i s n it o rest p, (s.deskAt c i).sq[n]? = some it → it.kind = .plain → it.ops = o :: rest → o.parts = [p] → p.n = o.bytes.length →
    p.pa.toNat + p.n < 2 ^ 52 → s.storeClear c i n it = true →
    ∃ t, exec (.storePerform c i n) s = .next t ∧ (∀ j, (h : j < o.bytes.length) → cget t.mem.bytes (p.pa.toNat + j) = o.bytes[j]) ∧
      SameBytesOutside s t [p] ∧
      (let d := { s.deskAt c i with sq := if rest = [] then (s.deskAt c i).sq.eraseIdx n else (s.deskAt c i).sq.set n { it with ops := rest } }
       t.deskAt c i = if s.macPart it.part o.parts then d.report 0x1E0 o.va else d) ∧
      (o.poison = true → 0 < p.n → t.mem.poison.contains (p.pa.toNat / 64) = true) ∧
      (o.poison = false → p.n = 64 → p.pa.toNat % 64 = 0 → t.mem.poison.contains (p.pa.toNat / 64) = false)
/-- O11. Stores check and queue, and a performed store writes its bytes and no other. Where the spec leaves a point open it rests on the model's own choice: log 13, 28, 133. -/
def Obligations.StoreResult : Prop := StoreIssue ∧ StorePerform


/-- Part of O12. The ordering instructions complete (R194 to R196). FENCE completes where the stores it selects are performed, and then no byte of memory nor any register but
its fence marks has changed: for each kind that it selects, the next engine, near-memory and key command where it selects those; L1GEN puts the core's generation up by
one, modulo 256, in a fused L1 the one of all its cores (R157), and with it no line filled before hits again; PREF changes no register but for its pops, whatever its
operands, and poisoned ones fetch nothing. -/
def Sys2Proof.Claims.Ordering : Prop :=
  (∀ g k sc s, s.Issues → (s.d.guard g = false ∨ k = 0) → exec (.fence g k sc) s = .next s.retire) ∧
  (∀ g k sc s, s.Issues → s.d.guard g = true → k ≠ 0 → (k.getLsbD 1 = true → s.storesOut s.core s.desk = true) →
    (k.getLsbD 3 = true → ∀ it ∈ s.d.sq, it.kind = .plain) →
    ∃ m : Vector (Nat × Nat × Nat) 4, exec (.fence g k sc) s = .next ((s.setD { s.d with fences := m }).retire) ∧ ∀ j, (h : j < 4) →
      m[j] = if k.getLsbD j then (if k.getLsbD 2 then s.sys.cardSeq else s.d.fences[j].1, if k.getLsbD 3 then s.sys.nmSeq else s.d.fences[j].2.1,
        if k.getLsbD 0 || k.getLsbD 1 then s.c.key.next else s.d.fences[j].2.2) else s.d.fences[j]) ∧
  (∀ s, s.Issues → ∃ t : State, exec .l1gen s = .next t.retire ∧ t.mem = s.mem ∧
    (∀ c ∈ s.l1Cores s.core, t.coreAt c = { s.coreAt c with l1gen := s.l1Gen s.core + 1, l1 := [] }) ∧
    (∀ c, c ∉ s.l1Cores s.core → t.coreAt c = s.coreAt c)) ∧
  (∀ g b a s xs k, s.Issues → s.d.limsG [a, b] = .ok () → s.d.popsG [a, b] = .ok (xs, k) →
    ∃ x, exec (.pref g b a) s = .next ((x.setD k).retire) ∧ x.cores = s.cores ∧ (s.d.guard g = false ∨ xs.any (·.2) = true → x = s))

/-- Part of O12. What the banks and the walker do between instructions (R208, R213, R217, R221, R378, R380, R383): a line that an access under way or a PREF (R196) asks for
is filled and stands in its bank afterwards, but where it fails its MAC (R401): an access under way meets that itself, a PREF leaves the line poisoned. A look-up changes
no byte and no tag but its own line's. A memory-side request leaves no copy in the bank. A walk that succeeds leaves its translation in the TLBs of the core, and sets A,
and D on a write, in the entries of its leaf; no other byte changes. A walk that fails fills no cache (R382), and a miss of the page and kind of a walk under way takes
that walk's result. -/
def Sys2Proof.Claims.BankEvents : Prop :=
  (∀ pa s m, s.mem.tag (pa.toNat / 64) = none → s.mem.msOut.contains (pa.toNat / 64) = false →
    m = { s.mem with asked := s.mem.asked.filter (·.1 != pa.toNat / 64) } →
    (∀ c, s.underWay (pa.toNat / 64) false = some c → exec (.l2Fill pa) s = .next (if s.mem.macBad false (pa.toNat / 64) c.key then s
      else { s with mem := m.fill (pa.toNat / 64) c true })) ∧
    (∀ x, s.underWay (pa.toNat / 64) false = none → s.mem.asked.find? (·.1 == pa.toNat / 64) = some x → exec (.l2Fill pa) s =
      .next { s with mem := if s.mem.macBad false (pa.toNat / 64) x.2.key then m.spoil (pa.toNat / 64) else m.fill (pa.toNat / 64) x.2 }) ∧
    (∀ c a, (m.fill (pa.toNat / 64) c a).bytes = s.mem.bytes ∧ ((m.fill (pa.toNat / 64) c a).tag (pa.toNat / 64)).isSome = true)) ∧
  (∀ pa s, exec (.twinStep pa) s = .next { s with mem := s.mem.twin (pa.toNat / 64) } ∧ (s.mem.twin (pa.toNat / 64)).bytes = s.mem.bytes ∧
    ∀ line, line ≠ pa.toNat / 64 → (s.mem.twin (pa.toNat / 64)).tag line = s.mem.tag line) ∧
  (∀ pa s, s.msReady (pa.toNat / 64) = true → ∃ t, exec (.msRequestForward pa) s = .next t ∧ t.mem.bytes = s.mem.bytes ∧ t.cores = s.cores ∧
    t.mem.tag (pa.toNat / 64) = none) ∧
  (∀ c i va acc s d w, d = s.deskAt c i → w = s.whoAt c d → d.occ = true → d.walk = none →
    (∀ r, s.runOf w va acc = some r → exec (.walk c i va acc) s = .next (s.setDeskAt c i { d with walk := some { r with joined := true } })) ∧
    (s.runOf w va acc = none → (s.runs w.site.die).length < 64 →
      let r : WalkRun := ⟨d.part, w.root, va.toNat / 4096, acc, none, (0, 0), false⟩
      (∀ f, s.mem.walk (s.partAt d.part).conf (s.mem.readEntry w.site.die d.part) w.root va acc = .error f →
        exec (.walk c i va acc) s = .next (s.setDeskAt c i { d with walk := some { r with fail := (f.reason, f.level) } })) ∧
      (∀ l, s.mem.walk (s.partAt d.part).conf (s.mem.readEntry w.site.die d.part) w.root va acc = .ok l →
        ∃ (x : State) (e : TlbEntry), exec (.walk c i va acc) s = .next (x.setDeskAt c i { d with walk := some { r with found := some e } }) ∧ x.cores = s.cores ∧
          e.part = d.part ∧ e.root = w.root ∧ va.toNat / 2 ^ e.log2 * 2 ^ e.log2 = e.va ∧ (∀ k ∈ w.site.tlbs, e ∈ tget x.mem.tlbs k []) ∧
          (∀ b, (∀ a ∈ l.entries, b < a ∨ a + 8 ≤ b) → cget x.mem.bytes b = cget s.mem.bytes b) ∧
          (∀ a ∈ l.entries, x.mem.pte a = s.mem.pte a ||| if acc = 1 ∨ acc = 2 then 0x30 else 0x10))))
/-- O12. FENCE, L1GEN, PREF and the bank events. Where the spec leaves a point open it rests on the model's own choice: log 8, 10, 11, 35, 129. -/
def Obligations.OrderingResult : Prop := Ordering ∧ BankEvents


/-! ### Versioned lines (R211 to R228) -/

/-- The version of a part's line, as its bank holds it. -/
def Sys2Proof.Claims.versionOf (s : State) (p : Part) : Word :=
  match s.mem.tag (p.pa.toNat / 64) with | some t => t.version.setWidth 64 | none => 0
/-- What a versioned instruction needs of its address: a multiple of 8 that translates to one part of a page that is not memory-side (R222). -/
def Sys2Proof.Claims.versionedAt (s : State) (ea : Word) (acc : BitVec 2) (x : State) (p : Part) : Prop :=
  ea.toNat % 8 = 0 ∧ s.access (s.who s.d) ea 8 acc = .ok (x, [p]) ∧ p.ms = false ∧ x.macFail s.d.part [p] = none

/-- Part of O13. LDV, LDVS and LVER read a line and its version together (R222, R223): the 8 bytes at the address go to the destination, LVER's destination and the second of
the pair take the version that the line's bank then holds, no byte of memory changes, and LDVS records the line unless it is recorded already: then the set keeps what it
holds. Where eight other lines are recorded LDVS traps with 0x047 (R223). LDV and LDVS are off-core references, after which the core switches (R15, log 26); LVER is not. -/
def Sys2Proof.Claims.VersionedRead : Prop :=
  ∀ g a d s ea k x p, s.Issues → s.d.guard g = true → s.d.limsG [a, d, d + 1] = .ok () → s.d.popsG [a] = .ok ([(ea, false)], k) →
    versionedAt s ea 0 x p → x.homeClear [p] = .ok () →
    let y := (x.readHome s.d.part ea [p] false).1
    let word := BitVec.ofNat 64 (leNat (creads x.mem.bytes p.pa.toNat p.n))
    let bad := (linesOf p.pa.toNat p.n (p.n + 1)).any (fun l => x.mem.poison.contains l.1)
    SameBytes x y ∧
    (s.d.pairOk d 2 = .ok () → exec (.ldv g a d) s = .next ((y.setD ((k.setG d word bad).setG (d + 1) (versionOf y p) false)).retire).switchDesk) ∧
    (s.d.pairOk d 2 = .ok () → (∀ z ∈ k.snaps, z.vline ≠ ea.extractLsb' 6 51) → k.snaps.length < 8 →
      exec (.ldvs g a d) s = .next ((y.setD ((Desk.setG { k with snaps := k.snaps ++
        [{ version := (versionOf y p).setWidth 32, pline := BitVec.ofNat 46 (p.pa.toNat / 64), vline := ea.extractLsb' 6 51 }] } d word bad).setG (d + 1)
          (versionOf y p) false)).retire).switchDesk) ∧
    (s.d.pairOk d 2 = .ok () → (∃ z ∈ k.snaps, z.vline = ea.extractLsb' 6 51) →
      exec (.ldvs g a d) s = .next ((y.setD ((k.setG d word bad).setG (d + 1) (versionOf y p) false)).retire).switchDesk) ∧
    (s.d.pairOk d 2 = .ok () → (∀ z ∈ k.snaps, z.vline ≠ ea.extractLsb' 6 51) → 8 ≤ k.snaps.length → exec (.ldvs g a d) s = .next (s.traps 0x047 ea 0)) ∧
    (k.roomG d = .ok () → exec (.lver g a d) s = .next ((y.setD (k.pushG d (versionOf y p) false)).retire))

/-- Part of O13. VCAS compares the version of the line with its operand (R222): where they agree its value is written at the address, the destination takes 1 and the second
of the pair the line's version after the write; where they differ no byte of memory changes, the destination takes 0 and the second of the pair the version found. -/
def Sys2Proof.Claims.VcasResult : Prop :=
  ∀ g b a d s ea v c k x p, s.Issues → s.d.guard g = true → s.d.pairOk d 2 = .ok () → s.d.limsG [a, b, d, d + 1] = .ok () →
    s.d.popsG [a, b, d] = .ok ([(ea, false), (v, false), (c, false)], k) → s.d.poisonG d = false → versionedAt s ea 2 x p → p.n = 8 →
    p.pa.toNat % 8 = 0 → x.storesDone x.core x.desk = true → x.fenceClear x.core x.desk .l = true → x.fenceClear x.core x.desk .s = true → x.msBusy p = false →
    let y := (x.readHome s.d.part ea [p] false).1
    ∃ t, exec (.vcas g b a d) s = .next (((t.setD ((k.setG d (if versionOf y p = (c.setWidth 32).setWidth 64 then 1 else 0) false).setG (d + 1)
        (versionOf t p) false)).retire).switchDesk) ∧
      SameBytesOutside x t [p] ∧
      (versionOf y p = (c.setWidth 32).setWidth 64 → creads t.mem.bytes p.pa.toNat 8 = natLe v.toNat 8) ∧
      (versionOf y p ≠ (c.setWidth 32).setWidth 64 → t = y)
/-- O13. LDV, LDVS, LVER and VCAS read and write versioned lines. Where the spec leaves a point open it rests on the model's own choice: log 12, 26, 30, 34. -/
def Obligations.VersionedResult : Prop := VersionedRead ∧ VcasResult


/-- The checks of some slots in ascending order: the state after them, and whether every one holds. -/
def Sys2Proof.Claims.checks (s : State) : List Snap → State × Bool
  | [] => (s, true)
  | x :: xs => let (y, b) := s.snapOk x; let (z, c) := checks y xs; (z, b && c)

/-- O14. The snapshot and retention instructions complete (R223, R224, R226). VALSET checks the slots of its desk's snapshot set in ascending order and gives 1 exactly where
every check holds, so 1 with no line recorded. A check translates the slot's virtual line afresh: it holds where that gives the recorded physical line, of a page that is
not memory-side, and the version at the line's home is the recorded one; a fault is a check that does not hold. VCLR and VALSET leave the set empty. L2RET covers whole
lines in its slot of the partition; UNPIN frees the slot, and changes nothing where the slot is free; L2STAT gives the statistic it names. No byte of memory changes.
Where the spec leaves a point open it rests on the model's own choice: log 12, 35, 36, 111. -/
def Obligations.RetentionResult : Prop :=
  (∀ g s, s.Issues → exec (.vclr g) s = .next ((s.setD (if s.d.guard g then { s.d with snaps := [] } else s.d)).retire)) ∧
  (∀ g d s, s.Issues → s.d.limG d = .ok () → (s.d.guard g = false → exec (.valset g d) s = .next s.retire) ∧
    (s.d.guard g = true → s.d.roomG d = .ok () → (∀ x ∈ s.d.snaps, s.snapClear x = .ok ()) → exec (.valset g d) s =
      let r := checks s s.d.snaps
      .next ((r.1.setD ({ r.1.d with snaps := [] }.pushG d (if r.2 then 1 else 0) false)).retire))) ∧
  (∀ (s : State) (x : Snap) va, va = x.vline.setWidth 64 <<< 6 →
    (∀ e, s.span (s.who s.d) va va 0 2 64 = .error e → s.snapOk x = (s, false)) ∧
    (∀ s' p ps, s.span (s.who s.d) va va 0 2 64 = .ok (s', p :: ps) → ∃ y b, s.snapOk x = (y, b) ∧ y.cores = s'.cores ∧ SameBytes s' y ∧
      (b = true ↔ p.ms = false ∧ p.pa.toNat / 64 = x.pline.toNat ∧ versionOf y p = x.version.setWidth 64))) ∧
  (∀ g b a n s base len k, s.Issues → s.d.guard g = true → s.d.limsG [a, b] = .ok () → s.d.popsG [a, b] = .ok ([(base, false), (len, false)], k) →
    64 ≤ len.toNat → len.toNat ≤ 2 ^ 36 → base.toNat + len.toNat ≤ 2 ^ 57 → (s.partAt s.d.part).ways.getD n.toNat 0 ≠ 0 →
    ∃ t, exec (.l2ret g b a n) s = .next t ∧ t.mem = s.mem ∧ tget? (t.partAt s.d.part).ret n.toNat =
      some (base.toNat / 64 * 64, (base.toNat + len.toNat + 63) / 64 * 64 - base.toNat / 64 * 64)) ∧
  (∀ g n s, s.Issues → s.d.guard g = false ∨ tget? (s.partAt s.d.part).ret n.toNat = none → exec (.unpin g n) s = .next s.retire) ∧
  (∀ g n s, s.Issues → s.d.guard g = true → (tget? (s.partAt s.d.part).ret n.toNat).isSome = true → ∃ t, exec (.unpin g n) s = .next t ∧
    (t.partAt s.d.part).ret = tdel (s.partAt s.d.part).ret n.toNat ∧ t.mem.bytes = s.mem.bytes ∧
    ∀ b ∈ t.mem.banks, ∀ u ∈ b.2.tags, ¬ (u.part = some s.d.part ∧ u.rslot = n.toNat + 1)) ∧
  (∀ g b d s n k, s.Issues → s.d.guard g = true → s.d.limsG [b, d] = .ok () → s.d.popsG [b] = .ok ([(n, false)], k) → n.toNat ≤ 7 → k.roomG d = .ok () →
    s.storesDone s.core s.desk = true → exec (.l2stat g b d) s =
      .next ((s.setD (k.pushG d ((s.mem.asRead s.tick).stat s.d.part n.toNat) false)).retire))

/-! ### Atomics (R229 to R234) -/

/-- F of R231 on integers of w bits: add, and, or, xor, min, max, minU, maxU, swap. -/
def Sys2Proof.Claims.intF {w : Nat} (op : Nat) (old x : BitVec w) : BitVec w :=
  match op with
  | 0 => old + x
  | 1 => old &&& x
  | 2 => old ||| x
  | 3 => old ^^^ x
  | 4 => if x.slt old then x else old
  | 5 => if old.slt x then x else old
  | 6 => if x.ult old then x else old
  | 7 => if old.ult x then x else old
  | _ => x
/-- An atomic by the spec (R231, R232): the operation on the old value and the operand, its bytes, and what it returns of the old value. -/
structure Sys2Proof.Claims.AtomRule where
  /-- F -/
  f : Nat → Nat → Nat
  /-- bytes -/
  n : Nat
  /-- returned -/
  ret : Nat → Word
/-- 8 bytes. -/
def Sys2Proof.Claims.atom8 (op : Nat) : AtomRule := ⟨fun old x => (intF op (BitVec.ofNat 64 old) (BitVec.ofNat 64 x)).toNat, 8, fun old => BitVec.ofNat 64 old⟩
/-- 4 bytes: the result is sign-extended but for minU and maxU. -/
def Sys2Proof.Claims.atom4 (op : Nat) : AtomRule :=
  ⟨fun old x => (intF op (BitVec.ofNat 32 old) (BitVec.ofNat 32 x)).toNat, 4,
    fun old => if op = 6 ∨ op = 7 then BitVec.ofNat 64 old else (BitVec.ofNat 32 old).signExtend 64⟩
/-- FP32: 0 add, 1 min, 2 max (R232). -/
def Sys2Proof.Claims.atomF (op : Nat) : AtomRule := ⟨fun old x => amoF (9 + op) 4 old x, 4, fun old => BitVec.ofNat 64 old⟩

/-- AMO: its rule, its order code, and its registers b, a, d. -/
def Sys2Proof.Claims.amoRule : Instr → Option (AtomRule × BitVec 2 × GReg × GReg × GReg)
  | .amoAdd _ o b a d => some (atom8 0, o, b, a, d)
  | .amoAnd _ o b a d => some (atom8 1, o, b, a, d)
  | .amoOr _ o b a d => some (atom8 2, o, b, a, d)
  | .amoXor _ o b a d => some (atom8 3, o, b, a, d)
  | .amoMin _ o b a d => some (atom8 4, o, b, a, d)
  | .amoMax _ o b a d => some (atom8 5, o, b, a, d)
  | .amoMinU _ o b a d => some (atom8 6, o, b, a, d)
  | .amoMaxU _ o b a d => some (atom8 7, o, b, a, d)
  | .amoSwap _ o b a d => some (atom8 8, o, b, a, d)
  | .amoFadd _ o b a d => some (atomF 0, o, b, a, d)
  | .amoFmin _ o b a d => some (atomF 1, o, b, a, d)
  | .amoFmax _ o b a d => some (atomF 2, o, b, a, d)
  | .amoAddW _ o b a d => some (atom4 0, o, b, a, d)
  | .amoAndW _ o b a d => some (atom4 1, o, b, a, d)
  | .amoOrW _ o b a d => some (atom4 2, o, b, a, d)
  | .amoXorW _ o b a d => some (atom4 3, o, b, a, d)
  | .amoMinW _ o b a d => some (atom4 4, o, b, a, d)
  | .amoMaxW _ o b a d => some (atom4 5, o, b, a, d)
  | .amoMinUW _ o b a d => some (atom4 6, o, b, a, d)
  | .amoMaxUW _ o b a d => some (atom4 7, o, b, a, d)
  | .amoSwapW _ o b a d => some (atom4 8, o, b, a, d)
  | _ => none
/-- ARED: the code of its operation (R231), its bytes, its scope and order codes, and its registers b, a. -/
def Sys2Proof.Claims.aredRule : Instr → Option (Nat × Nat × BitVec 2 × BitVec 2 × GReg × GReg)
  | .aredAdd sc o b a => some (0, 8, sc, o, b, a)
  | .aredAnd sc o b a => some (1, 8, sc, o, b, a)
  | .aredOr sc o b a => some (2, 8, sc, o, b, a)
  | .aredXor sc o b a => some (3, 8, sc, o, b, a)
  | .aredMin sc o b a => some (4, 8, sc, o, b, a)
  | .aredMax sc o b a => some (5, 8, sc, o, b, a)
  | .aredMinU sc o b a => some (6, 8, sc, o, b, a)
  | .aredMaxU sc o b a => some (7, 8, sc, o, b, a)
  | .aredSwap sc o b a => some (8, 8, sc, o, b, a)
  | .aredFadd sc o b a => some (9, 4, sc, o, b, a)
  | .aredFmin sc o b a => some (10, 4, sc, o, b, a)
  | .aredFmax sc o b a => some (11, 4, sc, o, b, a)
  | .aredAddW sc o b a => some (16, 4, sc, o, b, a)
  | .aredAndW sc o b a => some (17, 4, sc, o, b, a)
  | .aredOrW sc o b a => some (18, 4, sc, o, b, a)
  | .aredXorW sc o b a => some (19, 4, sc, o, b, a)
  | .aredMinW sc o b a => some (20, 4, sc, o, b, a)
  | .aredMaxW sc o b a => some (21, 4, sc, o, b, a)
  | .aredMinUW sc o b a => some (22, 4, sc, o, b, a)
  | .aredMaxUW sc o b a => some (23, 4, sc, o, b, a)
  | .aredSwapW sc o b a => some (24, 4, sc, o, b, a)
  | _ => none
/-- VAMO: its operation on a lane, 0 to 11, and its fields. -/
def Sys2Proof.Claims.vamoRule : Instr → Option (Nat × Guard × GReg × GReg × GReg)
  | .vamoAdd g b a d => some (0, g, b, a, d)
  | .vamoAnd g b a d => some (1, g, b, a, d)
  | .vamoOr g b a d => some (2, g, b, a, d)
  | .vamoXor g b a d => some (3, g, b, a, d)
  | .vamoMin g b a d => some (4, g, b, a, d)
  | .vamoMax g b a d => some (5, g, b, a, d)
  | .vamoMinU g b a d => some (6, g, b, a, d)
  | .vamoMaxU g b a d => some (7, g, b, a, d)
  | .vamoSwap g b a d => some (8, g, b, a, d)
  | .vamoFadd g b a d => some (9, g, b, a, d)
  | .vamoFmin g b a d => some (10, g, b, a, d)
  | .vamoFmax g b a d => some (11, g, b, a, d)
  | _ => none
/-- VARED: the same. -/
def Sys2Proof.Claims.varedRule : Instr → Option (Nat × Guard × GReg × GReg × GReg)
  | .varedAdd g b a d => some (0, g, b, a, d)
  | .varedAnd g b a d => some (1, g, b, a, d)
  | .varedOr g b a d => some (2, g, b, a, d)
  | .varedXor g b a d => some (3, g, b, a, d)
  | .varedMin g b a d => some (4, g, b, a, d)
  | .varedMax g b a d => some (5, g, b, a, d)
  | .varedMinU g b a d => some (6, g, b, a, d)
  | .varedMaxU g b a d => some (7, g, b, a, d)
  | .varedSwap g b a d => some (8, g, b, a, d)
  | .varedFadd g b a d => some (9, g, b, a, d)
  | .varedFmin g b a d => some (10, g, b, a, d)
  | .varedFmax g b a d => some (11, g, b, a, d)
  | _ => none

/-- What an atomic needs: a location of n bytes aligned to n that translates to one part, with every earlier access of the desk performed, no
memory-side request of its line outstanding, and no line that fails its MAC (R230, R198, R208, R401). -/
def Sys2Proof.Claims.atomAt (s : State) (ea : Word) (n : Nat) (x : State) (p : Part) : Prop :=
  ea.toNat % n = 0 ∧ s.access (s.who s.d) ea n 2 = .ok (x, [p]) ∧ p.n = n ∧ p.pa.toNat + n ≤ 2 ^ 52 ∧ x.macFail s.d.part [p] = none ∧
  x.storesDone x.core x.desk = true ∧ x.msBusy p = false ∧ x.fenceClear x.core x.desk .l = true ∧ x.fenceClear x.core x.desk .s = true ∧ x.fenceClear x.core x.desk .n = true
/-- The lines of a part hold poison. -/
def Sys2Proof.Claims.partBad (s : State) (p : Part) : Bool := (linesOf p.pa.toNat p.n (p.n + 1)).any (fun l => s.mem.poison.contains l.1)

/-- Part of O15. Every AMO completes (R230, R231, R232): it reads the old value at its location, writes there what its operation makes of it and the operand, and returns the
old value; no other byte of memory changes. It is an off-core reference. -/
def Sys2Proof.Claims.AmoResult : Prop :=
  ∀ i r o b a d, amoRule i = some (r, o, b, a, d) → ∀ s ea v k x p, s.Issues → s.d.limsG [a, b, d] = .ok () →
    s.d.popsG [a, b] = .ok ([(ea, false), (v, false)], k) → k.roomG d = .ok () → atomAt s ea r.n x p →
    ∃ t, exec i s = .next (((t.setD (k.pushG d (r.ret (leNat (creads x.mem.bytes p.pa.toNat r.n))) (partBad x p))).retire).switchDesk) ∧
      creads t.mem.bytes p.pa.toNat r.n = natLe (r.f (leNat (creads x.mem.bytes p.pa.toNat r.n)) (v.toNat % 2 ^ (8 * r.n))) r.n ∧
      SameBytesOutside x t [p]

/-- CAS: its bytes, and its registers b, a, d. -/
def Sys2Proof.Claims.casRule : Instr → Option (Nat × GReg × GReg × GReg)
  | .cas _ _ b a d => some (8, b, a, d)
  | .casW _ _ b a d => some (4, b, a, d)
  | _ => none
/-- Part of O15. CAS returns the old value at its location, and writes its operand there where the old value equals its destination's low bytes (R230); where it does not, no
byte of memory changes. -/
def Sys2Proof.Claims.CasResult : Prop :=
  ∀ i n b a d, casRule i = some (n, b, a, d) → ∀ s ea v c k x p, s.Issues → s.d.limsG [a, b, d] = .ok () →
    s.d.popsG [a, b, d] = .ok ([(ea, false), (v, false), (c, false)], k) → k.roomG d = .ok () → atomAt s ea n x p →
    let old := leNat (creads x.mem.bytes p.pa.toNat n)
    ∃ t, exec i s = .next (((t.setD (k.pushG d (if n = 4 then (BitVec.ofNat 32 old).signExtend 64 else BitVec.ofNat 64 old) (partBad x p))).retire).switchDesk) ∧
      (old = c.toNat % 2 ^ (8 * n) → creads t.mem.bytes p.pa.toNat n = natLe v.toNat n ∧ SameBytesOutside x t [p]) ∧
      (old ≠ c.toNat % 2 ^ (8 * n) → SameBytes x t)
/-- O15. AMO and CAS read, combine and write one element indivisibly. Where the spec leaves a point open it rests on the model's own choice: log 26, 30, 31. -/
def Obligations.AtomicResult : Prop := AmoResult ∧ CasResult


/-- Part of O16. Every ARED retires with its operation in the store queue (R233), a release where its order code says so; STORE_PERFORM then makes of the bytes at its address
what its operation makes of them and the operand, and changes no other byte. Where the line it reads fails its MAC it changes none: the line is poisoned, and the desk has
0x1E0 with the address to take at its next boundary (R401). -/
def Sys2Proof.Claims.AredResult : Prop :=
  (∀ i op n sc o b a, aredRule i = some (op, n, sc, o, b, a) → ∀ s ea v bad k x p, s.Issues → s.d.limsG [a, b] = .ok () →
    s.d.popsG [a, b] = .ok ([(ea, false), (v, bad)], k) → ea.toNat % n = 0 → s.access (s.who s.d) ea n 2 = .ok (x, p) → s.d.sq.length < 16 →
    exec i s = .next ((x.setD { k with sq := k.sq ++ [⟨.ared (BitVec.ofNat 5 op), [⟨ea, p, natLe v.toNat n, bad⟩], false,
      if o.getLsbD 1 then some ([Scope.cluster, .die, .device].getD sc.toNat .system) else none, s.d.part, x.c.key.next⟩] }).retire)) ∧
  (∀ c i s n it op o rest p, (s.deskAt c i).sq[n]? = some it → it.kind = .ared op → it.ops = o :: rest → o.parts = [p] → p.n = o.bytes.length →
    p.pa.toNat + p.n ≤ 2 ^ 52 → s.storeClear c i n it = true → ∃ t, exec (.storePerform c i n) s = .next t ∧
      (s.macFail it.part [p] = none → SameBytesOutside s t [p] ∧
        creads t.mem.bytes p.pa.toNat p.n = natLe (amoF (amoCode op.toNat).1 p.n (leNat (creads s.mem.bytes p.pa.toNat p.n)) (leNat o.bytes)) p.n) ∧
      (∀ l, s.macFail it.part [p] = some l → SameBytes s t ∧ t.mem.poison.contains l = true ∧ (t.deskAt c i).reports = (s.deskAt c i).reports ++
        [⟨0x1E0, o.va, none, false, 0⟩]))

/-- Part of O16. Every VAMO and VARED completes (R234). A VAMO whose lanes are aligned becomes the desk's off-core reference; each of its lanes that translates is then
performed, from the lowest: the old value is kept for its lane of the destination, and what the operation makes of it and of the destination's own lane goes to memory,
with no other byte changed; other agents may act between two lanes. With the last lane the destination takes the old values, VPROG is 0 and the VAMO retires. A lane whose
translation fails traps with 0x049, VPROG its number, the lanes below it done. VARED enters the store queue as one entry of its lanes. With no lane selected no operand's
poison traps. -/
def Sys2Proof.Claims.VectorAtomics : Prop :=
  (∀ i op g b a d, vamoRule i = some (op, g, b, a, d) → ∀ s t, s.Issues → vatom [d] g b a d s = .ok t →
    exec i s = .next (if t.lanes = [] then (s.setD { t.d.pushV d t.data t.bad with vprog := 0 }).retire else
      (s.setD { s.d with wait := some .memory, pend := some (Pending.mk d true (t.lanes.map (fun e => ⟨t.ea e, [], 32 * e, e⟩)) [] false false true false false
        [a] [b, d] false (some (BitVec.ofNat 4 op, t.data))) }).switchDesk)) ∧
  (∀ c i s p op data l rest x q, let s0 := { s with core := c, desk := i }
    s0.d.pend = some p → p.amo = some (op, data) → p.units = l :: rest → s0.access (s0.who s0.d) l.va 4 2 = .ok (x, [q]) → x.homeClear [q] = .ok () →
    x.writeClear = .ok () → x.pastFences [.l, .s, .n] = .ok () → x.macFail x.d.part [q] = none → q.n = 4 → q.pa.toNat + 4 ≤ 2 ^ 52 →
    let old := leNat (creads x.mem.bytes q.pa.toNat 4)
    let got := p.got ++ [(l.bit, natLe old 4)]
    ∃ z bad, SameBytesOutside x z [q] ∧ z.d = x.d ∧
      creads z.mem.bytes q.pa.toNat 4 = natLe (amoF op.toNat 4 old (data.toNat / 2 ^ l.bit % 2 ^ 32)) 4 ∧
      (rest ≠ [] → exec (.loadReturn c i) s = .next (z.setD { x.d with pend := some { p with units := rest, got := got, bad := p.bad || bad } })) ∧
      (rest = [] → ∀ ws k vs vb k', x.d.popsG p.gs = .ok (ws, k) → k.popsV p.vs = .ok (vs, vb, k') → exec (.loadReturn c i) s =
        .next (((z.setD { k'.pushV p.dst (putLanes data got) (p.bad || bad) with pend := none, vprog := 0 }).retire).wakes (s0.idle c) c i))) ∧
  (∀ c i s p op data l rest cz xv ac tf, let s0 := { s with core := c, desk := i }
    s0.d.pend = some p → p.amo = some (op, data) → p.units = l :: rest → s0.access (s0.who s0.d) l.va 4 2 = .error (.trap cz xv ac tf) →
    cz = 0x040 ∨ cz = 0x042 ∨ cz = 0x044 → s0.d.gen = none → exec (.loadReturn c i) s =
      .next ((((s0.setD (s0.d.vamoStop p data l.lane)).takeTrap 0x049 xv ac tf false)).wakes (s0.idle c) c i) ∧
      (s0.d.vamoStop p data l.lane).vprog = BitVec.ofNat 64 l.lane) ∧
  (∀ (v : Vec) e x, e < 16 → x < 2 ^ 32 → (putLanes v [(32 * e, natLe x 4)]).extractLsb' (32 * e) 32 = BitVec.ofNat 32 x ∧
    ∀ e', e' < 16 → e' ≠ e → (putLanes v [(32 * e, natLe x 4)]).extractLsb' (32 * e') 32 = v.extractLsb' (32 * e') 32) ∧
  (∀ i op g b a d, varedRule i = some (op, g, b, a, d) → ∀ s t x os, s.Issues → vatom [] g b a d s = .ok t → s.varedOps t t.lanes = (x, os, none) →
    s.d.sq.length < 16 → exec i s = .next ((x.setD (if os = [] then { t.d with vprog := 0 } else { t.d with
      vprog := 0, sq := t.d.sq ++ [⟨.ared (BitVec.ofNat 5 (if op < 9 then op + 16 else op)), os, false, none, s.d.part, x.c.key.next⟩] })).retire)) ∧
  (∀ dst g b a d (s : State), s.d.kern.queues = false → s.d.limG a = .ok () → s.d.limsV [b, d] = .ok () → s.d.lanes g 16 = [] →
    ∃ t, vatom dst g b a d s = .ok t ∧ t.lanes = [] ∧ t.data = s.d.getV d ∧ t.d = s.d)
/-- O16. Reductions and vector atomics combine into memory. Where the spec leaves a point open it rests on the model's own choice: log 27, 29, 31. -/
def Obligations.ReductionResult : Prop := AredResult ∧ VectorAtomics


/-! ### Near-memory commands (R235 to R238), counters and barriers (R241 to R252), exchange copies (R257 to R259) -/

/-- A near-memory command under a guard slot whose records are read and pass every check of R235 and R348: the state after the reads, the record, the
hyper-parameters, the step counter, which a command that is false already does not read (R237), and the translation of its counter, which it holds. -/
def Sys2Proof.Claims.nmChecked (s : State) (g : Guard) (addr : Word) (x : State) (r h : BitVec 512) (tv : Word) (held : List TlbEntry) : Prop :=
  ∃ s1 bs s2 s3, addr.toNat % 64 = 0 ∧ s.readRecord addr 64 = .ok (s1, bs) ∧ r = recOf bs ∧ nmCheck addr r = .ok () ∧
    (if dword r 48 = 0 then s2 = s1 ∧ h = 0
      else ∃ hb, s1.readRecord (dword r 48) 64 = .ok (s2, hb) ∧ h = recOf hb ∧ hyperCheck (dword r 48) (nmOp r) h = .ok ()) ∧
    (if nmOp r = 2 ∧ s.d.slot g ≠ .no then
        ∃ y tb, s2.reachable (s.who s.d) (dword h 32) 8 0 0 = .ok y ∧ y.readRecord (dword h 32) 8 = .ok (s3, tb) ∧ tv = BitVec.ofNat 64 (leNat tb)
      else s3 = s2 ∧ tv = 0) ∧
    s3.nmFoot (s.who s.d) ((nmArrays r).map (fun a => (a.1, a.2.1 * nmCount r, a.2.2))) = .ok () ∧
    (if dword r 56 = 0 then x = s3 ∧ held = []
      else s3.footOk (s.who s.d) (dword r 56) 8 2 = none ∧ s3.grip (s.who s.d) (dword r 56) (dword r 56) 2 2 8 = .ok (x, held))

/-- Part of O17. NMOP with fewer than 8 commands of its desk under way, the desk's stores performed and its records well-formed puts its command at the end of the list (R235,
R238), bound as its guard slot stands. NMWAIT completes where no command of the desk has its address any more, waits while one of that address is neither complete nor has
recorded a fault, and then reports a fault (R238). -/
def Sys2Proof.Claims.NearMemoryIssue : Prop :=
  (∀ a g s addr k x r h tv held, s.Issues → s.d.limG a = .ok () → s.d.popsG [a] = .ok ([(addr, false)], k) → (s.nmOf s.core s.desk).length < 8 →
    nmChecked s g addr x r h tv held → s.storesDone s.core s.desk = true → s.fenceClear s.core s.desk .n = true →
    ∃ c : NmCmd, exec (.nmop a g) s = .next (({ x with sys := { x.sys with nm := x.sys.nm ++ [c], nmSeq := x.sys.nmSeq + 1 } }.setD k).retire) ∧
      c.raw = r ∧ c.hyper = h ∧ c.t = tv ∧ c.addr = addr ∧ c.st = .waiting ∧ c.held = held ∧ c.owner = s.ownerOf s.core s.desk ∧
      c.bind = (match s.d.slot g with | .yes => .yes | .no => .no | .pending => .slot (g.extractLsb' 0 3))) ∧
  (∀ a s addr k, s.Issues → s.d.limG a = .ok () → s.d.popsG [a] = .ok ([(addr, false)], k) →
    (∀ x ∈ s.nmOf s.core s.desk, x.addr ≠ addr) → exec (.nmwait a) s = .next ((s.setD k).retire)) ∧
  (∀ a s addr k x, s.Issues → s.d.limG a = .ok () → s.d.popsG [a] = .ok ([(addr, false)], k) → x ∈ s.nmOf s.core s.desk → x.addr = addr →
    (∀ f b, x.st ≠ .fault f b) → ∃ t : State, exec (.nmwait a) s = .next (t.hold .nearMem) ∧ t.mem = s.mem ∧ t.cores = s.cores) ∧
  (∀ a s addr k x f, s.Issues → s.d.limG a = .ok () → s.d.popsG [a] = .ok ([(addr, false)], k) → s.nmOf s.core s.desk = [x] → x.addr = addr →
    x.st = .fault f false → ∃ t : State, exec (.nmwait a) s = .next (t.takeTrap f.cause f.xval f.acc f.tf false) ∧ t.mem = s.mem ∧ t.cores = s.cores)

/-- Where an element of an array of a command lies: in a page whose translation the command holds, of an ordinary kind, memory-side. -/
def Sys2Proof.Claims.nmElem (x : NmCmd) (a : Word) (n i : Nat) (p : Part) : Prop :=
  let va := a + BitVec.ofNat 64 (n * i)
  ∃ t, x.held.find? (·.holds va 0) = some t ∧ x.held.find? (·.holds va 2) = some t ∧ pteKind t.pte ≠ 3#2 ∧ 0 < n ∧ n ≤ 4 ∧ va.toNat % 4096 + n ≤ 4096 ∧
    p = partOf t.pte t.log2 va n ∧ p.ms = true ∧ p.pa.toNat % n = 0 ∧ p.pa.toNat + n ≤ 2 ^ 52
/-- The number at a part. -/
def Sys2Proof.Claims.at_ (s : State) (p : Part) : Nat := leNat (creads s.mem.bytes p.pa.toNat p.n)
/-- P of add-reduce, scale and AdamW (R236), FP32: from s, t, G, the new M1 and M2, and the old P; every operation is rounded. -/
def Sys2Proof.Claims.nmNewP (op : Nat) (h : BitVec 512) (s t g m1 m2 p : Nat) : Nat :=
  match op with
  | 0 => rAdd p (rMul s g)
  | 1 => rMul s p
  | _ =>
    let u := rDiv (rDiv m1 (oneMinusPow (hyB1 h) (t + 1))) (rAdd (rSqrt (rDiv m2 (oneMinusPow (hyB2 h) (t + 1)))) (hyEps h))
    rSub p (rMul (hyLr h) (rAdd u (rMul (hyWd h) p)))

/-- Part of O17. The near-memory phases (R236, R107): a command bound false is discarded and its counter counts it; one bound true whose pages all translate starts its update
and holds their translations, and one that meets a failure records 0x04D. A running command makes one operation of one element at a time, no element begun twice; a line
that fails its MAC is poisoned and stops it with 0x1E0. With every element written it leaves the list, and its counter counts it. -/
def Sys2Proof.Claims.NearMemoryPhases : Prop :=
  (∀ c i n s x, s.nmHead c i n = some x → x.bind = .no →
    exec (.nmTranslationPhase c i n) s = .next ((s.nmSet x.seq (fun _ => none)).counterAdd (s.heldWho x) (dword x.raw 56) 1)) ∧
  (∀ c i n s x y ts, s.nmHead c i n = some x → x.bind = .yes → x.st = .waiting →
    s.nmTranslate (s.whoOf x.maker) (nmCount x.raw) (nmArrays x.raw) = (y, ts, none) →
    exec (.nmTranslationPhase c i n) s = .next (y.nmSet x.seq (fun x => some { x with st := .running 0 [] [], held := ts ++ x.held }))) ∧
  (∀ c i n s x y ts f, s.nmHead c i n = some x → x.bind = .yes → x.st = .waiting →
    s.nmTranslate (s.whoOf x.maker) (nmCount x.raw) (nmArrays x.raw) = (y, ts, some f) → f.cause = 0x04D ∧
    exec (.nmTranslationPhase c i n) s = .next (y.nmSet x.seq (fun x => some { x with st := .fault f false }))) ∧
  (∀ c i n s x k ahead, s.nmHead c i n = some x → x.st = .running k ahead [] → nmCount x.raw ≤ k →
    exec (.nmUpdatePhase c i n) s = .next ((s.nmSet x.seq (fun _ => none)).counterAdd (s.heldWho x) (dword x.raw 56) 1)) ∧
  (∀ c i n s x k ahead under o a, s.nmHead c i n = some x → x.st = .running k ahead under → (k < nmCount x.raw ∨ under ≠ []) →
    oneOf s.tick 1 ((under ++ (nmFresh s.tick (nmCount x.raw) k ahead).map (fun e => ({ el := e } : NmOpen))).flatMap
      (fun o => (nmNext (nmOp x.raw) o).map (fun a => (o, a)))) = some (o, a) →
    (∀ l, s.nmPiece x o a = .error (some l) → exec (.nmUpdatePhase c i n) s =
      .next (({ s with mem := s.mem.spoil l }).nmSet x.seq (fun x => some { x with st := .fault { cause := 0x1E0, xval := x.addr } false }))) ∧
    (∀ y o', s.nmPiece x o a = .ok (y, o') → ∃ k' ahead', exec (.nmUpdatePhase c i n) s = .next (y.nmSet x.seq (fun x =>
        some { x with st := .running k' ahead' (under.filter (fun u => u.el != o.el) ++ o'.toList) })) ∧
      (o ∈ under → k' = k ∧ ahead' = ahead) ∧
      ((∀ u ∈ under, u.el ≠ o.el) → ∀ e, (e < k' ∨ e ∈ ahead') ↔ (e < k ∨ e ∈ ahead ∨ e = o.el)))) ∧
  (∀ tick n k ahead, ∀ e ∈ nmFresh tick n k ahead, e < n ∧ (k ∉ ahead → k ≤ e ∧ e ∉ ahead))

/-- Part of O17. What an operation of an element makes (R236, log 130), FP32 with every operation rounded to nearest, even. G is read first and widened. Add-reduce: P + R(s
G). Scale: R(s P). AdamW: M1 is R(B1 M1) + R(d1 g) and M2 is R(B2 M2) + R(d2 R(g g)), with g = R(s G) and d = R(1 - B), each at its own moment, and then P - R(LR R(u +
R(WD P))). SGD-momentum: M1 is R(B1 M1) + R(R(s G) + R(WD P)), and P is P - R(LR M1) of that M1. A BF16 or FP16 parameter widens exactly and is rounded back. No byte but
the element's own changes. -/
def Sys2Proof.Claims.NearMemoryValues : Prop :=
  (∀ op o, nmNext op o = if op = 1 then [NmArr.p] else if o.g = none then [NmArr.g] else if op ≠ 2 then [NmArr.p]
    else if o.m1 = none ∧ o.m2 = none then [NmArr.m1, NmArr.m2] else if o.m1 = none then [NmArr.m1] else if o.m2 = none then [NmArr.m2] else [NmArr.p]) ∧
  (∀ s x o p, nmElem x (dword x.raw 16) (nmBytes (nmG x.raw)) o.el p → s.macFail x.maker.part [p] = none →
    ∃ y bad, s.nmPiece x o .g = .ok (y, some { o with g := some (widen (nmG x.raw) (at_ s p), bad) }) ∧ SameBytes s y) ∧
  (∀ s x o p, nmOp x.raw ≤ 2 → nmElem x (dword x.raw 8) (nmBytes (nmP x.raw)) o.el p → s.macFail x.maker.part [p] = none →
    ∃ y, s.nmPiece x o .p = .ok (y, none) ∧ SameBytesOutside s y [p] ∧ creads y.mem.bytes p.pa.toNat p.n = natLe (narrow (nmP x.raw)
      (nmNewP (nmOp x.raw) x.hyper (nmScale x.raw x.hyper) x.t.toNat (o.g.getD (0, false)).1 (o.m1.getD (0, false)).1 (o.m2.getD (0, false)).1
        (widen (nmP x.raw) (at_ s p)))) p.n) ∧
  (∀ s x o g b p m1, o.g = some (g, b) → m1 = rAdd (rMul (hyB1 x.hyper) (at_ s p))
      (rMul (rSub one32 (hyB1 x.hyper)) (rMul (nmScale x.raw x.hyper) g)) → nmElem x (dword x.raw 24) 4 o.el p → s.macFail x.maker.part [p] = none →
    ∃ y bad, s.nmPiece x o .m1 = .ok (y, some { o with m1 := some (m1, bad) }) ∧ SameBytesOutside s y [p] ∧ creads y.mem.bytes p.pa.toNat 4 = natLe m1 4) ∧
  (∀ s x o g b p m2, o.g = some (g, b) → m2 = rAdd (rMul (hyB2 x.hyper) (at_ s p)) (rMul (rSub one32 (hyB2 x.hyper))
      (rMul (rMul (nmScale x.raw x.hyper) g) (rMul (nmScale x.raw x.hyper) g))) → nmElem x (dword x.raw 32) 4 o.el p → s.macFail x.maker.part [p] = none →
    ∃ y bad, s.nmPiece x o .m2 = .ok (y, some { o with m2 := some (m2, bad) }) ∧ SameBytesOutside s y [p] ∧ creads y.mem.bytes p.pa.toNat 4 = natLe m2 4) ∧
  (∀ s x o g b p q, nmOp x.raw = 3 → o.g = some (g, b) → nmElem x (dword x.raw 8) (nmBytes (nmP x.raw)) o.el p → nmElem x (dword x.raw 24) 4 o.el q →
    p.pa.toNat / 64 ≠ q.pa.toNat / 64 → s.macFail x.maker.part [p, q] = none →
    let old := widen (nmP x.raw) (at_ s p)
    let m1 := rAdd (rMul (hyB1 x.hyper) (at_ s q)) (rAdd (rMul (nmScale x.raw x.hyper) g) (rMul (hyWd x.hyper) old))
    ∃ y, s.nmPiece x o .p = .ok (y, none) ∧ SameBytesOutside s y [p, q] ∧ creads y.mem.bytes q.pa.toNat 4 = natLe m1 4 ∧
      creads y.mem.bytes p.pa.toNat p.n = natLe (narrow (nmP x.raw) (rSub old (rMul (hyLr x.hyper) m1))) p.n)
/-- O17. NMOP, NMWAIT and the phases of a near-memory command. Where the spec leaves a point open it rests on the model's own choice: log 37, 130. -/
def Obligations.NearMemoryResult : Prop := NearMemoryIssue ∧ NearMemoryPhases ∧ NearMemoryValues


/-- What a counter instruction needs of its address (R245): a multiple of 8 that translates to one part, one of the launch's declared counters where it
lies in the counter array, on a clean line that passes its MAC, and every earlier access of the desk performed. -/
def Sys2Proof.Claims.counterAt (s : State) (ea : Word) (acc : BitVec 2) (x : State) (p : Part) : Prop :=
  s.counterAccess ea acc = .ok (x, [p]) ∧ p.n = 8 ∧ p.pa.toNat + 8 ≤ 2 ^ 52 ∧ x.macFail s.d.part [p] = none ∧
  (linesOf p.pa.toNat p.n (p.n + 1)).any (fun l => x.mem.poison.contains l.1) = false ∧
  s.storesDone s.core s.desk = true ∧ s.fenceClear s.core s.desk .l = true ∧ x.msBusy p = false ∧
  x.storesDone x.core x.desk = true ∧ x.fenceClear x.core x.desk .l = true ∧ x.fenceClear x.core x.desk .s = true ∧ x.fenceClear x.core x.desk .n = true

/-- Part of O18. The counter instructions complete (R246 to R248, R251, R252). CADD adds with saturation at 2^64 - 1 and returns the old value; with destination g0 its add is
a store. CTEST gives 1 exactly where the counter is at least its target. CWAIT and BWAIT complete at once where it is; BWAIT's token entry goes. BARV adds 1 and returns
as its token the least multiple of its count above the old value, and keeps it. -/
def Sys2Proof.Claims.CounterOps : Prop :=
  (∀ sc o b a d s ea n k x p, s.Issues → d ≠ 0 → s.d.limsG [a, b, d] = .ok () → s.d.popsG [a, b] = .ok ([(ea, false), (n, false)], k) → k.roomG d = .ok () →
    counterAt s ea 2 x p → ∃ t, exec (.cadd sc o b a d) s =
        .next (((t.setD (k.pushG d (BitVec.ofNat 64 (leNat (creads x.mem.bytes p.pa.toNat 8))) false)).retire).switchDesk) ∧
      SameBytesOutside x t [p] ∧ creads t.mem.bytes p.pa.toNat 8 = natLe (min (leNat (creads x.mem.bytes p.pa.toNat 8) + n.toNat) (2 ^ 64 - 1)) 8) ∧
  (∀ sc o b a s ea n k x ps, s.Issues → o.getLsbD 0 = false → s.d.limsG [a, b, 0] = .ok () → s.d.popsG [a, b] = .ok ([(ea, false), (n, false)], k) →
    s.counterAccess ea 2 = .ok (x, ps) → s.d.sq.length < 16 → ∃ it : StoreItem, exec (.cadd sc o b a 0) s = .next ((x.setD { k with sq := k.sq ++ [it] }).retire) ∧
      it.kind = .cadd ∧ it.ops = [⟨ea, ps, natLe n.toNat 8, false⟩]) ∧
  (∀ b a d s ea n k x p, s.Issues → s.d.limsG [a, b, d] = .ok () → s.d.popsG [a, b] = .ok ([(ea, false), (n, false)], k) → k.roomG d = .ok () → counterAt s ea 0 x p →
    exec (.ctest b a d) s = .next ((((x.readHome s.d.part ea [p] false).1).setD
      (k.pushG d (if n.toNat ≤ leNat (creads x.mem.bytes p.pa.toNat 8) then 1 else 0) false)).retire)) ∧
  (∀ b a s ea n k x p, s.Issues → s.d.limsG [a, b] = .ok () → s.d.popsG [a, b] = .ok ([(ea, false), (n, false)], k) → counterAt s ea 0 x p →
    n.toNat ≤ leNat (creads x.mem.bytes p.pa.toNat 8) →
    exec (.cwait b a) s = .next ((((x.readHome s.d.part ea [p] false).1).setD k).retire) ∧
    (⟨ea, n⟩ ∈ s.d.tokens → exec (.bwait b a) s = .next ((((x.readHome s.d.part ea [p] false).1).setD { k with tokens := k.tokens.erase ⟨ea, n⟩ }).retire))) ∧
  (∀ b a d s ea n k x p, s.Issues → s.d.limsG [a, b, d] = .ok () → s.d.popsG [a, b] = .ok ([(ea, false), (n, false)], k) → k.roomG d = .ok () → counterAt s ea 2 x p →
    0 < n.toNat → n.toNat < 2 ^ 32 → s.d.tokens.length < 4 →
    let old := leNat (creads x.mem.bytes p.pa.toNat 8)
    ∃ (t : State) (tok : Word), exec (.barv b a d) s = .next (((t.setD ({ k with tokens := k.tokens ++ [(⟨ea, tok⟩ : Token)] }.pushG d tok false)).retire).switchDesk) ∧
      (old / n.toNat * n.toNat + n.toNat < 2 ^ 64 → tok.toNat = old / n.toNat * n.toNat + n.toNat) ∧
      SameBytesOutside x t [p] ∧ creads t.mem.bytes p.pa.toNat 8 = natLe (min (old + 1) (2 ^ 64 - 1)) 8)

/-- Part of O18. The waits for counters (R247, R250): a CWAIT below its target leaves its desk waiting, listed at the home where there is room; CWAIT_WAKE ends the wait of
the first desk that a write has made due, and WAITER_REREAD that of a desk that was not listed, once its counter has reached its target; the end of such a wait is an
event that its partition's monitors may watch (R390). -/
def Sys2Proof.Claims.CounterWaits : Prop :=
  (∀ b a s ea n k x p, s.Issues → s.d.limsG [a, b] = .ok () → s.d.popsG [a, b] = .ok ([(ea, false), (n, false)], k) → counterAt s ea 0 x p →
    leNat (creads x.mem.bytes p.pa.toNat 8) < n.toNat → ∃ t w, exec (.cwait b a) s = .next t ∧ (t.deskAt s.core s.desk).cw = some w ∧ w.va = ea ∧
      w.target = n ∧ t.mem.bytes = x.mem.bytes) ∧
  (∀ pa s w rest x k y, s.mem.waiters = w :: rest → w.pa = pa → w.due = some false → (s.deskAt w.core w.desk).cw = some x →
    x.token = false → { s.deskAt w.core w.desk with cw := none, wait := none }.popsG x.regs = .ok (y, k) →
    exec (.cwaitWake pa) s = .next ((((({ s with core := w.core, desk := w.desk, mem := { s.mem with waiters := rest } } : State).note
      (s.deskAt w.core w.desk).part 3 [w.core.toNat / 256]).setD k).retire).wakes (s.idle w.core) w.core w.desk)) ∧
  (∀ pa s w rest x, s.mem.waiters = w :: rest → w.pa = pa → w.due = some true → (s.deskAt w.core w.desk).cw = some x →
    let t := ({ s with core := w.core, desk := w.desk, mem := { s.mem with waiters := rest } } : State).note (s.deskAt w.core w.desk).part 3 [w.core.toNat / 256]
    exec (.cwaitWake pa) s = .next (((t.setD { t.d with cw := none, wait := none }).takeTrap 0x1C0 x.va 0 none false).wakes
      (s.idle w.core) w.core w.desk)) ∧
  (∀ c i s x k y, (s.deskAt c i).cw = some x → x.listed = false → s.mem.poison.contains (x.pa.toNat / 64) = false →
    x.target.toNat ≤ leNat (creads s.mem.bytes x.pa.toNat 8) → x.token = false → { s.deskAt c i with cw := none, wait := none }.popsG x.regs = .ok (y, k) →
    exec (.waiterReread c i) s = .next ((((({ s with core := c, desk := i } : State).note (s.deskAt c i).part 3 [c.toNat / 256]).setD k).retire).wakes (s.idle c) c i))
/-- O18. Counters, barriers and the waits on them. Where the spec leaves a point open it rests on the model's own choice: log 38, 39, 31. -/
def Obligations.CounterResult : Prop := CounterOps ∧ CounterWaits


/-- O19. XPUT and XGET in the exchange complete on an allowed tuple of their own device (R257, R258, R21): the units of the copy, 8 bytes each, join those of the desk, and
some of them may be made at once; the rest are at the desk's XDONE at the latest; no byte of global memory changes. A unit, once made, stands in the scratchpad that it is
for, and no other byte there changes; an XGET brings what its source held at the bell of the desk's stage, with the copies since (R259). Outside the exchange both trap
with 0x0C3. Where the spec leaves a point open it rests on the model's own choice: log 6, 40, 41, 119. -/
def Obligations.ExchangeCopies : Prop :=
  (∀ b a d s tup loc len k, s.Issues → s.d.limsG [a, b, d] = .ok () → s.d.popsG [a, b, d] = .ok ([(tup, false), (loc, false), (len, false)], k) →
    (s.d.exch = false → exec (.xput b a d) s = .next (s.traps 0x0C3 0 0) ∧ exec (.xget b a d) s = .next (s.traps 0x0C3 0 0)) ∧
    (s.d.exch = true → 0 < len.toNat → len.toNat % 8 = 0 → len.toNat ≤ 0x80000 → loc.toNat % 8 = 0 → tup.toNat % 8 = 0 → s.tupleOk s.d tup len.toNat 1 = .ok () → s.tupleOk s.d tup len.toNat 0 = .ok () →
      (tup.extractLsb' 29 11) = s.device → s.d.inside loc.toNat len.toNat = true →
      let off := (tup.extractLsb' 0 19).toNat
      let far := tup.extractLsb' 19 10
      let here := fun i => (s.c.padRead (loc.toNat + i) 8, s.c.padBad (loc.toNat + i) 8)
      (s.mayRead loc.toNat len.toNat = .ok () → exec (.xput b a d) s =
        .next (((s.setD { k with xfers := k.xfers ++ copyOf far off len.toNat none here }).moves false).retire)) ∧
      (s.c.protects loc.toNat len.toNat = none → exec (.xget b a d) s =
        .next (((s.setD { k with xfers := k.xfers ++ copyOf s.core loc.toNat len.toNat (some (far, off)) s.farBytes }).moves false).retire)))) ∧
  (∀ (s : State) b, (s.moves b).mem = s.mem) ∧
  (∀ (s : State) x c off, x.src = some (c, off) → s.unitData x = match tget? (s.coreAt c).bells s.d.stage.toNat with
    | some b => (creads b.1 off 8, b.2.contains (off / 64))
    | none => (creads (s.coreAt c).pad off 8, (s.coreAt c).padPoison.contains (off / 64))) ∧
  (∀ (s : State) x, s.d.xfers = [x] → (s.unitData x).1.length = 8 → (s.moves true).d.xfers = [] ∧
    creads ((s.moves true).coreAt x.dst).pad x.off 8 = (s.unitData x).1 ∧
    ∀ a, a < x.off ∨ x.off + 8 ≤ a → cget ((s.moves true).coreAt x.dst).pad a = cget (s.coreAt x.dst).pad a)

/-! ### The scratchpad (R145, R146), tiles (R147 to R153), bit streams (R137 to R141), ends of phases (R253 to R257, R344) -/

/-- O20. Accesses to the scratchpad complete inside the region (R146, R17): a load gives the little-endian bytes at its address, sign-extended for sizes 0 to 3, with their
poison; a store writes its bytes there and leaves every other byte of the scratchpad, and all of global memory, as they were. Outside the region they trap with 0x045 and
the address. Where the spec leaves a point open it rests on the model's own choice: log 103, 139. -/
def Obligations.LocalResult : Prop :=
  (∀ o z b d (s : State) x (k : Desk), s.Issues → s.d.limsG [b, d] = .ok () → s.d.popsG [b] = .ok ([(x, false)], k) → k.roomG d = .ok () →
    let n := widthOf z
    let ea := x + o.signExtend 64 * BitVec.ofNat 64 n
    if s.d.base ≤ ea.toNat ∧ ea.toNat + n ≤ s.d.base + s.d.kern.scratch then s.mayRead ea.toNat n = .ok () → exec (.ldl o z b d) s = .next ((s.setD (k.pushG d
        (if z.toNat < 4 then (BitVec.ofNat (8 * n) (leNat (creads s.c.pad ea.toNat n))).signExtend 64 else BitVec.ofNat 64 (leNat (creads s.c.pad ea.toNat n)))
        (s.c.padBad ea.toNat n))).retire)
    else exec (.ldl o z b d) s = .next (s.traps 0x045 ea 0)) ∧
  (∀ o b d (s : State) x (k : Desk), s.Issues → s.d.limG b = .ok () → s.d.limV d = .ok () → s.d.popsG [b] = .ok ([(x, false)], k) → k.roomV d = .ok () →
    let ea := x + o.signExtend 64 * 64
    if s.d.base ≤ ea.toNat ∧ ea.toNat + 64 ≤ s.d.base + s.d.kern.scratch then s.mayRead ea.toNat 64 = .ok () → exec (.vldl o b d) s = .next ((s.setD (k.pushV d
        (BitVec.ofNat 512 (leNat (creads s.c.pad ea.toNat 64))) (s.c.padBad ea.toNat 64))).retire)
    else exec (.vldl o b d) s = .next (s.traps 0x045 ea 0)) ∧
  (∀ o z b d s x v bad k, s.Issues → s.d.limsG [b, d] = .ok () → s.d.popsG [b, d] = .ok ([(x, false), (v, bad)], k) →
    let n := 2 ^ z.toNat
    let ea := x + o.signExtend 64 * BitVec.ofNat 64 n
    s.d.base ≤ ea.toNat → ea.toNat + n ≤ s.d.base + s.d.kern.scratch → s.mayWrite ea.toNat n = .ok () → ∃ c, exec (.stl o z b d) s = .next ((s.setCD c k).retire) ∧
      creads c.pad ea.toNat n = natLe v.toNat n ∧ (∀ a, a < ea.toNat ∨ ea.toNat + n ≤ a → cget c.pad a = cget s.c.pad a) ∧ c.tiles = s.c.tiles) ∧
  (∀ o z b d s x v bad k, s.Issues → s.d.limsG [b, d] = .ok () → s.d.popsG [b, d] = .ok ([(x, false), (v, bad)], k) →
    let n := 2 ^ z.toNat
    let ea := x + o.signExtend 64 * BitVec.ofNat 64 n
    (ea.toNat < s.d.base ∨ s.d.base + s.d.kern.scratch < ea.toNat + n) → exec (.stl o z b d) s = .next (s.traps 0x045 ea 1)) ∧
  (∀ o b d s x v bad k k', s.Issues → s.d.limG b = .ok () → s.d.limV d = .ok () → s.d.popsG [b] = .ok ([(x, false)], k) → k.popV d = .ok ⟨v, bad, k'⟩ →
    let ea := x + o.signExtend 64 * 64
    (ea.toNat < s.d.base ∨ s.d.base + s.d.kern.scratch < ea.toNat + 64) → exec (.vstl o b d) s = .next (s.traps 0x045 ea 1)) ∧
  (∀ o b d s x v bad k k', s.Issues → s.d.limG b = .ok () → s.d.limV d = .ok () → s.d.popsG [b] = .ok ([(x, false)], k) → k.popV d = .ok ⟨v, bad, k'⟩ →
    let ea := x + o.signExtend 64 * 64
    s.d.base ≤ ea.toNat → ea.toNat + 64 ≤ s.d.base + s.d.kern.scratch → s.mayWrite ea.toNat 64 = .ok () → ∃ c, exec (.vstl o b d) s = .next ((s.setCD c k').retire) ∧
      creads c.pad ea.toNat 64 = natLe v.toNat 64 ∧ (∀ a, a < ea.toNat ∨ ea.toNat + 64 ≤ a → cget c.pad a = cget s.c.pad a) ∧ c.tiles = s.c.tiles)

/-- The tile instructions (R148): guard, g sources, and the entry they leave from the core's number, the second operand and the entry they find; none where the
tile's state does not permit them. -/
def Sys2Proof.Claims.tileRule : Instr → Option (Guard × List GReg × (BitVec 4 → Word → Tile → Option Tile))
  | .tfill g b a => some (g, [a, b], fun _ x e => if x.toNat ≤ 15 ∧ e.st = .empty ∧ e.size ≠ 0 then some { e with st := .filling, prod := x.setWidth 4 } else none)
  | .tready g a => some (g, [a], fun me _ e => if e.st = .filling ∧ e.prod = me then some { e with st := .ready } else none)
  | .tdrain g a => some (g, [a], fun _ _ e => if e.st = .ready then some { e with st := .draining } else none)
  | .tfree g a => some (g, [a], fun _ _ e => if e.st ≠ .filling then some { e with st := .empty } else none)
  | .twait g b a => some (g, [a, b], fun _ x e => if ([TileSt.empty, .filling, .ready, .draining])[x.toNat]? = some e.st then some e else none)
  | _ => none
/-- O21. The tile instructions complete where the tile's state permits them (R148): the entry takes its new state and nothing else changes. TDEF gives an EMPTY tile its base
and size where they are multiples of 64 in the region and overlap no other tile; TSTAT reads the entry. Where the spec leaves a point open it rests on the model's own
choice: log 140. -/
def Obligations.TileResult : Prop :=
  (∀ i g rs f, tileRule i = some (g, rs, f) → ∀ s xs k n e, s.Issues → s.d.guard g = true → s.d.limsG rs = .ok () → s.d.popsG rs = .ok (xs, k) →
    xs.any (·.2) = false → n = (arg (xs.map (·.1)) 0).setWidth 6 → n.toNat < s.d.kern.tiles →
    f (s.core.setWidth 4) (arg (xs.map (·.1)) 1) (s.c.tile n.toNat) = some e → exec i s = .next ((s.setCD { s.c with tiles := s.c.tiles.set n.toNat e n.isLt } k).retire)) ∧
  (∀ g b a s t x k, s.Issues → s.d.guard g = true → s.d.limsG [a, b] = .ok () → s.d.popsG [a, b] = .ok ([(t, false), (x, false)], k) →
    let n : BitVec 6 := t.setWidth 6
    let base := (x.extractLsb' 20 19).toNat
    let size := (x.extractLsb' 0 20).toNat
    n.toNat < s.d.kern.tiles → x.toNat < 2 ^ 39 → base % 64 = 0 → size % 64 = 0 → size ≤ 0x80000 → (s.c.tile n.toNat).st = .empty →
    (size = 0 ∨ (s.d.base ≤ base ∧ base + size ≤ s.d.base + s.d.kern.scratch ∧ ∀ m, m < 64 → m ≠ n.toNat → (s.c.tile m).size ≠ 0 →
      base + size ≤ (s.c.tile m).base ∨ (s.c.tile m).base + (s.c.tile m).size ≤ base)) →
    exec (.tdef g b a) s = .next ((s.setCD { s.c with tiles := s.c.tiles.set n.toNat { s.c.tile n.toNat with base := base, size := size } n.isLt } k).retire)) ∧
  (∀ g a d s t k, s.Issues → s.d.guard g = true → s.d.limsG [a, d] = .ok () → s.d.popsG [a] = .ok ([(t, false)], k) → k.roomG d = .ok () →
    let n : BitVec 6 := t.setWidth 6
    n.toNat < s.d.kern.tiles → exec (.tstat g a d) s = .next ((s.setD (k.pushG d (s.c.tile n.toNat).stat false)).retire))

/-- O22. TCAST whose every target accepts copies its source into the tile of each, READY then, and changes nothing else of any core, whatever its mask and length, and
completes (R150); one with a target that does not accept yet waits, and TCAST_DELIVERY completes it once all do. TILE_WATCHDOG gives 0x0C7 to a desk that waits on a tile:
its number, or, of a TCAST, the mask of the targets that do not accept (R153). Where the spec leaves a point open it rests on the model's own choice: log 103, 141. -/
def Obligations.TcastResult : Prop :=
  (∀ g b a d s src w len k t, s.Issues → s.d.guard g = true → s.d.limsG [a, b, d] = .ok () →
    s.d.popsG [a, b, d] = .ok ([(src, false), (w, false), (len, false)], k) → w.toNat < 2 ^ 22 → 0 < len.toNat → len.toNat % 64 = 0 →
    let x : Cast := ⟨src.toNat, len.toNat, w.extractLsb' 6 16, w.setWidth 6, [a, b, d]⟩
    x.mask ≠ 0 → x.mask.getLsbD (s.core.toNat % 16) = false → s.d.inside src.toNat len.toNat = true → x.tile.toNat < s.d.kern.tiles →
    (s.notAccepting x = 0 → s.castDeliver x = .ok t → exec (.tcast g b a d) s = .next ((t.setD k).retire)) ∧
    (s.notAccepting x ≠ 0 → exec (.tcast g b a d) s = .next ((s.setD { s.d with cast := some x }).hold (.tile x.tile)))) ∧
  (∀ (s : State) (x : Cast), x.len % 64 = 0 → (∀ c ∈ clusterCores s.core x.mask, x.len ≤ ((s.coreAt c).tile x.tile.toNat).size ∧
      (s.coreAt c).protects ((s.coreAt c).tile x.tile.toNat).base x.len = none) → s.mayRead x.src x.len = .ok () →
    ∃ t, s.castDeliver x = .ok t ∧ t.mem = s.mem ∧ (∀ c, c ∉ clusterCores s.core x.mask → t.coreAt c = s.coreAt c) ∧
      ∀ c ∈ clusterCores s.core x.mask, let e := (s.coreAt c).tile x.tile.toNat
        creads (t.coreAt c).pad e.base x.len = creads s.c.pad x.src x.len ∧
        (∀ a, a < e.base ∨ e.base + x.len ≤ a → cget (t.coreAt c).pad a = cget (s.coreAt c).pad a) ∧
        (t.coreAt c).tiles = (s.coreAt c).tiles.set x.tile.toNat { e with st := .ready } x.tile.isLt) ∧
  (∀ c i s x t k y, let s0 := { s with core := c, desk := i }
    s0.d.cast = some x → s0.notAccepting x = 0 → s0.castDeliver x = .ok t → t.d.popsG x.regs = .ok (y, k) → exec (.tcastDelivery c i) s = .next ((t.setD k).retire)) ∧
  (∀ c i s n, (s.deskAt c i).wait = some (.tile n) → (s.deskAt c i).cast = none →
    exec (.tileWatchdog c i) s = .next (({ s with core := c, desk := i }).takeTrap 0x0C7 (n.setWidth 64) 0 none false)) ∧
  (∀ c i s n x, (s.deskAt c i).wait = some (.tile n) → (s.deskAt c i).cast = some x → let s0 := { s with core := c, desk := i }
    exec (.tileWatchdog c i) s = .next (s0.takeTrap 0x0C7 (s0.notAccepting x) 0 none false))

/-- Bit p of the scratchpad as a stream (R137). -/
def Sys2Proof.Claims.streamBit (c : Core) (p : Nat) : Bool := (cget c.pad (p / 8)).getLsbD (p % 8)
/-- A read-mode buffer holds the bits of the stream from its position up (R138). -/
def Sys2Proof.Claims.holds (c : Core) (b : BitBuf) : Prop :=
  b.mode = 1#2 ∧ b.sound = true ∧ ∀ j, j < b.count.toNat → b.buf.getLsbD j = streamBit c (b.pos.toNat + j)
/-- The first n bits of the stream from the buffer's position, those at or beyond its end 0 (R140). -/
def Sys2Proof.Claims.firstBits (c : Core) (b : BitBuf) (n : Nat) : Nat :=
  (List.range n).foldl (fun a j => a + if b.pos.toNat + j < 8 * b.stop.toNat ∧ streamBit c (b.pos.toNat + j) then 2 ^ j else 0) 0
/-- The moves of a read stream (R140): guard, sources, the new position from the buffer and the operands, the bits read, and their destination. -/
def Sys2Proof.Claims.moveRule : Instr → Option (Guard × List GReg × (BitBuf → List Word → Nat) × Option GReg)
  | .bbget g b d => some (g, [b], fun u x => u.pos.toNat + (arg x 0).toNat, some d)
  | .bbskip g b => some (g, [b], fun u x => u.pos.toNat + (arg x 0).toNat, none)
  | .bbseek g a => some (g, [a], fun _ x => (arg x 0).toNat, none)
  | _ => none
/-- Part of O23. Reading a stream of clean bytes of the region that no tile fills (R137, R138, R140): BBGET gives the bits at the position and moves past them, BBSKIP and
BBSEEK move, BBINIT begins; each leaves the buffer at its new position, holding the bits of the stream from there. BBPEEK and BBPOS move nothing. -/
def Sys2Proof.Claims.BitReading : Prop :=
  (∀ i g rs f dst, moveRule i = some (g, rs, f, dst) → ∀ (s : State) (xs : List (Word × Bool)) (k : Desk) (p : Nat), s.Issues → s.d.guard g = true → s.d.limsG (rs ++ dst.toList) = .ok () → s.d.popsG rs = .ok (xs, k) →
    xs.any (·.2) = false → holds s.c s.d.bb → p = f s.d.bb (xs.map Prod.fst) → (dst ≠ none → 1 ≤ (arg (xs.map (·.1)) 0).toNat ∧ (arg (xs.map (·.1)) 0).toNat ≤ 32) →
    p ≤ 8 * s.d.bb.stop.toNat → 8 * s.d.base ≤ p → ((∃ g a, i = .bbseek g a) ∨ s.d.base ≤ s.d.bb.ptr.toNat) → s.d.bb.stop.toNat ≤ s.d.base + s.d.kern.scratch → (∀ t ∈ s.c.tiles.toList, t.st ≠ .filling) → s.c.padPoison = [] →
    (∀ d, dst = some d → k.roomG d = .ok ()) →
    ∃ b, exec i s = .next ((s.setD { (match dst with | none => k | some d => k.pushG d (BitVec.ofNat 64 (firstBits s.c s.d.bb (arg (xs.map Prod.fst) 0).toNat)) false) with bb := b }).retire) ∧
      holds s.c b ∧ b.pos = p ∧ b.stop = s.d.bb.stop) ∧
  (∀ g b a s start stop k, s.Issues → s.d.guard g = true → s.d.limsG [a, b] = .ok () → s.d.popsG [a, b] = .ok ([(start, false), (stop, false)], k) → s.d.bb.sound = true →
    s.d.base ≤ start.toNat → start.toNat ≤ stop.toNat → stop.toNat ≤ s.d.base + s.d.kern.scratch → stop.toNat < 2 ^ 19 → (∀ t ∈ s.c.tiles.toList, t.st ≠ .filling) →
    s.c.padPoison = [] → ∃ u, exec (.bbinit g b a) s = .next ((s.setD { k with bb := u }).retire) ∧ holds s.c u ∧ u.pos = 8 * start.toNat ∧ u.stop.toNat = stop.toNat) ∧
  (∀ g b d s n k, s.Issues → s.d.guard g = true → s.d.limsG [b, d] = .ok () → s.d.popsG [b] = .ok ([(n, false)], k) → holds s.c s.d.bb → 1 ≤ n.toNat → n.toNat ≤ 32 →
    k.roomG d = .ok () → exec (.bbpeek g b d) s = .next ((s.setD (k.pushG d (BitVec.ofNat 64 (firstBits s.c s.d.bb n.toNat)) false)).retire)) ∧
  (∀ g d s, s.Issues → s.d.guard g = true → s.d.limG d = .ok () → s.d.bb.sound = true → (s.d.bb.mode = 1 ∨ s.d.bb.mode = 2) → s.d.roomG d = .ok () →
    exec (.bbpos g d) s = .next ((s.setD (s.d.pushG d (BitVec.ofInt 64 s.d.bb.pos) false)).retire)) ∧
  (∀ g b a d s t n k, s.Issues → s.d.guard g = true → s.d.limsG [a, b, d] = .ok () → s.d.popsG [a, b] = .ok ([(t, false), (n, false)], k) → holds s.c s.d.bb → 1 ≤ n.toNat → n.toNat ≤ 16 →
    k.roomG d = .ok () → t.toNat % 2 = 0 →
    let ea := t.toNat + 2 * firstBits s.c s.d.bb n.toNat
    s.d.base ≤ t.toNat → s.d.base + s.d.kern.scratch ≤ 2 ^ 19 → ea + 2 ≤ s.d.base + s.d.kern.scratch → s.mayRead ea 2 = .ok () →
    exec (.bblut g b a d) s = .next ((s.setD (k.pushG d (BitVec.ofNat 64 (leNat (creads s.c.pad ea 2))) (s.c.padBad ea 2))).retire))

/-- Part of O23. Writing a stream (R138, R140): BBINITW begins one; BBPUT appends the low n bits of its value, storing each byte that they complete; BBFLUSH stores a partial
byte with its high bits 0. What is stored is what the buffer and the value hold, low bits first, and no other byte of the scratchpad changes. -/
def Sys2Proof.Claims.BitWriting : Prop :=
  (∀ g b a s start stop k, s.Issues → s.d.guard g = true → s.d.limsG [a, b] = .ok () → s.d.popsG [a, b] = .ok ([(start, false), (stop, false)], k) → s.d.bb.sound = true →
    s.d.base ≤ start.toNat → start.toNat ≤ stop.toNat → stop.toNat ≤ s.d.base + s.d.kern.scratch →
    exec (.bbinitw g b a) s = .next ((s.setD { k with bb := { buf := 0, mode := 2, count := 0, ptr := start.setWidth 19, stop := stop.setWidth 19 } }).retire)) ∧
  (∀ g b a s v n k, s.Issues → s.d.guard g = true → s.d.limsG [a, b] = .ok () → s.d.popsG [a, b] = .ok ([(v, false), (n, false)], k) → s.d.bb.sound = true → s.d.bb.mode = 2 →
    1 ≤ n.toNat → n.toNat ≤ 64 →
    let u := s.d.bb
    let full := (u.count.toNat + n.toNat) / 8
    let bits := u.buf.toNat + v.toNat % 2 ^ n.toNat * 2 ^ u.count.toNat
    s.d.base ≤ u.ptr.toNat → u.ptr.toNat + full ≤ s.d.base + s.d.kern.scratch → u.ptr.toNat + full ≤ u.stop.toNat → (full ≠ 0 → s.mayWrite u.ptr.toNat full = .ok ()) →
    ∃ c w, exec (.bbput g b a) s = .next ((s.setCD c { k with bb := w }).retire) ∧ creads c.pad u.ptr.toNat full = natLe bits full ∧
      (∀ x, x < u.ptr.toNat ∨ u.ptr.toNat + full ≤ x → cget c.pad x = cget s.c.pad x) ∧ w.pos = u.pos + (n.toNat : Int) ∧ w.buf.toNat = bits / 2 ^ (8 * full) ∧ w.mode = 2) ∧
  (∀ g s, s.Issues → s.d.guard g = true → s.d.bb.sound = true → s.d.bb.mode = 2 →
    let u := s.d.bb
    (u.count = 0 → exec (.bbflush g) s = .next ((s.setD s.d).retire)) ∧
    (u.count ≠ 0 → s.d.base ≤ u.ptr.toNat → u.ptr.toNat + 1 ≤ s.d.base + s.d.kern.scratch → u.ptr ≠ u.stop → s.mayWrite u.ptr.toNat 1 = .ok () →
      ∃ c w, exec (.bbflush g) s = .next ((s.setCD c { s.d with bb := w }).retire) ∧ cget c.pad u.ptr.toNat = u.buf.setWidth 8 ∧
        (∀ x, x ≠ u.ptr.toNat → cget c.pad x = cget s.c.pad x) ∧ w.count = 0 ∧ w.ptr = u.ptr + 1))
/-- O23. The bit reader and the bit writer take and store the bits of their stream in order. Where the spec leaves a point open it rests on the model's own choice: log 102,
139. -/
def Obligations.BitStream : Prop := BitReading ∧ BitWriting


/-- O24. A share's ends (R253, R256, R257, R344): XDONE in the exchange completes once its desk's stores and cards of the exchange are done, and the desk leaves its core; a
TEND that is not the last of its share in compute, also for a desk that is saved away (R25), leaves at once; the last with nothing outstanding ends the share on its core;
BELL of the share's last desk in compute, with nothing outstanding, rings, and waits at the bell; where a desk of the share is saved away it waits without ringing. XDONE
outside the exchange and BELL in it trap with 0x0C3. The messages of a desk's context stay until the last desk of its share has left, and then go (R25, R323). Where the
spec leaves a point open it rests on the model's own choice: log 61, 62, 63, 73. -/
def Obligations.PhaseEnds : Prop :=
  (∀ s, s.d.gen = none → s.d.member = false → (s.d.exch = false → exec .xdone s = .next (s.traps 0x0C3 0 0)) ∧ (s.d.exch = true → exec .bell s = .next (s.traps 0x0C3 1 0))) ∧
  (∀ s, s.d.gen = none → s.d.member = false → s.d.exch = true → s.d.xfers = [] → s.storesOut s.core s.desk = true →
    (∀ x ∈ s.allCards, x.owner.same (s.ownerOf s.core s.desk) = false ∨ x.exch = false) → ∃ t, exec .xdone s = .next t ∧ (t.deskAt s.core s.desk).occ = false ∧ t.mem = s.mem ∧
      (s.d.pendingSlots = 0 → exec .tend s = .next t)) ∧
  (∀ s, s.d.gen = none → s.d.member = false → s.d.exch = false → s.d.pendingSlots = 0 →
    ((∃ j ∈ s.c.others s.desk, (s.c.at j).wait ≠ some .bell) ∨ (s.c.work.replay = false ∧ s.awayDesks = true)) →
    ∃ t, exec .tend s = .next t ∧ (t.deskAt s.core s.desk).occ = false ∧ t.mem = s.mem) ∧
  (∀ s, s.d.gen = none → s.d.member = false → s.d.exch = false → s.d.pendingSlots = 0 → s.awayDesks = false → s.c.work.replay = false → s.c.others s.desk = [] →
    (s.ringing = true → s.c.busyTiles = 0) → s.shareHolds s.ringing = none → ∃ t, exec .tend s = .next t ∧ (t.deskAt s.core s.desk).occ = false ∧
      (t.coreAt s.core).work.slot = none ∧ t.mem = s.mem) ∧
  (∀ s, s.d.gen = none → s.d.member = false → s.d.exch = false → s.c.work.todo = [] → s.c.work.resumed = false → s.d.pendingSlots = 0 → s.c.busyTiles = 0 →
    s.awayDesks = true → exec .bell s = .next (s.hold .bell).switchDesk) ∧
  (∀ s, s.d.gen = none → s.d.member = false → s.d.exch = false → s.c.work.todo = [] → s.c.work.resumed = false → s.d.pendingSlots = 0 → s.c.busyTiles = 0 →
    s.awayDesks = false → s.c.work.replay = false → (∀ j ∈ s.c.others s.desk, (s.c.at j).wait = some .bell) → s.shareHolds true = none → ∃ t, exec .bell s = .next t ∧ (t.coreAt s.core).work.rung = true ∧
      (t.deskAt s.core s.desk).wait = some .bell ∧ t.mem = s.mem) ∧
  (∀ (c : Core) i j, j ≠ i → (c.at j).occ = true → (c.at j).launch = (c.at i).launch → (c.endDesk i).inq = c.inq ∧ (c.endDesk i).mail = c.mail) ∧
  (∀ (c : Core) i, (c.at i).launch.isSome = true → (∀ j, j ≠ i → (c.at j).occ = true → (c.at j).launch ≠ (c.at i).launch) →
    ∀ m ∈ (c.endDesk i).mail, m.2.ctx ≠ (c.at i).ctxid)

/-! ### The vector unit (R31, R116 to R133) -/

/-- The float format of a type code (R41); none for an integer type. -/
def Sys2Proof.Claims.fmtOf (t : BitVec 3) : Option Fmt := ([some .f32, some .bf16, some .f16, some .e4m3, some .e5m2] : List (Option Fmt)).getD t.toNat none
/-- Bits of an element of a type (R41). -/
def Sys2Proof.Claims.bitsOf (t : BitVec 3) : Nat := ([32, 16, 16, 8, 8, 32, 16, 8]).getD t.toNat 8
/-- Two's complement value of w bits. -/
def Sys2Proof.Claims.signed (w x : Nat) : Int := (BitVec.ofNat w x).toInt
/-- w bits of an integer. -/
def Sys2Proof.Claims.wrap (w : Nat) (x : Int) : FRes := ⟨(BitVec.ofInt w x).toNat, 0⟩
/-- A lane operation of two sources: the float operation of the type, or the integer operation wrapped (R121). -/
def Sys2Proof.Claims.byType2 (t : BitVec 3) (ff : Fmt → Rm → Nat → Nat → FRes) (fi : Int → Int → Int) (r : Rm) (x : List Nat) : FRes :=
  match fmtOf t with
  | some f => ff f r (x.getD 0 0) (x.getD 1 0)
  | none => wrap (bitsOf t) (fi (signed (bitsOf t) (x.getD 0 0)) (signed (bitsOf t) (x.getD 1 0)))
/-- A lane operation of one source (R122, R123). -/
def Sys2Proof.Claims.byType1 (t : BitVec 3) (ff : Fmt → Rm → Nat → FRes) (fi : Int → Int) (r : Rm) (x : List Nat) : FRes :=
  match fmtOf t with
  | some f => ff f r (x.getD 0 0)
  | none => wrap (bitsOf t) (fi (signed (bitsOf t) (x.getD 0 0)))
/-- The fused operations (R121): the destination plus or minus the product. -/
def Sys2Proof.Claims.fusedByType (t : BitVec 3) (sub : Bool) (r : Rm) (o : Nat) (x : List Nat) : FRes :=
  let w := bitsOf t
  match fmtOf t with
  | some f => f.fma r sub o (x.getD 0 0) (x.getD 1 0)
  | none => let p := signed w (x.getD 0 0) * signed w (x.getD 1 0); wrap w (if sub then signed w o - p else signed w o + p)
/-- An elementwise instruction (R120 to R124, R128): type, guard, sources, destination, whether the destination is a source, whether it rounds by FRM, and its
result on a lane from the rounding, the old lane and the source lanes. -/
structure Sys2Proof.Claims.LaneRule where
  /-- type -/
  t : BitVec 3
  /-- guard -/
  g : Guard
  /-- sources -/
  srcs : List GReg
  /-- destination -/
  d : GReg
  /-- reads the destination -/
  readD : Bool
  /-- rounds -/
  rounds : Bool
  /-- result -/
  f : Rm → Nat → List Nat → FRes
/-- A rounding operation of two sources. -/
def Sys2Proof.Claims.two (t : BitVec 3) (g : Guard) (b a d : GReg) (ff : Fmt → Rm → Nat → Nat → FRes) (fi : Int → Int → Int) : LaneRule :=
  ⟨t, g, [a, b], d, false, true, fun r _ x => byType2 t ff fi r x⟩
/-- A rounding operation of one source. -/
def Sys2Proof.Claims.one (t : BitVec 3) (g : Guard) (a d : GReg) (ff : Fmt → Rm → Nat → FRes) (fi : Int → Int) : LaneRule :=
  ⟨t, g, [a], d, false, true, fun r _ x => byType1 t ff fi r x⟩
/-- A bitwise operation of two sources (R128). -/
def Sys2Proof.Claims.bitwise (t : BitVec 3) (g : Guard) (b a d : GReg) (f : Nat → Nat → Nat) : LaneRule :=
  ⟨t, g, [a, b], d, false, false, fun _ _ x => ⟨f (x.getD 0 0) (x.getD 1 0), 0⟩⟩
/-- The elementwise instructions, and the short forms by their 32-bit equivalents (R31). -/
def Sys2Proof.Claims.laneRule : Instr → Option LaneRule
  | .vadd t g b a d => some (two t g b a d Fmt.add (· + ·))
  | .vsub t g b a d => some (two t g b a d Fmt.sub (· - ·))
  | .vmul t g b a d => some (two t g b a d Fmt.mul (· * ·))
  | .vmin t g b a d => some (two t g b a d (fun f _ x y => f.fmin x y) (fun x y => if y < x then y else x))
  | .vmax t g b a d => some (two t g b a d (fun f _ x y => f.fmax x y) (fun x y => if x < y then y else x))
  | .vfma t g b a d => some ⟨t, g, [a, b], d, true, true, fun r o x => fusedByType t false r o x⟩
  | .vfms t g b a d => some ⟨t, g, [a, b], d, true, true, fun r o x => fusedByType t true r o x⟩
  | .vdiv t g b a d => some ⟨t, g, [a, b], d, false, true, fun r _ x => ((fmtOf t).getD .f32).div r (x.getD 0 0) (x.getD 1 0)⟩
  | .vabs t g a d => some (one t g a d (fun f _ x => f.abs x) (fun x => if x < 0 then -x else x))
  | .vneg t g a d => some (one t g a d (fun f _ x => f.neg x) (fun x => -x))
  | .vsqrt t g a d => some ⟨t, g, [a], d, false, true, fun r _ x => ((fmtOf t).getD .f32).sqrt r (x.getD 0 0)⟩
  | .vrcp t g a d => some ⟨t, g, [a], d, false, true, fun r _ x => ((fmtOf t).getD .f32).rcp r (x.getD 0 0)⟩
  | .vrsqrt t g a d => some ⟨t, g, [a], d, false, true, fun r _ x => ((fmtOf t).getD .f32).rsqrt r (x.getD 0 0)⟩
  | .vexp2 t g a d => some ⟨t, g, [a], d, false, true, fun r _ x => ((fmtOf t).getD .f32).exp2 r (x.getD 0 0)⟩
  | .vlog2 t g a d => some ⟨t, g, [a], d, false, true, fun r _ x => ((fmtOf t).getD .f32).log2 r (x.getD 0 0)⟩
  | .vact t g f a d => some ⟨t, g, [a], d, false, true, fun r _ x => ((fmtOf t).getD .f32).act (actFn f) r (x.getD 0 0)⟩
  | .vdact t g f a d => some ⟨t, g, [a], d, false, true, fun r _ x => ((fmtOf t).getD .f32).dact (actFn f) r (x.getD 0 0)⟩
  | .vmov t g a d => some ⟨t, g, [a], d, false, false, fun _ _ x => ⟨x.getD 0 0, 0⟩⟩
  | .vand t g b a d => some (bitwise t g b a d (· &&& ·))
  | .vor t g b a d => some (bitwise t g b a d (· ||| ·))
  | .vxor t g b a d => some (bitwise t g b a d (· ^^^ ·))
  | .vnot t g a d => some ⟨t, g, [a], d, false, false, fun _ _ x => ⟨2 ^ bitsOf t - 1 - x.getD 0 0, 0⟩⟩
  | .vshl t g b a d => some (bitwise t g b a d (fun x y => x * 2 ^ (y % bitsOf t) % 2 ^ bitsOf t))
  | .vshr t g b a d => some (bitwise t g b a d (fun x y => x / 2 ^ (y % bitsOf t)))
  | .vsha t g b a d => some (bitwise t g b a d (fun x y => ((BitVec.ofNat (bitsOf t) x).sshiftRight (y % bitsOf t)).toNat))
  | .vaddF32S s d => some (two 0 0 s d d Fmt.add (· + ·))
  | .vsubF32S s d => some (two 0 0 s d d Fmt.sub (· - ·))
  | .vmulF32S s d => some (two 0 0 s d d Fmt.mul (· * ·))
  | .vmaxF32S s d => some (two 0 0 s d d (fun f _ x y => f.fmax x y) (fun x y => if x < y then y else x))
  | .vminF32S s d => some (two 0 0 s d d (fun f _ x y => f.fmin x y) (fun x y => if y < x then y else x))
  | .vaddBf16S s d => some (two 1 0 s d d Fmt.add (· + ·))
  | .vmulBf16S s d => some (two 1 0 s d d Fmt.mul (· * ·))
  | .vaddI32S s d => some (two 5 0 s d d Fmt.add (· + ·))
  | .vsubI32S s d => some (two 5 0 s d d Fmt.sub (· - ·))
  | .vandS s d => some (bitwise 5 0 s d d (· &&& ·))
  | .vorS s d => some (bitwise 5 0 s d d (· ||| ·))
  | .vxorS s d => some (bitwise 5 0 s d d (· ^^^ ·))
  | .vmovS s d => some ⟨5, 0, [s], d, false, false, fun _ _ x => ⟨x.getD 0 0, 0⟩⟩
  | .vabsF32S s d => some (one 0 0 s d (fun f _ x => f.abs x) (fun x => if x < 0 then -x else x))
  | .vreluF32S s d => some ⟨0, 0, [s], d, false, true, fun r _ x => Fmt.f32.act .relu r (x.getD 0 0)⟩
  | _ => none
/-- What reading the destination brings where an instruction reads it, or merges under its guard (R118, R120): its value, its poison, and the desk. -/
def Sys2Proof.Claims.oldV (use : Bool) (k : Desk) (d : GReg) : Except Stop (Opd 512) := if use then k.popV d else .ok ⟨0, false, k⟩

/-- O25. Every elementwise vector instruction and every short form completes on every operand (R31, R117, R120 to R124, R128): each lane that the guard selects takes its
operation's result, every other lane the old one; poison of what is read reaches the register; FFLAGS takes the flags of the selected lanes, and SRSEED moves under
stochastic rounding alone. Where the spec leaves a point open it rests on the model's own choice: log 20, 117. -/
def Obligations.VectorLanes : Prop :=
  (∀ i r, laneRule i = some r → ∀ s vs k o, s.Issues → s.d.limsV (r.srcs ++ [r.d]) = .ok () → popsV s.d r.srcs = .ok (vs, k) →
    oldV (r.readD || r.g != 0#4) k r.d = .ok o → o.d.roomV r.d = .ok () →
    let w := bitsOf r.t
    let l := lanesFrom (s.d.sel r.g) (r.rounds && (fmtOf r.t).isSome) s.d.rm (lane w o.val.toNat)
      (fun m e => r.f m (lane w o.val.toNat e) (vs.map (fun v => lane w v.1.toNat e))) (512 / w) 0 s.d.srseed
    exec i s = .next ((s.setD { o.d.pushV r.d (BitVec.ofNat 512 (ofLanes w l.xs)) (vs.any (·.2) || o.bad) with
      fflags := s.d.fflags ||| l.fl, srseed := l.seed }).retire)) ∧
  (∀ sel adv (r : Rm) old (f : Rm → Nat → FRes) n seed, adv = false ∨ r.mode ≠ 4 → (lanesFrom sel adv r old f n 0 seed).seed = seed ∧
    (lanesFrom sel adv r old f n 0 seed).xs = (List.range n).map (fun e => if sel e then (f r e).bits else old e)) ∧
  (∀ w xs, (w = 8 ∨ w = 16 ∨ w = 32) → xs.length = 512 / w → ∀ e, e < 512 / w →
    lane w (BitVec.ofNat 512 (ofLanes w xs)).toNat e = (xs.getD e 0) % 2 ^ w)

/-- The comparisons (R125): type, guard, b, a, destination, and the outcome on integers. -/
def Sys2Proof.Claims.compareRule : Instr → Option (BitVec 3 × Guard × GReg × GReg × PReg × VOp × (Int → Int → Bool))
  | .vcmpEq t g b a p => some (t, g, b, a, p, .cmpEq, fun x y => x == y)
  | .vcmpNe t g b a p => some (t, g, b, a, p, .cmpNe, fun x y => x != y)
  | .vcmpLt t g b a p => some (t, g, b, a, p, .cmpLt, fun x y => decide (x < y))
  | .vcmpLe t g b a p => some (t, g, b, a, p, .cmpLe, fun x y => decide (x ≤ y))
  | _ => none
/-- O26. VCMP and VNFIN complete on clean operands (R125, R127): bit e of the predicate takes the outcome on lane e where the guard selects it; VCMP keeps the other bits of
the lanes, VNFIN clears them, and both clear every bit from the number of lanes up. On integers VCMP compares two's complement values and sets no flag. -/
def Obligations.VectorCompare : Prop :=
  (∀ i t g b a p op f, compareRule i = some (t, g, b, a, p, op, f) → ∀ (s : State) x y (k : Desk), s.Issues → s.d.limsV [a, b] = .ok () → p ≠ 0 →
    popsV s.d [a, b] = .ok ([(x, false), (y, false)], k) → ∃ out fl, exec i s = .next ((s.setD { k.setP p out with fflags := s.d.fflags ||| fl }).retire) ∧
      ∀ e, e < 64 → out.getLsbD e =
        (if 512 / bitsOf t ≤ e then false else if s.d.sel g e then (cmpLane t op (lane (bitsOf t) x.toNat e) (lane (bitsOf t) y.toNat e)).1 else (s.d.getP p).getLsbD e) ∧
      (fmtOf t = none → fl = 0)) ∧
  (∀ i t g b a p op f, compareRule i = some (t, g, b, a, p, op, f) → fmtOf t = none → ∀ x y, x < 2 ^ bitsOf t → y < 2 ^ bitsOf t →
    cmpLane t op x y = (f (signed (bitsOf t) x) (signed (bitsOf t) y), 0)) ∧
  (∀ t g a p (s : State) x (k : Desk), s.Issues → s.d.limV a = .ok () → popsV s.d [a] = .ok ([(x, false)], k) →
    let hit (e : Nat) : Bool := decide (e < 512 / bitsOf t) && s.d.sel g e &&
      (match fmtOf t with | none => false | some f => match f.value (lane (bitsOf t) x.toNat e) with | .num .. => false | _ => true)
    ∃ out, exec (.vnfin t g a p) s = .next ((s.setD { k.setP p out with fflags := s.d.fflags ||| (if (List.range 64).any hit then flNF else 0) }).retire) ∧
      ∀ e, e < 64 → out.getLsbD e = hit e)

/-- Part of O27. The movement instructions complete (R126, R128, R129). VSEL takes a lane from one or the other source; VIOTA gives a lane its number; VBCAST copies a
scalar's low bits into each selected lane; VEXTR gives the lane that its scalar names modulo the number of lanes, sign-extended for integers; VINS replaces that lane;
VPERM takes the lane that its index names. -/
def Sys2Proof.Claims.LaneMoves : Prop :=
  (∀ t c b a d s x y bx by' k, s.Issues → s.d.limsV [a, b, d] = .ok () → popsV s.d [a, b] = .ok ([(x, bx), (y, by')], k) → k.roomV d = .ok () →
    exec (.vsel t c b a d) s = .next ((s.setD (k.pushV d (BitVec.ofNat 512 (ofLanes (bitsOf t) ((List.range (512 / bitsOf t)).map (fun e =>
      lane (bitsOf t) (if s.d.sel c e then x else y).toNat e)))) (bx || by'))).retire)) ∧
  (∀ t g d s o, s.Issues → s.d.limV d = .ok () → oldV (g != 0#4) s.d d = .ok o → o.d.roomV d = .ok () →
    exec (.viota t g d) s = .next ((s.setD (o.d.pushV d (BitVec.ofNat 512 (ofLanes (bitsOf t) ((List.range (512 / bitsOf t)).map (fun e =>
      if s.d.sel g e then e else lane (bitsOf t) o.val.toNat e)))) o.bad)).retire)) ∧
  (∀ t g a d s x bx k o, s.Issues → s.d.limG a = .ok () → s.d.limV d = .ok () → s.d.popsG [a] = .ok ([(x, bx)], k) → oldV (g != 0#4) k d = .ok o → o.d.roomV d = .ok () →
    exec (.vbcast t g a d) s = .next ((s.setD (o.d.pushV d (BitVec.ofNat 512 (ofLanes (bitsOf t) ((List.range (512 / bitsOf t)).map (fun e =>
      if s.d.sel g e then x.toNat % 2 ^ bitsOf t else lane (bitsOf t) o.val.toNat e)))) (bx || o.bad))).retire)) ∧
  (∀ t g b a d s x bx y by' k k', s.Issues → s.d.limV a = .ok () → s.d.limsG [b, d] = .ok () → s.d.popV a = .ok ⟨x, bx, k⟩ → k.popG b = .ok ⟨y, by', k'⟩ →
    (s.d.guard g = true → k'.roomG d = .ok ()) →
    let e := lane (bitsOf t) x.toNat (y.toNat % (512 / bitsOf t))
    exec (.vextr t g b a d) s = .next ((s.setD (if s.d.guard g then k'.pushG d (if (fmtOf t).isSome then BitVec.ofNat 64 e else BitVec.ofInt 64 (signed (bitsOf t) e)) (bx || by')
      else k')).retire)) ∧
  (∀ t g b a d s x bx y by' k o, s.Issues → s.d.limsG [a, b] = .ok () → s.d.limV d = .ok () → s.d.popsG [a, b] = .ok ([(x, bx), (y, by')], k) → k.popV d = .ok o →
    o.d.roomV d = .ok () →
    let n := y.toNat % (512 / bitsOf t)
    exec (.vins t g b a d) s = .next ((s.setD (o.d.pushV d (BitVec.ofNat 512 (ofLanes (bitsOf t) ((List.range (512 / bitsOf t)).map (fun e =>
      if e = n ∧ s.d.sel g n = true then x.toNat % 2 ^ bitsOf t else lane (bitsOf t) o.val.toNat e)))) (bx || by' || o.bad))).retire)) ∧
  (∀ t g b a d s x bx y by' k o, s.Issues → s.d.limsV [a, b, d] = .ok () → popsV s.d [a, b] = .ok ([(x, bx), (y, by')], k) → oldV (g != 0#4) k d = .ok o →
    o.d.roomV d = .ok () →
    exec (.vperm t g b a d) s = .next ((s.setD (o.d.pushV d (BitVec.ofNat 512 (ofLanes (bitsOf t) ((List.range (512 / bitsOf t)).map (fun e =>
      if s.d.sel g e then lane (bitsOf t) x.toNat (lane (bitsOf t) y.toNat e % (512 / bitsOf t)) else lane (bitsOf t) o.val.toNat e)))) (bx || by' || o.bad))).retire))

/-- The folds (R68, R130): guard, sources, destination, and what they make of the guard's selection and the sources: the whole register and the flags. -/
def Sys2Proof.Claims.foldRule : Instr → Option (Guard × List GReg × GReg × ((Nat → Bool) → List Nat → Nat × FFlags))
  | .vred t g o a d => some (g, [a], d, fun sel x => vredVal t o.toNat sel (x.getD 0 0))
  | .vscan t g o a d => some (g, [a], d, fun sel x => (ofLanes (bitsOf t) (vscanVal t o.toNat sel (x.getD 0 0)).1, (vscanVal t o.toNat sel (x.getD 0 0)).2))
  | .vdot t g b a d => some (g, [a, b], d, fun sel x => vdotVal t sel (x.getD 0 0) (x.getD 1 0))
  | _ => none
/-- Part of O28. VRED, VSCAN and VDOT complete on every operand (R68, R130): the whole destination takes the result, with the poison of the sources, and FFLAGS the flags. On
integers VRED's sum and VDOT are the exact sums of the selected lanes, or of their products, modulo 2^32; VRED's maximum is at least, its minimum at most, every selected
lane and is one of them, and with none selected they are the least and the greatest integer of the width. -/
def Sys2Proof.Claims.FoldResults : Prop :=
  (∀ i g srcs d f, foldRule i = some (g, srcs, d, f) → ∀ s vs k, s.Issues → s.d.limsV (srcs ++ [d]) = .ok () → popsV s.d srcs = .ok (vs, k) → k.roomV d = .ok () →
    let r := f (s.d.sel g) (vs.map (fun v => v.1.toNat))
    exec i s = .next ((s.setD { k.pushV d (BitVec.ofNat 512 r.1) (vs.any (·.2)) with fflags := s.d.fflags ||| r.2 }).retire)) ∧
  (∀ t sel x, fmtOf t = none → vredVal t 0 sel x = ((BitVec.ofInt 32 (((List.range (512 / bitsOf t)).filter sel).map (fun e => signed (bitsOf t) (lane (bitsOf t) x e))).sum).toNat, 0)) ∧
  (∀ t sel x y, fmtOf t = none → vdotVal t sel x y = ((BitVec.ofInt 32 (((List.range (512 / bitsOf t)).filter sel).map (fun e =>
    signed (bitsOf t) (lane (bitsOf t) x e) * signed (bitsOf t) (lane (bitsOf t) y e))).sum).toNat, 0)) ∧
  (∀ t sel x o, fmtOf t = none → o = 1 ∨ o = 2 → (vredVal t o sel x).2 = 0 ∧
    (((List.range (512 / bitsOf t)).any sel) = true →
      (∀ e, e < 512 / bitsOf t → sel e = true → if o = 1 then signed (bitsOf t) (lane (bitsOf t) x e) ≤ signed (bitsOf t) (vredVal t o sel x).1
        else signed (bitsOf t) (vredVal t o sel x).1 ≤ signed (bitsOf t) (lane (bitsOf t) x e)) ∧
      ∃ e, e < 512 / bitsOf t ∧ sel e = true ∧ lane (bitsOf t) x e = (vredVal t o sel x).1) ∧
    (((List.range (512 / bitsOf t)).any sel) = false → (vredVal t o sel x).1 = if o = 1 then 2 ^ (bitsOf t - 1) else 2 ^ (bitsOf t - 1) - 1))

/-- Node i of level k of a pairwise tree (R68): level 0 holds the inputs, and a node combines nodes 2 i and 2 i + 1 of the level below. -/
def Sys2Proof.Claims.node {α : Type} (f : α → α → α) (x : Nat → α) : Nat → Nat → α
  | 0, i => x i
  | k + 1, i => f (node f x k (2 * i)) (node f x k (2 * i + 1))
/-- Levels above the inputs of a register of elements of w bits. -/
def Sys2Proof.Claims.levels (w : Nat) : Nat := if w = 32 then 4 else if w = 16 then 5 else 6
/-- A node of a sum: the exact sum of two values rounded once to FP32, to nearest, even; the flags of both and of the rounding. -/
def Sys2Proof.Claims.sumOf (a b : VF) : VF :=
  let r := Fmt.f32.ofExact rne (exAdd false a.v b.v)
  ⟨Fmt.f32.value r.bits, a.fl ||| b.fl ||| r.fl⟩
/-- A node of a maximum or minimum of a format (R53). -/
def Sys2Proof.Claims.extremeOf (f : Fmt) (mx : Bool) (a b : FRes) : FRes :=
  let r := if mx then f.fmax a.bits b.bits else f.fmin a.bits b.bits
  ⟨r.bits, a.fl ||| b.fl ||| r.fl⟩
/-- The elements of a scan: the first input, then each element with the next input. -/
def Sys2Proof.Claims.scanAt {α : Type} (f : α → α → α) (x : Nat → α) : Nat → α
  | 0 => x 0
  | e + 1 => f (scanAt f x e) (x (e + 1))
/-- The identity of a float fold in a format's patterns: -0 for sum, the infinities for max and min. -/
def Sys2Proof.Claims.identOf (f : Fmt) (o : Nat) : Nat := if o = 0 then f.signed true 0 else f.signed (o == 1) f.inf
/-- The identity of an integer fold. -/
def Sys2Proof.Claims.identInt (w o : Nat) : Int := if o = 0 then 0 else if o = 1 then -(2 ^ (w - 1) : Int) else 2 ^ (w - 1) - 1

/-- Part of O28. The values of the float folds and of VSCAN (R53, R68, R130, log 99): a lane that the guard leaves out enters as the identity. VRED.sum and VDOT are a
pairwise tree whose nodes round to FP32 by RNE, with VDOT's exact products at its inputs; VRED.max and VRED.min are the tree of R53 in the element type. VSCAN is
sequential: its first element is its first input, and every other is the one before it combined with the next input, rounded by RNE in the type, or wrapped. -/
def Sys2Proof.Claims.FoldValues : Prop :=
  (∀ t f sel x, fmtOf t = some f →
    let r := node sumOf (fun e => if sel e then ⟨f.value (lane (bitsOf t) x e), 0⟩ else ⟨.num true 0 0, 0⟩) (levels (bitsOf t)) 0
    vredVal t 0 sel x = ((Fmt.f32.ofVal rne r.v).bits, r.fl)) ∧
  (∀ t f sel x o, fmtOf t = some f → o = 1 ∨ o = 2 →
    let r := node (extremeOf f (o == 1)) (fun e => ⟨if sel e then lane (bitsOf t) x e else identOf f o, 0⟩) (levels (bitsOf t)) 0
    vredVal t o sel x = (r.bits, r.fl)) ∧
  (∀ t f sel x y, fmtOf t = some f →
    let prod (e : Nat) : Exact := exMul (f.value (lane (bitsOf t) x e)) (f.value (lane (bitsOf t) y e))
    let r := node sumOf (fun e => if sel e then ⟨(prod e).v, (prod e).nv⟩ else ⟨.num true 0 0, 0⟩) (levels (bitsOf t)) 0
    vdotVal t sel x y = ((Fmt.f32.ofVal rne r.v).bits, r.fl)) ∧
  (∀ t f sel x o, fmtOf t = some f → o ≤ 2 →
    let op (a b : Nat) : FRes := if o = 0 then f.add rne a b else if o = 1 then f.fmax a b else f.fmin a b
    let ins (e : Nat) : Nat := if sel e then lane (bitsOf t) x e else identOf f o
    let y := scanAt (fun a b => (op a b).bits) ins
    vscanVal t o sel x = ((List.range (512 / bitsOf t)).map y,
      (List.range (512 / bitsOf t - 1)).foldl (fun fl e => fl ||| (op (y e) (ins (e + 1))).fl) 0)) ∧
  (∀ t sel x o, fmtOf t = none → o ≤ 2 →
    let w := bitsOf t
    let y := scanAt (fun a b => if o = 0 then signed w (BitVec.ofInt w (a + b)).toNat else if o = 1 then max a b else min a b)
      (fun e => if sel e then signed w (lane w x e) else identInt w o)
    vscanVal t o sel x = ((List.range (512 / w)).map (fun e => (BitVec.ofInt w (y e)).toNat), 0))
/-- O28. VRED, VSCAN and VDOT fold the selected lanes. Where the spec leaves a point open it rests on the model's own choice: log 99. -/
def Obligations.VectorFolds : Prop := FoldResults ∧ FoldValues


/-- Part of O27. VCVT, VHAD, VPACK and VUNPK complete on register groups within the limits and aligned (R118, R131 to R133): each converted lane that the guard selects takes
the source lane rounded into the destination's type, by FRM or by the rounding that the instruction names; VHAD gives the transform of its 16, 32 or 64 elements; VPACK a
block, and VUNPK the values of a block whose code is its format's. Only the destination's group, FFLAGS and SRSEED change. A group that passes v31 is refused for its
first register past the limit (R50). -/
def Sys2Proof.Claims.VectorConvert : Prop :=
  (∀ t g rr src a d s x bx k o bo k', s.Issues →
    let na := if bitsOf t < bitsOf src then bitsOf src / bitsOf t else 1
    let nd := if bitsOf src < bitsOf t then bitsOf t / bitsOf src else 1
    s.d.groups a na d nd = .ok () → s.d.popGroup a na = .ok (x, bx, k) → (if g != 0#4 then k.popGroup d nd = .ok (o, bo, k') else o = 0 ∧ bo = false ∧ k' = k) →
    (nd = 1 → k'.roomV d = .ok ()) →
    let mode : BitVec 3 := [s.d.rm.mode, 0, 1, 4].getD rr.toNat 0
    let l := lanesFrom (s.d.sel g) true { s.d.rm with mode := mode } (lane (bitsOf t) o) (fun m e => cvtLane src t m (lane (bitsOf src) x e))
      (512 / min (bitsOf t) (bitsOf src)) 0 s.d.srseed
    exec (.vcvt t g rr src a d) s = .next ((s.setD { k'.pushGroup d nd (ofLanes (bitsOf t) l.xs) (bx || bo) with fflags := s.d.fflags ||| l.fl, srseed := l.seed }).retire)) ∧
  (∀ (n a d : GReg) s x bx k, s.Issues → n.toNat ≤ 2 → s.d.groups a (2 ^ n.toNat) d (2 ^ n.toNat) = .ok () → s.d.popGroup a (2 ^ n.toNat) = .ok (x, bx, k) → (n = 0 → k.roomV d = .ok ()) →
    let r := hadamard (4 + n.toNat) ((List.range (16 * 2 ^ n.toNat)).map (lane 32 x))
    exec (.vhad n a d) s = .next ((s.setD { k.pushGroup d (2 ^ n.toNat) (ofLanes 32 r.1) bx with fflags := s.d.fflags ||| r.2 }).retire)) ∧
  (∀ t a d s x bx k, s.Issues → s.d.groups a ((sxOf t).n / 16) d 1 = .ok () → s.d.popGroup a ((sxOf t).n / 16) = .ok (x, bx, k) → k.roomV d = .ok () →
    let r := (sxOf t).pack ((List.range (sxOf t).n).map (fun e => Fmt.f32.value (lane 32 x e)))
    exec (.vpack t a d) s = .next ((s.setD { k.pushV d (BitVec.ofNat 512 r.1) bx with fflags := s.d.fflags ||| r.2 }).retire)) ∧
  (∀ t a d s x bx k xs, s.Issues → s.d.groups a 1 d ((sxOf t).n / 16) = .ok () → s.d.popGroup a 1 = .ok (x, bx, k) → (sxOf t).read x = .ok xs →
    exec (.vunpk t a d) s = .next ((s.setD { k.pushGroup d ((sxOf t).n / 16) (ofLanes 32 (xs.map (fun v => (Fmt.f32.ofVal rne v).bits))) bx with
      fflags := s.d.fflags ||| xs.foldl (fun f v => f ||| (Fmt.f32.ofVal rne v).fl) 0 }).retire)) ∧
  (∀ t a d s x bx k c, s.Issues → s.d.groups a 1 d ((sxOf t).n / 16) = .ok () → s.d.popGroup a 1 = .ok (x, bx, k) → (sxOf t).read x = .error c →
    exec (.vunpk t a d) s = .next (s.traps 0x088 (BitVec.ofNat 64 c) 0)) ∧
  (∀ (n a d : GReg) s, s.Issues → n.toNat ≤ 2 → s.d.user = true → s.d.kern.queues = false → s.d.kern.vregs = 32 → 32 < a.toNat + 2 ^ n.toNat →
    exec (.vhad n a d) s = .next (s.traps 0x006 0x120 0))
/-- O27. Vector moves, conversions, transforms and block packing. Where the spec leaves a point open it rests on the model's own choice: log 20, 114, 115, 116. -/
def Obligations.VectorMoves : Prop := LaneMoves ∧ VectorConvert


/-! ### The matrix unit (R158 to R185) -/

/-- A matrix command as issued (R163 to R167, R183, R184): its guard code, its slot, its register pairs and triples, and the command and its check from the operands.  A command's guard, desk and
place are filled in at issue. -/
structure Sys2Proof.Claims.MxRule where
  /-- guard slot code -/
  k : Guard
  /-- slot -/
  n : BitVec 2
  /-- register groups: first register and number of registers -/
  regs : List (GReg × Nat)
  /-- the command from its operands -/
  cmd : List Word → MCmd
  /-- its check, from the desk, the slot as the commands queued leave it, and the command -/
  check : Desk → Slot → MCmd → Except Stop Unit
/-- The i-th of some words. -/
def Sys2Proof.Claims.wd (x : List Word) (i : Nat) : Word := x.getD i 0
/-- A product. -/
def Sys2Proof.Claims.product (op : MOp) (triple : Bool) (k : Guard) (b a : GReg) (sat acc : BitVec 1) (n : BitVec 2) : MxRule :=
  ⟨k, n, [(a, 2), (b, if triple then 3 else 2)], fun x => {
    op := op, slot := n, acc := acc == 1, sat := sat == 1, a := wd x 0, la := wd x 1, b := wd x 2, lb := wd x 3,
    runs := if triple then wd x 4 else 0, desk := 0, maker := {}, seq := 0 }, mmCheck⟩
/-- The commands of the queue. -/
def Sys2Proof.Claims.mxRule : Instr → Option MxRule
  | .mmaPt k b a s c n => some (product (.mma 0) false k b a s c n)
  | .mmaMinp k b a s c n => some (product (.mma 1) false k b a s c n)
  | .mmaMaxp k b a s c n => some (product (.mma 2) false k b a s c n)
  | .mmaMaxt k b a s c n => some (product (.mma 3) false k b a s c n)
  | .mmaOrand k b a s c n => some (product (.mma 4) false k b a s c n)
  | .mmas k b a s c n => some (product .mmas true k b a s c n)
  | .mzero k a n => some ⟨k, n, [(a, 1)], fun x => { op := .mzero, slot := n, a := wd x 0, desk := 0, maker := {}, seq := 0 }, fun _ _ c => mzeroCheck c.a⟩
  | .mldc k a n => some ⟨k, n, [(a, 2)], fun x => { op := .mldc, slot := n, a := wd x 0, la := wd x 1, desk := 0, maker := {}, seq := 0 }, fun d _ c => mldcCheck d c⟩
  | .mout k a n => some ⟨k, n, [(a, 2)], fun x => { op := .mout, slot := n, a := wd x 0, la := wd x 1, desk := 0, maker := {}, seq := 0 }, moutCheck⟩
  | .mmaskRow k a n => some ⟨k, n, [(a, 2)], fun x => { op := .mmask (.row (wd x 1 ++ wd x 0)), slot := n, desk := 0, maker := {}, seq := 0 }, fun _ _ _ => .ok ()⟩
  | .mmaskBlk k a n => some ⟨k, n, [(a, 1)], fun x => { op := .mmask (.blk (wd x 0)), slot := n, desk := 0, maker := {}, seq := 0 }, fun _ _ _ => .ok ()⟩
  | .mthr k a n => some ⟨k, n, [(a, 1)], fun x => { op := .mthr ((wd x 0).setWidth 48), slot := n, desk := 0, maker := {}, seq := 0 },
      fun _ _ c => match c.op with | .mthr w => if w.toNat < 2 ^ 48 then .ok () else .error (.wait .held) | _ => .ok ()⟩
  | _ => none
/-- How a guard slot binds a command at issue (R107). -/
def Sys2Proof.Claims.boundBy (d : Desk) (k : Guard) : Bind := match d.slot k with | .yes => .yes | .no => .no | .pending => .slot (k.extractLsb' 0 3)

/-- O29. A matrix command whose operands are clean, whose check passes and whose core's queue holds fewer than 16 commands retires at once (R159, R163 to R167, R183, R184):
it stands at the end of the queue, bound as its guard slot stands, with its desk and its place; nothing else changes. MOUT needs no report pending on its slot and no
stopped command there (R178); MTHR a word below 2^48. Where the spec leaves a point open it rests on the model's own choice: log 98, 118. -/
def Obligations.MatrixIssue : Prop :=
  ∀ i r, mxRule i = some r → ∀ s t, s.Issues → mxTake s.d r.regs = .ok t → r.check s.d (s.c.mx.project r.n s.c.mx.queue.length) (r.cmd t.xs) = .ok () →
    s.c.mx.queue.length < 16 → (∀ k a n, i = .mout k a n → (s.c.mx.slots[n.toNat]).fault = none ∧ (s.c.mx.slots[n.toNat]).dead = [] ∧ (s.c.mx.slots[n.toNat]).flags = 0 ∧
      ∀ c ∈ s.c.mx.queue, c.st ≠ .stopped) → (∀ k a n, i = .mthr k a n → (wd t.xs 0).toNat < 2 ^ 48) →
    exec i s = .next ((s.setCD { s.c with mx := { s.c.mx with
      queue := s.c.mx.queue ++ [{ r.cmd t.xs with bind := boundBy s.d r.k, desk := s.desk, maker := s.d.maker (.matrix s.core), seq := s.c.mx.next }],
      next := s.c.mx.next + 1 } } t.d).retire)

/-- O30. The other matrix instructions complete (R168, R169, R172, R173, R184). MEPI queues the epilogue of its record; MWAIT completes where nothing is reported and no
command is left on its slot; MSTAT and MPROG.rd read and MPROG.wr writes the slot's registers once its commands have completed; MCAP fills a free capability with its
rights and returns the token (the lowest free one: log 142, DESIGN CHOICE), and MREVOKE frees the one that its token names; MSEND checks its record (a malformed one traps
with 0x087 and the record's address, R170), queues a held one with the translation of its counter (R242), counts one that is bound false, and delivers one that its target
accepts. Where the spec leaves a point open it rests on the model's own choice: log 96, 98, 142. -/
def Obligations.MatrixControl : Prop :=
  (∀ k a n s t x bs, s.Issues → mxTake s.d [(a, 1)] = .ok t → (wd t.xs 0).toNat % 64 = 0 → s.readRecord (wd t.xs 0) 64 = .ok (x, bs) → (recWord bs 0).toNat < 2 ^ 10 →
    (recWord bs 8).toNat < 2 ^ 32 → (bs.drop 32).any (· != 0) = false → (recWord bs 0).extractLsb' 3 3 ≠ 7#3 → x.c.mx.queue.length < 16 → ∃ e : Epilogue,
      exec (.mepi k a n) s = .next ((x.setCD { x.c with mx := { x.c.mx with
        queue := x.c.mx.queue ++ [{ op := .mepi e, slot := n, bind := boundBy s.d k, desk := s.desk, maker := s.d.maker (.matrix s.core), seq := x.c.mx.next }], next := x.c.mx.next + 1 } } t.d).retire) ∧
      e.ctl = (recWord bs 0).setWidth 10 ∧ e.scale = (recWord bs 8).setWidth 32 ∧ e.bias = recWord bs 16 ∧ e.stats = recWord bs 24) ∧
  (∀ n s, s.Issues → (s.c.mx.slots[n.toNat]).fault = none → (s.c.mx.slots[n.toNat]).dead = [] → (s.c.mx.slots[n.toNat]).flags = 0 → (∀ c ∈ s.c.mx.queue, c.on n = false) →
    exec (.mwait n) s = .next ((s.setC s.c).retire)) ∧
  (∀ n a d s sel k, s.Issues → s.d.limsG [a, d] = .ok () → s.d.popsG [a] = .ok ([(sel, false)], k) → sel.toNat ≤ 3 → (∀ c ∈ s.c.mx.queue, c.on n = false) → k.roomG d = .ok () →
    exec (.mstat n a d) s = .next ((s.setD (k.pushG d ((if h : sel.toNat < 3 then (s.c.mx.slots[n.toNat]).cnt[sel.toNat] else s.c.mx.res).setWidth 64) false)).retire)) ∧
  (∀ n d s, s.Issues → s.d.limG d = .ok () → s.d.roomG d = .ok () → (∀ c ∈ s.c.mx.queue, c.on n = false) →
    exec (.mprogRd n d) s = .next ((s.setD (s.d.pushG d ((s.c.mx.slots[n.toNat]).prog.setWidth 64) false)).retire)) ∧
  (∀ n a s v k, s.Issues → s.d.limG a = .ok () → s.d.popsG [a] = .ok ([(v, false)], k) → (v = 0 ∨ (v.toNat % 16 = 0 ∧ 2 ^ 16 ≤ v.toNat ∧ v.toNat ≤ 2 ^ 16 + 112)) →
    (∀ c ∈ s.c.mx.queue, c.on n = false) → exec (.mprogWr a n) s =
      .next (((s.setC { s.c with mx := { s.c.mx with slots := s.c.mx.slots.set n.toNat { s.c.mx.slots[n.toNat] with prog := v.setWidth 17 } } }).setD k).retire)) ∧
  (∀ a d s w k i, (h : i < 8) → s.Issues → s.d.limsG [a, d] = .ok () → s.d.popsG [a] = .ok ([(w, false)], k) → w.toNat < 64 → k.roomG d = .ok () → s.c.mx.caps[i] = none →
    (∀ j, (hj : j < i) → s.c.mx.caps[j] ≠ none) → exec (.mcap a d) s = .next (((s.setC { s.c with mx := { s.c.mx with
      caps := s.c.mx.caps.set i (some ⟨w.setWidth 6, s.c.mx.nonce, s.desk⟩), nonce := s.c.mx.nonce + 1 } }).setD
        (k.pushG d (BitVec.ofNat 64 (s.c.mx.nonce.toNat * 2 ^ 20 + s.core.toNat * 2 ^ 10 + i)) false)).retire)) ∧
  (∀ a s w k i cap, (h : i < 8) → s.Issues → s.d.limG a = .ok () → s.d.popsG [a] = .ok ([(w, false)], k) → (w.extractLsb' 10 10) = s.core → (w.extractLsb' 0 3).toNat = i → s.c.mx.caps[i] = some cap →
    cap.nonce = w.extractLsb' 20 44 → exec (.mrevoke a) s = .next (((s.setC { s.c with mx := { s.c.mx with caps := s.c.mx.caps.set i none } }).setD k).retire)) ∧
  (∀ g b a s va tok k x bs, s.Issues → s.d.limsG [a, b] = .ok () → s.d.popsG [a, b] = .ok ([(va, false), (tok, false)], k) → va.toNat % 64 = 0 → s.readRecord va 64 = .ok (x, bs) →
    let m := s.d.maker (.matrix s.core)
    (remoteOk bs = false → exec (.msend g b a) s = .next (s.traps 0x087 va 0)) ∧
    (∀ y held, remoteOk bs = true → s.d.slot g = .pending → x.sendCounter m bs tok = .ok (y, held) → y.c.mx.queue.length < 16 →
      ∃ c : MCmd, exec (.msend g b a) s = .next ((y.setCD { y.c with mx := { y.c.mx with queue := y.c.mx.queue ++ [c], next := y.c.mx.next + 1 } } k).retire) ∧
        c.op = .msend bs tok ∧ c.bind = .slot (g.extractLsb' 0 3) ∧ c.desk = s.desk ∧ c.held = held) ∧
    (∀ y held, remoteOk bs = true → s.d.slot g = .no → x.sendCounter m bs tok = .ok (y, held) →
      exec (.msend g b a) s = .next (((y.counterAdd (y.whoOf m held) (recWord bs 48) 1).setD k).retire)) ∧
    (∀ y, remoteOk bs = true → s.d.slot g = .yes → s.storesDone s.core s.desk = true → x.deliver s.c.work.launch bs tok = .ok (some y) → exec (.msend g b a) s = .next ((y.setD k).retire)))

/-- O31. The matrix unit at work (R159, R165, R169, R173, R176, R177). A command bound false leaves without effect; one that is no product starts where the queue lets it and
completes with all of its effect (MZERO: a slot of the kind and shape given, every element 0); a product that does not accumulate starts and leaves the slot as it stands,
one that accumulates onto elements of another kind is recorded, and the blocks of a product commit in order, the last of which ends it and gives the slot its kind and
shape; an operand access that fails stops the command with its fault on the slot, and one that reads a line whose MAC fails poisons the line and stops with 0x1E0 (R401);
an MOUT to an SX layout whose slot's mask turns out partial at its start is recorded with 0x086 (log 132, DESIGN CHOICE); a remote command bound false adds 1 at its
counter with the translation that it holds, and a finished one adds 1 at its counter. Where the spec leaves a point open it rests on the model's own choice: log 97, 98,
131, 132, 138. -/
def Obligations.MatrixWork : Prop :=
  (∀ c n s i x, let s0 := { s with core := c }
    s0.c.mx.first n = some (i, x) → s0.c.mx.mayStart i x = true → s0.mxInOrder s0.c.mx i x = true →
    (x.bind = .no → exec (.matrixCommandStart c n) s = .next (s0.mxPop n)) ∧
    (x.bind = .yes → x.isMm = false → x.op ≠ .mout → exec (.matrixCommandStart c n) s =
      .next (s0.setMx (s0.c.mx.upd n (fun y => some { y with st := .running, begun := true, onto := false })))) ∧
    (x.bind = .yes → x.isMm = true → x.begun = false → x.acc = false → exec (.matrixCommandStart c n) s = .next (s0.setMx (s0.c.mx.upd n (fun y => some {
      y with st := .running, begun := true, onto := false, whole := (s0.c.mx.slot n).mask.full && (s0.c.mx.slot n).prog == 0 })))) ∧
    (x.bind = .yes → x.isMm = true → x.begun = false → x.acc = true → (s0.c.mx.slot n).kind.isSome → (s0.c.mx.slot n).kind ≠ some (fmtFam (layOf x.la).fmt) →
      exec (.matrixCommandStart c n) s = .next (s0.mxRecord x 0x082 (n.setWidth 64)))) ∧
  (∀ c n s x w, let s0 := { s with core := c }
    s0.mxRunning n = some x → x.op = .mzero → x.slot = n → x.remote = none → shapeOf x.a = w →
    ∃ t, exec (.matrixCommandComplete c n) s = .next t ∧ t.mem = s.mem ∧ ((t.coreAt c).mx.slot n).kind = w.1 ∧ ((t.coreAt c).mx.slot n).m = w.2.1 ∧
      ((t.coreAt c).mx.slot n).n = w.2.2 ∧ (∀ i j, ((t.coreAt c).mx.slot n).el i j = 0) ∧ ((t.coreAt c).mx.slot n).bad = false) ∧
  (∀ c n s x y r, let s0 := { s with core := c }
    s0.mxRunning n = some x → x.isMm = true → x.slot = n → 16 * (s0.c.mx.slot n).block < x.dims.1 → s0.mmBlock x = .ok (y, r) →
    let sl := (y.c.mx.slot n).commit r x.dims.1
    let x' := { x with bad := x.bad || r.bad }
    exec (.mmaBlockCommit c n) s = .next (if sl.prog = 0 then (y.setMx (y.c.mx.setSlot n (sl.finish x'))).mxDone n else y.setMx ((y.c.mx.setSlot n sl).upd n (fun _ => some x'))) ∧
    sl.kind = (y.c.mx.slot n).kind ∧ (sl.finish x').kind = some (fmtFam (layOf x.la).fmt) ∧ (sl.finish x').m = x.dims.1 ∧ (sl.finish x').n = x.dims.2.1) ∧
  (∀ c n s x cause v acc tf, let s0 := { s with core := c }
    s0.mxRunning n = some x → x.isMm = true → s0.mmBlock x = .error (.trap cause v acc tf) →
    exec (.matrixOperandFault c n) s = .next (s0.mxRecord x cause v tf acc)) ∧
  (∀ c n s x l v acc, let s0 := { s with core := c }
    s0.mxRunning n = some x → x.isMm = true → s0.mmBlock x = .error (.mac l v acc) →
    exec (.matrixOperandFault c n) s = .next ({ s0 with mem := s0.mem.spoil l }.mxRecord x 0x1E0 v none 0)) ∧
  (∀ c n s i x, let s0 := { s with core := c }
    s0.c.mx.first n = some (i, x) → s0.c.mx.mayStart i x = true → s0.mxInOrder s0.c.mx i x = true → x.bind = .yes → x.op = .mout → (s0.c.mx.slot n).kind ≠ none →
    (layOf x.la).vr = (s0.c.mx.slot n).m → (layOf x.la).vc = (s0.c.mx.slot n).n → exec (.matrixCommandStart c n) s = .next (
      if (layOf x.la).sx = true ∧ (s0.c.mx.slot n).mask.full = false then s0.mxRecord x 0x086 x.la
      else s0.setMx (s0.c.mx.upd n (fun y => some { y with st := .running, begun := true, onto := false })))) ∧
  (∀ c i s x rest bs tok, let s0 := { s with core := c, desk := i }
    s0.c.mx.queue = x :: rest → x.op = .msend bs tok → x.desk = i → x.bind = .no →
    exec (.remoteCommandAccept c i) s = .next ((s0.setMx { s0.c.mx with queue := rest }).counterAdd ((s0.setMx { s0.c.mx with queue := rest }).whoOf x.maker x.held) (recWord bs 48) 1)) ∧
  (∀ c i s x rest bs tok y, let s0 := { s with core := c, desk := i }
    s0.c.mx.queue = x :: rest → x.op = .msend bs tok → x.desk = i → x.bind = .yes → s0.storesDone c i = true →
    (s0.setMx { s0.c.mx with queue := rest }).deliver x.maker.launch bs tok = .ok (some y) → exec (.remoteCommandAccept c i) s = .next y) ∧
  (∀ c n s i x a, let s0 := { s with core := c }
    s0.c.mx.first n = some (i, x) → x.st = .done → x.remote = some a → exec (.remoteCommandComplete c n) s = .next ((s0.mxPop n).counterAdd (s0.whoOf x.maker x.held) a 1)) ∧
  (∀ p (xs : List (El × El)) (c : BitVec 32), 0 < p → (cellOf 0 .i p false xs c).v = BitVec.ofInt 32 (c.toInt + (xs.map (fun x => x.1.iv * x.2.iv)).sum))

/-! ### The key unit (R264, R272 to R277, R282 to R289) -/

/-- The offset of a scratchpad address. -/
def Sys2Proof.Claims.padOff (a : Word) : Nat := a.toNat % 2 ^ 19
/-- A 64-bit word of the scratchpad, by its address. -/
def Sys2Proof.Claims.padWord (c : Core) (a : Word) : Word := BitVec.ofNat 64 (leNat (creads c.pad (padOff a) 8))
/-- A table in the scratchpad of the core that moves, all of it within the region, without poison, tiles or a restartable input in its way. -/
structure Sys2Proof.Claims.PadTable (s : State) (t : KTab) : Prop where
  /-- in a scratchpad -/
  loc : t.loc = true
  /-- no poison -/
  clean : s.c.padPoison = []
  /-- no tile is defined -/
  tiles : ∀ x ∈ s.c.tiles.toList, x.size = 0
  /-- no restartable input (R340) -/
  open_ : ∀ off n, s.c.protects off n = none
  /-- the header lies in the region -/
  head : s.d.inside (padOff t.head) 64 = true ∧ padOff (t.head + 48) = padOff t.head + 48 ∧ padOff (t.head + 56) = padOff t.head + 56
  /-- so do its arrays -/
  arrays : ∀ i < t.slots, s.d.inside (padOff (t.keyAt i)) 8 = true ∧ s.d.inside (padOff (t.metaAt i)) 8 = true ∧ s.d.inside (padOff (t.payAt i)) t.pbytes = true
/-- The slots that a lookup of a key may probe, in order (R273): 64 of them from its home on, with wrap-around. -/
def Sys2Proof.Claims.probes (t : KTab) (k : Word) : List Nat := (List.range 64).map (fun p => (t.home k + p) % t.slots)
/-- STATE of a slot: 0 empty, 1 live, 2 a tombstone (R264). -/
def Sys2Proof.Claims.slotState (s : State) (t : KTab) (i : Nat) : Nat := metaState (padWord s.c (t.metaAt i))
/-- Where a lookup of a key stops: at an empty slot or at a live one with the key. -/
def Sys2Proof.Claims.stopsAt (s : State) (t : KTab) (k : Word) : Option Nat :=
  (probes t k).find? (fun i => slotState s t i = 0 || (slotState s t i = 1 && padWord s.c (t.keyAt i) = k))

/-- O32. Lookup and insertion (R273, R286), on a table in the scratchpad. Find gives the live slot with the key that the probes from the key's home reach before an empty
slot, and none otherwise; NK is never found. Insertion of a key that is not there takes the first tombstone or empty slot of the probes: it writes the key, a meta word of
STATE 1, a payload of zeros, and adds 1 to LIVE, in that order and nothing else; with no such slot it is refused and adds 1 to OVERFLOW. Where the spec leaves a point
open it rests on the model's own choice: log 46. -/
def Obligations.KeyProbe : Prop :=
  (∀ (s : State) (w : Who) (t : KTab), s.kFind w t noKey = .ok (s, none)) ∧
  (∀ (s : State) (w : Who) (t : KTab) (k : Word), PadTable s t → k ≠ noKey → 0 < t.log2 → s.kFind w t k = .ok (s, (stopsAt s t k).filter (fun i => slotState s t i = 1))) ∧
  (∀ (s : State) (w : Who) (t : KTab) (k : Word) (i : Nat), PadTable s t → 0 < t.log2 → (stopsAt s t k).filter (fun i => slotState s t i = 1) = some i → s.kInsert w t k = .ok (s, some i)) ∧
  (∀ (s : State) (w : Who) (t : KTab) (k : Word), PadTable s t → 0 < t.log2 → (stopsAt s t k).filter (fun i => slotState s t i = 1) = none →
    match (probes t k).find? (fun i => slotState s t i = 0 || slotState s t i = 2) with
    | none => s.kInsert w t k = .ok (s.setC (s.c.padWrite (padOff t.head + 56) (natLe (padWord s.c (t.head + 56) + 1).toNat 8) false), none)
    | some i => s.slotBusy w t i = false →
      let c := ((s.c.padWrite (padOff (t.keyAt i)) (natLe k.toNat 8) false).padWrite (padOff (t.metaAt i)) (natLe (2 ^ 32) 8) false).padWrite
        (padOff (t.payAt i)) (List.replicate t.pbytes 0) false
      s.kInsert w t k = .ok (s.setC (c.padWrite (padOff t.head + 48) (natLe (padWord c (t.head + 48) + 1).toNat 8) false), some i))

/-- A KEY instruction with a table: its guard, its operands and its further destinations. -/
def Sys2Proof.Claims.keyForm : Instr → Option (Guard × List GReg × List GReg)
  | .kfind g b a d | .kins g b a d | .kdel g b a d | .kcount g b a d => some (g, [a, b], [d])
  | .kacc g b a d | .kput g b a d | .kget g b a d | .khot g b a d => some (g, [a, b, d], [])
  | .kmerge g b a | .kdirty g b a => some (g, [a, b], [])
  | .kscan g b a d => some (g, [a, b], [d, d + 1])
  | _ => none
/-- An instruction that uses the table's payload too (R282). -/
def Sys2Proof.Claims.keyPay : Instr → Bool
  | .kins .. | .kacc .. | .kput .. | .kget .. | .khot .. => true
  | _ => false
/-- A KEY instruction has taken clean operands, its guard selects it, its table's header is good, and a scratchpad table's arrays lie in the region (R282, R285). -/
structure Sys2Proof.Claims.Keyed (i : Instr) (s : State) (t : Taken) (s1 : State) (tab : KTab) : Prop where
  /-- the desk issues freely -/
  issues : s.Issues
  /-- operands -/
  take : ∃ g rs more, keyForm i = some (g, rs, more) ∧ s.d.take g rs more rs.length = .ok t
  /-- a pair destination is one (R38) -/
  pair : ∀ g b a d, i = .kscan g b a d → s.d.pairOk d 2 = .ok ()
  /-- selected -/
  on : t.on = true
  /-- header -/
  table : s.kTable (s.who s.d) (t.x 0) = .ok (s1, tab)
  /-- arrays -/
  arrays : s1.arrays tab (keyPay i) = .ok ()
  /-- no JSCATTER on the same scratchpad table is held before it (R283) -/
  order : s1.padOrder tab = .ok ()
/-- An instruction retires, and on a global table the desk's core then turns to another desk (R15, R284). -/
def Sys2Proof.Claims.ended (tab : KTab) (s : State) : State := if tab.loc then s.retire else s.retire.switchDesk

/-- O33. The lookup instructions complete (R286, R289), on tables of both kinds. KFIND gives the slot or NK; KINS the slot, its key inserted; KDEL the slot that it ends, or
NK; KCOUNT the slot's COUNT, 0 without one, LIVE for NK; KSCAN the first slot from its cursor on that it selects, with its key, or NK twice, clearing DIRTY where asked;
KDIRTY sets DIRTY of a live slot. A key instruction whose guard does not select it only takes its operands; KINS of NK traps with 0x109. An instruction on a scratchpad
table waits for the JSCATTERs to it that the key unit holds (R283). Where the spec leaves a point open it rests on the model's own choice: log 44, 45, 46, 120. -/
def Obligations.KeyLookup : Prop :=
  (∀ i g rs more s t, keyForm i = some (g, rs, more) → s.Issues → s.d.take g rs more rs.length = .ok t → t.on = false → (∀ g b a d, i = .kscan g b a d → s.d.pairOk d 2 = .ok ()) →
    exec i s = .next (s.setD t.d).retire) ∧
  (∀ g b a d s t s1 tab s2 f, Keyed (.kfind g b a d) s t s1 tab → s1.kFind (s.who s.d) tab (t.x 1) = .ok (s2, f) →
    exec (.kfind g b a d) s = .next (ended tab (s2.setD (t.d.pushG d (slotWord f) false)))) ∧
  (∀ g b a d s t s1 tab s2 n, Keyed (.kins g b a d) s t s1 tab → t.x 1 ≠ noKey → s1.kInsert (s.who s.d) tab (t.x 1) = .ok (s2, some n) →
    exec (.kins g b a d) s = .next (s2.setD (t.d.pushG d (BitVec.ofNat 64 n) false)).retire) ∧
  (∀ g b a d s t s1 tab, Keyed (.kins g b a d) s t s1 tab → t.x 1 = noKey → exec (.kins g b a d) s = .next (s.traps 0x109 noKey 0)) ∧
  (∀ g b a d s t s1 tab s2, Keyed (.kins g b a d) s t s1 tab → t.x 1 ≠ noKey → s1.kInsert (s.who s.d) tab (t.x 1) = .ok (s2, none) → s2.d.gen = none →
    exec (.kins g b a d) s = .next (s2.traps 0x100 (t.x 1) 0)) ∧
  (∀ g b a d s t s1 tab s2, Keyed (.kdel g b a d) s t s1 tab → s1.kFind (s.who s.d) tab (t.x 1) = .ok (s2, none) →
    exec (.kdel g b a d) s = .next (s2.setD (t.d.pushG d noKey false)).retire) ∧
  (∀ g b a d s t s1 tab s2 n s3, Keyed (.kdel g b a d) s t s1 tab → s1.kFind (s.who s.d) tab (t.x 1) = .ok (s2, some n) → s2.slotBusy (s.who s.d) tab n = false →
    s2.kEnd (s.who s.d) tab n = .ok s3 → exec (.kdel g b a d) s = .next (s3.setD (t.d.pushG d (BitVec.ofNat 64 n) false)).retire) ∧
  (∀ g b a d s t s1 tab, Keyed (.kcount g b a d) s t s1 tab → s1.kSettled tab = .ok () →
    (∀ s2 v, t.x 1 = noKey → s1.kWord (s.who s.d) tab.loc (tab.head + 48) accRead = .ok (s2, v) → exec (.kcount g b a d) s = .next (ended tab (s2.setD (t.d.pushG d v false)))) ∧
    (∀ s2, t.x 1 ≠ noKey → s1.kFind (s.who s.d) tab (t.x 1) = .ok (s2, none) → exec (.kcount g b a d) s = .next (ended tab (s2.setD (t.d.pushG d 0 false)))) ∧
    (∀ s2 n s3 m, t.x 1 ≠ noKey → s1.kFind (s.who s.d) tab (t.x 1) = .ok (s2, some n) → s2.kWord (s.who s.d) tab.loc (tab.metaAt n) accRead = .ok (s3, m) →
      exec (.kcount g b a d) s = .next (ended tab (s3.setD (t.d.pushG d (m &&& 0xFFFFFFFF) false))))) ∧
  (∀ g b a d s t s1 tab, Keyed (.kscan g b a d) s t s1 tab → (t.x 1).extractLsb' 34 30 = 0 →
    let from_ := ((t.x 1).extractLsb' 0 32).toNat
    (∀ s2, s1.kScan (s.who s.d) tab ((t.x 1).getLsbD 32) (tab.slots - from_) from_ = .ok (s2, none) →
      exec (.kscan g b a d) s = .next (s2.setD ((t.d.setG d noKey false).setG (d + 1) noKey false)).retire) ∧
    (∀ s2 n m s3 k s4, s1.kScan (s.who s.d) tab ((t.x 1).getLsbD 32) (tab.slots - from_) from_ = .ok (s2, some (n, m)) → s2.kWord (s.who s.d) tab.loc (tab.keyAt n) accRead = .ok (s3, k) →
      (if (t.x 1).getLsbD 33 then s3.kWrite (s.who s.d) tab.loc (tab.metaAt n) (natLe (m &&& ~~~0x10000000000#64).toNat 8) false accRmw else .ok s3) = .ok s4 →
      exec (.kscan g b a d) s = .next (s4.setD ((t.d.setG d (BitVec.ofNat 64 n) false).setG (d + 1) k false)).retire)) ∧
  (∀ (s : State) (w : Who) (tab : KTab) (dirty : Bool), PadTable s tab → ∀ from_, s.kScan w tab dirty (tab.slots - from_) from_ = .ok (s,
    (((List.range tab.slots).drop from_).find? (fun i => slotState s tab i = 1 && (!dirty || (padWord s.c (tab.metaAt i)).getLsbD 40))).map (fun i => (i, padWord s.c (tab.metaAt i))))) ∧
  (∀ g b a s t s1 tab s2, Keyed (.kdirty g b a) s t s1 tab → s1.kFind (s.who s.d) tab (t.x 1) = .ok (s2, none) → exec (.kdirty g b a) s = .next (s2.setD t.d).retire) ∧
  (∀ g b a s t s1 tab s2 n s3 m s4, Keyed (.kdirty g b a) s t s1 tab → s1.kFind (s.who s.d) tab (t.x 1) = .ok (s2, some n) → s2.kWord (s.who s.d) tab.loc (tab.metaAt n) accRmw = .ok (s3, m) →
    s3.kWrite (s.who s.d) tab.loc (tab.metaAt n) (natLe (m ||| 0x10000000000).toNat 8) false accRmw = .ok s4 → exec (.kdirty g b a) s = .next (s4.setD t.d).retire)

/-- O34. The payload instructions complete (R274, R275, R277, R287, R288). KACC inserts its key and adds the elements of its source, at once on a table in the scratchpad, and
left to the slot's home on a global one; KPUT inserts it and writes the source to its payload with COUNT 1; KGET copies the payload of its key, or zeros, to its
destination; KHOT makes its key hot with a replica group; KMERGE merges a key, or every key for NK. Elements of a payload in global memory that KGET has read before the
others (R280) keep the value that was read. Where the spec leaves a point open it rests on the model's own choice: log 43, 44, 45, 46, 120. -/
def Obligations.KeyPayload : Prop :=
  (∀ g b a d s t s1 tab s2 w x, Keyed (.kacc g b a d) s t s1 tab → s1.d.inside (t.x 2).toNat tab.pbytes = true → (t.x 2).toNat % 64 = 0 → t.x 1 ≠ noKey →
    s1.mayRead (t.x 2).toNat tab.pbytes = .ok () → s1.claim (s.who s.d) tab (t.x 1) = .ok (s2, w, some x) →
    exec (.kacc g b a d) s = .next (((s2.addTo w (s2.d.maker (.core s2.core)) x (elemsOf (s1.c.padPieces (t.x 2).toNat tab.psize) 0) false).kTick).setD t.d).retire) ∧
  (∀ (s : State) (w : Who) (m : Maker) (x : Claim) (es : List (Nat × BitVec 32 × Bool)) (later : Bool), x.tab.loc = true → (∀ e ∈ es, 4 * e.1 + 4 ≤ x.tab.pbytes) →
    ∃ c, s.addTo w m x es later = s.setC c ∧
      (∀ a, (a < localOff (x.tab.payAt x.slot) ∨ localOff (x.tab.payAt x.slot) + x.tab.pbytes ≤ a) →
        (a < localOff (x.tab.metaAt x.slot) ∨ localOff (x.tab.metaAt x.slot) + 8 ≤ a) → cget c.pad a = cget s.c.pad a)) ∧
  (∀ (s : State) (w : Who) (m : Maker) (x : Claim) (es : List (Nat × BitVec 32 × Bool)) (later : Bool), x.tab.loc = false → ∃ y : KAdd,
    s.addTo w m x es later = s.setC { s.c with key := { s.c.key with adds := s.c.key.adds ++ [y] } } ∧ y.tab = x.tab ∧ y.slot = x.slot ∧ y.elems = es ∧ y.at_ = none ∧
      y.phase2 = later ∧ y.desk = s.desk ∧ y.maker = m ∧ y.held = w.held) ∧
  (∀ g b a d s t s1 tab s2 n s3 s4 m s5, Keyed (.kput g b a d) s t s1 tab → t.x 1 ≠ noKey → s1.d.inside (t.x 2).toNat tab.pbytes = true → (t.x 2).toNat % 64 = 0 →
    s1.mayRead (t.x 2).toNat tab.pbytes = .ok () → s1.kSettled tab = .ok () → s1.kInsert (s.who s.d) tab (t.x 1) = .ok (s2, some n) → s2.kPieces (s.who s.d) tab.loc (tab.payAt n) (s2.c.padPieces (t.x 2).toNat tab.psize) = .ok s3 →
    s3.kWord (s.who s.d) tab.loc (tab.metaAt n) accRmw = .ok (s4, m) →
    s4.kWrite (s.who s.d) tab.loc (tab.metaAt n) (natLe ((m &&& 0xFFFFFFFF00000000) ||| 1).toNat 8) false accRmw = .ok s5 → exec (.kput g b a d) s = .next (s5.setD t.d).retire) ∧
  (∀ g b a d s t s1 tab s2, Keyed (.kget g b a d) s t s1 tab → s1.d.inside (t.x 2).toNat tab.pbytes = true → (t.x 2).toNat % 64 = 0 → s1.mayWrite (t.x 2).toNat tab.pbytes = .ok () → s1.kSettled tab = .ok () →
    (s1.kFind (s.who s.d) tab (t.x 1) = .ok (s2, none) →
      exec (.kget g b a d) s = .next (ended tab (s2.setCD (s2.c.padCopy (t.x 2).toNat (List.replicate tab.psize (List.replicate 64 0, false))) t.d))) ∧
    (∀ n s3 ps, s1.kFind (s.who s.d) tab (t.x 1) = .ok (s2, some n) → s2.payPieces (s.who s.d) tab.loc (t.x 1) (tab.payAt n) tab.psize = .ok (s3, ps) →
      exec (.kget g b a d) s = .next (ended tab (s3.setCD (s3.c.padCopy (t.x 2).toNat ps) t.d)))) ∧
  (∀ (s : State) (w : Who) (key a : Word) (n : Nat) s1 s2 bs bad ps, s.kRead w false a 64 accRead = .ok (s1, bs, bad) → s1.payPieces w false key (a + 64) n = .ok (s2, ps) →
    ∃ q, s.payPieces w false key a (n + 1) = .ok (s2, q :: ps) ∧ (s2.d.seen = [] → bs.length = 64 → q = (bs, bad)) ∧
      (∀ i < 16, bs.length = 64 → ∀ x, s2.d.seen.find? (fun y => y.key == key && y.at_ == a + BitVec.ofNat 64 (4 * i)) = some x →
        (∀ y ∈ s2.d.seen, y.val.length = 4) → (q.1.drop (4 * i)).take 4 = x.val)) ∧
  (∀ g b a d s t s1 tab, Keyed (.khot g b a d) s t s1 tab → t.x 1 ≠ noKey →
    ((t.x 2).toNat < 2 ∨ tab.maxrep < (t.x 2).toNat → exec (.khot g b a d) s = .next (s.traps 0x105 tab.head 0)) ∧
    (∀ s2 n s3 m, 2 ≤ (t.x 2).toNat → (t.x 2).toNat ≤ tab.maxrep → s1.kInsert (s.who s.d) tab (t.x 1) = .ok (s2, some n) → s2.kWord (s.who s.d) false (tab.metaAt n) accRmw = .ok (s3, m) →
      (metaHot m = true → exec (.khot g b a d) s = .next (s3.setD t.d).retire) ∧
      (∀ s4, metaHot m = false → s3.promote (s.who s.d) tab n (t.x 2).toNat = .ok (some s4) → exec (.khot g b a d) s = .next (s4.setD t.d).retire))) ∧
  (∀ g b a s t s1 tab, Keyed (.kmerge g b a) s t s1 tab → s1.kSettled tab = .ok () →
    (tab.loc = true → exec (.kmerge g b a) s = .next (s1.setD t.d).retire) ∧
    (∀ s2, tab.loc = false → t.x 1 = noKey → s1.mergeFrom (s.who s.d) tab tab.slots 0 = .ok s2 → exec (.kmerge g b a) s = .next (s2.setD t.d).retire) ∧
    (∀ s2 n s3, tab.loc = false → t.x 1 ≠ noKey → s1.kFind (s.who s.d) tab (t.x 1) = .ok (s2, some n) → s2.mergeSlot (s.who s.d) tab n = .ok s3 → exec (.kmerge g b a) s = .next (s3.setD t.d).retire))

/-- The runs of a list of keys (R293): maximal stretches of equal keys, with their lengths. -/
def Sys2Proof.Claims.runsAre (ks : List Word) (rs : List (Word × Nat)) : Prop :=
  rs.flatMap (fun y => List.replicate y.2 y.1) = ks ∧ (∀ y ∈ rs, 0 < y.2) ∧ ∀ i, (h : i + 1 < rs.length) → rs[i].1 ≠ rs[i + 1].1
/-- What KISECT finds over ascending inputs (R294): the distinct keys of every input in ascending order, each with the first row of its run in each input. -/
def Sys2Proof.Claims.commonKeys (ks : List (List Word)) : List (Word × List Nat) :=
  (((ks.getD 0 []).eraseDups).filter (fun k => ks.all (·.contains k))).map (fun k => (k, ks.map (fun l => l.findIdx (· == k))))

/-- O35. The key unit at work (R107, R274, R276, R277, R280, R283, R293, R294, R297, R298). An addition of KACC, and one of JSCATTER's second phase, lands in pieces: 1 is
added to the COUNT of a cold slot, or of the core's replica of a hot one whose table the core has recorded, then its elements one by one, in any order, to that payload;
an addition of the same desk to the same slot arrives after it. The held command at the head of the queue is discarded where its guard slot binds false, and holds those
behind it while the slot is pending; KRUNS writes the runs found, each key with its length, KISECT the common keys found with their rows, and JSCATTER gives its additions
to the slots' homes or reports why it stopped; R holds of the states that reading rows leads through. Each addition that arrives at its home while an earlier one is in
progress counts in the slot's window, and past HOTTHR a cold slot becomes hot, or is tried again in a later window. A merge adds the replicas in order, element by
element, and the bell merges each recorded table once. Where the spec leaves a point open it rests on the model's own choice: log 43, 46, 120. -/
def Obligations.KeyEvents : Prop :=
  (∀ c s x more i, (i = if x.phase2 then Instr.jscatterPhase2 c else .keyAccumulate c) → (s.coreAt c).key.held = [] → (s.coreAt c).key.adds = x :: more → x.at_ = none → x.elems ≠ [] →
    (∀ y ∈ more, x.meets y = true ∧ y.at_ = none) →
    let s0 := { s with core := c, desk := x.desk }
    let w : Who := { s0.whoOf x.maker x.held with keys := some x.seq }
    (∀ s1 m s2, s0.kWord w false (x.tab.metaAt x.slot) accRmw = .ok (s1, m) → metaHot m = false →
      (s1.countHot w.part x.tab x.slot).kWrite w false (x.tab.metaAt x.slot) (natLe (metaAdd m 1).toNat 8) false accRmw = .ok s2 →
      exec i s = .next (s2.setAdds c (fun l => l.set 0 { x with at_ := some (x.tab.payAt x.slot) }))) ∧
    (∀ s1 m s2 bs b s3, s0.kWord w false (x.tab.metaAt x.slot) accRmw = .ok (s1, m) → metaHot m = true → 0 < metaReps m →
      let s1' := s1.countHot w.part x.tab x.slot
      let r := c.toNat / 16 % metaReps m
      let a := x.tab.groupAt (metaGroup m) + BitVec.ofNat 64 (4 * r)
      (w.part, x.tab.head) ∈ s1'.c.key.merge → s1'.reach w x.tab m = true → s1'.kRead w false a 4 accRmw = .ok (s2, bs, b) →
      s2.kWrite w false a (natLe (min (leNat bs + 1) (2 ^ 32 - 1)) 4) false accRmw = .ok s3 → s1'.core = c →
      exec i s = .next (s3.setAdds c (fun l => l.set 0 { x with at_ := some (x.tab.repAt (metaGroup m) r) })))) ∧
  (∀ c s x i p, (i = if x.phase2 then Instr.jscatterPhase2 c else .keyAccumulate c) → (s.coreAt c).key.held = [] → (s.coreAt c).key.adds = [x] → x.at_ = some p → x.elems ≠ [] →
    let s0 := { s with core := c, desk := x.desk }
    let w : Who := { s0.whoOf x.maker x.held with keys := some x.seq }
    ∃ k j v bad, x.elems[k]? = some (j, v, bad) ∧
      ∀ s1 bs b s2, s0.kRead w false (p + BitVec.ofNat 64 (4 * j)) 4 accRmw = .ok (s1, bs, b) →
      s1.kWrite w false (p + BitVec.ofNat 64 (4 * j)) (natLe (if x.tab.int then (leNat bs + v.toNat) % 2 ^ 32 else rAdd (leNat bs) v.toNat) 4) bad accRmw = .ok s2 →
      exec i s = .next (s2.setAdds c (fun l => if (x.elems.eraseIdx k).isEmpty then l.eraseIdx 0 else l.set 0 { x with elems := x.elems.eraseIdx k }))) ∧
  (∀ (x : KAdd) (before : List KAdd) j, j ∈ x.free before ↔ ((∃ e ∈ x.elems, e.1 = j) ∧ ∀ y ∈ before, y.meets x = true → ∀ e ∈ y.elems, e.1 ≠ j)) ∧
  (∀ c s x rest, (s.coreAt c).key.held = x :: rest →
    let k := s.coreAt c
    let s0 : State := { s.setCoreAt c { k with key := { k.key with held := rest } } with core := c, desk := x.desk }
    let w : Who := { s0.whoOf x.maker x.held with keys := some x.seq }
    (x.bind = .no → exec (.keyAccumulate c) s = .next s0) ∧
    (∀ n, x.bind = .slot n → (s.coreAt c).key.adds = [] → exec (.keyAccumulate c) s = .next s) ∧
    (∀ r first cnt col out s1 rs s2, x.bind = .yes → x.op = .runs r first cnt col out →
      s0.runsOf w r col cnt first [] = .ok (s1, rs) →
      s1.kWrite w false out (natLe rs.length 8 ++ natLe 0 8 ++ rs.flatMap (fun y => natLe y.1.toNat 8 ++ natLe y.2 8)) false accWrite = .ok s2 →
      exec (.keyAccumulate c) s = .next s2) ∧
    (∀ ins out cap rec s1 es ovf s2, x.bind = .yes → x.op = .isect ins out cap rec →
      s0.isect w cap ((ins.map (fun y => y.1.rows)).sum + 2) (ins.map (fun y => (y, 0))) [] = .ok (s1, es, ovf) →
      s1.kWrite w false out (natLe es.length 8 ++ natLe (if ovf then 1 else 0) 8 ++
        es.flatMap (fun e => let bs := natLe e.1.toNat 8 ++ e.2.flatMap (natLe · 4); bs ++ List.replicate (32 - bs.length) 0)) false accWrite = .ok s2 →
      exec (.keyAccumulate c) s = .next s2) ∧
    (∀ h node own first rows mask base n s1 r, x.bind = .yes → x.op = .scatter h node own first rows mask base n → s0.scatter w x.maker h node own first rows mask base = .ok (s1, r) →
      (r = none → exec (.keyAccumulate c) s = .next s1) ∧
      (∀ cause v acc tf, r = some (.trap cause v acc tf) → exec (.keyAccumulate c) s = .next (s1.reportOn c x.desk (.trap cause v acc tf))))) ∧
  (∀ (s : State) (w : Who) (r : Rel) (col i : Nat) (ks : List Word) (R : State → Prop), R s →
    (∀ x j, (h : j < ks.length) → R x → ∃ y, R y ∧ x.rowKey w r (i + j) col = .ok (y, ks[j])) →
    ∃ y rs, R y ∧ s.runsOf w r col ks.length i [] = .ok (y, rs) ∧ runsAre ks rs) ∧
  (∀ (s : State) (w : Who) (ins : List (Rel × Nat)) (ks : List (List Word)) (cap : Nat) (R : State → Prop), R s → ins ≠ [] → ks.length = ins.length →
    (∀ m, (hi : m < ins.length) → (hk : m < ks.length) → ks[m].length = ins[m].1.rows ∧ ks[m].Pairwise (fun x y => x.toNat ≤ y.toNat) ∧ noKey ∉ ks[m] ∧
      ∀ x j, (h : j < ks[m].length) → R x → ∃ y, R y ∧ x.rowKey w ins[m].1 j ins[m].2 = .ok (y, ks[m][j])) →
    ∃ y, R y ∧ s.isect w cap ((ins.map (fun y => y.1.rows)).sum + 2) (ins.map (fun y => (y, 0))) [] = .ok (y, (commonKeys ks).take cap, decide (cap < (commonKeys ks).length))) ∧
  (∀ (s : State) p (t : KTab) i h, 0 < t.hotthr → s.cores.any (fun c => c.2.key.adds.any (fun x => x.maker.part == p && x.tab.head == t.head && x.slot == i && x.at_.isSome)) = true →
    s.sys.hots.find? (fun h => h.part == p && h.head == t.head && h.slot == i) = some h → h.window = s.hotWindow →
    (s.countHot p t i).sys.hots.head? = some { h with count := h.count + 1, due := h.due || decide (h.count = t.hotthr) }) ∧
  (∀ p h slot n s,
    let w : Who := s.hwWho p
    let mine (x : HotCount) : Bool := x.part == p && x.head == h && x.slot == slot
    let put (f : HotCount → HotCount) (s : State) : State := { s with sys := { s.sys with hots := s.sys.hots.map (fun x => if mine x then f x else x) } }
    isLocal h = false → s.sys.hots.any (fun x => mine x && x.due && x.count == n && decide (x.tried ≤ s.hotWindow)) = true →
    ∀ s1 tab s2 m, s.kTable w h = .ok (s1, tab) → 0 < tab.hotthr → 2 ≤ tab.maxrep → slot < tab.slots → s1.kWord w false (tab.metaAt slot) accRmw = .ok (s2, m) →
    metaState m = 1 → metaHot m = false →
    (∀ s3, s2.promote w tab slot tab.maxrep = .ok (some s3) → exec (.hotPromotion p h slot n) s = .next (put (fun x => { x with due := false }) s3)) ∧
    (s2.promote w tab slot tab.maxrep = .ok none → exec (.hotPromotion p h slot n) s = .next (put (fun x => { x with tried := s.hotWindow + 1 }) s))) ∧
  (∀ (s : State) (w : Who) (t : KTab) (g : Nat) (reps cnts : List (List Byte)) (main : List Byte) (bad : Bool) (R : State → Prop), R s → cnts.length = reps.length →
    (∀ x r, (h : r < reps.length) → (h' : r < cnts.length) → R x → (∃ y, R y ∧ x.kRead w false (t.repAt g r) t.pbytes accRmw = .ok (y, reps[r], false)) ∧
      ∃ y, R y ∧ x.kRead w false (t.groupAt g + BitVec.ofNat 64 (4 * r)) 4 accRmw = .ok (y, cnts[r], false)) →
    ∃ y, R y ∧ s.mergeReps w t g reps.length 0 main bad 0 = .ok (y, reps.foldl t.sums main, bad, (cnts.map leNat).sum)) ∧
  (∀ (t : KTab) (xs ys : List Byte) j, xs.length = ys.length → xs.length % 4 = 0 → 4 * j < xs.length → ((t.sums xs ys).drop (4 * j)).take 4 =
    natLe (let x := leNat ((xs.drop (4 * j)).take 4); let y := leNat ((ys.drop (4 * j)).take 4); if t.int then (x + y) % 2 ^ 32 else rAdd x y) 4) ∧
  (∀ l k x s, let st := s.stageOf l k
    s.live = true → s.stopped l k = false → st.ended = false → st.begun = true → st.exch = false → st.resume = [] → s.stopDue l k false = false → s.ckDue l k = false → st.cores ≠ [] →
    (∀ c ∈ st.cores, s.hasRung l c = true) → (∀ i < st.cores.length, s.ctxInUse l (x + BitVec.ofNat 16 i) = false) →
    ∃ t, exec (.bellComplete l k x) s = .next t ∧
      t.mem.bytes = (((st.merges ++ st.cores.flatMap (fun c => (s.coreAt c).key.merge)).eraseDups).foldl (fun (s : State) x => s.bellMerge x) s).mem.bytes) ∧
  (∀ (s : State) p h s1 t, s.kTable (s.hwWho p) h = .ok (s1, t) → s.bellMerge (p, h) =
    (List.range t.slots).foldl (fun s2 i => match s2.mergeSlot (s.hwWho p) t i with | .ok s3 => s3 | .error _ => s2) s1)

/-! ### Relations and join trees (R263 to R271, R290 to R298) -/

/-- What JNODE gives for a field number (R291), from a node of the bound type and the handle. -/
def Sys2Proof.Claims.nodeField (h : Handle) (v f : Nat) : Word :=
  let n := nodeOf h.nodes v
  let k : Nat → Word := BitVec.ofNat 64
  [k n.kind, k n.parent, k n.first, k n.next, k n.pkey, k n.own, k n.feats, n.image, n.ptab, n.dtab, n.weight, k n.rel.rows, k h.h, k h.root, k h.nodes.length].getD f 0

/-- Part of O36. Binding, reading a type and searching a sorted relation (R290, R291, R292). JBIND puts the type and the binding that it has checked into its handle; JNODE
gives a field of a node; an unbound handle traps with 0x107, and one that a restore has still to bind again (R271) waits. KRANGE, on a relation whose key column 0 rises,
gives the number of keys below its key and the number equal to it; R holds of the states that reading rows leads through. -/
def Sys2Proof.Claims.JoinHandles : Prop :=
  (∀ b a n s t s1 h, s.Issues → s.d.take 0 [a, b] [] 2 = .ok t → s.bindHandle (s.who s.d) (t.x 0) (t.x 1) = .ok (s1, h) →
    exec (.jbind b a n) s = .next (s1.setCD { s1.c with key := { s1.c.key with handles := s1.c.key.handles.set n.toNat (some h), binds := s1.c.key.binds.filter (fun x => x.n != n) } } t.d).retire) ∧
  (∀ b n d s t h, s.Issues → s.d.take 0 [b] [d] 1 = .ok t → (∀ x ∈ s.c.key.binds, x.n ≠ n) → s.c.key.handles[n.toNat] = some h →
    let f := ((t.x 0).extractLsb' 8 4).toNat
    let v := ((t.x 0).extractLsb' 0 4).toNat
    t.x 0 = BitVec.ofNat 64 (256 * f + v) → f ≤ 14 → v < h.nodes.length → exec (.jnode b n d) s = .next (s.setD (t.d.pushG d (nodeField h v f) false)).retire) ∧
  (∀ b n d s t, s.Issues → s.d.take 0 [b] [d] 1 = .ok t → (∀ x ∈ s.c.key.binds, x.n ≠ n) → s.c.key.handles[n.toNat] = none → exec (.jnode b n d) s = .next (s.traps 0x107 (n.setWidth 64) 0)) ∧
  (∀ b n d s t, s.Issues → s.d.take 0 [b] [d] 1 = .ok t → (∃ x ∈ s.c.key.binds, x.n = n) → exec (.jnode b n d) s = .next (s.hold .key)) ∧
  (∀ b a d s t s1 r, s.Issues → s.d.pairOk d 2 = .ok () → s.d.take 0 [a, b] [d, d + 1] 2 = .ok t → s.relAt (s.who s.d) (t.x 0) = .ok (s1, r) → r.rows < 2 ^ 32 →
    ∀ (ks : List Word) (R : State → Prop), ks.length = r.rows → R s1 → (∀ x i, (h : i < ks.length) → R x → ∃ y, R y ∧ x.rowKey (s.who s.d) r i 0 = .ok (y, ks[i])) →
    ks.Pairwise (fun x y => x.toNat ≤ y.toNat) → ∃ s2, R s2 ∧
    exec (.krange b a d) s = .next (s2.setD ((t.d.setG d (BitVec.ofNat 64 (ks.countP (fun x => x.toNat < (t.x 1).toNat))) false).setG (d + 1) (BitVec.ofNat 64 (ks.count (t.x 1))) false)).retire)

/-- A command of the key unit as its desk leaves it (R107, R298): nothing where its guard slot is false, and otherwise the last of those held, with the translations and the places to write that it
reserved, and with its place in the order of key commands. -/
def Sys2Proof.Claims.heldAs (s1 : State) (w : Who) (outs : List Part) (k : Guard) (op : KOp) : State :=
  if s1.d.slot k = .no then s1
  else s1.setC { s1.c with key := { s1.c.key with
    held := s1.c.key.held ++ [⟨op, boundBy s1.d k, s1.desk, s1.d.maker (.core s1.core), s1.c.key.next, w.held, outs⟩], next := s1.c.key.next + 1 } }
/-- A row gather or scatter has passed its checks (R295): its handle, its tile's base, its node, its rows and the mark TARGET. -/
def Sys2Proof.Claims.rowsOk (scatter : Bool) (n : BitVec 2) (t : Taken) (s : State) (j : JRow) : Prop := jrow scatter n t s = .ok j

/-- Part of O36. KRUNS, KISECT, JGATHER and JSCATTER complete (R293 to R298). The first two, and a guarded JSCATTER, retire with their command left to the key unit, bound as
their guard slot stands; an unguarded JSCATTER claims a slot for every key and leaves its additions to the slots' homes; JGATHER writes its rows to the tile and sets mask
bit i for every row that it keeps. Rows past the relation's end are zeros with their mask bits 0; a live row of a node without children is zeros with its mask bit 1. -/
def Sys2Proof.Claims.JoinRows : Prop :=
  (∀ k b a d s t s1 r s2 w2 p2 s3 w3 p3, s.Issues → s.d.pairOk d 2 = .ok () → s.d.take 0 [a, b, d, d + 1] [] 4 = .ok t → s.relAt (s.who s.d) (t.x 0) = .ok (s1, r) →
    let cnt := ((t.x 3).extractLsb' 0 32).toNat
    let col := ((t.x 3).extractLsb' 32 2).toNat
    (t.x 3).extractLsb' 34 30 = 0 → col < r.keys.length → (t.x 2).toNat + cnt ≤ r.rows → (t.x 1).toNat % 16 = 0 →
    s1.kGrip (s.who s.d) (r.row (t.x 2).toNat) (cnt * r.stride) accRead = .ok (s2, w2, p2) → s2.kGrip w2 (t.x 1) (16 + 16 * cnt) accWrite = .ok (s3, w3, p3) →
    exec (.kruns k b a d) s = .next ((heldAs s3 w3 p3 k (.runs r (t.x 2).toNat cnt col (t.x 1))).setD t.d).retire) ∧
  (∀ k a s t s1 rec s2 rs s3 w3 s4 w4 p4, s.Issues → s.d.take 0 [a] [] 1 = .ok t → (t.x 0).toNat % 64 = 0 → s.kRecord (s.who s.d) false (t.x 0) = .ok (s1, rec) →
    let n := (rec.extractLsb' 0 8).toNat
    let cols := (List.range n).map (fun m => (rec.extractLsb' (8 + 2 * m) 2).toNat)
    2 ≤ n → n ≤ 4 → rec.extractLsb' 16 112 = 0 → (∀ m, n ≤ m → m < 4 → dword rec (16 + 8 * m) = 0) → (dword rec 48).toNat % 16 = 0 →
    s1.relsAt (s.who s.d) ((List.range n).map (fun m => dword rec (16 + 8 * m))) = .ok (s2, rs) → (∀ x ∈ rs.zip cols, x.2 < x.1.keys.length) → s2.gripRels (s.who s.d) rs = .ok (s3, w3) →
    s3.kGrip w3 (dword rec 48) (16 + 32 * rs.foldl (fun m x => min m x.rows) (dword rec 56).toNat) accWrite = .ok (s4, w4, p4) →
    exec (.kisect k a) s = .next ((heldAs s4 w4 p4 k (.isect (rs.zip cols) (dword rec 48) (dword rec 56).toNat (t.x 0))).setD t.d).retire) ∧
  (∀ b a n p s t j s1 rows m, s.Issues → p ≠ 0 → s.d.take 0 [a, b] [] 2 = .ok t → rowsOk false n t s j →
    (∀ x ∈ s.c.key.adds, x.desk = s.desk → ∀ y ∈ gatherTabs j.h j.node, ∀ u, y.2.2 = some u → u.head ≠ x.tab.head) →
    (∀ x ∈ s.c.key.held, x.live = true → ∀ y ∈ gatherTabs j.h j.node, ∀ u, y.2.2 = some u → (x.desk = s.desk ∨ u.loc = true) → u.head ∉ x.adds) → s.mayWrite j.base (4 * j.h.h * j.count) = .ok () →
    s.gatherRows (s.who s.d) j j.count 0 = .ok (s1, rows, m) → exec (.jgather b a n p) s = .next (s1.setCD (s1.c.padCopy j.base rows.flatten) (t.d.setP p (BitVec.ofNat 64 m))).retire) ∧
  (∀ (s : State) (w : Who) (j : JRow) (n i : Nat), j.rel.rows ≤ j.first + i → s.gatherRows w j n i = .ok (s, List.replicate n (rowOf j.h.h 0), 0)) ∧
  (∀ (s : State) (w : Who) (j : JRow) (n : Nat), j.node = j.h.root → gatherTabs j.h j.node = [] → j.first + n ≤ j.rel.rows →
    s.gatherRows w j n 0 = .ok (s, List.replicate n (rowOf j.h.h 0), 2 ^ n - 1)) ∧
  (∀ k b a n p s t j s1 w1, s.Issues → s.d.take 0 [a, b] [] 2 = .ok t → rowsOk true n t s j → s.gripRows (s.who s.d) j = .ok (s1, w1) →
    (∀ s2, k = 0 → (∀ x ∈ s1.c.key.held, x.desk = s1.desk → x.live = false) → s1.padOrders ((scatterTabs j.h j.node j.own).filterMap (fun y => y.2.2)) = .ok () →
      s1.scatter w1 (s1.d.maker (.core s1.core)) j.h j.node j.own j.first j.count (s.d.getP p) j.base = .ok (s2, none) → exec (.jscatter k b a n p) s = .next (s2.kTick.setD t.d).retire) ∧
    (∀ s2 w2 p2, k ≠ 0 → s1.gripTables w1 ((scatterTabs j.h j.node j.own).filterMap (fun y => y.2.2)) = .ok (s2, w2, p2) →
      exec (.jscatter k b a n p) s = .next ((heldAs s2 w2 p2 k (.scatter j.h j.node j.own j.first j.count (s.d.getP p) j.base n)).setD t.d).retire))
/-- O36. Join handles are bound and read, and the join instructions walk the rows of a binding. Where the spec leaves a point open it rests on the model's own choice: log 47,
48, 49, 50, 51, 52, 120. -/
def Obligations.JoinResult : Prop := JoinHandles ∧ JoinRows


/-! ### Job cards and collectives (R304 to R319) -/

/-- The submissions by KIND (R309, R315, R320): the card's kind, the guard slot and the card's address register. -/
def Sys2Proof.Claims.cardForm : Instr → Option (Nat × Guard × GReg)
  | .cpy k a => some (1, k, a)
  | .cpyq k a => some (2, k, a)
  | .gath k a => some (3, k, a)
  | .coll k a => some (4, k, a)
  | .fput k a => some (5, k, a)
  | .fget k a => some (6, k, a)
  | _ => none

/-- Part of O37. A submission retires with its card at the end of its engine's queue (R304, R308, R314, R315) where the card is aligned, read and free of what R308 checks,
the queue has room and the desk's earlier accesses are performed: the card holds the 64 bytes read, its address, its regions, the guard as its slot stands and, for a
collective, its member's rank and next instance. A card at a misaligned address whose bytes carry no poison traps with 0x141; a retired engine takes no card. -/
def Sys2Proof.Claims.CardSubmit : Prop :=
  (∀ i n k a, cardForm i = some (n, k, a) → ∀ s t s1 r s2 own s3 held rd wr rank, s.Issues → s.d.take 0 [a] [] 1 = .ok t → s.readCard (s.who s.d) (t.x 0) = .ok (s1, r) →
    s1.grip (s.who s.d) (t.x 0) (t.x 0 + 6) accWrite 2 2 = .ok (s2, own) → s2.cardCheck n (t.x 0) r = .ok (s3, held, rd, wr, rank) →
    let eng := s3.engineFor n (t.x 0) s3.core
    let e := engNo eng
    s3.sys.retired.contains (.engine eng) = false → (s3.queueOf e).length < engDepth eng → s3.released = .ok () → s3.pastFences [.e] = .ok () →
    let (inst, s4) := if n = 4 then s3.drawInst (cGroup r) else (0, s3)
    ∃ c : Card, c.raw = r ∧ c.addr = t.x 0 ∧ c.rd = rd ∧ (n ≠ 5 → c.wr = wr) ∧ c.rank = rank ∧ c.inst = inst ∧ c.bind = boundBy s4.d k ∧ c.started = false ∧ c.done = 0 ∧ c.fail = none ∧
      c.seq = s4.sys.cardSeq ∧ c.owner = s4.ownerOf s4.core s4.desk ∧ c.held = own ++ held ∧
      exec i s = .next (({ s4.setQueue e (s4.queueOf e ++ [c]) with sys := { (s4.setQueue e (s4.queueOf e ++ [c])).sys with cardSeq := s4.sys.cardSeq + 1 } }).setD t.d).retire) ∧
  (∀ i n k a, cardForm i = some (n, k, a) → ∀ s t, s.Issues → s.d.take 0 [a] [] 1 = .ok t → (t.x 0).toNat % 64 ≠ 0 →
    (∀ x acc tf, s.readCard (s.who s.d) (t.x 0) ≠ .error (.trap 0x1C0 x acc tf)) → exec i s = .next (s.traps 0x141 (t.x 0) 0)) ∧
  (∀ (s : State) (id : BitVec 16) (l : Nat) (g : Group), s.d.launch = some l → s.groupOf l id = some g → (s.drawInst id).1 = tget g.drawn s.core.toNat 0)

/-- Part of O37. JOBX (R313): 0 where no card of its context and address is left; 1 where the card has not started, which leaves its queue with STATUS 2; 2 where it has
started, which writes on to the next 64-byte boundary of its destination first, or where it is a collective, all of whose instance ends cancelled with every destination
holding any value. -/
def Sys2Proof.Claims.JobCancel : Prop :=
  (∀ a d s t, s.Issues → s.d.take 0 [a] [d] 1 = .ok t → (∀ c ∈ s.allCards, c.addr = t.x 0 → c.owner.same (s.ownerOf s.core s.desk) = false) →
    exec (.jobx a d) s = .next (s.setD (t.d.pushG d 0 false)).retire) ∧
  (∀ a d s t c, s.Issues → s.d.take 0 [a] [d] 1 = .ok t → c ∈ s.allCards → c.addr = t.x 0 → c.owner.same (s.ownerOf s.core s.desk) = true →
    (∀ y ∈ s.allCards, y.addr = t.x 0 → y.owner.same (s.ownerOf s.core s.desk) = true → y = c) → ∃ u, exec (.jobx a d) s = .next u.retire ∧
      (c.kind ≠ 4 → let s1 := (if c.started && c.fail.isNone then s.cardToEdge c else s).endCard c 2
        u = s1.setD (({ s1.d with q := t.d.q } : Desk).pushG d (if c.started then 2 else 1) false)) ∧
      (c.nextByte % 64 = 0 → s.cardToEdge c = s) ∧
      (c.kind = 4 → u = (s.cancelInst (c.owner.launch.getD 0) (cGroup c.raw) c.inst).setD
        (({ (s.cancelInst (c.owner.launch.getD 0) (cGroup c.raw) c.inst).d with q := t.d.q } : Desk).pushG d 2 false)))
/-- O37. Job cards are checked and queued, and JOBX cancels them. Where the spec leaves a point open it rests on the model's own choice: log 53, 54, 55, 88. -/
def Obligations.CardResult : Prop := CardSubmit ∧ JobCancel


/-- O38. The engines at work (R304, R309 to R312, R314 to R316, R318). The first card not started of a queue starts, or leaves with STATUS 1 where its guard bound false; a
started card goes some steps on, and completes with STATUS 0 once all is written, its status in its card and 1 added at its counter; a copy of up to 8 bytes that no
8-byte boundary cuts reads them at once and writes them at once; a quantising copy writes its shape record last; a card that moved bytes between devices is an event of
its partition's monitors (R390). A card that met an access it cannot make leaves with 0x8000 plus its cause, which its desk learns of, and a collective's whole instance
with it, each member by the failure's own cause (log 134, DEDUCED). An instance whose members have all started and agree goes on, and completes once every destination is
written; one that disagrees fails whole with 0x146; a switch of the trust set may combine where every card permits it. Where the spec leaves a point open it rests on the
model's own choice: log 6, 56, 57, 58, 59, 134. -/
def Obligations.EngineEvents : Prop :=
  (∀ e i s c, (s.queueOf (engNo e))[i]? = some c → c.started = false → (∀ x ∈ (s.queueOf (engNo e)).take i, x.started = true) → s.mayRun c.owner.launch c.stage = true → c.kind ≠ 4 →
    (c.bind = .no → exec (.cardStart e i) s = .next (s.endCard c 1)) ∧
    (c.bind = .yes → (∀ x ∈ s.allCards, c.after x = false) → exec (.cardStart e i) s = .next (s.updCard c.seq (fun c => some { c with started := true })))) ∧
  (∀ e i s c, (s.queueOf (engNo e))[i]? = some c → c.started = true → c.kind ≠ 4 → c.fail = none → ∃ n, 0 < n ∧
    ∀ s1 c1, s.cardWork n c = (s1, c1) →
      ((c1.fail.isSome ∨ c1.done < c1.total) → exec (.cardComplete e i) s = .next (s1.updCard c.seq (fun _ => some c1))) ∧
      (c1.fail = none → c1.total ≤ c1.done → c.kind ≠ 2 ∨ (cAux1 c.raw).extractLsb' 6 58 = 0 → exec (.cardComplete e i) s = .next (s1.endCard c 0)) ∧
      (∀ s2, c1.fail = none → c1.total ≤ c1.done → c.kind = 2 → (cAux1 c.raw).extractLsb' 6 58 ≠ 0 → s1.engWrite c.maker (cAux1 c.raw &&& ~~~63) (shapeRecord c.raw) false = .ok s2 →
        exec (.cardComplete e i) s = .next (s2.endCard c 0))) ∧
  (∀ (s : State) c s1 bs bad s2 n, c.kind = 1 → (cAux0 c.raw).extractLsb' 0 32 = 1#32 → c.done = 0 → c.got = 0 → c.buf = [] → c.out = [] → c.ahead = [] → 0 < cSlen c.raw →
    cSlen c.raw + (cSrc c.raw).toNat % 8 ≤ 8 → cSlen c.raw + (cDst c.raw).toNat % 8 ≤ 8 → bs.length = cSlen c.raw →
    s.engRead c.maker (cSrc c.raw) (cSlen c.raw) = .ok (s1, bs, bad) → s1.engWrite c.maker (cDst c.raw) bs bad = .ok s2 → 3 ≤ n →
    (s.cardWork n c).1 = s2 ∧ (s.cardWork n c).2.done = c.total ∧ (s.cardWork n c).2.fail = c.fail) ∧
  (∀ (s : State) (c : Card) (n : Nat), let s0 := if s.farCard c = true ∧ n = 0 then s.note c.maker.part 2 [c.owner.core.toNat / 256] else s
    s.endCard c n = ((s0.updCard c.seq (fun _ => none)).hwWriteHeld (s0.whoOf c.maker c.held) (c.addr + 6) (natLe n 2)).counterAdd (s0.whoOf c.maker c.held) (cCounter c.raw) 1) ∧
  (∀ (s : State) (c : Card) (x : EngErr), x.cause ≠ 0x146 → s.endMember c (some x) = ((s.havocCard c).endCard c (0x8000 + x.cause.toNat)).reportOwner c.owner x.cause c.addr x.tf true) ∧
  (∀ e i s c x, (s.queueOf (engNo e))[i]? = some c → c.fail = some x →
    (c.kind ≠ 4 → exec (.cardFailure e i) s = .next ((s.endCard c (0x8000 + x.cause.toNat)).reportOwner c.owner x.cause c.addr x.tf true)) ∧
    (c.kind = 4 → exec (.cardFailure e i) s = .next (s.failInst (c.owner.launch.getD 0) (cGroup c.raw) c.inst x))) ∧
  (∀ l g k s gr c cs, s.groupOf l g = some gr → none ∉ s.members l gr → s.members l gr ≠ [] → s.mayRun (some l) gr.stage = true → (s.instCards l g k).filter (fun x => x.started && x.fail.isNone) = c :: cs →
    (∀ r < (s.members l gr).length, ∃ x ∈ c :: cs, x.rank = r) →
    ((∀ x ∈ c :: cs, x.paid = false ∧ x.buf = []) → (∃ x ∈ cs, x.terms ≠ c.terms) → exec (.collectiveInstance l g k) s = .next (s.failInst l g k { cause := 0x146 })) ∧
    ((∀ x ∈ cs, x.terms = c.terms) →
      (let root := if cColl c.raw = 3 then some (cAux0 c.raw).toNat else none
       (∃ x ∈ c :: cs, x.paid = false) → (∀ x ∈ c :: cs, x.paid = false → x.gives root = true → toRead (cSrc x.raw) (cSlen c.raw) x.buf = []) →
       exec (.collectiveInstance l g k) s = .next (s.putCards ((c :: cs).map (fun x => s.pay x 0 (contributions s.tick (cSlen c.raw) (c :: cs) root (s.members l gr)))))) ∧
      ((∀ x ∈ c :: cs, x.paid = true ∧ x.out = []) → exec (.collectiveInstance l g k) s =
        .next ((c :: cs).foldl (fun s x => s.endCard x (if x.bind == .no then 1 else 0)) { s with sys := { s.sys with insts := s.sys.dropInst l gr.id k } })))) ∧
  (∀ l g k w s gr, s.groupOf l g = some gr → none ∈ s.members l gr → let cs := (s.instCards l g k).filter (·.started)
    cs ≠ [] → (∀ c ∈ cs, cSwitch c.raw = true) → s.trustsSwitch (s.launchAt l).part w = true →
    exec (.switchCombine l g k w) s = .next { s with sys := { s.sys with insts := s.sys.dropInst l g k ++ [{ launch := l, group := g, inst := k, switch := some w }] } })

/-! ### Messages (R322 to R326) -/

/-- A message's target word and data register, taken, with room in what is written (R37, R322). -/
def Sys2Proof.Claims.TakesMsg (s : State) (a b : GReg) (ds : List GReg) (w : Word) (v : Opd 512) : Prop := msgTake b a ds s = .ok (w, v) ∧ s.targetOk s.d w = .ok ()

/-- Part of O39. Sending (R107, R322, R325). A MSG that the target word's checks let pass goes nowhere where its guard slot is false, is handed over at once where it is
pending, and otherwise stalls its desk until it has arrived; MSG.nb gives 1 where it is placed, 0 where the queue is full or an earlier message of the sender to that
queue is under way, 2 where its context is not there. A second MSG of a desk waits. -/
def Sys2Proof.Claims.MessageSend : Prop :=
  (∀ k b a s w v, s.Issues → TakesMsg s a b [] w v → s.waiting (s.ownerOf s.core s.desk) = false → s.released = .ok () → s.pastFences [.s] = .ok () →
    let x : NetMsg := { owner := s.ownerOf s.core s.desk, target := w, msg := ⟨targetCtx w, v.val, v.bad⟩, bind := boundBy s.d k, waits := none }
    (s.d.slot k = .no → exec (.msg k b a) s = .next (s.setD v.d).retire) ∧
    (s.d.slot k = .pending → exec (.msg k b a) s = .next (({ s with sys := { s.sys with net := s.sys.net ++ [x] } }).setD v.d).retire) ∧
    (s.d.slot k = .yes → exec (.msg k b a) s = .next (({ s with sys := { s.sys with net := s.sys.net ++ [{ x with waits := some (a, b) }] } }).hold (.msg w)))) ∧
  (∀ b a d s w v, s.Issues → TakesMsg s a b [d] w v → s.released = .ok () → s.pastFences [.s] = .ok () → targetDevice w = s.device →
    let o := s.ownerOf s.core s.desk
    let m : Msg := ⟨targetCtx w, v.val, v.bad⟩
    (s.sys.net.any (·.ahead o w) = true → exec (.msgNb b a d) s = .next (s.setD (({ v.d with wait := s.d.wait } : Desk).pushG d 0 false)).retire) ∧
    (∀ f u, s.sys.net.any (·.ahead o w) = false → s.arrive w m = (f, u) →
      exec (.msgNb b a d) s = .next (u.setD (({ v.d with wait := u.d.wait } : Desk).pushG d (match f with | .taken => 1 | .full => 0 | .refused => 2) false)).retire)) ∧
  (∀ k b a s w v, s.Issues → msgTake b a [] s = .ok (w, v) → s.waiting (s.ownerOf s.core s.desk) = true → exec (.msg k b a) s = .next (s.hold (.msg w)))

/-- Part of O39. Arrival and receipt (R322, R323, R324). A message whose context is resident enters its queue while that holds fewer than 16, and its sender's MSG then
retires; a full queue holds it; one for a context that is not there traps its waiting desk with 0x143; a context whose desk has ended its part is there until the share
ends. MRECV takes the oldest message of its own context, and waits off the core for one; MPEEK counts them. A MSG stalled past the watchdog traps with 0x145. -/
def Sys2Proof.Claims.MessageReceipt : Prop :=
  (∀ (s : State) (w : Word) (m : Msg), (s.coreAt (targetCore w)).resident m.ctx = true → (s.coreAt (targetCore w)).mail = [] → let c := s.coreAt (targetCore w)
    ((c.queue (targetQueue w)).length < 16 → (∃ u, s.arrive w m = (.taken, u) ∧ u.mem = s.mem ∧ (u.coreAt (targetCore w)).queue (targetQueue w) = c.queue (targetQueue w) ++ [m]) ∧
      ((∀ j : DeskId, (c.at j).wait ≠ some .mrecv) → s.arrive w m = (.taken, s.setCoreAt (targetCore w) (c.put1 (targetQueue w) m)))) ∧
    (16 ≤ (c.queue (targetQueue w)).length → s.arrive w m = (.full, s))) ∧
  (∀ (s : State) (w : Word) (m : Msg), (s.coreAt (targetCore w)).resident m.ctx = false → (∀ a ∈ s.sys.away, a.core = targetCore w → a.ctx ≠ m.ctx) → s.arrive w m = (.refused, s)) ∧
  (∀ (c : Core) (i : DeskId) (j : DeskId), j ≠ i → (c.at j).occ = true → (c.at j).launch = (c.at i).launch → (c.at i).launch ≠ none → (c.endDesk i).resident (c.at i).ctxid = true) ∧
  (∀ i s x, s.sys.net[i]? = some x → (∀ y ∈ s.sys.net.take i, y.ahead x.owner x.target = false) → targetDevice x.target = s.device →
    let gone (u : State) : State := { u with sys := { u.sys with net := u.sys.net.eraseIdx i } }
    (x.bind = .no → exec (.messageArrival i) s = .next (gone s)) ∧
    (∀ u, x.bind = .yes → s.arrive x.target x.msg = (.taken, u) → x.waits = none → exec (.messageArrival i) s = .next (gone u)) ∧
    (∀ u a b y z, x.bind = .yes → s.arrive x.target x.msg = (.taken, u) → x.waits = some (a, b) → let u' := { gone u with core := x.owner.core, desk := x.owner.desk }
      u'.d.popG a = .ok y → y.d.popV b = .ok z → exec (.messageArrival i) s = .next (u'.setD z.d).retire) ∧
    (x.bind = .yes → s.arrive x.target x.msg = (.full, s) → exec (.messageArrival i) s = .next s) ∧
    (∀ r, x.bind = .yes → s.arrive x.target x.msg = (.refused, s) → x.waits = some r → exec (.messageArrival i) s = .next ((gone s).trapAt x.owner.core x.owner.desk 0x143 x.target))) ∧
  (∀ c i s w, (s.deskAt c i).wait = some (.msg w) →
    exec (.msgWatchdog c i) s = .next (({ s with sys := { s.sys with net := s.sys.net.filter (fun x => !(x.owner.same (s.ownerOf c i) && x.waits.isSome)) } }).trapAt c i 0x145 w)) ∧
  (∀ q d s, s.Issues → s.d.limV d = .ok () → s.d.roomV d = .ok () →
    (∀ pre m post, s.c.queue q = pre ++ m :: post → (∀ y ∈ pre, y.ctx ≠ s.d.ctxid) → m.ctx = s.d.ctxid →
      exec (.mrecv q d) s = .next (s.setC (((s.c.setQueue q (pre ++ post)).put s.desk (s.d.pushV d m.data m.poison)).repour)).retire) ∧
    ((∀ y ∈ s.c.queue q, y.ctx ≠ s.d.ctxid) → exec (.mrecv q d) s = .next (s.hold .mrecv).switchDesk)) ∧
  (∀ q d s, s.Issues → s.d.limG d = .ok () → s.d.roomG d = .ok () →
    exec (.mpeek q d) s = .next (s.setD (s.d.pushG d (BitVec.ofNat 64 ((s.c.queue q).countP (fun m => m.ctx = s.d.ctxid))) false)).retire)
/-- O39. Messages are checked, accepted in order, received and timed out. Where the spec leaves a point open it rests on the model's own choice: log 6, 60. -/
def Obligations.MessageResult : Prop := MessageSend ∧ MessageReceipt


/-! ### Tasks (R341 to R346) -/

/-- Part of O40. The task instructions complete (R341, R342, R343, R345). SHARE gives the share's index and the superstep's share count; LAUNCH of a queue that no host feeds
gives all ones and writes nothing where the queue is full, and otherwise puts its record's 256 bytes at the ring's place for the tail, adds 1 to TAILCNT and gives the
tail that it found; SPAWN makes a child with its parent's priority and gives the number of earlier ones, all ones at 64; ESIGNAL 0 asks for the stage's end, and ESIGNAL 1
fails the launch with 0x1B0 plus its code. What they refuse traps with 0x180 or 0x185. -/
def Sys2Proof.Claims.TaskOps : Prop :=
  (∀ d s, s.Issues → s.d.pairOk d 2 = .ok () → s.d.limsG [d, d + 1] = .ok () →
    exec (.share d) s = .next (s.setD ((s.d.setG d (s.d.shareIx.setWidth 64) false).setG (d + 1) (s.d.shareCt.setWidth 64) false)).retire) ∧
  (∀ b a d s t q s1 bs y s2 tail s3 head, s.Issues → s.d.take 0 [a, b] [d] 2 = .ok t → (t.x 1).toNat ≤ 15 → let s0 := s.loadQueues s.d.part
    tget? (s0.partAt s0.d.part).queues (t.x 1).toNat = some q → q.hostfed = false → s0.takeRecord (t.x 0) = .ok (s1, bs, y) → s1.hwWord s1.d.part q.tail = .ok (s2, tail) → s2.hwWord s1.d.part q.head = .ok (s3, head) →
    (2 ^ q.log2 ≤ (tail - head).toNat → exec (.launch b a d) s = .next (s3.setD (t.d.pushG d (BitVec.allOnes 64) false)).retire) ∧
    ((tail - head).toNat < 2 ^ q.log2 → let s4 := s3.hwWrite s1.d.part (q.ring + BitVec.ofNat 64 (256 * (tail.toNat % 2 ^ q.log2))) bs
      exec (.launch b a d) s = .next ((s4.counterAdd (s4.hwWho s1.d.part) q.tail 1).setD (t.d.pushG d tail false)).retire)) ∧
  (∀ b a d s t, s.Issues → s.d.take 0 [a, b] [d] 2 = .ok t → 16 ≤ (t.x 1).toNat → exec (.launch b a d) s = .next (s.traps 0x180 (t.x 0) 0)) ∧
  (∀ a d s t s1 bs y l, s.Issues → s.d.take 0 [a] [d] 1 = .ok t → s.takeRecord (t.x 0) = .ok (s1, bs, y) → s1.d.launch = some l →
    (64 ≤ (s1.childrenOf l).length → exec (.spawn a d) s = .next (s1.setD (t.d.pushG d (BitVec.allOnes 64) false)).retire) ∧
    ((s1.childrenOf l).length < 64 → exec (.spawn a d) s = .next ((((s1.setLaunch s1.launches.length { y with parent := some l, prio := (s1.launchAt l).prio }).setLaunch l
      { s1.launchAt l with spawned := (s1.launchAt l).spawned + 1 }).setD (t.d.pushG d (BitVec.ofNat 64 (s1.launchAt l).spawned) false)).retire))) ∧
  (∀ b a s t, s.Issues → s.d.take 0 [a, b] [] 2 = .ok t →
    (∀ l, t.x 0 = 0 → t.x 1 = 0 → (s.setD t.d).d.launch = some l → exec (.esignal b a) s = .next ((s.setD t.d).setStage l (s.setD t.d).d.stage.toNat
      { (s.setD t.d).stageOf l (s.setD t.d).d.stage.toNat with endReq := true }).retire) ∧
    (∀ l, t.x 0 = 1 → (t.x 1).toNat ≤ 15 → s.d.launch = some l → exec (.esignal b a) s = .next (s.failLaunch l
      { cause := BitVec.ofNat 9 (0x1B0 + (t.x 1).toNat), stage := s.d.stage.toNat, core := s.core.toNat, sscnt := s.d.sscnt, xval := t.x 1, xpc := s.d.pc })) ∧
    (2 ≤ (t.x 0).toNat → exec (.esignal b a) s = .next (s.traps 0x185 (t.x 0) 0)))

/-- Part of O40. The stage queues complete (R346). SQPUT writes 64 bytes of the scratchpad at the tail of the next stage's queue and gives 1, or gives 0 where it is full;
SQGET reads the item at the head of its own stage's queue and gives 1, or gives 0, or 2 once the stage before has ended; SQLEN gives the items that a queue holds. A stage
without that queue traps with 0x182. -/
def Sys2Proof.Claims.StageQueues : Prop :=
  (∀ a d s t l i st, s.Issues → s.d.take 0 [a] [d] 1 = .ok t → s.stageQueue true = .ok (l, i, st) → (t.x 0).toNat % 64 = 0 → s.d.inside (t.x 0).toNat 64 = true →
    (2 ^ st.qlog2 ≤ (st.qtail - st.qhead).toNat → exec (.sqput a d) s = .next (s.setD (t.d.pushG d 0 false)).retire) ∧
    (∀ s1 ps, (st.qtail - st.qhead).toNat < 2 ^ st.qlog2 → s.released = .ok () →
      let va := st.qbase + BitVec.ofNat 64 (64 * (st.qtail.toNat % 2 ^ st.qlog2))
      s.access (s.who s.d) va 64 accWrite = .ok (s1, ps) → s1.homeClear ps = .ok () →
      let s2 := (s1.writeHome s1.d.part va ps false (s1.c.padBad (t.x 0).toNat 64) (s1.c.padRead (t.x 0).toNat 64)).l1Drop s1.core ps
      exec (.sqput a d) s = .next ((s2.setStage l i { st with qtail := st.qtail + 1 }).setD (t.d.pushG d 1 false)).retire)) ∧
  (∀ a d s t l i st, s.Issues → s.d.take 0 [a] [d] 1 = .ok t → s.stageQueue false = .ok (l, i, st) → (t.x 0).toNat % 64 = 0 → s.d.inside (t.x 0).toNat 64 = true →
    (st.qtail = st.qhead → exec (.sqget a d) s = .next (s.setD (t.d.pushG d (if (s.stageOf l (i - 1)).ended then 2 else 0) false)).retire) ∧
    (∀ s1 ps s2 bs bad, st.qtail ≠ st.qhead →
      let va := st.qbase + BitVec.ofNat 64 (64 * (st.qhead.toNat % 2 ^ st.qlog2))
      s.access (s.who s.d) va 64 accRead = .ok (s1, ps) → s1.homeClear ps = .ok () → s1.readMac s1.d.part va ps false accRead = .ok (s2, bs, bad) →
      let s3 := (s2.setStage l i { st with qhead := st.qhead + 1 }).setD (t.d.pushG d 1 false)
      exec (.sqget a d) s = .next ((s3.setC (s3.c.padWrite (t.x 0).toNat bs bad)).bumpL1 s3.core).retire)) ∧
  (∀ x d s l i st, s.Issues → s.d.limG d = .ok () → s.d.roomG d = .ok () → s.stageQueue (x == 1) = .ok (l, i, st) →
    exec (.sqlen x d) s = .next (s.setD (s.d.pushG d (BitVec.ofNat 64 (st.qtail - st.qhead).toNat) false)).retire) ∧
  (∀ x d s, s.Issues → s.d.limG d = .ok () → s.d.roomG d = .ok () → (s.d.launch = none ∨ (x = 0 ∧ s.d.stage = 0) ∨ (x = 1 ∧ s.myStages.length ≤ s.d.stage.toNat + 1)) →
    exec (.sqlen x d) s = .next (s.traps 0x182 (s.d.stage.setWidth 64) 0))
/-- O40. SHARE, ESIGNAL, SPAWN, LAUNCH and the stage queues. Where the spec leaves a point open it rests on the model's own choice: log 69, 71. -/
def Obligations.TaskResult : Prop := TaskOps ∧ StageQueues


/-! ### System registers, traps and contexts (R352 to R363, R366 to R370, R384 to R390) -/

/-- The registers that MFS reads, by number (R363, R384 to R390), with what each gives. -/
def Sys2Proof.Claims.sysRead : List (Nat × (State → Word)) :=
  [(0x000, fun s => s.d.xcause.setWidth 64), (0x001, fun s => s.d.xval), (0x002, fun s => s.d.xpc.setWidth 64), (0x003, fun s => s.d.xstat.setWidth 64),
   (0x004, fun s => s.d.xvec.setWidth 64), (0x005, fun s => s.d.xscr), (0x010, fun s => s.d.fflags.setWidth 64), (0x011, fun s => s.d.frm.setWidth 64),
   (0x012, fun s => s.d.srseed), (0x020, fun s => s.core.setWidth 64), (0x021, fun s => s.desk.setWidth 64), (0x022, fun s => s.d.ctxid.setWidth 64),
   (0x023, fun s => s.d.part.setWidth 64), (0x024, fun s => s.d.sscnt), (0x025, fun s => s.d.shareIx.setWidth 64), (0x026, fun s => s.d.shareCt.setWidth 64),
   (0x027, fun s => s.d.stage.setWidth 64), (0x028, fun s => flag s.d.exch), (0x029, fun s => s.d.cntbase), (0x030, fun s => (s.l1Gen s.core).setWidth 64),
   (0x031, fun s => s.d.vprog), (0x040, fun s => s.d.bb.buf.extractLsb' 0 64), (0x041, fun s => s.d.bb.buf.extractLsb' 64 64),
   (0x042, fun s => BitVec.ofNat 64 (256 * s.d.bb.mode.toNat + s.d.bb.count.toNat)), (0x043, fun s => s.d.bb.ptr.setWidth 64), (0x044, fun s => s.d.bb.stop.setWidth 64),
   (0x050, fun s => s.d.lc[0].count.setWidth 64), (0x051, fun s => s.d.lc[1].count.setWidth 64), (0x070, fun s => s.d.icnt)] ++
  [(0x100, fun s => s.d.svec.setWidth 64), (0x101, fun s => s.d.sscr), (0x108, fun s => s.d.ucause.setWidth 64), (0x109, fun s => s.d.uval), (0x10A, fun s => s.d.upc.setWidth 64),
   (0x10B, fun s => s.d.ustat.setWidth 64), (0x110, fun s => s.d.rtreq.setWidth 64), (0x180, fun s => (s.partAt s.d.part).ptroot), (0x181, fun s => (s.partAt s.d.part).sptroot),
   (0x182, fun s => s.d.tfinfo.setWidth 64), (0x191, fun s => s.d.bp[0].setWidth 64), (0x192, fun s => s.d.bp[1].setWidth 64), (0x193, fun s => s.d.bp[2].setWidth 64),
   (0x194, fun s => s.d.bp[3].setWidth 64), (0x195, fun s => s.d.stepcnt), (0x1A0, fun s => (s.partAt s.d.part).rcctl.setWidth 64), (0x1A1, fun s => (s.partAt s.d.part).rcring),
   (0x1A2, fun s => (s.partAt s.d.part).rcseq), (0x1A8, fun s => (s.partAt s.d.part).ckctl.setWidth 64), (0x1A9, fun s => (s.partAt s.d.part).ckarea),
   (0x1B0, fun s => (s.partAt s.d.part).monsel.setWidth 64)]
/-- A write of the desk. -/
def Sys2Proof.Claims.onD (f : Desk → Word → Desk) : State → Word → State := fun s x => s.setD (f s.d x)
/-- A write of its partition. -/
def Sys2Proof.Claims.onP (f : Partition → Word → Partition) : State → Word → State := fun s x => s.setPart s.d.part (f (s.partAt s.d.part) x)
/-- What a write of each register does (R3, R55, R59, R61, R95, R138, R234, R357, R361, R385 to R389): a read-only one ignores it, and so do fields that read zero. -/
def Sys2Proof.Claims.sysWrite : List (Nat × (State → Word → State)) :=
  ([0x000, 0x001, 0x003, 0x020, 0x021, 0x022, 0x023, 0x024, 0x025, 0x026, 0x027, 0x028, 0x029, 0x030, 0x060, 0x070, 0x182, 0x1A2, 0x1B1].map (fun n => (n, fun s _ => s))) ++
  [(0x002, onD (fun d x => { d with xpc := x.setWidth 57 })), (0x004, onD (fun d x => { d with xvec := x.setWidth 57 &&& ~~~1 })), (0x005, onD (fun d x => { d with xscr := x })),
   (0x010, onD (fun d x => { d with fflags := x.setWidth 6 })),
   (0x011, onD (fun d x => { d with frm := if x.toNat % 8 ≤ 4 then x.setWidth 4 else (x.setWidth 4 &&& 8) ||| (d.frm &&& 7) })),
   (0x012, onD (fun d x => { d with srseed := if x = 0 then 1 else x })), (0x031, onD (fun d x => { d with vprog := x &&& 15 })),
   (0x042, onD (fun d x => { d with bb := { d.bb with mode := x.extractLsb' 8 2, count := x.setWidth 8 } })), (0x043, onD (fun d x => { d with bb := { d.bb with ptr := x.setWidth 19 } })),
   (0x044, onD (fun d x => { d with bb := { d.bb with stop := x.setWidth 19 } })), (0x050, onD (fun d x => { d with lc := d.lc.set 0 { d.lc[0] with count := x.setWidth 32 } })),
   (0x051, onD (fun d x => { d with lc := d.lc.set 1 { d.lc[1] with count := x.setWidth 32 } })), (0x100, onD (fun d x => { d with svec := x.setWidth 57 &&& ~~~1 })),
   (0x101, onD (fun d x => { d with sscr := x })), (0x108, onD (fun d x => { d with ucause := x.setWidth 9 })), (0x109, onD (fun d x => { d with uval := x })),
   (0x10A, onD (fun d x => { d with upc := x.setWidth 57 })), (0x10B, onD (fun d x => { d with ustat := x.setWidth 13 &&& 0x1F03 })), (0x110, onD (fun d x => { d with rtreq := d.rtreq &&& ~~~(x.setWidth 16) }))] ++
  [(0x180, onP (fun p x => { p with ptroot := x &&& 0x000FFFFFFFFFF001 })), (0x181, onP (fun p x => { p with sptroot := x &&& 0x000FFFFFFFFFF001 })),
   (0x191, onD (fun d x => { d with bp := d.bp.set 0 (x.setWidth 57) })), (0x192, onD (fun d x => { d with bp := d.bp.set 1 (x.setWidth 57) })),
   (0x193, onD (fun d x => { d with bp := d.bp.set 2 (x.setWidth 57) })), (0x194, onD (fun d x => { d with bp := d.bp.set 3 (x.setWidth 57) })),
   (0x195, onD (fun d x => { d with stepcnt := x, parked := false })),
   (0x1A0, onP (fun p x => { p with rcctl := if x.toNat % 32 = 0 ∨ (10 ≤ x.toNat % 32 ∧ x.toNat % 32 ≤ 24) then x.setWidth 5 else p.rcctl })),
   (0x1A1, onP (fun p x => { p with rcring := x &&& 0x01FFFFFFFFFFF03F })), (0x1A8, onP (fun p x => { p with ckctl := x.setWidth 6 })), (0x1A9, onP (fun p x => { p with ckarea := x })),
   (0x1B0, onP (fun p x => { p with monsel := x.setWidth 10 }))]
/-- The instructions that read a system register: its number and the destination. -/
def Sys2Proof.Claims.mfsForm : Instr → Option (BitVec 12 × GReg)
  | .mfs r d => some (r, d)
  | .mondataRead d => some (0x1B1, d)
  | _ => none
/-- The instructions that write one: its number and the source. -/
def Sys2Proof.Claims.mtsForm : Instr → Option (BitVec 12 × GReg)
  | .mts r a => some (r, a)
  | .frmWrite a => some (0x011, a)
  | .fflagsWrite a => some (0x010, a)
  | .srseedWrite a => some (0x012, a)
  | .lcWrite n a => some (0x050 + n.setWidth 12, a)
  | .vprogWrite a => some (0x031, a)
  | .bitBufferWrite r a => some (0x040 + BitVec.ofNat 12 (min 4 r.toNat), a)
  | .rtreqWrite a => some (0x110, a)
  | .monctlWrite n a => some (0x1C0 + n.setWidth 12, a)
  | .rcctlWrite a => some (0x1A0, a)
  | .ckctlWrite a => some (0x1A8, a)
  | .stepcntWrite a => some (0x195, a)
  | _ => none
/-- A register's number is assigned (R363, R390). -/
def Sys2Proof.Claims.assigned (r : BitVec 12) : Prop := r.toNat ∈ sysRead.map Prod.fst ∨ r = 0x060 ∨ r = 0x1B1 ∨ (0x1C0 ≤ r.toNat ∧ r.toNat ≤ 0x1DF)

/-- O41. The system registers (R55, R59, R61, R95, R138, R234, R357, R361, R362, R363, R385, R390). A read gives the register; one of SRSEED waits for the desk's stochastic
MOUTs. A write changes what the register's fields take and nothing else (PTROOT and SPTROOT are one pair for the partition: log 23, DEDUCED), and writing MONCTL with EN
clears its monitor; MONDATA and MONCTL find every event of the partition so far taken into its monitors. In user mode a privileged number traps with 0x003, and a number
that is not assigned with 0x001. Where the spec leaves a point open it rests on the model's own choice: log 23, 84, 96. -/
def Obligations.SystemRegisters : Prop :=
  (∀ i r d, mfsForm i = some (r, d) → ∀ s, s.Issues → (s.d.user = true → r.toNat < 0x100) → s.d.limG d = .ok () → s.d.roomG d = .ok () → (r = 0x012 → s.c.mx.srPending s.desk = false) →
    (∀ f, (r.toNat, f) ∈ sysRead → exec i s = .next (s.setD (s.d.pushG d (f s) false)).retire) ∧
    (r = 0x060 → exec i s = .next (s.setD (s.d.pushG d (BitVec.ofNat 64 (256 * s.c.key.merge.length + ((List.range 4).map (fun n => if (s.c.key.handles.toList.getD n none).isSome then 2 ^ n else 0)).sum)) false)).retire) ∧
    (∀ n : BitVec 5, r = 0x1C0 + n.setWidth 12 → exec i s = .next (s.setD (s.d.pushG d ((s.partAt s.d.part).mons[n.toNat]).ctl false)).retire) ∧
    (r = 0x1B1 → let u := s.settle s.d.part
      exec i s = .next (u.setD (u.d.pushG d (((u.partAt u.d.part).mons[((u.partAt u.d.part).monsel.extractLsb' 0 5).toNat]).word ((u.partAt u.d.part).monsel.extractLsb' 5 5).toNat) false)).retire) ∧
    (¬ assigned r → exec i s = .next (s.traps 0x001 s.d.xword 0))) ∧
  (∀ i r a, mtsForm i = some (r, a) → ∀ s t, s.Issues → (s.d.user = true → r.toNat < 0x100) → s.d.take 0 [a] [] 1 = .ok t →
    (∀ f, (r.toNat, f) ∈ sysWrite → exec i s = .next (f (s.setD t.d) (t.x 0)).retire) ∧
    (r = 0x040 → exec i s = .next ((s.setD { t.d with bb := { t.d.bb with buf := (t.d.bb.buf >>> 64) <<< 64 ||| (t.x 0).setWidth 128 } }).retire)) ∧
    (r = 0x041 → exec i s = .next ((s.setD { t.d with bb := { t.d.bb with buf := (t.x 0).setWidth 128 <<< 64 ||| (t.d.bb.buf.setWidth 64).setWidth 128 } }).retire)) ∧
    (∀ n : BitVec 5, r = 0x1C0 + n.setWidth 12 → let p := (s.setD t.d).d.part
      let u := (s.setD t.d).settle p
      ∃ m : Monitor, m.ctl = t.x 0 &&& 0x1FFF1F ∧ ((t.x 0).getLsbD 0 = true → m = { ctl := m.ctl, last := Config.clkAt s.tick / 2 ^ 16 }) ∧
        ((t.x 0).getLsbD 0 = false → m = { (u.partAt p).mons[n.toNat] with ctl := m.ctl }) ∧
        exec i s = .next ((u.setPart p { u.partAt p with mons := (u.partAt p).mons.set n.toNat m }).rewatch).retire) ∧
    (¬ assigned r → exec i s = .next (s.traps 0x001 s.d.xword 0))) ∧
  (∀ i r d, (mfsForm i = some (r, d) ∨ mtsForm i = some (r, d)) → ∀ s, s.Issues → s.d.user = true → 0x100 ≤ r.toNat → exec i s = .next (s.traps 0x003 s.d.xword 0))

/-- O42. Trap entry (R352, R353). A desk in user mode takes a synchronous software cause into its own handler where it has one and none is active; every other trap switches
it to supervisor mode at SVEC, with the cause, the value and the address saved, and the state of an interrupted user handler put aside. XSTAT takes the access kind of a
memory fault, and for an instruction whether it is 2 bytes long and whether it is a dictionary reference (R357). Its registers stay as they are, and nothing but the desk
changes. Where the spec leaves a point open it rests on the model's own choice: log 19. -/
def Obligations.TrapEntry : Prop :=
  ∀ (s : State) (c : Cause) (x : Word) (acc : BitVec 2) (tf : Option (BitVec 9)) (asy : Bool), s.d.user = true → s.d.gen = none → ∃ d, s.takeTrap c x acc tf asy = s.setD d ∧ d.xcause = c ∧ d.xval = x ∧ d.xpc = s.d.pc.setWidth 57 ∧ d.gu = s.d.gu ∧ d.gs = s.d.gs ∧
    d.v = s.d.v ∧ d.p = s.d.p ∧ d.k = s.d.k ∧ d.q = s.d.q ∧ d.vq = s.d.vq ∧ d.tfinfo = tf.getD s.d.tfinfo ∧
    d.xstat.getLsbD 0 = (!asy && s.d.dict) ∧ d.xstat.getLsbD 1 = (!asy && s.d.len == 2) ∧ d.xstat.extractLsb' 2 6 = 0 ∧ d.xstat.extractLsb' 11 2 = (if 0x040 ≤ c.toNat ∧ c.toNat < 0x080 then acc else 0) ∧
    (0x1F0 ≤ c.toNat ∧ s.d.xvec ≠ 0 ∧ s.d.xstat.getLsbD 8 = false ∧ asy = false →
      d.user = true ∧ d.pc = s.d.xvec.setWidth 64 ∧ d.xstat.getLsbD 8 = true ∧ (d.ucause, d.uval, d.upc, d.ustat) = (s.d.ucause, s.d.uval, s.d.upc, s.d.ustat)) ∧
    (¬ (0x1F0 ≤ c.toNat ∧ s.d.xvec ≠ 0 ∧ s.d.xstat.getLsbD 8 = false ∧ asy = false) →
      d.user = false ∧ d.pc = s.d.svec.setWidth 64 ∧ d.xstat.getLsbD 8 = false ∧ d.xstat.getLsbD 9 = s.d.xstat.getLsbD 8 ∧ d.xstat.getLsbD 10 = asy ∧
      (s.d.xstat.getLsbD 8 = true → (d.ucause, d.uval, d.upc, d.ustat) = (s.d.xcause, s.d.xval, s.d.xpc, s.d.xstat)) ∧
      (s.d.xstat.getLsbD 8 = false → (d.ucause, d.uval, d.upc, d.ustat) = (s.d.ucause, s.d.uval, s.d.upc, s.d.ustat)))

/-- O43. A double trap (R355): the desk stops issuing, its launch fails with 0x1C5, the cause raised and its instruction, the management controller logs it, and no context is
saved. -/
def Obligations.DoubleTrap : Prop :=
  ∀ (s : State) (c : Cause) (x : Word) (acc : BitVec 2) (tf : Option (BitVec 9)) (asy : Bool) (l : Nat), s.d.user = false → s.d.gen = none →
    let t := s.takeTrap c x acc tf asy
    let u := s.setD { s.d with tfinfo := tf.getD s.d.tfinfo, grant := 0, walk := none, seen := [], stopped := true, wait := none }
    ((s.d.launch = some l ∨ (s.d.launch = none ∧ s.c.work.launch = some l)) → (s.launchAt l).status = .running →
      t = u.failLaunch l { cause := 0x1C5, stage := s.d.stage.toNat, core := s.core.toNat, sscnt := s.d.sscnt, xval := c.setWidth 64, xpc := s.d.pc } ∧
      (t.deskAt s.core s.desk).ready = false ∧ (t.launchAt l).status = .failed ∧ (t.launchAt l).cause = 0x1C5 ∧ (∀ y ∈ t.sys.saved, y ∈ s.sys.saved) ∧
      ∃ e ∈ t.sys.log, e.kind = .doubleTrap ∧ e.cause = 0x1C5 ∧ e.xval = c.setWidth 64 ∧ e.xpc = s.d.pc) ∧
    (s.d.launch = none → s.c.work.launch = none → (t.deskAt s.core s.desk).ready = false ∧ t.launches = s.launches ∧
      ∃ e ∈ t.sys.log, e.kind = .doubleTrap ∧ e.cause = 0x1C5 ∧ e.xval = c.setWidth 64 ∧ e.xpc = s.d.pc)

/-- O44. TRAP, the returns, IDLE and the traps at a boundary (R15, R16, R356, R359, R360, R361). TRAP n traps with 0x1F0 + n and its operand. XRET goes to the saved address,
past the trapping instruction where SKIP asks for it and the trap was none at a boundary; from a user handler it clears UH, and from supervisor mode it goes to user mode
and gives back an interrupted handler's registers; in user mode it records the stop of a breakpoint at it (R387); user mode without a handler traps with 0x003, an odd
address with 0x005. IDLE waits off the core for RTREQ or its time; the oldest report of a desk is taken at its boundary. Where the spec leaves a point open it rests on
the model's own choice: log 128. -/
def Obligations.TrapReturn : Prop :=
  (∀ n a s t, s.Issues → s.d.take 0 [a] [] 1 = .ok t → exec (.trap n a) s = .next (s.traps (BitVec.ofNat 9 (0x1F0 + n.toNat)) (t.x 0) 0)) ∧
  (∀ i skip, ((i = .xret ∧ skip = false) ∨ (i = .xretSkip ∧ skip = true)) → ∀ s, s.d.gen = none →
    let d := s.d
    let t : Word := d.xpc.setWidth 64 + (if skip && !d.xstat.getLsbD 10 then (if d.xstat.getLsbD 1 then 2 else 4) else 0)
    (d.user = true → d.xstat.getLsbD 8 = false → exec i s = .next (s.traps 0x003 d.xword 0)) ∧
    ((d.user = false ∨ d.xstat.getLsbD 8 = true) → t.toNat % 2 = 1 → exec i s = .next (s.stopWith (.trap 0x005 t))) ∧
    (d.user = true → d.xstat.getLsbD 8 = true → t.toNat % 2 = 0 → ∃ e, exec i s = .next ((s.setD e).breakAt d) ∧ e.pc = t ∧ e.user = true ∧ e.xstat = d.xstat &&& ~~~0x100 ∧ e.gu = d.gu ∧ e.gs = d.gs ∧
      (e.xcause, e.xval, e.xpc) = (d.xcause, d.xval, d.xpc) ∧ e.icnt = d.icnt + 1) ∧
    (d.user = false → t.toNat % 2 = 0 → ∃ u, exec i s = .next u ∧ u.mem = s.mem ∧ ∃ e, (u.coreAt s.core).at s.desk = e ∧ e.pc = t ∧ e.user = true ∧
      e.gu = d.gu ∧ e.gs = d.gs ∧ e.icnt = d.icnt ∧
      (e.xcause, e.xval, e.xpc, e.xstat) = (if d.xstat.getLsbD 9 then (d.ucause, d.uval, d.upc, d.ustat) else (d.xcause, d.xval, d.xpc, d.xstat)))) ∧
  (∀ a s t, s.d.gen = none → s.d.user = false → s.d.take 0 [a] [] 1 = .ok t →
    (s.d.rtreq ≠ 0 → exec (.idle a) s = .next (s.setD t.d).retire) ∧
    (s.d.rtreq = 0 → exec (.idle a) s = .next ((s.setD { t.d with idleUntil := if t.x 0 = 0 then 0 else Config.clkAt s.tick + (t.x 0).toNat }).hold .idle).switchDesk)) ∧
  (∀ a s, s.d.gen = none → s.d.user = true → exec (.idle a) s = .next (s.traps 0x003 s.d.xword 0)) ∧
  (∀ c i s, exec (.idleWake c i) s = .next (if (s.deskAt c i).wait = some .idle ∧ ((s.deskAt c i).rtreq ≠ 0 ∨ (s.deskAt c i).idleUntil ≠ 0 ∧ (s.deskAt c i).idleUntil ≤ Config.clkAt s.tick) then
    (s.setDeskAt c i (s.deskAt c i).retire).wakes (s.idle c) c i else s)) ∧
  (∀ c i s r rest, let s0 := { s with core := c, desk := i }
    s0.d.mayReport = true → s0.d.reports = r :: rest → exec (.asyncTrap c i) s = .next ((s0.setD { s0.d with reports := rest }).takeTrap r.cause r.xval r.acc r.tf true)) ∧
  (∀ c s j, let x := s.coreAt c
    ((x.at x.desk).ready = false) → x.nextReady x.desk = some j → exec (.deskResume c) s = .next (s.setCoreAt c { x with desk := j }))

/-- A privileged instruction of the SYS class (R359). -/
def Sys2Proof.Claims.privForm : Instr → Bool
  | .ctxsv _ _ | .ctxrs _ _ | .tlbinv _ _ | .roll _ | .ckpt => true
  | _ => false
/-- O45. The supervisor's instructions complete (R359, R366 to R370, R384, R386 to R388), and in user mode trap with 0x003. CTXSV brings the desks that it names to rest and
writes them to their area; CTXRS takes them from one; a control word or an area that they refuse traps with 0x1D0. TLBINV removes the translations that it names, of its
own partition, from every TLB and walk cache and from the walks under way, and the entries above them, once no command and no access under way holds one; ROLL asks for a
record and gives its number; CKPT asks for a checkpoint; BRKPT records a stop of a launch under debug. Where the spec leaves a point open it rests on the model's own
choice: log 75, 77, 82, 121. -/
def Obligations.SupervisorResult : Prop :=
  (∀ i, privForm i = true → ∀ s, s.Issues → s.d.user = true → exec i s = .next (s.traps 0x003 s.d.xword 0)) ∧
  (∀ b a s t, s.Issues → s.d.user = false → s.d.take 0 [a, b] [] 2 = .ok t →
    (s.saveRefused (t.x 1) (t.x 0) = true → exec (.ctxsv b a) s = .next (s.traps 0x1D0 (t.x 1) 0)) ∧
    (∀ s1 s2, s.saveRefused (t.x 1) (t.x 0) = false → (ctlShare (t.x 1) = true → s.isUrgent s.core = true → s.savePoint s.core = true) → (s.setD t.d).bringToRest s.core (t.x 1) = .ok s1 → s1.saveArea (s1.who s1.d) s1.core (some s1.desk) (t.x 1) (t.x 0) = .ok s2 →
      exec (.ctxsv b a) s = .next (if ctlShare (t.x 1) then (s2.afterSave s2.core s.c.work.slot (t.x 0)).retire else s2.retire))) ∧
  (∀ b a s t u, s.Issues → s.d.user = false → s.d.take 0 [a, b] [] 2 = .ok t → ctlOk (t.x 1) = true → (t.x 0).toNat % 64 = 0 → (ctlShare (t.x 1) = true → s.desk ∉ ctlDesks (t.x 1)) →
    (∀ i ∈ ctlDesks (t.x 1), (s.c.at i).free = true) → s.released = .ok () → (s.setD t.d).restoreArea (s.who s.d) s.core (t.x 1) (t.x 0) = .ok u →
    exec (.ctxrs b a) s = .next (if u.d.user then u else u.retire)) ∧
  (∀ b a s t, s.Issues → s.d.user = false → s.d.take 0 [a, b] [] 2 = .ok t → ctlOk (t.x 1) = false → exec (.ctxrs b a) s = .next (s.traps 0x1D0 (t.x 1) 0)) ∧
  (∀ b a s t, s.Issues → s.d.user = false → s.d.take 0 [a, b] [] 2 = .ok t → (t.x 1).toNat ≤ 2 → (t.x 1 = 0 → (t.x 0).toNat < 2 ^ 57) → s.released = .ok () →
    let gone (e : TlbEntry) : Bool := e.part = s.d.part && (if t.x 1 = 0 then decide (e.va ≤ (t.x 0).toNat ∧ (t.x 0).toNat < e.va + 2 ^ e.log2) else if t.x 1 = 1 then !pteBit e.pte 10 else true)
    let upper (e : WalkEntry) : Bool := e.part = s.d.part && (decide (t.x 1 ≠ 0) || (t.x 0).toNat / 2 ^ (12 + 9 * e.level) = e.va)
    (∀ e ∈ s.heldEntries, gone e = false) → (∀ r ∈ s.loadStoreRanges s.d.part, ∀ k ∈ s.mem.tlbs, ∀ e ∈ k.2, gone e = true → e.meets r.1 r.2 = false) →
    let u := s.setD t.d
    exec (.tlbinv b a) s = .next ({ u with
      mem := { s.mem with tlbs := s.mem.tlbs.map (fun (k : Nat × List TlbEntry) => (k.1, k.2.filter (fun e => !gone e))), walks := s.mem.walks.map (fun (k : Nat × List WalkEntry) => (k.1, k.2.filter (fun e => !upper e))) }
      cores := u.cores.map (fun (k : Nat × Core) => (k.1, { k.2 with desks := k.2.desks.map (fun (d : Desk) => if (d.walk.bind (·.found)).any gone then { d with walk := none } else d) })) }).retire) ∧
  (∀ d s, s.Issues → s.d.user = false → s.d.limG d = .ok () → s.d.roomG d = .ok () → let p := s.partAt s.d.part
    exec (.roll d) s = .next ((s.setPart s.d.part { p with rolls := p.rolls + 1 }).setD (s.d.pushG d (p.rcseq + BitVec.ofNat 64 p.rolls) false)).retire) ∧
  (∀ s, s.Issues → s.d.user = false → let p := s.partAt s.d.part
    exec .ckpt s = .next (s.setPart s.d.part { p with ckpts := p.ckpts + 1 }).retire) ∧
  (∀ b s, s.Issues → (∀ l, s.d.launch = some l → (s.launchAt l).debug = false) → exec (.brkpt b) s = .next s.retire) ∧
  (∀ b s l, s.Issues → s.d.launch = some l → (s.launchAt l).debug = true → (s.launchAt l).stop = none →
    exec (.brkpt b) s = .next (s.setLaunch l { s.launchAt l with stop := some ⟨0, b, [(s.d.stage.toNat, s.d.exch)], s.core, s.d.pc, 1, none, false⟩ }).retire) ∧
  (∀ b s l x, s.Issues → s.d.launch = some l → (s.launchAt l).debug = true → (s.launchAt l).stop = some x →
    exec (.brkpt b) s = .next (s.setLaunch l { s.launchAt l with stop := some { x with asked := x.asked ++ [(s.d.stage.toNat, s.d.exch)], merged := x.merged + 1 } }).retire)

/-- Where a stop is recorded as taken (R387): of the stages that asked, the first whose bell has been rung, or, for one that asked in exchange, whose exchange has ended; its SSCNT is the one of that moment. -/
def Sys2Proof.Claims.takenBy (s : State) (l : Nat) (x : DbgStop) (a : Nat × Word) : Prop :=
  x.at_ = some a ∨ (x.at_ = none ∧ ∃ pre y post, x.asked = pre ++ y :: post ∧ (∀ z ∈ pre, s.atPoint l z.1 z.2 = false) ∧ s.atPoint l y.1 y.2 = true ∧ a = (y.1, (s.stageOf l y.1).sscnt))
/-- The stages of a launch that stand at a point of theirs freeze. -/
def Sys2Proof.Claims.frozenAt (s : State) (l : Nat) : State :=
  ((List.range (s.launchAt l).stages.length).filter (s.stopPoint l)).foldl (fun (s : State) k => s.setStage l k { s.stageOf l k with held := true }) s

/-- O46. Debug, replay and profiling (R385 to R390). Attaching a session marks a launch; under a session a host stop request is one of every stage of the launch, in its
phase. A stop is taken where a stage that asked stands at its bell or at the end of its exchange; from then on stages freeze at their own points, and once all have, the
stop record is written at CKAREA; resuming clears both, and leaves a stop whose record is not written pending. A checkpoint that is due is written at CKAREA + 64 at the
start of compute: its header, the parts of the cores in rank order, each with CORENUM, rank, an empty tile table and the region's image, and the counter segment, each
under the partition's key where the partition is confidential; a replayed desk that has reached its count parks; a roll call writes the extra records that ROLL asked for,
and one for a partition whose period it completes; an event that no monitor has taken enters those that watch its source at its dies, and without one a monitor of a level
samples once a window. Where the spec leaves a point open it rests on the model's own choice: log 79, 80, 81, 83, 84. -/
def Obligations.DebugEvents : Prop :=
  (∀ l s, let y := s.launchAt l
    (y.status = .running → exec (.debugSessionAttach l) s = .next (s.setLaunch l { y with debug := true })) ∧
    (y.debug = true → y.status = .running → y.started = true → ∃ ks : List (Nat × Bool),
      (∀ z, z ∈ ks ↔ ∃ st, y.stages[z.1]? = some st ∧ st.begun = true ∧ st.ended = false ∧ z.2 = st.exch) ∧
      (y.stop = none → exec (.hostStopRequest l) s = .next (s.setLaunch l { y with stop := some ⟨2, 0, ks, BitVec.allOnes 10, 0, 1, none, false⟩ })) ∧
      (∀ x, y.stop = some x → exec (.hostStopRequest l) s = .next (s.setLaunch l { y with stop := some { x with asked := x.asked ++ ks, merged := x.merged + 1 } }))) ∧
    (y.debug = true → ∃ t, exec (.debugResume l) s = .next t ∧ (t.launchAt l).stop = y.stop.filter (fun x => !x.written) ∧ t.mem = s.mem ∧
      ((∀ x, y.stop = some x → x.written = true) → ∀ st ∈ (t.launchAt l).stages, st.held = false)) ∧
    (∀ x a, y.debug = true → y.status = .running → y.started = true → y.stop = some x → x.written = false → takenBy s l x a →
      let s1 := frozenAt s l
      let all := (s1.launchAt l).stages.all (fun st => st.held || st.ended || !st.begun)
      let s2 := s1.setLaunch l { s1.launchAt l with stop := some { x with at_ := some a, written := all } }
      exec (.debugStop l) s = .next (if all then s2.ckWrite y.part (s2.partAt y.part).ckarea
        (natLe a.2.toNat 8 ++ natLe a.1 8 ++ natLe (x.kind.toNat + 256 * x.n.toNat) 8 ++ natLe x.core.toNat 8 ++ natLe x.pc.toNat 8 ++ natLe x.merged 8 ++ natLe 0 16) false else s2))) ∧
  (∀ l k s, let y := s.launchAt l
    let st := s.stageOf l k
    let p := s.partAt y.part
    let n := st.far.1 + st.order.length + st.far.2
    s.live = true → s.stopped l k = false → st.begun = true → st.ended = false → s.ckDue l k = true →
    let s1 := s.ckWrite y.part (p.ckarea + 64) (natLe st.sscnt.toNat 8 ++ natLe k 8 ++ natLe n 8 ++ natLe st.shares.toNat 8 ++ natLe st.kern.ckPart 8 ++ List.replicate 24 0) false
    let s2 := s1.ckCores l k y.part (p.ckarea + 128) (st.order.zipIdx.map (fun x => (x.1, st.far.1 + x.2)))
    ∀ s3 seg, s2.hwRead y.part y.info.cntbase 32768 = .ok (s3, seg) →
      let s4 := s3.ckWrite y.part (p.ckarea + 128 + BitVec.ofNat 64 (st.order.length * st.kern.ckPart)) seg false
      let s5 := s4.setPart y.part { s4.partAt y.part with ckpts := (s4.partAt y.part).ckpts - 1 }
      exec (.checkpoint l k) s = .next (s5.setStage l k { s5.stageOf l k with ckDone := true })) ∧
  (∀ (s : State) l k p va c r t, let x := (s.coreAt c).firstRun s.tick c.toNat (s.launchAt l)
    let s1 := (s.setCoreAt c x).ckWrite p va (natLe c.toNat 8 ++ natLe r 8 ++ List.replicate 48 0 ++ List.replicate 512 0) false
    s.ckCores l k p va ((c, r) :: t) = (s1.ckImage p (va + 576) x x.work.base ((s.stageOf l k).kern.scratch / 64)).ckCores l k p (va + BitVec.ofNat 64 (s.stageOf l k).kern.ckPart) t) ∧
  (∀ (s : State) p va c base n, s.ckImage p va c base (n + 1) =
    ((s.ckImage p va c base n).ckWrite p (va + BitVec.ofNat 64 (64 * n)) (c.padRead (base + 64 * n) 64) (c.padBad (base + 64 * n) 64))) ∧
  (∀ (s : State) p va bs bad s1 ps, s.span (s.supWho p) va va accWrite (bs.length / 4096 + 2) bs.length = .ok (s1, ps) →
    s.ckWrite p va bs bad = s1.writeHome p va (if (s1.partAt p).conf then ps.map (fun x => { x with conf := true }) else ps) false bad bs) ∧
  (∀ c i s, (s.deskAt c i).stepDone = true → ∃ t, exec (.replayStop c i) s = .next t ∧ (t.deskAt c i).parked = true ∧ (t.deskAt c i).gu = (s.deskAt c i).gu) ∧
  (∀ s p x, s.parts = [(p, x)] → p < 2 ^ 14 → let clk := Config.clkAt s.tick
    let q := BitVec.ofNat 14 p
    let s1 := (List.range x.rolls).foldl (fun s _ => s.rollOne q clk) s
    let s2 := s1.setPart q { s1.partAt q with rolls := 0 }
    exec .rollCall s = .next (if clk % 1024 ≠ 0 then s else if x.rcctl ≠ 0 ∧ clk % 2 ^ x.rcctl.toNat = 0 then s2.rollOne q clk else s2)) ∧
  (∀ (s : State) (p : PartId) (clk : Nat), ((s.rollOne p clk).partAt p).rcseq = (s.partAt p).rcseq + 1) ∧
  (∀ p n v s src dies, s.mem.events.find? (fun e => e.1 == p.toNat) = some (p.toNat, src, dies) → ∃ q : Partition,
    exec (.monitorSample p n v) s = .next ({ s with mem := { s.mem with events := s.mem.events.erase (p.toNat, src, dies) } }.setPart p q) ∧
      ∀ i, (h : i < 32) → q.mons[i] = (let m := (s.partAt p).mons[i]
        if m.ctl.getLsbD 0 = true ∧ (m.ctl.extractLsb' 1 4).toNat = src ∧ (m.ctl.extractLsb' 8 8 = 0xFF ∨ (m.ctl.extractLsb' 8 8).toNat ∈ dies) then m.sample v else m)) ∧
  (∀ p n v s, let m := (s.partAt p).mons[n.toNat]
    (∀ e ∈ s.mem.events, e.1 ≠ p.toNat) → m.ctl.getLsbD 0 = true → 5 ≤ (m.ctl.extractLsb' 1 4).toNat → (m.ctl.extractLsb' 8 8 = 0xFF ∨ (m.ctl.extractLsb' 8 8).toNat < 4) →
    m.last ≠ Config.clkAt s.tick / 2 ^ 16 →
    exec (.monitorSample p n v) s = .next (s.setPart p { s.partAt p with mons := (s.partAt p).mons.set n.toNat { m.sample v with last := Config.clkAt s.tick / 2 ^ 16 } })) ∧
  (∀ (m : Monitor) (v : Word), m.ctl.getLsbD 0 = true → m.ctl.getLsbD 4 = false → m.count ≠ BitVec.allOnes 64 → (m.sample v).ctl = m.ctl ∧ (m.sample v).count = m.count + 1 ∧
    (m.count ≠ 0 → (m.sample v).min.toNat = min m.min.toNat v.toNat ∧ (m.sample v).max.toNat = max m.max.toNat v.toNat) ∧
    ∀ i, (h : i < 16) → (m.sample v).bins[i] = (if i = min 15 (Nat.log2 v.toNat - (m.ctl.extractLsb' 16 5).toNat) then m.bins[i] + 1 else m.bins[i]))

/-! ### The timetable (R22 to R28, R253 to R256, R329 to R347) -/

/-- O47. Launches begin and end (R329 to R334, R339, R347). LAUNCH_TAKE reads the record at a queue's head, counts it in HEADCNT and checks it; one whose TDI is not in RUN
fails with 0x1E1 and the TDI's number (R406), and so does every launch of the partition that waits to start; LAUNCH_START starts the launch chosen where its stages
receive their cores, and otherwise claims the cores that it lacks from launches of lower priority; a launch of a SPAN begins its stages once every device has started; one
whose stages have all ended, with nothing outstanding, ends done; a held trap, and a compute phase past HANGLIMIT, fail it; one of the same SPAN that ends so on another
device cancels it; an ended launch has its status and its cores given up. Where the spec leaves a point open it rests on the model's own choice: log 66, 67, 68, 70, 104,
126. -/
def Obligations.LaunchEvents : Prop :=
  (∀ p q s x s1 tail s2 head s3 bs, let s0 := s.loadQueues p
    s0.live = true → tget? (s0.partAt p).queues q.toNat = some x → x.cur = none → s0.hwWord p x.tail = .ok (s1, tail) → s1.hwWord p x.head = .ok (s2, head) → head.toNat < tail.toNat →
    let addr := x.ring + BitVec.ofNat 64 (256 * (head.toNat % 2 ^ x.log2))
    s2.hwRead p addr 256 = .ok (s3, bs) → let u := s3.counterAdd (s3.hwWho p) x.head 1
    (∀ t, u.tdiOf p = some t → u.tdi t ≠ .run → exec (.launchTake p q) s = .next (u.refuseRecord p q addr bs 0x1E1 (t.setWidth 64))) ∧
    ((∀ t, u.tdiOf p = some t → u.tdi t = .run) →
      (∀ line, u.checkRecord p addr bs = .error line → exec (.launchTake p q) s = .next ((u.spoilAt line).refuseRecord p q addr bs 0x180 addr)) ∧
      (∀ v y, u.checkRecord p addr bs = .ok (v, y) → exec (.launchTake p q) s =
        .next ((v.setLaunch v.launches.length { y with queue := some q }).setQ p q { x with cur := some v.launches.length })))) ∧
  (∀ p q info s t, s.live = true → s.tdiOf p = some t → s.tdi t ≠ .run →
    let ls := (s.launches.filter (fun y => y.2.part == p && !y.2.started && y.2.status == .running)).map (·.1)
    exec (.launchStart p q info) s = .next (ls.foldl (fun (s : State) l => (s.dropHead l).failLaunch l { cause := 0x1E1, xval := t.setWidth 64 }) s)) ∧
  (∀ p q info s l gs rest, s.live = true → (∀ t, s.tdiOf p = some t → s.tdi t = .run) → (s.partAt p).pre = none →
    let s2 := (s.waitingHeads p ++ s.waitingChildren p).foldl (fun s l => s.refresh l) s
    (s2.best p = none → exec (.launchStart p q info) s = .next s2) ∧
    (s2.best p = some l → ((s2.launchAt l).queue = none ∨ (s2.launchAt l).queue = some q) → infoOk (s2.launchAt l) info = true →
      giveMin (s2.launchAt l).stages ((s2.startCores p).1 ++ (s2.startCores p).2) = some (gs, rest) →
      exec (.launchStart p q info) s = .next (s2.startOn l info (giveMax (s2.launchAt l).stages gs ((s2.startCores p).1.filter (fun c => !(gs.flatMap id).contains c))))) ∧
    (s2.best p = some l → ((s2.launchAt l).queue = none ∨ (s2.launchAt l).queue = some q) → infoOk (s2.launchAt l) info = true →
      giveMin (s2.launchAt l).stages ((s2.startCores p).1 ++ (s2.startCores p).2) = none →
      let need := ((s2.launchAt l).stages.map (·.min)).sum - ((s2.startCores p).1 ++ (s2.startCores p).2).length
      let vs := s2.victims p (s2.effective l)
      let s3 := (vs.take need).foldl (fun (s : State) v => s.claimCore (s2.launchAt l).deadline v) s2
      exec (.launchStart p q info) s = .next (if need = 0 ∨ vs.length < need then s2 else s3.setPart p { s3.partAt p with pre := some (l, (vs.take need).map (·.2.2)) }))) ∧
  (∀ l s, let y := s.launchAt l
    s.live = true → y.status = .running → y.started = true → y.spanReady = false → y.spandev.toNat ≤ 1 → exec (.spanStart l) s = .next ((s.setLaunch l { y with spanReady := true }).beginStages l)) ∧
  (∀ l s, let y := s.launchAt l
    s.live = true → y.status = .running → y.started = true → y.stages ≠ [] → (∀ st ∈ y.stages, st.ended = true) → s.childrenOf l = [] → (∀ c ∈ s.allCards, c.owner.launch ≠ some l) →
    (∀ c ∈ s.sys.nm, c.owner.launch ≠ some l) → (∀ k < y.stages.length, s.stopDue l k true = false) → exec (.launchComplete l) s = .next (s.endLaunch l .done {})) ∧
  (∀ (s : State) (l : Nat) (st : LStatus) (o : Outcome64), (s.launchAt l).status = .running → ((s.endLaunch l st o).launchAt l).status = st ∧ ((s.endLaunch l st o).launchAt l).frozen = true ∧
    ∀ c, ((s.endLaunch l st o).coreAt c).work.launch ≠ some l) ∧
  (∀ l cause v pc c s d, s.trapped c l (fun d => d.xcause == cause && d.xval == v && d.xpc.setWidth 64 == pc) = some d → s.rerunnable c d = false →
    exec (.launchFail l cause v pc c) s = .next (s.failLaunch l { cause := cause, stage := d.stage.toNat, core := c.toNat, sscnt := d.sscnt, xval := v, xpc := pc })) ∧
  (∀ l cause pc c origin s, 2 ^ 57 ≤ pc.toNat → s.live = true → (s.launchAt l).status = .running → (s.launchAt l).span ≠ 0 → 1 < (s.launchAt l).spandev.toNat →
    exec (.launchFail l cause origin pc c) s = .next (s.cancelStart l cause origin)) ∧
  (∀ l k s, let y := s.launchAt l
    let st := s.stageOf l k
    s.live = true → s.stopped l k = false → y.hang ≠ 0 → st.begun = true → st.exch = false → st.ended = false →
    exec (.hangDetect l k) s = .next (if st.began + y.hang.toNat < Config.clkAt s.tick then s.failLaunch l { cause := 0x183, stage := k, core := 0x3FF, sscnt := st.sscnt, xval := st.sscnt } else s)) ∧
  (∀ l s cs, let y := s.launchAt l
    (s.partAt y.part).pre = some (l, cs) → ∃ t, exec (.deadlinePass l) s = .next t ∧ t.cores = s.cores ∧ t.mem = s.mem ∧
      t.launches = (if y.deadline ≠ 0 ∧ y.eligAt.getD 0 + y.deadline.toNat < Config.clkAt s.tick then
        s.launches.map (fun v => (v.1, if v.2.part = y.part then { v.2 with stages := v.2.stages.map (fun st => { st with vacate := st.vacate ++ st.urgent, urgent := [] }) } else v.2)) else s.launches))

/-- O48. Shares and supersteps (R22 to R28, R253 to R256, R335 to R340). SHARE_DISPATCH starts the next dealt slot on every desk of the kernel at its entry, in user mode,
with g1 to g5 and g26 as R28 gives, every other g register zero and the dictionary as the image holds it (R32), or for a debug session a share of a checkpoint on an idle
core (R389); an item bumps the L1 generation; once every core has rung the exchange begins on all of them, on the scratchpads as they are at the bell, and at a remap's
bell the capabilities go (R172, R259); at its end SSCNT advances, and the stage ends where its supersteps are done; a core that is vacated at once leaves its share to the
resume list, whose lowest entries the cores that are ready take in order of rank; a share that met a hardware error runs again, or, where its snapshot cannot be read
back, its launch fails with that error. Desk 0 is the first to issue by the model's choice (log 122). Where the spec leaves a point open it rests on the model's own
choice: log 64, 65, 72, 74, 110, 121, 122, 127, 128. -/
def Obligations.ShareEvents : Prop :=
  (∀ c x s l slot rest, let k := s.coreAt c
    let st := s.stageOf l k.work.stage
    k.work.launch = some l → k.work.todo = slot :: rest → s.live = true → s.stopped l k.work.stage = false → st.begun = true → st.exch = false → k.work.slot = none → s.coreQuiet c = true →
    s.ctxOk l x st.kern.desks = true → s.ckDue l k.work.stage = false → (st.fresh = true → s.stopDue l k.work.stage true = false) →
    ∃ t, exec (.shareDispatch c x) s = .next t ∧ (t.coreAt c).work.slot = some slot ∧ (t.coreAt c).work.todo = rest ∧ (t.coreAt c).desk = 0 ∧ (st.kern.restart = false → st.kern.dictAt.2 = 0 → t.mem = s.mem) ∧
      ∀ i : DeskId, i.toNat < st.kern.desks → let d := t.deskAt c i
        d.occ = true ∧ d.user = true ∧ d.pc = (s.launchAt l).info.text + st.kern.entry ∧ d.ctxid = ctxOf x i ∧ d.shareIx = BitVec.ofNat 32 slot ∧ d.shareCt = st.shares ∧ d.sscnt = st.sscnt ∧
        (∀ v ws, st.kern.dictAt.2 ≠ 0 → s.imageTable (s.launchAt l).part (s.launchAt l).image st.kern.dictAt.1 st.kern.dictAt.2 4 = .ok (v, ws) → d.kern.dictWords = ws.map (BitVec.ofNat 32)) ∧
        d.exch = false ∧ d.fflags = 0 ∧ d.frm = 0 ∧ d.xvec = 0 ∧ d.xstat = 0 ∧ d.icnt = 0 ∧ d.q = Vector.replicate 4 [] ∧ d.vq = Vector.replicate 4 [] ∧
        d.gu = ((((((Vector.replicate 32 0).set 1 (s.launchAt l).args).set 2 (BitVec.ofNat 64 slot)).set 3 (st.shares.setWidth 64)).set 4 (BitVec.ofNat 64 k.work.base)).set 5 (BitVec.ofNat 64 k.work.stage)).set 26
          (BitVec.ofNat 64 (k.work.base + st.kern.scratch - i.toNat * st.kern.stack)) ∧
        d.srseed = (let y := (s.launchAt l).seed ^^^ (BitVec.ofNat 64 (4 * slot + i.toNat + 1) * 0x9E3779B97F4A7C15); if y = 0 then 1 else y)) ∧
  (∀ c s l, (s.coreAt c).work.launch = some l → (s.coreAt c).work.stage ≠ 0 → (s.stageOf l (s.coreAt c).work.stage).items ≠ 0 → exec (.stageItemDispatch c) s = .next (s.bumpL1 c)) ∧
  (∀ l k x s, let st := s.stageOf l k
    s.live = true → s.stopped l k = false → st.ended = false → st.begun = true → st.exch = false → st.resume = [] → s.stopDue l k false = false → s.ckDue l k = false → st.cores ≠ [] →
    (∀ c ∈ st.cores, s.hasRung l c = true) → (∀ i < st.cores.length, s.ctxInUse l (x + BitVec.ofNat 16 i) = false) →
    ∃ t, exec (.bellComplete l k x) s = .next t ∧ (t.stageOf l k).exch = true ∧ (∀ c ∈ st.cores, (t.coreAt c).work.exch = true) ∧
      ∀ c, (s.coreAt c).work.launch = some l → tget? (t.coreAt c).bells k = some ((s.coreAt c).pad, (s.coreAt c).padPoison)) ∧
  (∀ (s : State) l k, let st := s.stageOf l k
    ((s.remapOf st).new ≠ st.order ∨ st.farNext ≠ st.far) → ∀ c ∈ st.cores, ((s.bellRemap l k).coreAt c).mx.caps = Vector.replicate 8 none) ∧
  (∀ l k s, let st := s.stageOf l k
    s.live = true → s.stopped l k = false → st.exch = true → (∀ c ∈ st.cores, (s.coreAt c).mx.stuck = true ∧ ∀ d ∈ (s.coreAt c).desks.toList, d.occ = false ∨ d.launch ≠ some l) →
    ∃ t, exec (.exchangeEnd l k) s = .next t ∧ (t.stageOf l k).sscnt = st.sscnt + 1 ∧ (t.stageOf l k).exch = false ∧
      ((st.endReq = true ∨ (st.supersteps ≠ 0 ∧ st.supersteps.toNat ≤ (st.sscnt + 1).toNat) ∨ st.last = true) → (t.stageOf l k).ended = true ∧ (t.stageOf l k).cores = [])) ∧
  (∀ c area s l, let k := s.coreAt c
    let st := s.stageOf l k.work.stage
    k.work.launch = some l → s.live = true → c ∈ st.urgent → s.stopped l k.work.stage = false → st.exch = false → s.savePoint c = true →
    (k.shareDesks = [] → k.key.adds = [] → k.work.slot = none → exec (.preemptImmediate c area) s = .next (s.vacateUrgent c none)) ∧
    (∀ s1 s2, k.shareDesks ≠ [] → area.toNat % 64 = 0 → (∀ i ∈ k.shareDesks, (k.at i).user = true) → s.bringToRest c k.shareCtl = .ok s1 →
      s1.saveArea (s.supWho (s.launchAt l).part) c none k.shareCtl area = .ok s2 → exec (.preemptImmediate c area) s = .next (s2.vacateUrgent c (some area)))) ∧
  (∀ c s l r, let k := s.coreAt c
    let st := s.stageOf l k.work.stage
    k.work.launch = some l → (k.work.next = some r ∨ (k.work.next = none ∧ c ∉ st.urgent ∧ st.resume[(s.readyCores st).idxOf c]? = some r)) → k.work.replay = false → r.area = none → s.live = true → s.stopped l k.work.stage = false →
    st.begun = true → st.exch = false → k.work.slot = none → k.work.todo = [] → k.work.byBell = false → s.coreQuiet c = true →
    exec (.resumeEntry c) s = .next ((s.setStage l k.work.stage { st with resume := st.resume.filter (fun x => x.slot != r.slot) }).setCoreAt c { k with work := { k.work with todo := [r.slot], listed := true, next := none } })) ∧
  (∀ c s x l t, s.startReplay c l x = some t → ((s.coreAt c).work.launch = none ∨ (s.coreAt c).work.todo = []) →
    s.parts.findSome? (fun p => if s.replayCore (BitVec.ofNat 14 p.1) c then s.debugLaunch (BitVec.ofNat 14 p.1) else none) = some l → exec (.shareDispatch c x) s = .next t ∧
    ∃ slot k, (t.coreAt c).work.slot = some slot ∧ (t.coreAt c).work.replay = true ∧ ∀ i : DeskId, i.toNat < (s.stageOf l k).kern.desks → let d := t.deskAt c i
      d.occ = true ∧ d.user = true ∧ d.icnt = 0 ∧ d.pc = (s.launchAt l).info.text + (s.stageOf l k).kern.entry ∧ d.shareIx = BitVec.ofNat 32 slot) ∧
  (∀ c x s l slot d c', let k := s.coreAt c
    let st := s.stageOf l k.work.stage
    k.work.launch = some l → k.work.slot = some slot → s.trapped c l (s.rerunnable c) = some d → s.rerunCore (s.launchAt l).part c = some c' → s.live = true → s.stopped l k.work.stage = false → k.work.replay = false →
    (∀ d ∈ k.desks.toList, d.sq = []) → k.key.adds = [] → s.ctxOk l x st.kern.desks = true →
    ∃ t, exec (.shareRerun c x) s = .next t ∧ (t = s.failLaunch l { cause := d.xcause, stage := d.stage.toNat, core := c.toNat, sscnt := d.sscnt, xval := d.xval, xpc := d.xpc.setWidth 64 } ∨
      (t.coreAt c').work.slot = some slot ∧ (t.coreAt c').work.runs = k.work.runs + 1 ∧
      ∀ i : DeskId, i.toNat < st.kern.desks → (t.deskAt c' i).pc = (s.launchAt l).info.text + st.kern.entry ∧ (t.deskAt c' i).shareIx = BitVec.ofNat 32 slot))

/-! ### Reliability and the host (R10, R371 to R374, R396 to R406) -/

/-- O49. Hardware errors and retirement (R10, R14, R182, R236, R312, R364, R371 to R374). An error that is not corrected poisons the unit that it strikes in the scratchpad,
and the line in memory unless a clean copy stands in the L2; in the tags of the L2 it empties the set, and the launches of the partition of each dirty line in it fail
with 0x1C3 and the line's address; at a desk, 0x1C1 is reported; a panel of a running product is computed again, and a second mismatch is recorded with 0x1C2; an engine's
card, a collective's instance or a running near-memory command fails with 0x1C3; a corrected one is counted. A window starts every count at 0; a lasting row is logged as
retired; a clock step changes no count. Where the spec leaves a point open it rests on the model's own choice: log 85, 86, 87, 88, 123. -/
def Obligations.ErrorEvents : Prop :=
  (∀ c off s, s.sys.off = false → exec (.errorEvent (.scratchpad c off true)) s = .next (s.setCoreAt c { s.coreAt c with padPoison := insN (s.coreAt c).padPoison (off.toNat / 64) }) ∧
    exec (.errorEvent (.scratchpad c off false)) s = .next { s with sys := { s.sys with counts := s.sys.counts ++ [(.core c, off.toNat / 64)] } }) ∧
  (∀ pa s, s.sys.off = false → s.mem.inMemory pa.toNat = true → (∀ t, s.mem.tag (pa.toNat / 64) = some t → t.dirty = true) →
    ∃ t, exec (.errorEvent (.line pa true)) s = .next t ∧ t.mem.poison = insN s.mem.poison (pa.toNat / 64) ∧ t.mem.bytes = s.mem.bytes ∧ t.cores = s.cores) ∧
  (∀ pa s, s.sys.off = false → s.mem.inMemory pa.toNat = true → let line := pa.toNat / 64; let bank := tget s.mem.banks (s.mem.bankNo line) {}
    let dirty := bank.tags.filter (fun x => Machine.setOf x.line == Machine.setOf line && x.dirty)
    (∀ x ∈ bank.tags, s.mem.bankNo x.line = s.mem.bankNo line) →
    (∃ m, exec (.errorEvent (.l2tag pa true)) s = .next (dirty.foldl (fun (s : State) (x : L2Tag) =>
        (match x.part with | some p => s.runningOf p | none => []).foldl (fun (s : State) (l : Nat) => s.failLaunch l { cause := 0x1C3, xval := BitVec.ofNat 64 (x.line * 64) }) s) { s with mem := m }) ∧
      (∀ l, s.mem.bankNo l = s.mem.bankNo line → Machine.setOf l = Machine.setOf line → m.tag l = none) ∧ (∀ l, Machine.setOf l ≠ Machine.setOf line → m.tag l = s.mem.tag l) ∧
      (∀ a, (∀ x ∈ dirty, a / 64 ≠ x.line) → cget m.bytes a = cget s.mem.bytes a)) ∧
    (∃ u, exec (.errorEvent (.l2tag pa false)) s = .next (s.corrected u line))) ∧
  (∀ c i unit s, s.sys.off = false → unit.toNat ≤ 4 → (s.deskAt c i).occ = true → ∃ t, exec (.errorEvent (.desk c i unit true)) s = .next t ∧
    { cause := 0x1C1, xval := unit.setWidth 64 } ∈ (t.deskAt c i).reports ∧ (t.deskAt c i).pc = (s.deskAt c i).pc ∧ t.mem = s.mem) ∧
  (∀ c n s i x, s.sys.off = false → (s.coreAt c).mx.first n = some (i, x) → x.st = .running → x.isMm = true →
    let s0 : State := { s with core := c }
    let s1 := s0.setMx { s0.c.mx with res := s0.c.mx.res + 1 }
    exec (.errorEvent (.matrix c n true)) s = .next (s1.mxRecord x 0x1C2 (n.setWidth 64)) ∧
    ∃ g, exec (.errorEvent (.matrix c n false)) s = .next (s1.corrected (.core c) g)) ∧
  (∀ e i s c, s.sys.off = false → (s.queueOf (engNo e))[i]? = some c → c.started = true →
    exec (.errorEvent (.engine e i true)) s = .next (if c.kind = 4 then s.failInst (c.owner.launch.getD 0) (cGroup c.raw) c.inst { cause := 0x1C3 } else s.failCard c { cause := 0x1C3 }) ∧
    ∃ g, exec (.errorEvent (.engine e i false)) s = .next (s.corrected (.engine e) g)) ∧
  (∀ c i k s x d ah un, s.sys.off = false → s.nmHead c i k = some x → x.st = .running d ah un → (∀ y ∈ s.sys.nm, y.seq = x.seq → y = x) →
    exec (.errorEvent (.nearMem c i k true)) s = .next { s with sys := { s.sys with nm := s.sys.nm.map (fun y => if y.seq = x.seq then { y with st := .fault { cause := 0x1C3, xval := x.addr } false } else y) } } ∧
    ∃ n, exec (.errorEvent (.nearMem c i k false)) s = .next (s.correctedAt n)) ∧
  (∀ s, exec .windowRollover s = .next { s with sys := { s.sys with counts := [], others := [] } }) ∧
  (∀ a b s, s.sys.off = false → s.sys.lasting (.row a b) = true → ∃ t, exec (.unitRetire (.row a b)) s = .next t ∧ (.row a b) ∈ t.sys.retired ∧
    t.sys.log = s.sys.log ++ [{ kind := .retirement, ras := some (.row a b), at_ := Config.clkAt s.tick }] ∧ t.mem = s.mem ∧ t.cores = s.cores) ∧
  (∀ die k s, exec (.clockStep die k) s = .next { s with sys := { s.sys with clock := s.sys.clock.set die.toNat k } })

/-- Part of O50. The module as a whole (R3, R187, R399, R402 to R405). A cold reset gives the reset registers; the image slot, the log and memory stay, lines under a
partition's key verify no more, and the windows are of whole GiB in the second tier's range and overlap nowhere; the slot's image runs, or the management port alone
answers. A management reset fails every launch with 0x1E4, is such a reset, and shows the host that the physical function went down; a loss of power turns the module off.
A request of measurements is answered with a signature: of the image that runs, the security processor's configuration, the link map, and the frozen records of an
interface. A link counts the failures of each group, goes down at a third failure of one, changes keys and comes up with a new session. The port shows the log and the
sensors; firmware that verifies is written in a session, and another request meanwhile changes nothing. -/
def Sys2Proof.Claims.HostModule : Prop :=
  (∀ s, ∃ t, exec .coldReset s = .next t ∧ t.cores = State.reset.cores ∧ t.parts = State.reset.parts ∧ t.launches = State.reset.launches ∧
    t.mem.bytes = s.mem.bytes ∧ t.mem.poison = s.mem.poison ∧ (∀ x ∈ s.mem.keyOf, x.1 ∈ t.mem.badMac) ∧ t.mem.windows = tierMap s.tick ∧ t.mem.banks = [] ∧ t.mem.tlbs = [] ∧
    t.sys.log = s.sys.log ∧ t.sys.slot = s.sys.slot ∧ t.sys.off = false ∧
    ((t.sys.running = none ∧ t.sys.mgmtOnly = true ∧ t.sys.hostUp = false) ∨ (∃ i, s.sys.slot = .good i ∧ t.sys.running = some i ∧ t.sys.mgmtOnly = false ∧ t.sys.hostUp = true))) ∧
  (∀ tick, (∀ w ∈ tierMap tick, w.1 < 8 ∧ w.2.1 % 2 ^ 30 = 0 ∧ w.2.2 % 2 ^ 30 = 0 ∧ 2 ^ 44 ≤ w.2.1 ∧ w.2.1 + w.2.2 ≤ 2 ^ 45) ∧
    (tierMap tick).Pairwise (fun x y => x.2.1 + x.2.2 ≤ y.2.1 ∨ y.2.1 + y.2.2 ≤ x.2.1)) ∧
  (∀ s, ∃ t, exec .mgmtReset s = .next t ∧ t.sys.reply = some .down ∧ t.sys.off = false ∧ t.launches = [] ∧ t.cores = State.reset.cores ∧
    let f := (s.launches.filter (fun y => y.2.status == .running)).foldl (fun (s : State) (y : Nat × Launch) => s.failLaunch y.1 { cause := 0x1E4 }) s
    t.mem.bytes = f.mem.bytes ∧ t.sys.log = f.sys.log) ∧
  (∀ s, ∃ t, exec .powerLoss s = .next t ∧ t.sys.off = true ∧ t.cores = State.reset.cores ∧ t.mem = { windows := s.mem.windows } ∧ t.sys.slot = s.sys.slot ∧ t.sys.log = s.sys.log) ∧
  (∀ ix nonce s,
    (s.measurement ix = none → exec (.spdmRequest ix nonce) s = .next (s.answer .refused)) ∧
    (∀ d, s.measurement ix = some d → ∃ u, exec (.spdmRequest ix nonce) s = .next u ∧ u.sys.signed = s.sys.signed + 1 ∧
      u.sys.reply = some (.signed ix d (Config.sign (Config.sha3 (natLe ix.toNat 2 ++ natLe nonce.toNat 32 ++ natLe d.toNat 64)))))) ∧
  (∀ (s : State), (∀ i, s.sys.running = some i → s.measurement 1 = some (Config.sha3 (natLe i.toNat 64)) ∧ s.measurement 2 = some (Config.sha3 (natLe s.sys.spConf.toNat 64)) ∧
      s.measurement 3 = some (Config.sha3 (s.sys.linkMap.flatMap (fun (x : Nat × Link) => natLe x.1 1 ++ natLe x.2.partner.toNat 8 ++ natLe x.2.identity.toNat 64)))) ∧
    (∀ t : BitVec 11, s.measurement (16 + t.setWidth 16) = tget? s.sys.frozen t.toNat)) ∧
  (∀ k g s, 36 ≤ k.toNat → exec (.linkGroupFail k g) s = .next s) ∧
  (∀ k g s, s.horuf = true → k.toNat < 36 → let x := s.link k
    (x.up = true → (∀ f ∈ x.fails, f.2 < 3) → ∃ y : Link, exec (.linkGroupFail k g) s = .next (s.setLink k y) ∧ y.up = true ∧ y.failures g = x.failures g + 1 ∧ (∀ h, h ≠ g → y.failures h = x.failures h)) ∧
    (x.up = true → (∃ f ∈ x.fails, 3 ≤ f.2) → exec (.linkDown k) s = .next (((s.setLink k { x with up := false }).dropCards).dropMsgs)) ∧
    (x.up = true → exec (.linkRekey k) s = .next (s.setLink k { x with key := x.key + 1 })) ∧
    (x.up = false → ∃ y : Link, exec (.newSpdmSession k) s = .next (s.setLink k y) ∧ y.up = true ∧ y.fails = [] ∧ y.partner = x.partner ∧ y.key = x.key + 1)) ∧
  (∀ r s, (r = 0 → exec (.pldmMonitor r) s = .next (s.answer (.log (s.sys.log.map s.shown)))) ∧ (r ≠ 0 → ∃ v, exec (.pldmMonitor r) s = .next (s.answer (.sensor v)))) ∧
  (∀ port img s, (port = true ∨ s.horuf = true) →
    (s.sys.update = none → exec (.firmwareUpdate port img) s = .next (if Config.verifies img = true then { s with sys := { s.sys with slot := .broken, update := some (port, img) } } else s.answer .refused)) ∧
    (s.sys.update = some (port, img) → exec (.firmwareUpdate port img) s = .next { s with sys := { s.sys with slot := .good img, update := none } }) ∧
    (∀ u, s.sys.update = some u → u ≠ (port, img) → exec (.firmwareUpdate port img) s = .next (s.answer .updating)))

/-- Part of O50. What the host does (R329, R396 to R398, R400, R401, R403). The host stores a record into a ring with room; it reads a line as data, or as ciphertext where
the frame holds confidential lines, which it may not write, neither by itself nor through a ring. Outside memory the physical function reads the operator's view: of a
confidential partition only what R403 shows. A partition record within its limits is taken (log 90), one beyond them is refused, and one of a frozen interface is refused
and puts the interface in error. An interface goes from unlocked to locked, with its records measured, to running, and back; in error its launches fail. -/
def Sys2Proof.Claims.HostAccess : Prop :=
  (∀ p q r s x a tail, s.horuf = true → let s0 := s.loadQueues p
    tget? (s0.partAt p).queues q.toNat = some x → x.hostfed = true → s0.hwWord p x.tail = .ok (a, tail) →
    ((s0.hostRefused p (x.ring + BitVec.ofNat 64 (256 * (tail.toNat % 2 ^ x.log2))) 256 || s0.hostRefused p x.tail 8) = true → exec (.hostTailWrite p q r) s = .next (s0.answer .refused)) ∧
    ((s0.hostRefused p (x.ring + BitVec.ofNat 64 (256 * (tail.toNat % 2 ^ x.log2))) 256 || s0.hostRefused p x.tail 8) = false →
      ∀ s1 v, s0.publish p x (natLe r.toNat 256) = .ok (s1, v) → v ≠ BitVec.allOnes 64 → exec (.hostTailWrite p q r) s = .next s1)) ∧
  (∀ pa v s, s.horuf = true → s.mem.inMemory pa.toNat = true → let line := pa.toNat / 64
    let x : Part := ⟨BitVec.ofNat 52 (line * 64), 64, 0, false, false, false⟩
    s.msBusy x = false →
    (s.mem.secret pa.toNat = true → exec (.hostMemoryAccess true pa v) s = .next (s.answer .refused) ∧
      exec (.hostMemoryAccess false pa v) s = .next (s.answer (.cipher (Config.cipher (tget s.mem.keyOf line 0) line (creads s.mem.bytes (line * 64) 64))))) ∧
    (s.mem.secret pa.toNat = false → exec (.hostMemoryAccess true pa v) s = .next { s with mem := s.mem.writePart x {} false (natLe v.toNat 64) } ∧
      (s.mem.macBad false line none = true → exec (.hostMemoryAccess false pa v) s = .next (({ s with mem := s.mem.spoil line } : State).answer .failed)) ∧
      (s.mem.macBad false line none = false → ∃ m bad, exec (.hostMemoryAccess false pa v) s = .next (({ s with mem := m } : State).answer (.data (BitVec.ofNat 512 (leNat (s.mem.readPart x {}).2.1)) bad))))) ∧
  (∀ pa v s, s.horuf = true → s.mem.inMemory pa.toNat = false →
    exec (.hostMemoryAccess true pa v) s = .next (s.answer .refused) ∧ exec (.hostMemoryAccess false pa v) s = .next (s.answer (s.view v))) ∧
  (∀ (s : State) p v i, i < 512 → (s.recordShown p v).getLsbD i = (v.getLsbD i &&
    (!(s.partAt p).conf || (8 ≤ i && i < 17) || (24 ≤ i && i < 34) || (64 ≤ i && i < 128) || (s.tenantSets p 258 && 128 ≤ i && i < 256)))) ∧
  (∀ (s : State) (e : LogEntry), ((s.partAt e.part).conf = false → s.shown e = e) ∧ ((s.partAt e.part).conf = true → e.kind = .fault →
    s.shown e = if s.tenantSets e.part 258 then e else { e with xval := 0, xpc := 0 })) ∧
  (∀ (s : State) (req : Vec), let p : PartId := req.extractLsb' 16 14
    let i := (req.extractLsb' 32 32).toNat
    (req.extractLsb' 0 8 = 2 → s.view req = if (s.partAt p).conf = true ∧ s.tenantSets p 257 = false then .refused else .sensor (((s.partAt p).mon (BitVec.ofNat 5 i)).word (i / 32))) ∧
    (req.extractLsb' 0 8 = 5 → s.view req = if (s.partAt p).conf = true ∧ s.tenantSets p 259 = false then .refused else .sensor ((s.mem.asRead s.tick).stat p (i % 8)))) ∧
  (∀ r s, s.horuf = true → (∀ t, s.tdiOf (recPart r) = some t → s.tdi t = .unlocked) → (∀ t, recTdi r = some t → s.tdi t = .unlocked) → (∀ n ∈ recWays r, n ≤ 8) → recDomain r ≠ 0 →
    (∀ x ∈ s.sys.records, x.1 ≠ (recPart r).toNat → recDomain x.2 ≠ recDomain r) → exec (.partitionConfigWrite r) s = .next (s.configure r)) ∧
  (∀ r s, s.horuf = true → (∀ t, s.tdiOf (recPart r) = some t → s.tdi t = .unlocked) → s.recordFits r = false → exec (.partitionConfigWrite r) s = .next (s.answer .refused)) ∧
  (∀ r t s, s.horuf = true → s.tdiOf (recPart r) = some t → (s.tdi t = .locked ∨ s.tdi t = .run) → exec (.partitionConfigWrite r) s = .next ((s.tdiFail t).answer .refused)) ∧
  (∀ t s, s.horuf = true →
    (s.tdi t = .unlocked → exec (.lockInterface t) s = .next { s with sys := { s.sys with tdis := tset s.sys.tdis t.toNat .locked, frozen := tset s.sys.frozen t.toNat (Config.sha3 (s.recordsOf t)) } }) ∧
    (s.tdi t = .locked → ∃ u, exec (.startInterface t) s = .next u ∧ u.tdi t = .run ∧ u.cores = s.cores) ∧
    (s.tdi t ≠ .unlocked → exec (.stopInterface t) s = .next { s with sys := { s.sys with tdis := tset s.sys.tdis t.toNat .unlocked, frozen := tdel s.sys.frozen t.toNat } }) ∧
    (s.tdi t ≠ .error → exec (.tdiError t) s = .next (s.tdiFail t)))
/-- O50. The host, the interfaces, the links and the management port. Where the spec leaves a point open it rests on the model's own choice: log 89, 90, 91, 92, 93, 94, 95,
124, 135, 136. -/
def Obligations.HostEvents : Prop := HostModule ∧ HostAccess


/-! ### The step, the encodings, the frame, what always holds -/

/-- The desk that moves is free to fetch: no report, replay stop or pass of a repetition buffer comes first, no word stands ready, and it follows no
leader in its kernel's stream. -/
def Sys2Proof.Claims.fetches (s : State) : Prop :=
  s.d.mayReport = false ∧ s.d.stepDone = false ∧ s.d.repAt = none ∧ s.d.latch = none ∧ ∀ l, s.d.gang = .follower l → s.d.inStream = false
/-- A state as a core takes its turn: its current desk moves, and the exchange copies of that desk that are under way have gone on (R258). -/
def Sys2Proof.Claims.turnOf (s : State) (c : CoreId) (ms : List Move) : State :=
  ({ s with tick := s.tick + 1, turns := ms, core := c, desk := (s.coreAt c).desk } : State).moves false
/-- The core may issue from its current desk as it takes its turn: that is ready, and in a gang it is desk 0 (R15, R18). -/
def Sys2Proof.Claims.mayIssue (s : State) (c : CoreId) : Prop :=
  ((s.coreAt c).at (s.coreAt c).desk).ready = true ∧ ((s.coreAt c).ganged = true → (s.coreAt c).desk = 0)

/-- O51. A step runs the decoded instruction (R15, R29, R33, R48, R88). Where the next move is a core's, its current desk may issue and is free to fetch, the step fetches the
code word at the desk's pc, and is exec of the instruction that the word decodes to, with the word's length and XVAL noted on the desk; a reserved encoding traps with
0x001. A word that stands ready in place of the one in memory runs likewise. What exec answers is then seen by the desk's two streams (R100, R411), which leave it as it
is unless the desk runs ahead or waits to push: outside a run-ahead path every word runs; on one a word may stay behind, and the desk goes on past it, or wait. Where the
next move is an event, the step is exec of that event. A module without power goes on unchanged but for a reset and what the management controller serves in its own power
domain (R404). Where the spec leaves a point open it rests on the model's own choice: log 1, 3, 107, 112. -/
def Obligations.StepRunsDecoded : Prop :=
  (∀ s c ms u v, s.turns = .issue c :: ms → s.sys.off = false → mayIssue s c → u = turnOf s c ms → fetches u →
    v = u.setD { u.d with len := 4, dict := false, xword := 0 } → ∀ w code, v.fetchCode v.d v.d.pc = .ok (w, code) →
    let x := w.setD { w.d with len := codeLen code, dict := false, xword := codeXval code }
    (∀ i p, decodeCode code = some i → x.d.pathAct code = .run p → step s = x.streams p (exec i x)) ∧
    (∀ p, decodeCode code = none → x.d.pathAct code = .run p → x.Issues → step s = x.streams p (.next (x.traps 0x001 (codeXval code) 0))) ∧
    (∀ d, x.d.pathAct code = .pass d → step s = .next (x.setD d)) ∧ (x.d.pathAct code = .hold → step s = .next (x.hold .held))) ∧
  (∀ s c ms u w h, s.turns = .issue c :: ms → s.sys.off = false → mayIssue s c → u = turnOf s c ms → u.d.mayReport = false → u.d.stepDone = false → u.d.repAt = none →
    u.d.latch = some (w, h) → let code : Code := if h then .half (w.setWidth 16) else .full w
    (∀ i p, decodeCode code = some i → u.d.pathAct code = .run p → step s = u.streams p (exec i u)) ∧
    (∀ p, decodeCode code = none → u.d.pathAct code = .run p → u.Issues → step s = u.streams p (.next (u.traps 0x001 u.d.xword 0))) ∧
    (∀ d, u.d.pathAct code = .pass d → step s = .next (u.setD d)) ∧ (u.d.pathAct code = .hold → step s = .next (u.hold .held))) ∧
  (∀ (s : State) code, s.d.gen = none → s.d.pathAct code = .run {}) ∧
  (∀ (s t : State) p, (t.deskAt s.core s.desk).gen = none → (∀ n, (t.deskAt s.core s.desk).wait ≠ some (.port n false)) → s.streams p (.next t) = .next t) ∧
  (∀ s i ms, s.turns = .event i :: ms → (s.sys.off = false ∨ servesOff i = true) → step s = exec i { s with tick := s.tick + 1, turns := ms }) ∧
  (∀ i, servesOff i = true ↔ i = .coldReset ∨ i = .mgmtReset ∨ (∃ r, i = .pldmMonitor r) ∨ (∃ ix n, i = .spdmRequest ix n) ∨ (∃ img, i = .firmwareUpdate true img)) ∧
  (∀ s, s.sys.off = true → (∀ i ms, s.turns = .event i :: ms → servesOff i = false) → step s = .next { s with tick := s.tick + 1, turns := s.turns.drop 1 })

/-- A word whose major and function use [25:22] as a guard code or a condition (R42). -/
def Sys2Proof.Claims.takesGuard (w : BitVec 32) : Bool :=
  let m := w.toNat / 2 % 64
  m ∈ [0x01, 0x0A, 0x20, 0x21, 0x25, 0x26, 0x28, 0x29, 0x2A, 0x2B, 0x2C, 0x2D, 0x34] || (m == 0x23 && w.toNat / 2 ^ 26 != 48 && w.toNat / 2 ^ 26 != 49)

/-- O52. Dictionary references and reserved encodings (R32, R33, R48). A reference to an entry with bit 0 set makes that word, with its bits 25:22 replaced by a nonzero
reference guard, the word that the desk runs next at the reference's address and with its length 2; an entry whose bit 0 is 0, or a nonzero guard on an entry without a
guard, traps with 0x002, and the guard 1000 with 0x001; XVAL holds the entry and the reference. An entry that the image does not fill is 0, and every entry is under .dict
off (R83). A reserved encoding traps with 0x001 and its word. Where the spec leaves a point open it rests on the model's own choice: log 19. -/
def Obligations.EncodingTraps : Prop :=
  (∀ i g s e, s.Issues → e = (if s.d.kern.dict then s.d.kern.dictWords.getD i.toNat 0 else 0) →
    let h : BitVec 16 := i ++ g ++ 2#2
    let s1 := s.setD { s.d with dict := true, len := 2 }
    (e.getLsbD 0 = true → g = 0 → exec (.dictRef i g) s = .next (s.setD { s.d with latch := some (e, false), dict := true, len := 2, xword := (e ++ h).setWidth 64 })) ∧
    (e.getLsbD 0 = true → g ≠ 0 → g ≠ 8 → takesGuard e = true → ∃ w : BitVec 32, w.extractLsb' 22 4 = g ∧ (∀ j, j < 22 ∨ 26 ≤ j → w.getLsbD j = e.getLsbD j) ∧
      exec (.dictRef i g) s = .next (s.setD { s.d with latch := some (w, false), dict := true, len := 2, xword := (w ++ h).setWidth 64 })) ∧
    (e.getLsbD 0 = false ∨ (g ≠ 0 ∧ takesGuard e = false) → exec (.dictRef i g) s = .next (s1.traps 0x002 ((e ++ h).setWidth 64) 0)) ∧
    (e.getLsbD 0 = true → g = 8 → takesGuard e = true → exec (.dictRef i g) s = .next (s1.traps 0x001 ((e ++ h).setWidth 64) 0))) ∧
  (∀ w full s, s.Issues → exec (.reservedEncoding w full) s = .next (s.traps 0x001 s.d.xword 0))

/-- The short forms (R31): op, the short form, and the 32-bit instruction that it stands for. -/
noncomputable def Sys2Proof.Claims.shortForms (vs vd : GReg) : List (BitVec 4 × Instr × Instr) :=
  [(1, .vaddF32S vs vd, .vadd 0 0 vs vd vd), (2, .vsubF32S vs vd, .vsub 0 0 vs vd vd), (3, .vmulF32S vs vd, .vmul 0 0 vs vd vd), (4, .vmaxF32S vs vd, .vmax 0 0 vs vd vd),
   (5, .vminF32S vs vd, .vmin 0 0 vs vd vd), (6, .vaddBf16S vs vd, .vadd 1 0 vs vd vd), (7, .vmulBf16S vs vd, .vmul 1 0 vs vd vd), (8, .vaddI32S vs vd, .vadd 5 0 vs vd vd),
   (9, .vsubI32S vs vd, .vsub 5 0 vs vd vd), (10, .vandS vs vd, .vand 5 0 vs vd vd), (11, .vorS vs vd, .vor 5 0 vs vd vd), (12, .vxorS vs vd, .vxor 5 0 vs vd vd),
   (13, .vmovS vs vd, .vmov 5 0 vs vd), (14, .vabsF32S vs vd, .vabs 0 0 vs vd), (15, .vreluF32S vs vd, .vact 0 0 0 vs vd)]
/-- O53. The short forms (R31): each halfword with op 1 to 15 decodes to its form, which does exactly what the 32-bit instruction of the table does with guard 0000; op 0
decodes to nothing, and the all-zero halfword traps with 0x001 and XVAL 0. -/
def Obligations.ShortForms : Prop :=
  (∀ vs vd op i j, (op, i, j) ∈ shortForms vs vd → decodeCode (.half (vs ++ vd ++ op ++ 0#2)) = some i ∧ ∀ s, exec i s = exec j s) ∧
  (∀ vs vd : GReg, decodeCode (.half (vs ++ vd ++ 0#4 ++ 0#2)) = none) ∧
  (∀ s : State, s.Issues → runCode (.half 0) (s.setD (s.d.issuing (.half 0))) = .next ((s.setD (s.d.issuing (.half 0))).traps 0x001 0 0))

/-- O54. Words of the spec's encodings (R34, R42, R46, R47), written out, decode to their instructions. -/
def Obligations.SpecWords : Prop :=
  decodeCode (.full 0x00128375#32) = some (.launch 9 8 6) ∧ decodeCode (.full 0x04008375#32) = some (.spawn 8 6) ∧ decodeCode (.full 0x08000375#32) = some (.share 6) ∧
  decodeCode (.full 0x10128075#32) = some (.esignal 9 8) ∧ decodeCode (.full 0x14008375#32) = some (.sqput 8 6) ∧ decodeCode (.full 0x18008375#32) = some (.sqget 8 6) ∧
  decodeCode (.full 0x1C001375#32) = some (.sqlen 1 6) ∧ decodeCode (.full 0x0006607D#32) = some (.trap 3 6) ∧ decodeCode (.full 0x0400007D#32) = some .xret ∧
  decodeCode (.full 0x040000FD#32) = some .xretSkip ∧ decodeCode (.full 0x0C12807D#32) = some (.ctxsv 9 8) ∧ decodeCode (.full 0x1012807D#32) = some (.ctxrs 9 8) ∧
  decodeCode (.full 0x2400607D#32) = some (.idle 6)

/-- O55. Decoding and encoding agree (R31 to R47): the word of every well-formed instruction decodes to it, every operand at every value that its encoding admits. -/
def Obligations.EncodeDecode : Prop := ∀ i c, i.wellFormed = true → encode i = some c → decodeCode c = some i

/-- O56. Encoding and decoding agree (R29 to R47): a word that decodes has one meaning and no bit that is not read, since the encoder gives the word back. -/
def Obligations.DecodeEncode : Prop := ∀ c i, decodeCode c = some i → encode i = some c

/-- O57. Every instruction, every event and every step goes on in a next state: the machine stops nowhere (R353, R339, R405). Where the spec leaves a point open it rests on
the model's own choice: log 107. -/
def Obligations.AlwaysGoesOn : Prop := (∀ i s, ∃ t, exec i s = .next t) ∧ (∀ s, ∃ t, step s = .next t)

/-- O58. Memory keeps its canonical form in every step (R187): addresses strictly rising and no byte listed that reads as an unlisted one. Where the spec leaves a point open
it rests on the model's own choice: log 2. -/
def Obligations.MemoryCanonical : Prop := ∀ s t, Memory.wf s.mem.bytes = true → step s = .next t → Memory.wf t.mem.bytes = true

/-- O59. After reset: the registers that the spec resets to 0 read 0 on every core and desk (R363, R390), no desk is occupied, memory is canonical and every byte of it reads
as the model's reset contents (log 2), there is no launch, and the module has power. Where the spec leaves a point open it rests on the model's own choice: log 1, 2, 5,
125. -/
def Obligations.ResetState : Prop :=
  (∀ c i n f, (n, f) ∈ sysRead → n ∈ [0x000, 0x001, 0x002, 0x003, 0x004, 0x005, 0x010, 0x011, 0x024, 0x025, 0x026, 0x027, 0x028, 0x040, 0x041, 0x042, 0x043, 0x044, 0x070, 0x100, 0x101, 0x108, 0x109, 0x10A, 0x10B, 0x110, 0x191, 0x192, 0x193, 0x194, 0x1A0, 0x1A1, 0x1A2, 0x1A8, 0x1A9] →
    f { State.reset with core := c, desk := i } = 0) ∧
  (∀ c i, (State.reset.deskAt c i).occ = false ∧ (State.reset.deskAt c i).ready = false) ∧ Memory.wf State.reset.mem.bytes = true ∧ (∀ a, cget State.reset.mem.bytes a = 0) ∧
  State.reset.launches = [] ∧ State.reset.sys.off = false ∧ State.reset.Safe

/-- The g, v and p destinations of the scalar, predicate, branch, loop and elementwise vector instructions. -/
def Sys2Proof.Claims.dests (i : Instr) : Option (List GReg × List GReg × List PReg) :=
  ((scalarRule i).map fun r => ([r.2.2.1], [], [])) <|> ((fieldRule i).map fun r => ([r.2.2.1], [], [])) <|> ((predRule i).map fun r => ([], [], [r.2.2.1])) <|>
  ((laneRule i).map fun r => ([], [r.d], [])) <|> ((branchRule i).map fun _ => ([], [], [])) <|> ((loopRule i).map fun _ => ([], [], []))
/-- O60. The frame of the scalar, predicate, field, branch, loop and elementwise vector instructions and the short forms (R37, R39, R89, R91 to R97, R120, R143; the immediate
forms of R90 among them), whether they complete, wait or trap, outside a gang and a run-ahead path (a path that another instruction has opened, or one that this
instruction ends, R411). Unless the desk stops in a double trap (R355), every byte of memory, every register outside the core and every other desk stays as it is; of the
desk only these change: the pc with the loop counters and the control of issue, the ports, ICNT, the g, v or p destination with its poison in the bank of the mode, FFLAGS
and SRSEED by a vector instruction alone, and the trap registers by a trap alone; and of everything else only a debug stop of the launch may be recorded (R387). -/
def Obligations.Frame : Prop :=
  ∀ i gs vs ps, dests i = some (gs, vs, ps) → ∀ s t, s.d.gen = none → s.d.gang = .none → s.d.stopped = false → exec i s = .next t →
    (t.d.stopped = true → s.d.user = false) ∧
    (t.d.stopped = false →
      t = { s with cores := t.cores, launches := t.launches } ∧ t.coreAt s.core = (s.coreAt s.core).put s.desk t.d ∧ (∀ c, c ≠ s.core → t.coreAt c = s.coreAt c) ∧
      t.d = { s.d with
        pc := t.d.pc, lc := t.d.lc, jump := t.d.jump, wait := t.d.wait, latch := t.d.latch, cast := t.d.cast, mark := t.d.mark, walk := t.d.walk, seen := t.d.seen, grant := t.d.grant, sent := t.d.sent, icnt := t.d.icnt, q := t.d.q, vq := t.d.vq,
        gu := t.d.gu, gup := t.d.gup, gs := t.d.gs, gsp := t.d.gsp, v := t.d.v, vp := t.d.vp, p := t.d.p, fflags := t.d.fflags, srseed := t.d.srseed, user := t.d.user, xcause := t.d.xcause,
        xval := t.d.xval, xpc := t.d.xpc, xstat := t.d.xstat, ucause := t.d.ucause, uval := t.d.uval, upc := t.d.upc, ustat := t.d.ustat } ∧
      (∀ r : GReg, r ∉ gs → t.d.gu[r.toNat] = s.d.gu[r.toNat] ∧ t.d.gup.getLsbD r.toNat = s.d.gup.getLsbD r.toNat ∧ t.d.gs[r.toNat] = s.d.gs[r.toNat] ∧ t.d.gsp.getLsbD r.toNat = s.d.gsp.getLsbD r.toNat) ∧
      (s.d.user = true → t.d.gs = s.d.gs ∧ t.d.gsp = s.d.gsp) ∧ (s.d.user = false → t.d.user = false ∧ t.d.gu = s.d.gu ∧ t.d.gup = s.d.gup) ∧
      (∀ r : GReg, r ∉ vs → t.d.v[r.toNat] = s.d.v[r.toNat] ∧ t.d.vp.getLsbD r.toNat = s.d.vp.getLsbD r.toNat) ∧ (∀ r : PReg, r ∉ ps → t.d.p[r.toNat] = s.d.p[r.toNat]) ∧
      (laneRule i = none → t.d.fflags = s.d.fflags ∧ t.d.srseed = s.d.srseed) ∧
      (t.d.user = s.d.user → t.d.xcause = s.d.xcause ∧ t.d.xval = s.d.xval ∧ t.d.xpc = s.d.xpc ∧ t.d.xstat = s.d.xstat ∧
        t.d.ucause = s.d.ucause ∧ t.d.uval = s.d.uval ∧ t.d.upc = s.d.upc ∧ t.d.ustat = s.d.ustat))
end

