-- ==== Sys2Proof/Laws/Encode.lean ====
section
/-! SUPPORT. The fields of a word that a format lays out are the fields it was laid out from (R34). -/

namespace Sys2Proof

@[simp] theorem fF_fmtA (f : BitVec 6) (g : BitVec 4) (b : BitVec 5) (a : BitVec 5) (d : BitVec 5) (m : BitVec 7) : fF (fmtA f g b a d m) = f := by
  apply BitVec.eq_of_toNat_eq
  simp only [fF, fmtA, BitVec.toNat_ofNat]
  omega
@[simp] theorem fG_fmtA (f : BitVec 6) (g : BitVec 4) (b : BitVec 5) (a : BitVec 5) (d : BitVec 5) (m : BitVec 7) : fG (fmtA f g b a d m) = g := by
  apply BitVec.eq_of_toNat_eq
  simp only [fG, fmtA, BitVec.toNat_ofNat]
  omega
@[simp] theorem fB_fmtA (f : BitVec 6) (g : BitVec 4) (b : BitVec 5) (a : BitVec 5) (d : BitVec 5) (m : BitVec 7) : fB (fmtA f g b a d m) = b := by
  apply BitVec.eq_of_toNat_eq
  simp only [fB, fmtA, BitVec.toNat_ofNat]
  omega
@[simp] theorem fA_fmtA (f : BitVec 6) (g : BitVec 4) (b : BitVec 5) (a : BitVec 5) (d : BitVec 5) (m : BitVec 7) : fA (fmtA f g b a d m) = a := by
  apply BitVec.eq_of_toNat_eq
  simp only [fA, fmtA, BitVec.toNat_ofNat]
  omega
@[simp] theorem fD_fmtA (f : BitVec 6) (g : BitVec 4) (b : BitVec 5) (a : BitVec 5) (d : BitVec 5) (m : BitVec 7) : fD (fmtA f g b a d m) = d := by
  apply BitVec.eq_of_toNat_eq
  simp only [fD, fmtA, BitVec.toNat_ofNat]
  omega
@[simp] theorem fM_fmtA (f : BitVec 6) (g : BitVec 4) (b : BitVec 5) (a : BitVec 5) (d : BitVec 5) (m : BitVec 7) : fM (fmtA f g b a d m) = m := by
  apply BitVec.eq_of_toNat_eq
  simp only [fM, fmtA, BitVec.toNat_ofNat]
  omega
@[simp] theorem imm15_fmtI (i : BitVec 15) (a : BitVec 5) (d : BitVec 5) (m : BitVec 7) : imm15 (fmtI i a d m) = i := by
  apply BitVec.eq_of_toNat_eq
  simp only [imm15, fmtI, BitVec.toNat_ofNat]
  omega
@[simp] theorem fA_fmtI (i : BitVec 15) (a : BitVec 5) (d : BitVec 5) (m : BitVec 7) : fA (fmtI i a d m) = a := by
  apply BitVec.eq_of_toNat_eq
  simp only [fA, fmtI, BitVec.toNat_ofNat]
  omega
@[simp] theorem fD_fmtI (i : BitVec 15) (a : BitVec 5) (d : BitVec 5) (m : BitVec 7) : fD (fmtI i a d m) = d := by
  apply BitVec.eq_of_toNat_eq
  simp only [fD, fmtI, BitVec.toNat_ofNat]
  omega
@[simp] theorem fM_fmtI (i : BitVec 15) (a : BitVec 5) (d : BitVec 5) (m : BitVec 7) : fM (fmtI i a d m) = m := by
  apply BitVec.eq_of_toNat_eq
  simp only [fM, fmtI, BitVec.toNat_ofNat]
  omega
@[simp] theorem imm20_fmtU (i : BitVec 20) (d : BitVec 5) (m : BitVec 7) : imm20 (fmtU i d m) = i := by
  apply BitVec.eq_of_toNat_eq
  simp only [imm20, fmtU, BitVec.toNat_ofNat]
  omega
@[simp] theorem fD_fmtU (i : BitVec 20) (d : BitVec 5) (m : BitVec 7) : fD (fmtU i d m) = d := by
  apply BitVec.eq_of_toNat_eq
  simp only [fD, fmtU, BitVec.toNat_ofNat]
  omega
@[simp] theorem fM_fmtU (i : BitVec 20) (d : BitVec 5) (m : BitVec 7) : fM (fmtU i d m) = m := by
  apply BitVec.eq_of_toNat_eq
  simp only [fM, fmtU, BitVec.toNat_ofNat]
  omega
@[simp] theorem off11_fmtC (o : BitVec 11) (l : BitVec 1) (c : BitVec 3) (b : BitVec 5) (a : BitVec 5) (m : BitVec 7) : off11 (fmtC o l c b a m) = o := by
  apply BitVec.eq_of_toNat_eq
  simp only [off11, fmtC, BitVec.toNat_ofNat]
  omega
@[simp] theorem likely_fmtC (o : BitVec 11) (l : BitVec 1) (c : BitVec 3) (b : BitVec 5) (a : BitVec 5) (m : BitVec 7) : likely (fmtC o l c b a m) = l := by
  apply BitVec.eq_of_toNat_eq
  simp only [likely, fmtC, BitVec.toNat_ofNat]
  omega
@[simp] theorem cond_fmtC (o : BitVec 11) (l : BitVec 1) (c : BitVec 3) (b : BitVec 5) (a : BitVec 5) (m : BitVec 7) : cond (fmtC o l c b a m) = c := by
  apply BitVec.eq_of_toNat_eq
  simp only [cond, fmtC, BitVec.toNat_ofNat]
  omega
@[simp] theorem fA_fmtC (o : BitVec 11) (l : BitVec 1) (c : BitVec 3) (b : BitVec 5) (a : BitVec 5) (m : BitVec 7) : fA (fmtC o l c b a m) = b := by
  apply BitVec.eq_of_toNat_eq
  simp only [fA, fmtC, BitVec.toNat_ofNat]
  omega
@[simp] theorem fD_fmtC (o : BitVec 11) (l : BitVec 1) (c : BitVec 3) (b : BitVec 5) (a : BitVec 5) (m : BitVec 7) : fD (fmtC o l c b a m) = a := by
  apply BitVec.eq_of_toNat_eq
  simp only [fD, fmtC, BitVec.toNat_ofNat]
  omega
@[simp] theorem fM_fmtC (o : BitVec 11) (l : BitVec 1) (c : BitVec 3) (b : BitVec 5) (a : BitVec 5) (m : BitVec 7) : fM (fmtC o l c b a m) = m := by
  apply BitVec.eq_of_toNat_eq
  simp only [fM, fmtC, BitVec.toNat_ofNat]
  omega
@[simp] theorem off10_fmtM (o : BitVec 10) (q : BitVec 2) (s : BitVec 3) (b : BitVec 5) (d : BitVec 5) (m : BitVec 7) : off10 (fmtM o q s b d m) = o := by
  apply BitVec.eq_of_toNat_eq
  simp only [off10, fmtM, BitVec.toNat_ofNat]
  omega
@[simp] theorem qual_fmtM (o : BitVec 10) (q : BitVec 2) (s : BitVec 3) (b : BitVec 5) (d : BitVec 5) (m : BitVec 7) : qual (fmtM o q s b d m) = q := by
  apply BitVec.eq_of_toNat_eq
  simp only [qual, fmtM, BitVec.toNat_ofNat]
  omega
@[simp] theorem size_fmtM (o : BitVec 10) (q : BitVec 2) (s : BitVec 3) (b : BitVec 5) (d : BitVec 5) (m : BitVec 7) : size (fmtM o q s b d m) = s := by
  apply BitVec.eq_of_toNat_eq
  simp only [size, fmtM, BitVec.toNat_ofNat]
  omega
@[simp] theorem fA_fmtM (o : BitVec 10) (q : BitVec 2) (s : BitVec 3) (b : BitVec 5) (d : BitVec 5) (m : BitVec 7) : fA (fmtM o q s b d m) = b := by
  apply BitVec.eq_of_toNat_eq
  simp only [fA, fmtM, BitVec.toNat_ofNat]
  omega
@[simp] theorem fD_fmtM (o : BitVec 10) (q : BitVec 2) (s : BitVec 3) (b : BitVec 5) (d : BitVec 5) (m : BitVec 7) : fD (fmtM o q s b d m) = d := by
  apply BitVec.eq_of_toNat_eq
  simp only [fD, fmtM, BitVec.toNat_ofNat]
  omega
@[simp] theorem fM_fmtM (o : BitVec 10) (q : BitVec 2) (s : BitVec 3) (b : BitVec 5) (d : BitVec 5) (m : BitVec 7) : fM (fmtM o q s b d m) = m := by
  apply BitVec.eq_of_toNat_eq
  simp only [fM, fmtM, BitVec.toNat_ofNat]
  omega
@[simp] theorem shZ_fmtS (z : BitVec 7) (k : BitVec 2) (s : BitVec 6) (a : BitVec 5) (d : BitVec 5) (m : BitVec 7) : shZ (fmtS z k s a d m) = z := by
  apply BitVec.eq_of_toNat_eq
  simp only [shZ, fmtS, BitVec.toNat_ofNat]
  omega
@[simp] theorem shK_fmtS (z : BitVec 7) (k : BitVec 2) (s : BitVec 6) (a : BitVec 5) (d : BitVec 5) (m : BitVec 7) : shK (fmtS z k s a d m) = k := by
  apply BitVec.eq_of_toNat_eq
  simp only [shK, fmtS, BitVec.toNat_ofNat]
  omega
@[simp] theorem shS_fmtS (z : BitVec 7) (k : BitVec 2) (s : BitVec 6) (a : BitVec 5) (d : BitVec 5) (m : BitVec 7) : shS (fmtS z k s a d m) = s := by
  apply BitVec.eq_of_toNat_eq
  simp only [shS, fmtS, BitVec.toNat_ofNat]
  omega
@[simp] theorem fA_fmtS (z : BitVec 7) (k : BitVec 2) (s : BitVec 6) (a : BitVec 5) (d : BitVec 5) (m : BitVec 7) : fA (fmtS z k s a d m) = a := by
  apply BitVec.eq_of_toNat_eq
  simp only [fA, fmtS, BitVec.toNat_ofNat]
  omega
@[simp] theorem fD_fmtS (z : BitVec 7) (k : BitVec 2) (s : BitVec 6) (a : BitVec 5) (d : BitVec 5) (m : BitVec 7) : fD (fmtS z k s a d m) = d := by
  apply BitVec.eq_of_toNat_eq
  simp only [fD, fmtS, BitVec.toNat_ofNat]
  omega
@[simp] theorem fM_fmtS (z : BitVec 7) (k : BitVec 2) (s : BitVec 6) (a : BitVec 5) (d : BitVec 5) (m : BitVec 7) : fM (fmtS z k s a d m) = m := by
  apply BitVec.eq_of_toNat_eq
  simp only [fM, fmtS, BitVec.toNat_ofNat]
  omega
@[simp] theorem len14_fmtL (l : BitVec 14) (z : BitVec 5) (r : BitVec 5) (i : BitVec 1) (m : BitVec 7) : len14 (fmtL l z r i m) = l := by
  apply BitVec.eq_of_toNat_eq
  simp only [len14, fmtL, BitVec.toNat_ofNat]
  omega
@[simp] theorem loopZ_fmtL (l : BitVec 14) (z : BitVec 5) (r : BitVec 5) (i : BitVec 1) (m : BitVec 7) : loopZ (fmtL l z r i m) = z := by
  apply BitVec.eq_of_toNat_eq
  simp only [loopZ, fmtL, BitVec.toNat_ofNat]
  omega
@[simp] theorem loopR_fmtL (l : BitVec 14) (z : BitVec 5) (r : BitVec 5) (i : BitVec 1) (m : BitVec 7) : loopR (fmtL l z r i m) = r := by
  apply BitVec.eq_of_toNat_eq
  simp only [loopR, fmtL, BitVec.toNat_ofNat]
  omega
@[simp] theorem loopId_fmtL (l : BitVec 14) (z : BitVec 5) (r : BitVec 5) (i : BitVec 1) (m : BitVec 7) : loopId (fmtL l z r i m) = i := by
  apply BitVec.eq_of_toNat_eq
  simp only [loopId, fmtL, BitVec.toNat_ofNat]
  omega
@[simp] theorem fM_fmtL (l : BitVec 14) (z : BitVec 5) (r : BitVec 5) (i : BitVec 1) (m : BitVec 7) : fM (fmtL l z r i m) = m := by
  apply BitVec.eq_of_toNat_eq
  simp only [fM, fmtL, BitVec.toNat_ofNat]
  omega
@[simp] theorem len14_fmtLI (l : BitVec 14) (c : BitVec 10) (i : BitVec 1) (m : BitVec 7) : len14 (fmtLI l c i m) = l := by
  apply BitVec.eq_of_toNat_eq
  simp only [len14, fmtLI, BitVec.toNat_ofNat]
  omega
@[simp] theorem loopC_fmtLI (l : BitVec 14) (c : BitVec 10) (i : BitVec 1) (m : BitVec 7) : loopC (fmtLI l c i m) = c := by
  apply BitVec.eq_of_toNat_eq
  simp only [loopC, fmtLI, BitVec.toNat_ofNat]
  omega
@[simp] theorem loopId_fmtLI (l : BitVec 14) (c : BitVec 10) (i : BitVec 1) (m : BitVec 7) : loopId (fmtLI l c i m) = i := by
  apply BitVec.eq_of_toNat_eq
  simp only [loopId, fmtLI, BitVec.toNat_ofNat]
  omega
@[simp] theorem fM_fmtLI (l : BitVec 14) (c : BitVec 10) (i : BitVec 1) (m : BitVec 7) : fM (fmtLI l c i m) = m := by
  apply BitVec.eq_of_toNat_eq
  simp only [fM, fmtLI, BitVec.toNat_ofNat]
  omega
/-! ### Parts of a field -/

theorem extract_append_hi {m n : Nat} (x : BitVec m) (y : BitVec n) : (x ++ y).extractLsb' n m = x := by
  ext i hi; simp [BitVec.getLsbD_append, hi]
theorem extract_append_lo {m n : Nat} (x : BitVec m) (y : BitVec n) : (x ++ y).extractLsb' 0 n = y := by
  ext i hi; simp [BitVec.getLsbD_append, hi]

/-! ### The decoder by major opcode -/

theorem decodeCode_full {w : BitVec 32} {i : Instr} (h : decode32 w = some i) (hw : i.wellFormed = true) : decodeCode (.full w) = some i := by
  simp only [decodeCode, h, hw, if_true]
theorem decodeCode_half {w : BitVec 16} {i : Instr} (h : decode16 w = some i) (hw : i.wellFormed = true) : decodeCode (.half w) = some i := by
  simp only [decodeCode, h, hw, if_true]
theorem decode32_01 {w : BitVec 32} (h : fM w = 3#7) : decode32 w = decMajor01 w := by unfold decode32; rw [h]; rfl
theorem decode32_02 {w : BitVec 32} (h : fM w = 5#7) : decode32 w = decMajor02 w := by unfold decode32; rw [h]; rfl
theorem decode32_03 {w : BitVec 32} (h : fM w = 7#7) : decode32 w = decMajor03 w := by unfold decode32; rw [h]; rfl
theorem decode32_04 {w : BitVec 32} (h : fM w = 9#7) : decode32 w = decMajor04 w := by unfold decode32; rw [h]; rfl
theorem decode32_05 {w : BitVec 32} (h : fM w = 11#7) : decode32 w = decMajor05 w := by unfold decode32; rw [h]; rfl
theorem decode32_06 {w : BitVec 32} (h : fM w = 13#7) : decode32 w = decMajor06 w := by unfold decode32; rw [h]; rfl
theorem decode32_07 {w : BitVec 32} (h : fM w = 15#7) : decode32 w = decMajor07 w := by unfold decode32; rw [h]; rfl
theorem decode32_08 {w : BitVec 32} (h : fM w = 17#7) : decode32 w = decMajor08 w := by unfold decode32; rw [h]; rfl
theorem decode32_09 {w : BitVec 32} (h : fM w = 19#7) : decode32 w = decMajor09 w := by unfold decode32; rw [h]; rfl
theorem decode32_0A {w : BitVec 32} (h : fM w = 21#7) : decode32 w = decMajor0A w := by unfold decode32; rw [h]; rfl
theorem decode32_0B {w : BitVec 32} (h : fM w = 23#7) : decode32 w = decMajor0B w := by unfold decode32; rw [h]; rfl
theorem decode32_0C {w : BitVec 32} (h : fM w = 25#7) : decode32 w = decMajor0C w := by unfold decode32; rw [h]; rfl
theorem decode32_0D {w : BitVec 32} (h : fM w = 27#7) : decode32 w = decMajor0D w := by unfold decode32; rw [h]; rfl
theorem decode32_0E {w : BitVec 32} (h : fM w = 29#7) : decode32 w = decMajor0E w := by unfold decode32; rw [h]; rfl
theorem decode32_0F {w : BitVec 32} (h : fM w = 31#7) : decode32 w = decMajor0F w := by unfold decode32; rw [h]; rfl
theorem decode32_10 {w : BitVec 32} (h : fM w = 33#7) : decode32 w = decMajor10 w := by unfold decode32; rw [h]; rfl
theorem decode32_11 {w : BitVec 32} (h : fM w = 35#7) : decode32 w = decMajor11 w := by unfold decode32; rw [h]; rfl
theorem decode32_12 {w : BitVec 32} (h : fM w = 37#7) : decode32 w = decMajor12 w := by unfold decode32; rw [h]; rfl
theorem decode32_13 {w : BitVec 32} (h : fM w = 39#7) : decode32 w = decMajor13 w := by unfold decode32; rw [h]; rfl
theorem decode32_18 {w : BitVec 32} (h : fM w = 49#7) : decode32 w = decMajor18 w := by unfold decode32; rw [h]; rfl
theorem decode32_19 {w : BitVec 32} (h : fM w = 51#7) : decode32 w = decMajor19 w := by unfold decode32; rw [h]; rfl
theorem decode32_1A {w : BitVec 32} (h : fM w = 53#7) : decode32 w = decMajor1A w := by unfold decode32; rw [h]; rfl
theorem decode32_1B {w : BitVec 32} (h : fM w = 55#7) : decode32 w = decMajor1B w := by unfold decode32; rw [h]; rfl
theorem decode32_1C {w : BitVec 32} (h : fM w = 57#7) : decode32 w = decMajor1C w := by unfold decode32; rw [h]; rfl
theorem decode32_1D {w : BitVec 32} (h : fM w = 59#7) : decode32 w = decMajor1D w := by unfold decode32; rw [h]; rfl
theorem decode32_1E {w : BitVec 32} (h : fM w = 61#7) : decode32 w = decMajor1E w := by unfold decode32; rw [h]; rfl
theorem decode32_1F {w : BitVec 32} (h : fM w = 63#7) : decode32 w = decMajor1F w := by unfold decode32; rw [h]; rfl
theorem decode32_20 {w : BitVec 32} (h : fM w = 65#7) : decode32 w = decMajor20 w := by unfold decode32; rw [h]; rfl
theorem decode32_21 {w : BitVec 32} (h : fM w = 67#7) : decode32 w = decMajor21 w := by unfold decode32; rw [h]; rfl
theorem decode32_22 {w : BitVec 32} (h : fM w = 69#7) : decode32 w = decMajor22 w := by unfold decode32; rw [h]; rfl
theorem decode32_23 {w : BitVec 32} (h : fM w = 71#7) : decode32 w = decMajor23 w := by unfold decode32; rw [h]; rfl
theorem decode32_24 {w : BitVec 32} (h : fM w = 73#7) : decode32 w = decMajor24 w := by unfold decode32; rw [h]; rfl
theorem decode32_25 {w : BitVec 32} (h : fM w = 75#7) : decode32 w = decMajor25 w := by unfold decode32; rw [h]; rfl
theorem decode32_26 {w : BitVec 32} (h : fM w = 77#7) : decode32 w = decMajor26 w := by unfold decode32; rw [h]; rfl
theorem decode32_28 {w : BitVec 32} (h : fM w = 81#7) : decode32 w = decMajor28 w := by unfold decode32; rw [h]; rfl
theorem decode32_29 {w : BitVec 32} (h : fM w = 83#7) : decode32 w = decMajor29 w := by unfold decode32; rw [h]; rfl
theorem decode32_2A {w : BitVec 32} (h : fM w = 85#7) : decode32 w = decMajor2A w := by unfold decode32; rw [h]; rfl
theorem decode32_2B {w : BitVec 32} (h : fM w = 87#7) : decode32 w = decMajor2B w := by unfold decode32; rw [h]; rfl
theorem decode32_2C {w : BitVec 32} (h : fM w = 89#7) : decode32 w = decMajor2C w := by unfold decode32; rw [h]; rfl
theorem decode32_2D {w : BitVec 32} (h : fM w = 91#7) : decode32 w = decMajor2D w := by unfold decode32; rw [h]; rfl
theorem decode32_30 {w : BitVec 32} (h : fM w = 97#7) : decode32 w = decMajor30 w := by unfold decode32; rw [h]; rfl
theorem decode32_34 {w : BitVec 32} (h : fM w = 105#7) : decode32 w = decMajor34 w := by unfold decode32; rw [h]; rfl
theorem decode32_35 {w : BitVec 32} (h : fM w = 107#7) : decode32 w = decMajor35 w := by unfold decode32; rw [h]; rfl
theorem decode32_38 {w : BitVec 32} (h : fM w = 113#7) : decode32 w = decMajor38 w := by unfold decode32; rw [h]; rfl
theorem decode32_3A {w : BitVec 32} (h : fM w = 117#7) : decode32 w = decMajor3A w := by unfold decode32; rw [h]; rfl
theorem decode32_3C {w : BitVec 32} (h : fM w = 121#7) : decode32 w = decMajor3C w := by unfold decode32; rw [h]; rfl
theorem decode32_3D {w : BitVec 32} (h : fM w = 123#7) : decode32 w = decMajor3D w := by unfold decode32; rw [h]; rfl
theorem decode32_3E {w : BitVec 32} (h : fM w = 125#7) : decode32 w = decMajor3E w := by unfold decode32; rw [h]; rfl

end Sys2Proof
end

