-- ==== Sys2Proof/Laws/Memory.lean ====
section
/-! SUPPORT. Memory: what a written byte reads as, that every other byte stays, and that every operation which writes memory keeps the
canonical form. -/

namespace Sys2Proof.Machine

/-! ### The canonical form -/

/-- The form says, at each entry, that its byte is not 0 and that the later addresses lie above it. -/
theorem wf_cons (k : Nat) (b : Byte) (t : Cells) : Cells.wf ((k, b) :: t) = true ↔ b ≠ 0 ∧ (∀ x ∈ t, k < x.1) ∧ Cells.wf t = true := by
  induction t generalizing k b with
  | nil => simp [Cells.wf]
  | cons y t ih =>
    obtain ⟨k', b'⟩ := y
    simp only [Cells.wf, Bool.and_eq_true, bne_iff_ne, ne_eq, decide_eq_true_eq, List.mem_cons, forall_eq_or_imp]
    constructor
    · rintro ⟨⟨hb, hk⟩, ht⟩
      refine ⟨hb, ⟨hk, fun x hx => ?_⟩, ht⟩
      exact Nat.lt_trans hk (((ih k' b').mp ht).2.1 x hx)
    · rintro ⟨hb, ⟨hk, -⟩, ht⟩
      exact ⟨⟨hb, hk⟩, ht⟩
@[simp] theorem wf_nil : Cells.wf [] = true := rfl
/-- Below the first entry every address reads 0. -/
theorem cget_above (t : Cells) (a : Nat) (h : ∀ x ∈ t, a < x.1) : cget t a = 0 := by
  induction t with
  | nil => rfl
  | cons y t ih =>
    obtain ⟨k, b⟩ := y
    have hk : a < k := h (k, b) (List.mem_cons_self ..)
    simp only [cget, if_neg (by omega : ¬ k = a)]
    exact ih (fun x hx => h x (List.mem_cons_of_mem _ hx))
/-- A write adds no address but its own. -/
theorem mem_cput {m : Cells} {a : Nat} {b : Byte} {x : Nat × Byte} (h : x ∈ cput m a b) : x = (a, b) ∨ x ∈ m := by
  induction m with
  | nil => exact .inl (by simpa [cput] using h)
  | cons y t ih =>
    obtain ⟨k, c⟩ := y
    simp only [cput] at h
    split at h
    · rcases List.mem_cons.mp h with h | h
      · exact .inr (h ▸ List.mem_cons_self ..)
      · exact (ih h).imp_right (List.mem_cons_of_mem _)
    · split at h <;> rcases List.mem_cons.mp h with h | h
      · exact .inl h
      · exact .inr (List.mem_cons_of_mem _ h)
      · exact .inl h
      · exact .inr h
theorem wf_cput {m : Cells} (a : Nat) (b : Byte) (hb : b ≠ 0) (h : Cells.wf m = true) : Cells.wf (cput m a b) = true := by
  induction m with
  | nil => simpa [cput, Cells.wf] using hb
  | cons y t ih =>
    obtain ⟨k, c⟩ := y
    obtain ⟨hc, hk, ht⟩ := (wf_cons k c t).mp h
    simp only [cput]
    split
    · rename_i hka
      refine (wf_cons ..).mpr ⟨hc, fun x hx => ?_, ih ht⟩
      rcases mem_cput hx with rfl | hx
      · exact hka
      · exact hk x hx
    · split
      · rename_i hka
        exact (wf_cons ..).mpr ⟨hb, fun x hx => hka ▸ hk x hx, ht⟩
      · refine (wf_cons ..).mpr ⟨hb, fun x hx => ?_, h⟩
        rcases List.mem_cons.mp hx with rfl | hx
        · show a < k; omega
        · have := hk x hx; omega
theorem wf_filter (m : Cells) (p : Nat × Byte → Bool) (h : Cells.wf m = true) : Cells.wf (m.filter p) = true := by
  induction m with
  | nil => rfl
  | cons y t ih =>
    obtain ⟨k, c⟩ := y
    obtain ⟨hc, hk, ht⟩ := (wf_cons k c t).mp h
    simp only [List.filter]
    split
    · exact (wf_cons ..).mpr ⟨hc, fun x hx => hk x (List.mem_filter.mp hx).1, ih ht⟩
    · exact ih ht
/-- A write keeps the canonical form. -/
theorem wf_cset {m : Cells} (a : Nat) (b : Byte) (h : Cells.wf m = true) : Cells.wf (cset m a b) = true := by
  unfold cset; split
  · exact wf_filter m _ h
  · exact wf_cput a b ‹_› h
theorem cget_cput (m : Cells) (a : Nat) (b : Byte) (i : Nat) : cget (cput m a b) i = if i = a then b else cget m i := by
  induction m with
  | nil => simp only [cput, cget, eq_comm (a := i)]
  | cons y t ih =>
    obtain ⟨k, c⟩ := y
    simp only [cput]
    split
    · rename_i hka
      simp only [cget, ih]
      split
      · rename_i hki; rw [if_neg (by omega)]
      · rfl
    · split
      · rename_i hka; subst hka
        simp only [cget, eq_comm (a := i)]
        split <;> rfl
      · simp only [cget, eq_comm (a := i)]
theorem cget_filter (m : Cells) (a i : Nat) : cget (m.filter (fun x => x.1 != a)) i = if i = a then 0 else cget m i := by
  induction m with
  | nil => simp [cget]
  | cons y t ih =>
    obtain ⟨k, c⟩ := y
    by_cases hk : k = a
    · subst hk
      simp only [List.filter, bne_self_eq_false, ih, cget]
      split
      · rfl
      · rw [if_neg (by omega)]
    · simp only [List.filter, bne_iff_ne.mpr hk, cget, ih]
      split
      · rename_i hi; rw [if_neg (by omega)]
      · rfl
/-- A byte reads as what was written there; every other byte stays. -/
theorem cget_cset (m : Cells) (a : Nat) (b : Byte) (i : Nat) : cget (cset m a b) i = if i = a then b else cget m i := by
  unfold cset; split
  · rename_i hb; rw [cget_filter, hb]
  · exact cget_cput m a b i
/-- A run of writes keeps the canonical form. -/
theorem wf_cwrites {m : Cells} (a : Nat) (bs : List Byte) (h : Cells.wf m = true) : Cells.wf (cwrites m a bs) = true := by
  induction bs generalizing m a with
  | nil => exact h
  | cons b bs ih => exact ih (a + 1) (wf_cset a b h)
/-- A run of bytes reads as what was written there; every other byte stays. -/
theorem cget_cwrites (m : Cells) (a : Nat) (bs : List Byte) (i : Nat) :
    cget (cwrites m a bs) i = if a ≤ i ∧ i < a + bs.length then bs.getD (i - a) 0 else cget m i := by
  induction bs generalizing m a with
  | nil =>
    rw [if_neg (by rintro ⟨h1, h2⟩; simp only [List.length_nil] at h2; omega)]
    rfl
  | cons b bs ih =>
    simp only [cwrites, ih, cget_cset, List.length_cons]
    by_cases h1 : i = a
    · subst h1; rw [if_neg (by omega), if_pos rfl, if_pos (by omega)]; simp
    · by_cases h2 : a + 1 ≤ i ∧ i < a + 1 + bs.length
      · rw [if_pos h2, if_pos (by omega), show i - a = (i - (a + 1)) + 1 by omega]; simp
      · rw [if_neg h2, if_neg h1, if_neg (by omega)]
/-- Bytes written together read back together. -/
theorem creads_cwrites (m : Cells) (a : Nat) (bs : List Byte) : creads (cwrites m a bs) a bs.length = bs := by
  suffices h : ∀ n k, n + k = bs.length → creads (cwrites m a bs) (a + k) n = bs.drop k by simpa using h bs.length 0 (by omega)
  intro n
  induction n with
  | zero => intro k hk; simp [creads, show k = bs.length by omega]
  | succ n ih =>
    intro k hk
    have hlt : k < bs.length := by omega
    rw [creads, Nat.add_assoc, ih (k + 1) (by omega), cget_cwrites, if_pos (by omega), List.drop_eq_getElem_cons hlt]
    simp [show a + k - a = k by omega, hlt]

/-! ### The banks leave the bytes as they are -/

@[simp] theorem onBank_bytes (m : MemSys) (l : Nat) (f : Bank → Bank) : (m.onBank l f).bytes = m.bytes := rfl
@[simp] theorem onStats_bytes (m : MemSys) (p : Option PartId) (f : L2Stats → L2Stats) : (m.onStats p f).bytes = m.bytes := by
  cases p <;> rfl
@[simp] theorem fill_bytes (m : MemSys) (l : Nat) (c : Carry) (a : Bool) : (m.fill l c a).bytes = m.bytes := by
  simp only [MemSys.fill]; split <;> simp
@[simp] theorem ownEntry_bytes (m : MemSys) (l : Nat) : (m.ownEntry l).bytes = m.bytes := by
  simp only [MemSys.ownEntry]; repeat' (first | rfl | split)
@[simp] theorem spoil_bytes (m : MemSys) (l : Nat) : (m.spoil l).bytes = m.bytes := ownEntry_bytes ..
@[simp] theorem redomain_bytes (m : MemSys) (l : Nat) (t : L2Tag) (c : Carry) : (m.redomain l t c).bytes = m.bytes := by
  simp only [MemSys.redomain]; repeat' (first | rfl | split)
  simp
@[simp] theorem touch_bytes (m : MemSys) (l : Nat) (c : Carry) : (m.touch l c).bytes = m.bytes := by
  simp only [MemSys.touch]; split
  · exact fill_bytes ..
  · split <;> simp only [onBank_bytes, redomain_bytes] <;> split <;> simp
@[simp] theorem bump_bytes (m : MemSys) (l : Nat) : (m.bump l).bytes = m.bytes := by
  simp only [MemSys.bump]; split
  · rfl
  · split <;> simp
@[simp] theorem note_bytes (m : MemSys) (p : PartId) (n : Nat) (ds : List Nat) : (m.note p n ds).bytes = m.bytes := by
  simp only [MemSys.note]; split <;> rfl
@[simp] theorem noteAccess_bytes (m : MemSys) (ms : Bool) (l : Nat) (c : Carry) : (m.noteAccess ms l c).bytes = m.bytes := by
  simp only [MemSys.noteAccess]; repeat' (first | rfl | exact note_bytes .. | split)
@[simp] theorem expel_bytes (m : MemSys) (l : Nat) : (m.expel l).bytes = m.bytes := by
  simp only [MemSys.expel]; split <;> rfl
@[simp] theorem reach_bytes (m : MemSys) (ms : Bool) (l : Nat) (c : Carry) : (m.reach ms l c).bytes = m.bytes := by
  cases ms <;> simp [MemSys.reach]
@[simp] theorem twin_bytes (m : MemSys) (l : Nat) : (m.twin l).bytes = m.bytes := by
  simp only [MemSys.twin]; repeat' (first | rfl | split)
  all_goals simp

/-! ### Accesses -/

/-- A fold whose steps keep a property keeps it. -/
theorem foldl_keeps {α β : Type} (P : α → Prop) (f : α → β → α) (hf : ∀ a b, P a → P (f a b)) (l : List β) {a : α} (h : P a) : P (l.foldl f a) := by
  induction l generalizing a with
  | nil => exact h
  | cons b l ih => exact ih (hf a b h)
/-- A read leaves every byte as it is. -/
theorem readPart_bytes (m : MemSys) (p : Part) (c : Carry) : (m.readPart p c).1.bytes = m.bytes := by
  simp only [MemSys.readPart]
  refine foldl_keeps (fun x : MemSys => x.bytes = m.bytes) _ (fun x l h => ?_) _ rfl
  simpa using h
theorem readParts_bytes (m : MemSys) (ps : List Part) (c : Carry) : (m.readParts ps c).1.bytes = m.bytes := by
  simp only [MemSys.readParts]
  refine foldl_keeps (fun x : MemSys × List Byte × Bool => x.1.bytes = m.bytes) _ (fun x p h => ?_) _ rfl
  exact (readPart_bytes ..).trans h
/-- A write at one line writes its bytes there and no other. -/
@[simp] theorem writeKeyed_bytes (m : MemSys) (k : Option Nat) (ms : Bool) (c : Carry) (bad : Bool) (l pa : Nat) (bs : List Byte) :
    (m.writeKeyed k ms c bad l pa bs).bytes = cwrites m.bytes pa bs := by
  cases ms <;> simp [MemSys.writeKeyed]
@[simp] theorem writeLine_bytes (m : MemSys) (p : Part) (c : Carry) (bad : Bool) (l pa : Nat) (bs : List Byte) :
    (m.writeLine p c bad l pa bs).bytes = cwrites m.bytes pa bs := writeKeyed_bytes ..
/-- A write of a part keeps the canonical form. -/
theorem wf_writePart {m : MemSys} (p : Part) (c : Carry) (bad : Bool) (bs : List Byte) (h : Memory.wf m.bytes = true) :
    Memory.wf (m.writePart p c bad bs).bytes = true := by
  unfold MemSys.writePart
  refine foldl_keeps (fun x : MemSys => Memory.wf x.bytes = true) _ (fun x l h => ?_) _ h
  rw [writeLine_bytes]; exact wf_cwrites _ _ h
/-- A write of several parts keeps the canonical form. -/
theorem wf_writeParts {m : MemSys} (ps : List Part) (c : Carry) (bad : Bool) (bs : List Byte) (h : Memory.wf m.bytes = true) :
    Memory.wf (m.writeParts ps c bad bs).bytes = true := by
  unfold MemSys.writeParts
  exact foldl_keeps (fun x : MemSys × List Byte => Memory.wf x.1.bytes = true) _ (fun x p h => wf_writePart _ _ _ _ h) _ h
/-- A write at its home keeps the canonical form. -/
theorem wf_writeHome {s : State} (p : PartId) (va : Word) (ps : List Part) (ef bad : Bool) (bs : List Byte) (h : Memory.wf s.mem.bytes = true) :
    Memory.wf (s.writeHome p va ps ef bad bs).mem.bytes = true := wf_writeParts _ _ _ _ h
/-- The write of a read-modify-write keeps it too. -/
theorem wf_updateHome {s : State} (p : PartId) (va : Word) (ps : List Part) (bad : Bool) (bs : List Byte) (h : Memory.wf s.mem.bytes = true) :
    Memory.wf (s.updateHome p va ps bad bs).mem.bytes = true := wf_writeParts _ _ _ _ h
/-- A read at its home leaves every byte as it is. -/
theorem readHome_bytes (s : State) (p : PartId) (va : Word) (ps : List Part) (ef : Bool) : (s.readHome p va ps ef).1.mem.bytes = s.mem.bytes := by
  simp only [State.readHome]; exact readParts_bytes ..
/-- The memory right after reset is canonical. -/
theorem wf_reset : Memory.wf State.reset.mem.bytes = true := rfl
/-- Placing a word keeps the canonical form. -/
theorem wf_withFetchWord {s : State} (n w : Nat) (h : Memory.wf s.mem.bytes = true) : Memory.wf (s.withFetchWord n w).mem.bytes = true :=
  wf_cwrites _ _ (wf_cwrites _ _ (wf_cwrites _ _ (wf_cwrites _ _ h)))

end Sys2Proof.Machine
end

