-- ==== Sys2Proof/Laws/State.lean ====
section
/-! SUPPORT. What each update of the state leaves as it is, field by field, and that what is written reads back. -/

namespace Sys2Proof.Machine

/-! ### The module -/

@[simp] theorem State.setCoreAt_core (s : State) (c : CoreId) (x : Core) : (s.setCoreAt c x).core = s.core := rfl
@[simp] theorem State.setCoreAt_desk (s : State) (c : CoreId) (x : Core) : (s.setCoreAt c x).desk = s.desk := rfl
@[simp] theorem State.setCoreAt_mem (s : State) (c : CoreId) (x : Core) : (s.setCoreAt c x).mem = s.mem := rfl
@[simp] theorem State.setCoreAt_parts (s : State) (c : CoreId) (x : Core) : (s.setCoreAt c x).parts = s.parts := rfl
@[simp] theorem State.setCoreAt_launches (s : State) (c : CoreId) (x : Core) : (s.setCoreAt c x).launches = s.launches := rfl
@[simp] theorem State.setCoreAt_turns (s : State) (c : CoreId) (x : Core) : (s.setCoreAt c x).turns = s.turns := rfl
@[simp] theorem State.setCoreAt_tick (s : State) (c : CoreId) (x : Core) : (s.setCoreAt c x).tick = s.tick := rfl
@[simp] theorem State.setCoreAt_device (s : State) (c : CoreId) (x : Core) : (s.setCoreAt c x).device = s.device := rfl
@[simp] theorem State.setCoreAt_sys (s : State) (c : CoreId) (x : Core) : (s.setCoreAt c x).sys = s.sys := rfl
@[simp] theorem State.setDeskAt_core (s : State) (c : CoreId) (i : DeskId) (d : Desk) : (s.setDeskAt c i d).core = s.core := rfl
@[simp] theorem State.setDeskAt_desk (s : State) (c : CoreId) (i : DeskId) (d : Desk) : (s.setDeskAt c i d).desk = s.desk := rfl
@[simp] theorem State.setDeskAt_mem (s : State) (c : CoreId) (i : DeskId) (d : Desk) : (s.setDeskAt c i d).mem = s.mem := rfl
@[simp] theorem State.setDeskAt_parts (s : State) (c : CoreId) (i : DeskId) (d : Desk) : (s.setDeskAt c i d).parts = s.parts := rfl
@[simp] theorem State.setDeskAt_launches (s : State) (c : CoreId) (i : DeskId) (d : Desk) : (s.setDeskAt c i d).launches = s.launches := rfl
@[simp] theorem State.setDeskAt_turns (s : State) (c : CoreId) (i : DeskId) (d : Desk) : (s.setDeskAt c i d).turns = s.turns := rfl
@[simp] theorem State.setDeskAt_tick (s : State) (c : CoreId) (i : DeskId) (d : Desk) : (s.setDeskAt c i d).tick = s.tick := rfl
@[simp] theorem State.setDeskAt_device (s : State) (c : CoreId) (i : DeskId) (d : Desk) : (s.setDeskAt c i d).device = s.device := rfl
@[simp] theorem State.setDeskAt_sys (s : State) (c : CoreId) (i : DeskId) (d : Desk) : (s.setDeskAt c i d).sys = s.sys := rfl
@[simp] theorem State.setC_core (s : State) (x : Core) : (s.setC x).core = s.core := rfl
@[simp] theorem State.setC_desk (s : State) (x : Core) : (s.setC x).desk = s.desk := rfl
@[simp] theorem State.setC_mem (s : State) (x : Core) : (s.setC x).mem = s.mem := rfl
@[simp] theorem State.setC_parts (s : State) (x : Core) : (s.setC x).parts = s.parts := rfl
@[simp] theorem State.setC_launches (s : State) (x : Core) : (s.setC x).launches = s.launches := rfl
@[simp] theorem State.setC_turns (s : State) (x : Core) : (s.setC x).turns = s.turns := rfl
@[simp] theorem State.setC_tick (s : State) (x : Core) : (s.setC x).tick = s.tick := rfl
@[simp] theorem State.setC_device (s : State) (x : Core) : (s.setC x).device = s.device := rfl
@[simp] theorem State.setC_sys (s : State) (x : Core) : (s.setC x).sys = s.sys := rfl
@[simp] theorem State.setD_core (s : State) (d : Desk) : (s.setD d).core = s.core := rfl
@[simp] theorem State.setD_desk (s : State) (d : Desk) : (s.setD d).desk = s.desk := rfl
@[simp] theorem State.setD_mem (s : State) (d : Desk) : (s.setD d).mem = s.mem := rfl
@[simp] theorem State.setD_parts (s : State) (d : Desk) : (s.setD d).parts = s.parts := rfl
@[simp] theorem State.setD_launches (s : State) (d : Desk) : (s.setD d).launches = s.launches := rfl
@[simp] theorem State.setD_turns (s : State) (d : Desk) : (s.setD d).turns = s.turns := rfl
@[simp] theorem State.setD_tick (s : State) (d : Desk) : (s.setD d).tick = s.tick := rfl
@[simp] theorem State.setD_device (s : State) (d : Desk) : (s.setD d).device = s.device := rfl
@[simp] theorem State.setD_sys (s : State) (d : Desk) : (s.setD d).sys = s.sys := rfl
@[simp] theorem State.setPart_cores (s : State) (p : PartId) (x : Partition) : (s.setPart p x).cores = s.cores := rfl
@[simp] theorem State.setPart_core (s : State) (p : PartId) (x : Partition) : (s.setPart p x).core = s.core := rfl
@[simp] theorem State.setPart_desk (s : State) (p : PartId) (x : Partition) : (s.setPart p x).desk = s.desk := rfl
@[simp] theorem State.setPart_mem (s : State) (p : PartId) (x : Partition) : (s.setPart p x).mem = s.mem := rfl
@[simp] theorem State.setPart_launches (s : State) (p : PartId) (x : Partition) : (s.setPart p x).launches = s.launches := rfl
@[simp] theorem State.setPart_turns (s : State) (p : PartId) (x : Partition) : (s.setPart p x).turns = s.turns := rfl
@[simp] theorem State.setPart_tick (s : State) (p : PartId) (x : Partition) : (s.setPart p x).tick = s.tick := rfl
@[simp] theorem State.setPart_device (s : State) (p : PartId) (x : Partition) : (s.setPart p x).device = s.device := rfl
@[simp] theorem State.setPart_sys (s : State) (p : PartId) (x : Partition) : (s.setPart p x).sys = s.sys := rfl
@[simp] theorem State.setLaunch_cores (s : State) (l : Nat) (x : Launch) : (s.setLaunch l x).cores = s.cores := rfl
@[simp] theorem State.setLaunch_core (s : State) (l : Nat) (x : Launch) : (s.setLaunch l x).core = s.core := rfl
@[simp] theorem State.setLaunch_desk (s : State) (l : Nat) (x : Launch) : (s.setLaunch l x).desk = s.desk := rfl
@[simp] theorem State.setLaunch_mem (s : State) (l : Nat) (x : Launch) : (s.setLaunch l x).mem = s.mem := rfl
@[simp] theorem State.setLaunch_parts (s : State) (l : Nat) (x : Launch) : (s.setLaunch l x).parts = s.parts := rfl
@[simp] theorem State.setLaunch_turns (s : State) (l : Nat) (x : Launch) : (s.setLaunch l x).turns = s.turns := rfl
@[simp] theorem State.setLaunch_tick (s : State) (l : Nat) (x : Launch) : (s.setLaunch l x).tick = s.tick := rfl
@[simp] theorem State.setLaunch_device (s : State) (l : Nat) (x : Launch) : (s.setLaunch l x).device = s.device := rfl
@[simp] theorem State.setLaunch_sys (s : State) (l : Nat) (x : Launch) : (s.setLaunch l x).sys = s.sys := rfl

@[simp] theorem State.coreAt_setCoreAt (s : State) (c : CoreId) (x : Core) : (s.setCoreAt c x).coreAt c = x := tget_tset_same ..
theorem State.coreAt_setCoreAt_other (s : State) (c k : CoreId) (x : Core) (h : k ≠ c) : (s.setCoreAt c x).coreAt k = s.coreAt k :=
  tget_tset_other _ _ _ _ _ (fun e => h (BitVec.eq_of_toNat_eq e))
@[simp] theorem Core.at_put (c : Core) (i : DeskId) (d : Desk) : (c.put i d).at i = d := by simp [Core.put, Core.at]
theorem Core.at_put_other (c : Core) (i j : DeskId) (d : Desk) (h : j ≠ i) : (c.put i d).at j = c.at j := by
  have : i.toNat ≠ j.toNat := fun e => h (BitVec.eq_of_toNat_eq e.symm)
  simp [Core.put, Core.at, this]
@[simp] theorem State.deskAt_setDeskAt (s : State) (c : CoreId) (i : DeskId) (d : Desk) : (s.setDeskAt c i d).deskAt c i = d := by
  simp [State.setDeskAt, State.deskAt]
theorem State.deskAt_setDeskAt_desk (s : State) (c : CoreId) (i j : DeskId) (d : Desk) (h : j ≠ i) :
    (s.setDeskAt c i d).deskAt c j = s.deskAt c j := by simp [State.setDeskAt, State.deskAt, Core.at_put_other _ _ _ _ h]
theorem State.deskAt_setDeskAt_core (s : State) (c k : CoreId) (i j : DeskId) (d : Desk) (h : k ≠ c) :
    (s.setDeskAt c i d).deskAt k j = s.deskAt k j := by
  simp [State.setDeskAt, State.deskAt, State.coreAt_setCoreAt_other _ _ _ _ h]
@[simp] theorem State.c_setC (s : State) (x : Core) : (s.setC x).c = x := by simp [State.setC, State.c]
@[simp] theorem State.d_setD (s : State) (d : Desk) : (s.setD d).d = d := by simp [State.setD, State.d]
@[simp] theorem State.c_setD (s : State) (d : Desk) : (s.setD d).c = s.c.put s.desk d := by simp [State.setD, State.setDeskAt, State.c]
@[simp] theorem State.partAt_setPart (s : State) (p : PartId) (x : Partition) : (s.setPart p x).partAt p = x := tget_tset_same ..
@[simp] theorem State.launchAt_setLaunch (s : State) (l : Nat) (x : Launch) : (s.setLaunch l x).launchAt l = x := tget_tset_same ..
@[simp] theorem State.launchAt_setD (s : State) (d : Desk) (l : Nat) : (s.setD d).launchAt l = s.launchAt l := rfl
@[simp] theorem State.partAt_setD (s : State) (d : Desk) (p : PartId) : (s.setD d).partAt p = s.partAt p := rfl
@[simp] theorem State.coreAt_setPart (s : State) (p : PartId) (x : Partition) (c : CoreId) : (s.setPart p x).coreAt c = s.coreAt c := rfl
@[simp] theorem State.coreAt_setLaunch (s : State) (l : Nat) (x : Launch) (c : CoreId) : (s.setLaunch l x).coreAt c = s.coreAt c := rfl
@[simp] theorem State.d_setPart (s : State) (p : PartId) (x : Partition) : (s.setPart p x).d = s.d := rfl
@[simp] theorem State.d_setLaunch (s : State) (l : Nat) (x : Launch) : (s.setLaunch l x).d = s.d := rfl
/-- Another core keeps its state when a desk is written. -/
theorem State.coreAt_setD_other (s : State) (d : Desk) (k : CoreId) (h : k ≠ s.core) : (s.setD d).coreAt k = s.coreAt k :=
  State.coreAt_setCoreAt_other _ _ _ _ h

/-! ### A core -/

@[simp] theorem Core.put_desk (c : Core) (i : DeskId) (d : Desk) : (c.put i d).desk = c.desk := rfl
@[simp] theorem Core.put_pad (c : Core) (i : DeskId) (d : Desk) : (c.put i d).pad = c.pad := rfl
@[simp] theorem Core.put_padPoison (c : Core) (i : DeskId) (d : Desk) : (c.put i d).padPoison = c.padPoison := rfl
@[simp] theorem Core.put_bells (c : Core) (i : DeskId) (d : Desk) : (c.put i d).bells = c.bells := rfl
@[simp] theorem Core.put_l1gen (c : Core) (i : DeskId) (d : Desk) : (c.put i d).l1gen = c.l1gen := rfl
@[simp] theorem Core.put_l1 (c : Core) (i : DeskId) (d : Desk) : (c.put i d).l1 = c.l1 := rfl
@[simp] theorem Core.put_work (c : Core) (i : DeskId) (d : Desk) : (c.put i d).work = c.work := rfl
@[simp] theorem Core.put_spared (c : Core) (i : DeskId) (d : Desk) : (c.put i d).spared = c.spared := rfl
@[simp] theorem Core.put_lost (c : Core) (i : DeskId) (d : Desk) : (c.put i d).lost = c.lost := rfl
@[simp] theorem Core.put_retiring (c : Core) (i : DeskId) (d : Desk) : (c.put i d).retiring = c.retiring := rfl
@[simp] theorem Core.put_tiles (c : Core) (i : DeskId) (d : Desk) : (c.put i d).tiles = c.tiles := rfl
@[simp] theorem Core.put_mx (c : Core) (i : DeskId) (d : Desk) : (c.put i d).mx = c.mx := rfl
@[simp] theorem Core.put_key (c : Core) (i : DeskId) (d : Desk) : (c.put i d).key = c.key := rfl
@[simp] theorem Core.put_inq (c : Core) (i : DeskId) (d : Desk) : (c.put i d).inq = c.inq := rfl
@[simp] theorem Core.put_mail (c : Core) (i : DeskId) (d : Desk) : (c.put i d).mail = c.mail := rfl

/-! ### A desk -/

@[simp] theorem Desk.setV_occ (d : Desk) (r : GReg) (x : Vec) (b : Bool) : (d.setV r x b).occ = d.occ := rfl
@[simp] theorem Desk.setV_quit (d : Desk) (r : GReg) (x : Vec) (b : Bool) : (d.setV r x b).quit = d.quit := rfl
@[simp] theorem Desk.setV_stopped (d : Desk) (r : GReg) (x : Vec) (b : Bool) : (d.setV r x b).stopped = d.stopped := rfl
@[simp] theorem Desk.setV_parked (d : Desk) (r : GReg) (x : Vec) (b : Bool) : (d.setV r x b).parked = d.parked := rfl
@[simp] theorem Desk.setV_user (d : Desk) (r : GReg) (x : Vec) (b : Bool) : (d.setV r x b).user = d.user := rfl
@[simp] theorem Desk.setV_gu (d : Desk) (r : GReg) (x : Vec) (b : Bool) : (d.setV r x b).gu = d.gu := rfl
@[simp] theorem Desk.setV_gs (d : Desk) (r : GReg) (x : Vec) (b : Bool) : (d.setV r x b).gs = d.gs := rfl
@[simp] theorem Desk.setV_gup (d : Desk) (r : GReg) (x : Vec) (b : Bool) : (d.setV r x b).gup = d.gup := rfl
@[simp] theorem Desk.setV_gsp (d : Desk) (r : GReg) (x : Vec) (b : Bool) : (d.setV r x b).gsp = d.gsp := rfl
@[simp] theorem Desk.setV_p (d : Desk) (r : GReg) (x : Vec) (b : Bool) : (d.setV r x b).p = d.p := rfl
@[simp] theorem Desk.setV_k (d : Desk) (r : GReg) (x : Vec) (b : Bool) : (d.setV r x b).k = d.k := rfl
@[simp] theorem Desk.setV_q (d : Desk) (r : GReg) (x : Vec) (b : Bool) : (d.setV r x b).q = d.q := rfl
@[simp] theorem Desk.setV_vq (d : Desk) (r : GReg) (x : Vec) (b : Bool) : (d.setV r x b).vq = d.vq := rfl
@[simp] theorem Desk.setV_lc (d : Desk) (r : GReg) (x : Vec) (b : Bool) : (d.setV r x b).lc = d.lc := rfl
@[simp] theorem Desk.setV_rep (d : Desk) (r : GReg) (x : Vec) (b : Bool) : (d.setV r x b).rep = d.rep := rfl
@[simp] theorem Desk.setV_pc (d : Desk) (r : GReg) (x : Vec) (b : Bool) : (d.setV r x b).pc = d.pc := rfl
@[simp] theorem Desk.setV_len (d : Desk) (r : GReg) (x : Vec) (b : Bool) : (d.setV r x b).len = d.len := rfl
@[simp] theorem Desk.setV_dict (d : Desk) (r : GReg) (x : Vec) (b : Bool) : (d.setV r x b).dict = d.dict := rfl
@[simp] theorem Desk.setV_xword (d : Desk) (r : GReg) (x : Vec) (b : Bool) : (d.setV r x b).xword = d.xword := rfl
@[simp] theorem Desk.setV_jump (d : Desk) (r : GReg) (x : Vec) (b : Bool) : (d.setV r x b).jump = d.jump := rfl
@[simp] theorem Desk.setV_latch (d : Desk) (r : GReg) (x : Vec) (b : Bool) : (d.setV r x b).latch = d.latch := rfl
@[simp] theorem Desk.setV_wait (d : Desk) (r : GReg) (x : Vec) (b : Bool) : (d.setV r x b).wait = d.wait := rfl
@[simp] theorem Desk.setV_cast (d : Desk) (r : GReg) (x : Vec) (b : Bool) : (d.setV r x b).cast = d.cast := rfl
@[simp] theorem Desk.setV_mark (d : Desk) (r : GReg) (x : Vec) (b : Bool) : (d.setV r x b).mark = d.mark := rfl
@[simp] theorem Desk.setV_pend (d : Desk) (r : GReg) (x : Vec) (b : Bool) : (d.setV r x b).pend = d.pend := rfl
@[simp] theorem Desk.setV_walk (d : Desk) (r : GReg) (x : Vec) (b : Bool) : (d.setV r x b).walk = d.walk := rfl
@[simp] theorem Desk.setV_seen (d : Desk) (r : GReg) (x : Vec) (b : Bool) : (d.setV r x b).seen = d.seen := rfl
@[simp] theorem Desk.setV_sq (d : Desk) (r : GReg) (x : Vec) (b : Bool) : (d.setV r x b).sq = d.sq := rfl
@[simp] theorem Desk.setV_cw (d : Desk) (r : GReg) (x : Vec) (b : Bool) : (d.setV r x b).cw = d.cw := rfl
@[simp] theorem Desk.setV_fences (d : Desk) (r : GReg) (x : Vec) (b : Bool) : (d.setV r x b).fences = d.fences := rfl
@[simp] theorem Desk.setV_xfers (d : Desk) (r : GReg) (x : Vec) (b : Bool) : (d.setV r x b).xfers = d.xfers := rfl
@[simp] theorem Desk.setV_gen (d : Desk) (r : GReg) (x : Vec) (b : Bool) : (d.setV r x b).gen = d.gen := rfl
@[simp] theorem Desk.setV_grant (d : Desk) (r : GReg) (x : Vec) (b : Bool) : (d.setV r x b).grant = d.grant := rfl
@[simp] theorem Desk.setV_xcause (d : Desk) (r : GReg) (x : Vec) (b : Bool) : (d.setV r x b).xcause = d.xcause := rfl
@[simp] theorem Desk.setV_xval (d : Desk) (r : GReg) (x : Vec) (b : Bool) : (d.setV r x b).xval = d.xval := rfl
@[simp] theorem Desk.setV_xpc (d : Desk) (r : GReg) (x : Vec) (b : Bool) : (d.setV r x b).xpc = d.xpc := rfl
@[simp] theorem Desk.setV_xstat (d : Desk) (r : GReg) (x : Vec) (b : Bool) : (d.setV r x b).xstat = d.xstat := rfl
@[simp] theorem Desk.setV_xvec (d : Desk) (r : GReg) (x : Vec) (b : Bool) : (d.setV r x b).xvec = d.xvec := rfl
@[simp] theorem Desk.setV_xscr (d : Desk) (r : GReg) (x : Vec) (b : Bool) : (d.setV r x b).xscr = d.xscr := rfl
@[simp] theorem Desk.setV_svec (d : Desk) (r : GReg) (x : Vec) (b : Bool) : (d.setV r x b).svec = d.svec := rfl
@[simp] theorem Desk.setV_sscr (d : Desk) (r : GReg) (x : Vec) (b : Bool) : (d.setV r x b).sscr = d.sscr := rfl
@[simp] theorem Desk.setV_ucause (d : Desk) (r : GReg) (x : Vec) (b : Bool) : (d.setV r x b).ucause = d.ucause := rfl
@[simp] theorem Desk.setV_uval (d : Desk) (r : GReg) (x : Vec) (b : Bool) : (d.setV r x b).uval = d.uval := rfl
@[simp] theorem Desk.setV_upc (d : Desk) (r : GReg) (x : Vec) (b : Bool) : (d.setV r x b).upc = d.upc := rfl
@[simp] theorem Desk.setV_ustat (d : Desk) (r : GReg) (x : Vec) (b : Bool) : (d.setV r x b).ustat = d.ustat := rfl
@[simp] theorem Desk.setV_rtreq (d : Desk) (r : GReg) (x : Vec) (b : Bool) : (d.setV r x b).rtreq = d.rtreq := rfl
@[simp] theorem Desk.setV_reports (d : Desk) (r : GReg) (x : Vec) (b : Bool) : (d.setV r x b).reports = d.reports := rfl
@[simp] theorem Desk.setV_fflags (d : Desk) (r : GReg) (x : Vec) (b : Bool) : (d.setV r x b).fflags = d.fflags := rfl
@[simp] theorem Desk.setV_frm (d : Desk) (r : GReg) (x : Vec) (b : Bool) : (d.setV r x b).frm = d.frm := rfl
@[simp] theorem Desk.setV_srseed (d : Desk) (r : GReg) (x : Vec) (b : Bool) : (d.setV r x b).srseed = d.srseed := rfl
@[simp] theorem Desk.setV_ctxid (d : Desk) (r : GReg) (x : Vec) (b : Bool) : (d.setV r x b).ctxid = d.ctxid := rfl
@[simp] theorem Desk.setV_part (d : Desk) (r : GReg) (x : Vec) (b : Bool) : (d.setV r x b).part = d.part := rfl
@[simp] theorem Desk.setV_shareIx (d : Desk) (r : GReg) (x : Vec) (b : Bool) : (d.setV r x b).shareIx = d.shareIx := rfl
@[simp] theorem Desk.setV_shareCt (d : Desk) (r : GReg) (x : Vec) (b : Bool) : (d.setV r x b).shareCt = d.shareCt := rfl
@[simp] theorem Desk.setV_stage (d : Desk) (r : GReg) (x : Vec) (b : Bool) : (d.setV r x b).stage = d.stage := rfl
@[simp] theorem Desk.setV_exch (d : Desk) (r : GReg) (x : Vec) (b : Bool) : (d.setV r x b).exch = d.exch := rfl
@[simp] theorem Desk.setV_sscnt (d : Desk) (r : GReg) (x : Vec) (b : Bool) : (d.setV r x b).sscnt = d.sscnt := rfl
@[simp] theorem Desk.setV_cntbase (d : Desk) (r : GReg) (x : Vec) (b : Bool) : (d.setV r x b).cntbase = d.cntbase := rfl
@[simp] theorem Desk.setV_vprog (d : Desk) (r : GReg) (x : Vec) (b : Bool) : (d.setV r x b).vprog = d.vprog := rfl
@[simp] theorem Desk.setV_icnt (d : Desk) (r : GReg) (x : Vec) (b : Bool) : (d.setV r x b).icnt = d.icnt := rfl
@[simp] theorem Desk.setV_tfinfo (d : Desk) (r : GReg) (x : Vec) (b : Bool) : (d.setV r x b).tfinfo = d.tfinfo := rfl
@[simp] theorem Desk.setV_bp (d : Desk) (r : GReg) (x : Vec) (b : Bool) : (d.setV r x b).bp = d.bp := rfl
@[simp] theorem Desk.setV_stepcnt (d : Desk) (r : GReg) (x : Vec) (b : Bool) : (d.setV r x b).stepcnt = d.stepcnt := rfl
@[simp] theorem Desk.setV_bb (d : Desk) (r : GReg) (x : Vec) (b : Bool) : (d.setV r x b).bb = d.bb := rfl
@[simp] theorem Desk.setV_snaps (d : Desk) (r : GReg) (x : Vec) (b : Bool) : (d.setV r x b).snaps = d.snaps := rfl
@[simp] theorem Desk.setV_tokens (d : Desk) (r : GReg) (x : Vec) (b : Bool) : (d.setV r x b).tokens = d.tokens := rfl
@[simp] theorem Desk.setV_idleUntil (d : Desk) (r : GReg) (x : Vec) (b : Bool) : (d.setV r x b).idleUntil = d.idleUntil := rfl
@[simp] theorem Desk.setV_launch (d : Desk) (r : GReg) (x : Vec) (b : Bool) : (d.setV r x b).launch = d.launch := rfl
@[simp] theorem Desk.setV_kern (d : Desk) (r : GReg) (x : Vec) (b : Bool) : (d.setV r x b).kern = d.kern := rfl
@[simp] theorem Desk.setV_text (d : Desk) (r : GReg) (x : Vec) (b : Bool) : (d.setV r x b).text = d.text := rfl
@[simp] theorem Desk.setV_base (d : Desk) (r : GReg) (x : Vec) (b : Bool) : (d.setV r x b).base = d.base := rfl
@[simp] theorem Desk.setV_gang (d : Desk) (r : GReg) (x : Vec) (b : Bool) : (d.setV r x b).gang = d.gang := rfl
@[simp] theorem Desk.setV_sent (d : Desk) (r : GReg) (x : Vec) (b : Bool) : (d.setV r x b).sent = d.sent := rfl
@[simp] theorem Desk.setV_fwd (d : Desk) (r : GReg) (x : Vec) (b : Bool) : (d.setV r x b).fwd = d.fwd := rfl
@[simp] theorem Desk.setV_gangPc (d : Desk) (r : GReg) (x : Vec) (b : Bool) : (d.setV r x b).gangPc = d.gangPc := rfl
@[simp] theorem Desk.setV_hollow (d : Desk) (r : GReg) (x : Vec) (b : Bool) : (d.setV r x b).hollow = d.hollow := rfl
@[simp] theorem Desk.setP_occ (d : Desk) (p : PReg) (x : Word) : (d.setP p x).occ = d.occ := rfl
@[simp] theorem Desk.setP_quit (d : Desk) (p : PReg) (x : Word) : (d.setP p x).quit = d.quit := rfl
@[simp] theorem Desk.setP_stopped (d : Desk) (p : PReg) (x : Word) : (d.setP p x).stopped = d.stopped := rfl
@[simp] theorem Desk.setP_parked (d : Desk) (p : PReg) (x : Word) : (d.setP p x).parked = d.parked := rfl
@[simp] theorem Desk.setP_user (d : Desk) (p : PReg) (x : Word) : (d.setP p x).user = d.user := rfl
@[simp] theorem Desk.setP_gu (d : Desk) (p : PReg) (x : Word) : (d.setP p x).gu = d.gu := rfl
@[simp] theorem Desk.setP_gs (d : Desk) (p : PReg) (x : Word) : (d.setP p x).gs = d.gs := rfl
@[simp] theorem Desk.setP_gup (d : Desk) (p : PReg) (x : Word) : (d.setP p x).gup = d.gup := rfl
@[simp] theorem Desk.setP_gsp (d : Desk) (p : PReg) (x : Word) : (d.setP p x).gsp = d.gsp := rfl
@[simp] theorem Desk.setP_v (d : Desk) (p : PReg) (x : Word) : (d.setP p x).v = d.v := rfl
@[simp] theorem Desk.setP_vp (d : Desk) (p : PReg) (x : Word) : (d.setP p x).vp = d.vp := rfl
@[simp] theorem Desk.setP_k (d : Desk) (p : PReg) (x : Word) : (d.setP p x).k = d.k := rfl
@[simp] theorem Desk.setP_q (d : Desk) (p : PReg) (x : Word) : (d.setP p x).q = d.q := rfl
@[simp] theorem Desk.setP_vq (d : Desk) (p : PReg) (x : Word) : (d.setP p x).vq = d.vq := rfl
@[simp] theorem Desk.setP_lc (d : Desk) (p : PReg) (x : Word) : (d.setP p x).lc = d.lc := rfl
@[simp] theorem Desk.setP_rep (d : Desk) (p : PReg) (x : Word) : (d.setP p x).rep = d.rep := rfl
@[simp] theorem Desk.setP_pc (d : Desk) (p : PReg) (x : Word) : (d.setP p x).pc = d.pc := rfl
@[simp] theorem Desk.setP_len (d : Desk) (p : PReg) (x : Word) : (d.setP p x).len = d.len := rfl
@[simp] theorem Desk.setP_dict (d : Desk) (p : PReg) (x : Word) : (d.setP p x).dict = d.dict := rfl
@[simp] theorem Desk.setP_xword (d : Desk) (p : PReg) (x : Word) : (d.setP p x).xword = d.xword := rfl
@[simp] theorem Desk.setP_jump (d : Desk) (p : PReg) (x : Word) : (d.setP p x).jump = d.jump := rfl
@[simp] theorem Desk.setP_latch (d : Desk) (p : PReg) (x : Word) : (d.setP p x).latch = d.latch := rfl
@[simp] theorem Desk.setP_wait (d : Desk) (p : PReg) (x : Word) : (d.setP p x).wait = d.wait := rfl
@[simp] theorem Desk.setP_cast (d : Desk) (p : PReg) (x : Word) : (d.setP p x).cast = d.cast := rfl
@[simp] theorem Desk.setP_mark (d : Desk) (p : PReg) (x : Word) : (d.setP p x).mark = d.mark := rfl
@[simp] theorem Desk.setP_pend (d : Desk) (p : PReg) (x : Word) : (d.setP p x).pend = d.pend := rfl
@[simp] theorem Desk.setP_walk (d : Desk) (p : PReg) (x : Word) : (d.setP p x).walk = d.walk := rfl
@[simp] theorem Desk.setP_seen (d : Desk) (p : PReg) (x : Word) : (d.setP p x).seen = d.seen := rfl
@[simp] theorem Desk.setP_sq (d : Desk) (p : PReg) (x : Word) : (d.setP p x).sq = d.sq := rfl
@[simp] theorem Desk.setP_cw (d : Desk) (p : PReg) (x : Word) : (d.setP p x).cw = d.cw := rfl
@[simp] theorem Desk.setP_fences (d : Desk) (p : PReg) (x : Word) : (d.setP p x).fences = d.fences := rfl
@[simp] theorem Desk.setP_xfers (d : Desk) (p : PReg) (x : Word) : (d.setP p x).xfers = d.xfers := rfl
@[simp] theorem Desk.setP_gen (d : Desk) (p : PReg) (x : Word) : (d.setP p x).gen = d.gen := rfl
@[simp] theorem Desk.setP_grant (d : Desk) (p : PReg) (x : Word) : (d.setP p x).grant = d.grant := rfl
@[simp] theorem Desk.setP_xcause (d : Desk) (p : PReg) (x : Word) : (d.setP p x).xcause = d.xcause := rfl
@[simp] theorem Desk.setP_xval (d : Desk) (p : PReg) (x : Word) : (d.setP p x).xval = d.xval := rfl
@[simp] theorem Desk.setP_xpc (d : Desk) (p : PReg) (x : Word) : (d.setP p x).xpc = d.xpc := rfl
@[simp] theorem Desk.setP_xstat (d : Desk) (p : PReg) (x : Word) : (d.setP p x).xstat = d.xstat := rfl
@[simp] theorem Desk.setP_xvec (d : Desk) (p : PReg) (x : Word) : (d.setP p x).xvec = d.xvec := rfl
@[simp] theorem Desk.setP_xscr (d : Desk) (p : PReg) (x : Word) : (d.setP p x).xscr = d.xscr := rfl
@[simp] theorem Desk.setP_svec (d : Desk) (p : PReg) (x : Word) : (d.setP p x).svec = d.svec := rfl
@[simp] theorem Desk.setP_sscr (d : Desk) (p : PReg) (x : Word) : (d.setP p x).sscr = d.sscr := rfl
@[simp] theorem Desk.setP_ucause (d : Desk) (p : PReg) (x : Word) : (d.setP p x).ucause = d.ucause := rfl
@[simp] theorem Desk.setP_uval (d : Desk) (p : PReg) (x : Word) : (d.setP p x).uval = d.uval := rfl
@[simp] theorem Desk.setP_upc (d : Desk) (p : PReg) (x : Word) : (d.setP p x).upc = d.upc := rfl
@[simp] theorem Desk.setP_ustat (d : Desk) (p : PReg) (x : Word) : (d.setP p x).ustat = d.ustat := rfl
@[simp] theorem Desk.setP_rtreq (d : Desk) (p : PReg) (x : Word) : (d.setP p x).rtreq = d.rtreq := rfl
@[simp] theorem Desk.setP_reports (d : Desk) (p : PReg) (x : Word) : (d.setP p x).reports = d.reports := rfl
@[simp] theorem Desk.setP_fflags (d : Desk) (p : PReg) (x : Word) : (d.setP p x).fflags = d.fflags := rfl
@[simp] theorem Desk.setP_frm (d : Desk) (p : PReg) (x : Word) : (d.setP p x).frm = d.frm := rfl
@[simp] theorem Desk.setP_srseed (d : Desk) (p : PReg) (x : Word) : (d.setP p x).srseed = d.srseed := rfl
@[simp] theorem Desk.setP_ctxid (d : Desk) (p : PReg) (x : Word) : (d.setP p x).ctxid = d.ctxid := rfl
@[simp] theorem Desk.setP_part (d : Desk) (p : PReg) (x : Word) : (d.setP p x).part = d.part := rfl
@[simp] theorem Desk.setP_shareIx (d : Desk) (p : PReg) (x : Word) : (d.setP p x).shareIx = d.shareIx := rfl
@[simp] theorem Desk.setP_shareCt (d : Desk) (p : PReg) (x : Word) : (d.setP p x).shareCt = d.shareCt := rfl
@[simp] theorem Desk.setP_stage (d : Desk) (p : PReg) (x : Word) : (d.setP p x).stage = d.stage := rfl
@[simp] theorem Desk.setP_exch (d : Desk) (p : PReg) (x : Word) : (d.setP p x).exch = d.exch := rfl
@[simp] theorem Desk.setP_sscnt (d : Desk) (p : PReg) (x : Word) : (d.setP p x).sscnt = d.sscnt := rfl
@[simp] theorem Desk.setP_cntbase (d : Desk) (p : PReg) (x : Word) : (d.setP p x).cntbase = d.cntbase := rfl
@[simp] theorem Desk.setP_vprog (d : Desk) (p : PReg) (x : Word) : (d.setP p x).vprog = d.vprog := rfl
@[simp] theorem Desk.setP_icnt (d : Desk) (p : PReg) (x : Word) : (d.setP p x).icnt = d.icnt := rfl
@[simp] theorem Desk.setP_tfinfo (d : Desk) (p : PReg) (x : Word) : (d.setP p x).tfinfo = d.tfinfo := rfl
@[simp] theorem Desk.setP_bp (d : Desk) (p : PReg) (x : Word) : (d.setP p x).bp = d.bp := rfl
@[simp] theorem Desk.setP_stepcnt (d : Desk) (p : PReg) (x : Word) : (d.setP p x).stepcnt = d.stepcnt := rfl
@[simp] theorem Desk.setP_bb (d : Desk) (p : PReg) (x : Word) : (d.setP p x).bb = d.bb := rfl
@[simp] theorem Desk.setP_snaps (d : Desk) (p : PReg) (x : Word) : (d.setP p x).snaps = d.snaps := rfl
@[simp] theorem Desk.setP_tokens (d : Desk) (p : PReg) (x : Word) : (d.setP p x).tokens = d.tokens := rfl
@[simp] theorem Desk.setP_idleUntil (d : Desk) (p : PReg) (x : Word) : (d.setP p x).idleUntil = d.idleUntil := rfl
@[simp] theorem Desk.setP_launch (d : Desk) (p : PReg) (x : Word) : (d.setP p x).launch = d.launch := rfl
@[simp] theorem Desk.setP_kern (d : Desk) (p : PReg) (x : Word) : (d.setP p x).kern = d.kern := rfl
@[simp] theorem Desk.setP_text (d : Desk) (p : PReg) (x : Word) : (d.setP p x).text = d.text := rfl
@[simp] theorem Desk.setP_base (d : Desk) (p : PReg) (x : Word) : (d.setP p x).base = d.base := rfl
@[simp] theorem Desk.setP_gang (d : Desk) (p : PReg) (x : Word) : (d.setP p x).gang = d.gang := rfl
@[simp] theorem Desk.setP_sent (d : Desk) (p : PReg) (x : Word) : (d.setP p x).sent = d.sent := rfl
@[simp] theorem Desk.setP_fwd (d : Desk) (p : PReg) (x : Word) : (d.setP p x).fwd = d.fwd := rfl
@[simp] theorem Desk.setP_gangPc (d : Desk) (p : PReg) (x : Word) : (d.setP p x).gangPc = d.gangPc := rfl
@[simp] theorem Desk.setP_hollow (d : Desk) (p : PReg) (x : Word) : (d.setP p x).hollow = d.hollow := rfl
@[simp] theorem Desk.setG_occ (d : Desk) (r : GReg) (x : Word) (b : Bool) : (d.setG r x b).occ = d.occ := by unfold Desk.setG; (repeat' split) <;> rfl
@[simp] theorem Desk.setG_quit (d : Desk) (r : GReg) (x : Word) (b : Bool) : (d.setG r x b).quit = d.quit := by unfold Desk.setG; (repeat' split) <;> rfl
@[simp] theorem Desk.setG_stopped (d : Desk) (r : GReg) (x : Word) (b : Bool) : (d.setG r x b).stopped = d.stopped := by unfold Desk.setG; (repeat' split) <;> rfl
@[simp] theorem Desk.setG_parked (d : Desk) (r : GReg) (x : Word) (b : Bool) : (d.setG r x b).parked = d.parked := by unfold Desk.setG; (repeat' split) <;> rfl
@[simp] theorem Desk.setG_user (d : Desk) (r : GReg) (x : Word) (b : Bool) : (d.setG r x b).user = d.user := by unfold Desk.setG; (repeat' split) <;> rfl
@[simp] theorem Desk.setG_v (d : Desk) (r : GReg) (x : Word) (b : Bool) : (d.setG r x b).v = d.v := by unfold Desk.setG; (repeat' split) <;> rfl
@[simp] theorem Desk.setG_vp (d : Desk) (r : GReg) (x : Word) (b : Bool) : (d.setG r x b).vp = d.vp := by unfold Desk.setG; (repeat' split) <;> rfl
@[simp] theorem Desk.setG_p (d : Desk) (r : GReg) (x : Word) (b : Bool) : (d.setG r x b).p = d.p := by unfold Desk.setG; (repeat' split) <;> rfl
@[simp] theorem Desk.setG_k (d : Desk) (r : GReg) (x : Word) (b : Bool) : (d.setG r x b).k = d.k := by unfold Desk.setG; (repeat' split) <;> rfl
@[simp] theorem Desk.setG_q (d : Desk) (r : GReg) (x : Word) (b : Bool) : (d.setG r x b).q = d.q := by unfold Desk.setG; (repeat' split) <;> rfl
@[simp] theorem Desk.setG_vq (d : Desk) (r : GReg) (x : Word) (b : Bool) : (d.setG r x b).vq = d.vq := by unfold Desk.setG; (repeat' split) <;> rfl
@[simp] theorem Desk.setG_lc (d : Desk) (r : GReg) (x : Word) (b : Bool) : (d.setG r x b).lc = d.lc := by unfold Desk.setG; (repeat' split) <;> rfl
@[simp] theorem Desk.setG_rep (d : Desk) (r : GReg) (x : Word) (b : Bool) : (d.setG r x b).rep = d.rep := by unfold Desk.setG; (repeat' split) <;> rfl
@[simp] theorem Desk.setG_pc (d : Desk) (r : GReg) (x : Word) (b : Bool) : (d.setG r x b).pc = d.pc := by unfold Desk.setG; (repeat' split) <;> rfl
@[simp] theorem Desk.setG_len (d : Desk) (r : GReg) (x : Word) (b : Bool) : (d.setG r x b).len = d.len := by unfold Desk.setG; (repeat' split) <;> rfl
@[simp] theorem Desk.setG_dict (d : Desk) (r : GReg) (x : Word) (b : Bool) : (d.setG r x b).dict = d.dict := by unfold Desk.setG; (repeat' split) <;> rfl
@[simp] theorem Desk.setG_xword (d : Desk) (r : GReg) (x : Word) (b : Bool) : (d.setG r x b).xword = d.xword := by unfold Desk.setG; (repeat' split) <;> rfl
@[simp] theorem Desk.setG_jump (d : Desk) (r : GReg) (x : Word) (b : Bool) : (d.setG r x b).jump = d.jump := by unfold Desk.setG; (repeat' split) <;> rfl
@[simp] theorem Desk.setG_latch (d : Desk) (r : GReg) (x : Word) (b : Bool) : (d.setG r x b).latch = d.latch := by unfold Desk.setG; (repeat' split) <;> rfl
@[simp] theorem Desk.setG_wait (d : Desk) (r : GReg) (x : Word) (b : Bool) : (d.setG r x b).wait = d.wait := by unfold Desk.setG; (repeat' split) <;> rfl
@[simp] theorem Desk.setG_cast (d : Desk) (r : GReg) (x : Word) (b : Bool) : (d.setG r x b).cast = d.cast := by unfold Desk.setG; (repeat' split) <;> rfl
@[simp] theorem Desk.setG_mark (d : Desk) (r : GReg) (x : Word) (b : Bool) : (d.setG r x b).mark = d.mark := by unfold Desk.setG; (repeat' split) <;> rfl
@[simp] theorem Desk.setG_pend (d : Desk) (r : GReg) (x : Word) (b : Bool) : (d.setG r x b).pend = d.pend := by unfold Desk.setG; (repeat' split) <;> rfl
@[simp] theorem Desk.setG_walk (d : Desk) (r : GReg) (x : Word) (b : Bool) : (d.setG r x b).walk = d.walk := by unfold Desk.setG; (repeat' split) <;> rfl
@[simp] theorem Desk.setG_seen (d : Desk) (r : GReg) (x : Word) (b : Bool) : (d.setG r x b).seen = d.seen := by unfold Desk.setG; (repeat' split) <;> rfl
@[simp] theorem Desk.setG_sq (d : Desk) (r : GReg) (x : Word) (b : Bool) : (d.setG r x b).sq = d.sq := by unfold Desk.setG; (repeat' split) <;> rfl
@[simp] theorem Desk.setG_cw (d : Desk) (r : GReg) (x : Word) (b : Bool) : (d.setG r x b).cw = d.cw := by unfold Desk.setG; (repeat' split) <;> rfl
@[simp] theorem Desk.setG_fences (d : Desk) (r : GReg) (x : Word) (b : Bool) : (d.setG r x b).fences = d.fences := by unfold Desk.setG; (repeat' split) <;> rfl
@[simp] theorem Desk.setG_xfers (d : Desk) (r : GReg) (x : Word) (b : Bool) : (d.setG r x b).xfers = d.xfers := by unfold Desk.setG; (repeat' split) <;> rfl
@[simp] theorem Desk.setG_gen (d : Desk) (r : GReg) (x : Word) (b : Bool) : (d.setG r x b).gen = d.gen := by unfold Desk.setG; (repeat' split) <;> rfl
@[simp] theorem Desk.setG_grant (d : Desk) (r : GReg) (x : Word) (b : Bool) : (d.setG r x b).grant = d.grant := by unfold Desk.setG; (repeat' split) <;> rfl
@[simp] theorem Desk.setG_xcause (d : Desk) (r : GReg) (x : Word) (b : Bool) : (d.setG r x b).xcause = d.xcause := by unfold Desk.setG; (repeat' split) <;> rfl
@[simp] theorem Desk.setG_xval (d : Desk) (r : GReg) (x : Word) (b : Bool) : (d.setG r x b).xval = d.xval := by unfold Desk.setG; (repeat' split) <;> rfl
@[simp] theorem Desk.setG_xpc (d : Desk) (r : GReg) (x : Word) (b : Bool) : (d.setG r x b).xpc = d.xpc := by unfold Desk.setG; (repeat' split) <;> rfl
@[simp] theorem Desk.setG_xstat (d : Desk) (r : GReg) (x : Word) (b : Bool) : (d.setG r x b).xstat = d.xstat := by unfold Desk.setG; (repeat' split) <;> rfl
@[simp] theorem Desk.setG_xvec (d : Desk) (r : GReg) (x : Word) (b : Bool) : (d.setG r x b).xvec = d.xvec := by unfold Desk.setG; (repeat' split) <;> rfl
@[simp] theorem Desk.setG_xscr (d : Desk) (r : GReg) (x : Word) (b : Bool) : (d.setG r x b).xscr = d.xscr := by unfold Desk.setG; (repeat' split) <;> rfl
@[simp] theorem Desk.setG_svec (d : Desk) (r : GReg) (x : Word) (b : Bool) : (d.setG r x b).svec = d.svec := by unfold Desk.setG; (repeat' split) <;> rfl
@[simp] theorem Desk.setG_sscr (d : Desk) (r : GReg) (x : Word) (b : Bool) : (d.setG r x b).sscr = d.sscr := by unfold Desk.setG; (repeat' split) <;> rfl
@[simp] theorem Desk.setG_ucause (d : Desk) (r : GReg) (x : Word) (b : Bool) : (d.setG r x b).ucause = d.ucause := by unfold Desk.setG; (repeat' split) <;> rfl
@[simp] theorem Desk.setG_uval (d : Desk) (r : GReg) (x : Word) (b : Bool) : (d.setG r x b).uval = d.uval := by unfold Desk.setG; (repeat' split) <;> rfl
@[simp] theorem Desk.setG_upc (d : Desk) (r : GReg) (x : Word) (b : Bool) : (d.setG r x b).upc = d.upc := by unfold Desk.setG; (repeat' split) <;> rfl
@[simp] theorem Desk.setG_ustat (d : Desk) (r : GReg) (x : Word) (b : Bool) : (d.setG r x b).ustat = d.ustat := by unfold Desk.setG; (repeat' split) <;> rfl
@[simp] theorem Desk.setG_rtreq (d : Desk) (r : GReg) (x : Word) (b : Bool) : (d.setG r x b).rtreq = d.rtreq := by unfold Desk.setG; (repeat' split) <;> rfl
@[simp] theorem Desk.setG_reports (d : Desk) (r : GReg) (x : Word) (b : Bool) : (d.setG r x b).reports = d.reports := by unfold Desk.setG; (repeat' split) <;> rfl
@[simp] theorem Desk.setG_fflags (d : Desk) (r : GReg) (x : Word) (b : Bool) : (d.setG r x b).fflags = d.fflags := by unfold Desk.setG; (repeat' split) <;> rfl
@[simp] theorem Desk.setG_frm (d : Desk) (r : GReg) (x : Word) (b : Bool) : (d.setG r x b).frm = d.frm := by unfold Desk.setG; (repeat' split) <;> rfl
@[simp] theorem Desk.setG_srseed (d : Desk) (r : GReg) (x : Word) (b : Bool) : (d.setG r x b).srseed = d.srseed := by unfold Desk.setG; (repeat' split) <;> rfl
@[simp] theorem Desk.setG_ctxid (d : Desk) (r : GReg) (x : Word) (b : Bool) : (d.setG r x b).ctxid = d.ctxid := by unfold Desk.setG; (repeat' split) <;> rfl
@[simp] theorem Desk.setG_part (d : Desk) (r : GReg) (x : Word) (b : Bool) : (d.setG r x b).part = d.part := by unfold Desk.setG; (repeat' split) <;> rfl
@[simp] theorem Desk.setG_shareIx (d : Desk) (r : GReg) (x : Word) (b : Bool) : (d.setG r x b).shareIx = d.shareIx := by unfold Desk.setG; (repeat' split) <;> rfl
@[simp] theorem Desk.setG_shareCt (d : Desk) (r : GReg) (x : Word) (b : Bool) : (d.setG r x b).shareCt = d.shareCt := by unfold Desk.setG; (repeat' split) <;> rfl
@[simp] theorem Desk.setG_stage (d : Desk) (r : GReg) (x : Word) (b : Bool) : (d.setG r x b).stage = d.stage := by unfold Desk.setG; (repeat' split) <;> rfl
@[simp] theorem Desk.setG_exch (d : Desk) (r : GReg) (x : Word) (b : Bool) : (d.setG r x b).exch = d.exch := by unfold Desk.setG; (repeat' split) <;> rfl
@[simp] theorem Desk.setG_sscnt (d : Desk) (r : GReg) (x : Word) (b : Bool) : (d.setG r x b).sscnt = d.sscnt := by unfold Desk.setG; (repeat' split) <;> rfl
@[simp] theorem Desk.setG_cntbase (d : Desk) (r : GReg) (x : Word) (b : Bool) : (d.setG r x b).cntbase = d.cntbase := by unfold Desk.setG; (repeat' split) <;> rfl
@[simp] theorem Desk.setG_vprog (d : Desk) (r : GReg) (x : Word) (b : Bool) : (d.setG r x b).vprog = d.vprog := by unfold Desk.setG; (repeat' split) <;> rfl
@[simp] theorem Desk.setG_icnt (d : Desk) (r : GReg) (x : Word) (b : Bool) : (d.setG r x b).icnt = d.icnt := by unfold Desk.setG; (repeat' split) <;> rfl
@[simp] theorem Desk.setG_tfinfo (d : Desk) (r : GReg) (x : Word) (b : Bool) : (d.setG r x b).tfinfo = d.tfinfo := by unfold Desk.setG; (repeat' split) <;> rfl
@[simp] theorem Desk.setG_bp (d : Desk) (r : GReg) (x : Word) (b : Bool) : (d.setG r x b).bp = d.bp := by unfold Desk.setG; (repeat' split) <;> rfl
@[simp] theorem Desk.setG_stepcnt (d : Desk) (r : GReg) (x : Word) (b : Bool) : (d.setG r x b).stepcnt = d.stepcnt := by unfold Desk.setG; (repeat' split) <;> rfl
@[simp] theorem Desk.setG_bb (d : Desk) (r : GReg) (x : Word) (b : Bool) : (d.setG r x b).bb = d.bb := by unfold Desk.setG; (repeat' split) <;> rfl
@[simp] theorem Desk.setG_snaps (d : Desk) (r : GReg) (x : Word) (b : Bool) : (d.setG r x b).snaps = d.snaps := by unfold Desk.setG; (repeat' split) <;> rfl
@[simp] theorem Desk.setG_tokens (d : Desk) (r : GReg) (x : Word) (b : Bool) : (d.setG r x b).tokens = d.tokens := by unfold Desk.setG; (repeat' split) <;> rfl
@[simp] theorem Desk.setG_idleUntil (d : Desk) (r : GReg) (x : Word) (b : Bool) : (d.setG r x b).idleUntil = d.idleUntil := by unfold Desk.setG; (repeat' split) <;> rfl
@[simp] theorem Desk.setG_launch (d : Desk) (r : GReg) (x : Word) (b : Bool) : (d.setG r x b).launch = d.launch := by unfold Desk.setG; (repeat' split) <;> rfl
@[simp] theorem Desk.setG_kern (d : Desk) (r : GReg) (x : Word) (b : Bool) : (d.setG r x b).kern = d.kern := by unfold Desk.setG; (repeat' split) <;> rfl
@[simp] theorem Desk.setG_text (d : Desk) (r : GReg) (x : Word) (b : Bool) : (d.setG r x b).text = d.text := by unfold Desk.setG; (repeat' split) <;> rfl
@[simp] theorem Desk.setG_base (d : Desk) (r : GReg) (x : Word) (b : Bool) : (d.setG r x b).base = d.base := by unfold Desk.setG; (repeat' split) <;> rfl
@[simp] theorem Desk.setG_gang (d : Desk) (r : GReg) (x : Word) (b : Bool) : (d.setG r x b).gang = d.gang := by unfold Desk.setG; (repeat' split) <;> rfl
@[simp] theorem Desk.setG_sent (d : Desk) (r : GReg) (x : Word) (b : Bool) : (d.setG r x b).sent = d.sent := by unfold Desk.setG; (repeat' split) <;> rfl
@[simp] theorem Desk.setG_fwd (d : Desk) (r : GReg) (x : Word) (b : Bool) : (d.setG r x b).fwd = d.fwd := by unfold Desk.setG; (repeat' split) <;> rfl
@[simp] theorem Desk.setG_gangPc (d : Desk) (r : GReg) (x : Word) (b : Bool) : (d.setG r x b).gangPc = d.gangPc := by unfold Desk.setG; (repeat' split) <;> rfl
@[simp] theorem Desk.setG_hollow (d : Desk) (r : GReg) (x : Word) (b : Bool) : (d.setG r x b).hollow = d.hollow := by unfold Desk.setG; (repeat' split) <;> rfl
@[simp] theorem Desk.advance_occ (d : Desk)  : (d.advance).occ = d.occ := by unfold Desk.advance; (repeat' split) <;> rfl
@[simp] theorem Desk.advance_quit (d : Desk)  : (d.advance).quit = d.quit := by unfold Desk.advance; (repeat' split) <;> rfl
@[simp] theorem Desk.advance_stopped (d : Desk)  : (d.advance).stopped = d.stopped := by unfold Desk.advance; (repeat' split) <;> rfl
@[simp] theorem Desk.advance_parked (d : Desk)  : (d.advance).parked = d.parked := by unfold Desk.advance; (repeat' split) <;> rfl
@[simp] theorem Desk.advance_user (d : Desk)  : (d.advance).user = d.user := by unfold Desk.advance; (repeat' split) <;> rfl
@[simp] theorem Desk.advance_gu (d : Desk)  : (d.advance).gu = d.gu := by unfold Desk.advance; (repeat' split) <;> rfl
@[simp] theorem Desk.advance_gs (d : Desk)  : (d.advance).gs = d.gs := by unfold Desk.advance; (repeat' split) <;> rfl
@[simp] theorem Desk.advance_gup (d : Desk)  : (d.advance).gup = d.gup := by unfold Desk.advance; (repeat' split) <;> rfl
@[simp] theorem Desk.advance_gsp (d : Desk)  : (d.advance).gsp = d.gsp := by unfold Desk.advance; (repeat' split) <;> rfl
@[simp] theorem Desk.advance_v (d : Desk)  : (d.advance).v = d.v := by unfold Desk.advance; (repeat' split) <;> rfl
@[simp] theorem Desk.advance_vp (d : Desk)  : (d.advance).vp = d.vp := by unfold Desk.advance; (repeat' split) <;> rfl
@[simp] theorem Desk.advance_p (d : Desk)  : (d.advance).p = d.p := by unfold Desk.advance; (repeat' split) <;> rfl
@[simp] theorem Desk.advance_k (d : Desk)  : (d.advance).k = d.k := by unfold Desk.advance; (repeat' split) <;> rfl
@[simp] theorem Desk.advance_q (d : Desk)  : (d.advance).q = d.q := by unfold Desk.advance; (repeat' split) <;> rfl
@[simp] theorem Desk.advance_vq (d : Desk)  : (d.advance).vq = d.vq := by unfold Desk.advance; (repeat' split) <;> rfl
@[simp] theorem Desk.advance_rep (d : Desk)  : (d.advance).rep = d.rep := by unfold Desk.advance; (repeat' split) <;> rfl
@[simp] theorem Desk.advance_len (d : Desk)  : (d.advance).len = d.len := by unfold Desk.advance; (repeat' split) <;> rfl
@[simp] theorem Desk.advance_dict (d : Desk)  : (d.advance).dict = d.dict := by unfold Desk.advance; (repeat' split) <;> rfl
@[simp] theorem Desk.advance_xword (d : Desk)  : (d.advance).xword = d.xword := by unfold Desk.advance; (repeat' split) <;> rfl
@[simp] theorem Desk.advance_latch (d : Desk)  : (d.advance).latch = d.latch := by unfold Desk.advance; (repeat' split) <;> rfl
@[simp] theorem Desk.advance_wait (d : Desk)  : (d.advance).wait = d.wait := by unfold Desk.advance; (repeat' split) <;> rfl
@[simp] theorem Desk.advance_cast (d : Desk)  : (d.advance).cast = d.cast := by unfold Desk.advance; (repeat' split) <;> rfl
@[simp] theorem Desk.advance_mark (d : Desk)  : (d.advance).mark = d.mark := by unfold Desk.advance; (repeat' split) <;> rfl
@[simp] theorem Desk.advance_pend (d : Desk)  : (d.advance).pend = d.pend := by unfold Desk.advance; (repeat' split) <;> rfl
@[simp] theorem Desk.advance_walk (d : Desk)  : (d.advance).walk = d.walk := by unfold Desk.advance; (repeat' split) <;> rfl
@[simp] theorem Desk.advance_seen (d : Desk)  : (d.advance).seen = d.seen := by unfold Desk.advance; (repeat' split) <;> rfl
@[simp] theorem Desk.advance_sq (d : Desk)  : (d.advance).sq = d.sq := by unfold Desk.advance; (repeat' split) <;> rfl
@[simp] theorem Desk.advance_cw (d : Desk)  : (d.advance).cw = d.cw := by unfold Desk.advance; (repeat' split) <;> rfl
@[simp] theorem Desk.advance_fences (d : Desk)  : (d.advance).fences = d.fences := by unfold Desk.advance; (repeat' split) <;> rfl
@[simp] theorem Desk.advance_xfers (d : Desk)  : (d.advance).xfers = d.xfers := by unfold Desk.advance; (repeat' split) <;> rfl
@[simp] theorem Desk.advance_gen (d : Desk)  : (d.advance).gen = d.gen := by unfold Desk.advance; (repeat' split) <;> rfl
@[simp] theorem Desk.advance_grant (d : Desk)  : (d.advance).grant = d.grant := by unfold Desk.advance; (repeat' split) <;> rfl
@[simp] theorem Desk.advance_xcause (d : Desk)  : (d.advance).xcause = d.xcause := by unfold Desk.advance; (repeat' split) <;> rfl
@[simp] theorem Desk.advance_xval (d : Desk)  : (d.advance).xval = d.xval := by unfold Desk.advance; (repeat' split) <;> rfl
@[simp] theorem Desk.advance_xpc (d : Desk)  : (d.advance).xpc = d.xpc := by unfold Desk.advance; (repeat' split) <;> rfl
@[simp] theorem Desk.advance_xstat (d : Desk)  : (d.advance).xstat = d.xstat := by unfold Desk.advance; (repeat' split) <;> rfl
@[simp] theorem Desk.advance_xvec (d : Desk)  : (d.advance).xvec = d.xvec := by unfold Desk.advance; (repeat' split) <;> rfl
@[simp] theorem Desk.advance_xscr (d : Desk)  : (d.advance).xscr = d.xscr := by unfold Desk.advance; (repeat' split) <;> rfl
@[simp] theorem Desk.advance_svec (d : Desk)  : (d.advance).svec = d.svec := by unfold Desk.advance; (repeat' split) <;> rfl
@[simp] theorem Desk.advance_sscr (d : Desk)  : (d.advance).sscr = d.sscr := by unfold Desk.advance; (repeat' split) <;> rfl
@[simp] theorem Desk.advance_ucause (d : Desk)  : (d.advance).ucause = d.ucause := by unfold Desk.advance; (repeat' split) <;> rfl
@[simp] theorem Desk.advance_uval (d : Desk)  : (d.advance).uval = d.uval := by unfold Desk.advance; (repeat' split) <;> rfl
@[simp] theorem Desk.advance_upc (d : Desk)  : (d.advance).upc = d.upc := by unfold Desk.advance; (repeat' split) <;> rfl
@[simp] theorem Desk.advance_ustat (d : Desk)  : (d.advance).ustat = d.ustat := by unfold Desk.advance; (repeat' split) <;> rfl
@[simp] theorem Desk.advance_rtreq (d : Desk)  : (d.advance).rtreq = d.rtreq := by unfold Desk.advance; (repeat' split) <;> rfl
@[simp] theorem Desk.advance_reports (d : Desk)  : (d.advance).reports = d.reports := by unfold Desk.advance; (repeat' split) <;> rfl
@[simp] theorem Desk.advance_fflags (d : Desk)  : (d.advance).fflags = d.fflags := by unfold Desk.advance; (repeat' split) <;> rfl
@[simp] theorem Desk.advance_frm (d : Desk)  : (d.advance).frm = d.frm := by unfold Desk.advance; (repeat' split) <;> rfl
@[simp] theorem Desk.advance_srseed (d : Desk)  : (d.advance).srseed = d.srseed := by unfold Desk.advance; (repeat' split) <;> rfl
@[simp] theorem Desk.advance_ctxid (d : Desk)  : (d.advance).ctxid = d.ctxid := by unfold Desk.advance; (repeat' split) <;> rfl
@[simp] theorem Desk.advance_part (d : Desk)  : (d.advance).part = d.part := by unfold Desk.advance; (repeat' split) <;> rfl
@[simp] theorem Desk.advance_shareIx (d : Desk)  : (d.advance).shareIx = d.shareIx := by unfold Desk.advance; (repeat' split) <;> rfl
@[simp] theorem Desk.advance_shareCt (d : Desk)  : (d.advance).shareCt = d.shareCt := by unfold Desk.advance; (repeat' split) <;> rfl
@[simp] theorem Desk.advance_stage (d : Desk)  : (d.advance).stage = d.stage := by unfold Desk.advance; (repeat' split) <;> rfl
@[simp] theorem Desk.advance_exch (d : Desk)  : (d.advance).exch = d.exch := by unfold Desk.advance; (repeat' split) <;> rfl
@[simp] theorem Desk.advance_sscnt (d : Desk)  : (d.advance).sscnt = d.sscnt := by unfold Desk.advance; (repeat' split) <;> rfl
@[simp] theorem Desk.advance_cntbase (d : Desk)  : (d.advance).cntbase = d.cntbase := by unfold Desk.advance; (repeat' split) <;> rfl
@[simp] theorem Desk.advance_vprog (d : Desk)  : (d.advance).vprog = d.vprog := by unfold Desk.advance; (repeat' split) <;> rfl
@[simp] theorem Desk.advance_icnt (d : Desk)  : (d.advance).icnt = d.icnt := by unfold Desk.advance; (repeat' split) <;> rfl
@[simp] theorem Desk.advance_tfinfo (d : Desk)  : (d.advance).tfinfo = d.tfinfo := by unfold Desk.advance; (repeat' split) <;> rfl
@[simp] theorem Desk.advance_bp (d : Desk)  : (d.advance).bp = d.bp := by unfold Desk.advance; (repeat' split) <;> rfl
@[simp] theorem Desk.advance_stepcnt (d : Desk)  : (d.advance).stepcnt = d.stepcnt := by unfold Desk.advance; (repeat' split) <;> rfl
@[simp] theorem Desk.advance_bb (d : Desk)  : (d.advance).bb = d.bb := by unfold Desk.advance; (repeat' split) <;> rfl
@[simp] theorem Desk.advance_snaps (d : Desk)  : (d.advance).snaps = d.snaps := by unfold Desk.advance; (repeat' split) <;> rfl
@[simp] theorem Desk.advance_tokens (d : Desk)  : (d.advance).tokens = d.tokens := by unfold Desk.advance; (repeat' split) <;> rfl
@[simp] theorem Desk.advance_idleUntil (d : Desk)  : (d.advance).idleUntil = d.idleUntil := by unfold Desk.advance; (repeat' split) <;> rfl
@[simp] theorem Desk.advance_launch (d : Desk)  : (d.advance).launch = d.launch := by unfold Desk.advance; (repeat' split) <;> rfl
@[simp] theorem Desk.advance_kern (d : Desk)  : (d.advance).kern = d.kern := by unfold Desk.advance; (repeat' split) <;> rfl
@[simp] theorem Desk.advance_text (d : Desk)  : (d.advance).text = d.text := by unfold Desk.advance; (repeat' split) <;> rfl
@[simp] theorem Desk.advance_base (d : Desk)  : (d.advance).base = d.base := by unfold Desk.advance; (repeat' split) <;> rfl
@[simp] theorem Desk.advance_gang (d : Desk)  : (d.advance).gang = d.gang := by unfold Desk.advance; (repeat' split) <;> rfl
@[simp] theorem Desk.advance_sent (d : Desk)  : (d.advance).sent = d.sent := by unfold Desk.advance; (repeat' split) <;> rfl
@[simp] theorem Desk.advance_fwd (d : Desk)  : (d.advance).fwd = d.fwd := by unfold Desk.advance; (repeat' split) <;> rfl
@[simp] theorem Desk.advance_gangPc (d : Desk)  : (d.advance).gangPc = d.gangPc := by unfold Desk.advance; (repeat' split) <;> rfl
@[simp] theorem Desk.advance_hollow (d : Desk)  : (d.advance).hollow = d.hollow := by unfold Desk.advance; (repeat' split) <;> rfl

/-! ### Retirement -/

@[simp] theorem Desk.retire_occ (d : Desk) : (d.retire).occ = d.occ := by simp [Desk.retire]
@[simp] theorem Desk.retire_quit (d : Desk) : (d.retire).quit = d.quit := by simp [Desk.retire]
@[simp] theorem Desk.retire_stopped (d : Desk) : (d.retire).stopped = d.stopped := by simp [Desk.retire]
@[simp] theorem Desk.retire_parked (d : Desk) : (d.retire).parked = d.parked := by simp [Desk.retire]
@[simp] theorem Desk.retire_user (d : Desk) : (d.retire).user = d.user := by simp [Desk.retire]
@[simp] theorem Desk.retire_gu (d : Desk) : (d.retire).gu = d.gu := by simp [Desk.retire]
@[simp] theorem Desk.retire_gs (d : Desk) : (d.retire).gs = d.gs := by simp [Desk.retire]
@[simp] theorem Desk.retire_gup (d : Desk) : (d.retire).gup = d.gup := by simp [Desk.retire]
@[simp] theorem Desk.retire_gsp (d : Desk) : (d.retire).gsp = d.gsp := by simp [Desk.retire]
@[simp] theorem Desk.retire_v (d : Desk) : (d.retire).v = d.v := by simp [Desk.retire]
@[simp] theorem Desk.retire_vp (d : Desk) : (d.retire).vp = d.vp := by simp [Desk.retire]
@[simp] theorem Desk.retire_p (d : Desk) : (d.retire).p = d.p := by simp [Desk.retire]
@[simp] theorem Desk.retire_k (d : Desk) : (d.retire).k = d.k := by simp [Desk.retire]
@[simp] theorem Desk.retire_q (d : Desk) : (d.retire).q = d.q := by simp [Desk.retire]
@[simp] theorem Desk.retire_vq (d : Desk) : (d.retire).vq = d.vq := by simp [Desk.retire]
@[simp] theorem Desk.retire_rep (d : Desk) : (d.retire).rep = d.rep := by simp [Desk.retire]
@[simp] theorem Desk.retire_len (d : Desk) : (d.retire).len = d.len := by simp [Desk.retire]
@[simp] theorem Desk.retire_dict (d : Desk) : (d.retire).dict = d.dict := by simp [Desk.retire]
@[simp] theorem Desk.retire_xword (d : Desk) : (d.retire).xword = d.xword := by simp [Desk.retire]
@[simp] theorem Desk.retire_pend (d : Desk) : (d.retire).pend = d.pend := by simp [Desk.retire]
@[simp] theorem Desk.retire_sq (d : Desk) : (d.retire).sq = d.sq := by simp [Desk.retire]
@[simp] theorem Desk.retire_cw (d : Desk) : (d.retire).cw = d.cw := by simp [Desk.retire]
@[simp] theorem Desk.retire_fences (d : Desk) : (d.retire).fences = d.fences := by simp [Desk.retire]
@[simp] theorem Desk.retire_xfers (d : Desk) : (d.retire).xfers = d.xfers := by simp [Desk.retire]
@[simp] theorem Desk.retire_gen (d : Desk) : (d.retire).gen = d.gen := by simp [Desk.retire]
@[simp] theorem Desk.retire_xcause (d : Desk) : (d.retire).xcause = d.xcause := by simp [Desk.retire]
@[simp] theorem Desk.retire_xval (d : Desk) : (d.retire).xval = d.xval := by simp [Desk.retire]
@[simp] theorem Desk.retire_xpc (d : Desk) : (d.retire).xpc = d.xpc := by simp [Desk.retire]
@[simp] theorem Desk.retire_xstat (d : Desk) : (d.retire).xstat = d.xstat := by simp [Desk.retire]
@[simp] theorem Desk.retire_xvec (d : Desk) : (d.retire).xvec = d.xvec := by simp [Desk.retire]
@[simp] theorem Desk.retire_xscr (d : Desk) : (d.retire).xscr = d.xscr := by simp [Desk.retire]
@[simp] theorem Desk.retire_svec (d : Desk) : (d.retire).svec = d.svec := by simp [Desk.retire]
@[simp] theorem Desk.retire_sscr (d : Desk) : (d.retire).sscr = d.sscr := by simp [Desk.retire]
@[simp] theorem Desk.retire_ucause (d : Desk) : (d.retire).ucause = d.ucause := by simp [Desk.retire]
@[simp] theorem Desk.retire_uval (d : Desk) : (d.retire).uval = d.uval := by simp [Desk.retire]
@[simp] theorem Desk.retire_upc (d : Desk) : (d.retire).upc = d.upc := by simp [Desk.retire]
@[simp] theorem Desk.retire_ustat (d : Desk) : (d.retire).ustat = d.ustat := by simp [Desk.retire]
@[simp] theorem Desk.retire_rtreq (d : Desk) : (d.retire).rtreq = d.rtreq := by simp [Desk.retire]
@[simp] theorem Desk.retire_reports (d : Desk) : (d.retire).reports = d.reports := by simp [Desk.retire]
@[simp] theorem Desk.retire_fflags (d : Desk) : (d.retire).fflags = d.fflags := by simp [Desk.retire]
@[simp] theorem Desk.retire_frm (d : Desk) : (d.retire).frm = d.frm := by simp [Desk.retire]
@[simp] theorem Desk.retire_srseed (d : Desk) : (d.retire).srseed = d.srseed := by simp [Desk.retire]
@[simp] theorem Desk.retire_ctxid (d : Desk) : (d.retire).ctxid = d.ctxid := by simp [Desk.retire]
@[simp] theorem Desk.retire_part (d : Desk) : (d.retire).part = d.part := by simp [Desk.retire]
@[simp] theorem Desk.retire_shareIx (d : Desk) : (d.retire).shareIx = d.shareIx := by simp [Desk.retire]
@[simp] theorem Desk.retire_shareCt (d : Desk) : (d.retire).shareCt = d.shareCt := by simp [Desk.retire]
@[simp] theorem Desk.retire_stage (d : Desk) : (d.retire).stage = d.stage := by simp [Desk.retire]
@[simp] theorem Desk.retire_exch (d : Desk) : (d.retire).exch = d.exch := by simp [Desk.retire]
@[simp] theorem Desk.retire_sscnt (d : Desk) : (d.retire).sscnt = d.sscnt := by simp [Desk.retire]
@[simp] theorem Desk.retire_cntbase (d : Desk) : (d.retire).cntbase = d.cntbase := by simp [Desk.retire]
@[simp] theorem Desk.retire_vprog (d : Desk) : (d.retire).vprog = d.vprog := by simp [Desk.retire]
@[simp] theorem Desk.retire_tfinfo (d : Desk) : (d.retire).tfinfo = d.tfinfo := by simp [Desk.retire]
@[simp] theorem Desk.retire_bp (d : Desk) : (d.retire).bp = d.bp := by simp [Desk.retire]
@[simp] theorem Desk.retire_stepcnt (d : Desk) : (d.retire).stepcnt = d.stepcnt := by simp [Desk.retire]
@[simp] theorem Desk.retire_bb (d : Desk) : (d.retire).bb = d.bb := by simp [Desk.retire]
@[simp] theorem Desk.retire_snaps (d : Desk) : (d.retire).snaps = d.snaps := by simp [Desk.retire]
@[simp] theorem Desk.retire_tokens (d : Desk) : (d.retire).tokens = d.tokens := by simp [Desk.retire]
@[simp] theorem Desk.retire_idleUntil (d : Desk) : (d.retire).idleUntil = d.idleUntil := by simp [Desk.retire]
@[simp] theorem Desk.retire_launch (d : Desk) : (d.retire).launch = d.launch := by simp [Desk.retire]
@[simp] theorem Desk.retire_kern (d : Desk) : (d.retire).kern = d.kern := by simp [Desk.retire]
@[simp] theorem Desk.retire_text (d : Desk) : (d.retire).text = d.text := by simp [Desk.retire]
@[simp] theorem Desk.retire_base (d : Desk) : (d.retire).base = d.base := by simp [Desk.retire]
@[simp] theorem Desk.retire_gang (d : Desk) : (d.retire).gang = d.gang := by simp [Desk.retire]
@[simp] theorem Desk.retire_fwd (d : Desk) : (d.retire).fwd = d.fwd := by simp [Desk.retire]
@[simp] theorem Desk.retire_gangPc (d : Desk) : (d.retire).gangPc = d.gangPc := by simp [Desk.retire]
@[simp] theorem Desk.retire_hollow (d : Desk) : (d.retire).hollow = d.hollow := by simp [Desk.retire]
@[simp] theorem Desk.retire_wait (d : Desk) : (d.retire).wait = none := rfl
@[simp] theorem Desk.retire_latch (d : Desk) : (d.retire).latch = none := rfl
@[simp] theorem Desk.retire_cast (d : Desk) : (d.retire).cast = none := rfl
@[simp] theorem Desk.retire_mark (d : Desk) : (d.retire).mark = none := rfl
@[simp] theorem Desk.retire_walk (d : Desk) : (d.retire).walk = none := rfl
@[simp] theorem Desk.retire_seen (d : Desk) : (d.retire).seen = [] := rfl
@[simp] theorem Desk.retire_grant (d : Desk) : (d.retire).grant = 0 := rfl

/-- A g register reads back what was written; g0 reads 0 (R36). -/
theorem Desk.getG_setG (d : Desk) (r : GReg) (x : Word) (b : Bool) : (d.setG r x b).getG r = if r = 0 then 0 else x := by
  by_cases h : r = 0#5
  · subst h; rfl
  · cases hu : d.user <;> simp [Desk.setG, Desk.getG, Desk.file, h, hu]
@[simp] theorem Desk.getV_setV (d : Desk) (r : GReg) (x : Vec) (b : Bool) : (d.setV r x b).getV r = x := by simp [Desk.setV, Desk.getV]
theorem Desk.getP_setP (d : Desk) (p : PReg) (x : Word) (h : p ≠ 0) : (d.setP p x).getP p = x := by
  have h' : ¬p = 0#3 := h
  simp [Desk.setP, Desk.getP, h']
@[simp] theorem Desk.getG_zero (d : Desk) : d.getG 0 = 0 := rfl
@[simp] theorem Desk.getP_zero (d : Desk) : d.getP 0 = BitVec.allOnes 64 := rfl
/-- The other g registers are unchanged (R36). -/
theorem Desk.getG_setG_other (d : Desk) (r q : GReg) (x : Word) (b : Bool) (h : q ≠ r) : (d.setG r x b).getG q = d.getG q := by
  have : r.toNat ≠ q.toNat := fun e => h (BitVec.eq_of_toNat_eq e.symm)
  by_cases hr : r = 0#5
  · subst hr; rfl
  · cases hu : d.user <;> simp [Desk.setG, Desk.getG, Desk.file, hr, hu, this]
theorem Desk.getV_setV_other (d : Desk) (r q : GReg) (x : Vec) (b : Bool) (h : q ≠ r) : (d.setV r x b).getV q = d.getV q := by
  have : r.toNat ≠ q.toNat := fun e => h (BitVec.eq_of_toNat_eq e.symm)
  simp [Desk.setV, Desk.getV, this]

end Sys2Proof.Machine
end

