-- ==== Sys2Proof/Laws/Ops.lean ====
section
/-! SUPPORT. What the shared operations do, each said once: ending an instruction, waiting, trapping, reading and writing operands, and the
shapes of the scalar instructions. -/

namespace Sys2Proof.Machine

/-! ### Errors and results -/

theorem ok_bind {α β : Type} (a : α) (f : α → Except Stop β) : (Except.ok a >>= f) = f a := rfl
theorem error_bind {α β : Type} (e : Stop) (f : α → Except Stop β) : ((Except.error e : Except Stop α) >>= f) = .error e := rfl
/-- A sequence answers exactly where both of its parts do. -/
theorem bind_eq_ok {α β : Type} (x : Except Stop α) (f : α → Except Stop β) (b : β) : (x >>= f) = .ok b ↔ ∃ a, x = .ok a ∧ f a = .ok b := by
  cases x <;> simp [bind, Except.bind]

/-! ### Ending an instruction -/

theorem finish_ok {f : State → Except Stop State} {s t : State} (hl : s.leaderFull = false) (h : f s = .ok t) : finish f s = .next t.retire := by
  simp [finish, hl, h]
theorem finish_error {f : State → Except Stop State} {s : State} {e : Stop} (hl : s.leaderFull = false) (h : f s = .error e) :
    finish f s = .next (s.stopWith e) := by
  simp [finish, hl, h]
/-- An instruction that ends in the shared way always answers a next state. -/
theorem finish_next (f : State → Except Stop State) (s : State) : ∃ t, finish f s = .next t := by
  unfold finish; split
  · exact ⟨_, rfl⟩
  · split <;> exact ⟨_, rfl⟩
theorem finishHold_ok {f : State → Except Stop (State × Option Wait)} {s t : State} (hl : s.leaderFull = false) (h : f s = .ok (t, none)) :
    finishHold f s = .next t.retire := by
  simp [finishHold, hl, h]
theorem finishHold_wait {f : State → Except Stop (State × Option Wait)} {s t : State} {w : Wait} (hl : s.leaderFull = false)
    (h : f s = .ok (t, some w)) : finishHold f s = .next (t.hold w) := by
  simp [finishHold, hl, h]
theorem finishHold_error {f : State → Except Stop (State × Option Wait)} {s : State} {e : Stop} (hl : s.leaderFull = false)
    (h : f s = .error e) : finishHold f s = .next (s.stopWith e) := by
  simp [finishHold, hl, h]
theorem finishHold_next (f : State → Except Stop (State × Option Wait)) (s : State) : ∃ t, finishHold f s = .next t := by
  unfold finishHold; split
  · exact ⟨_, rfl⟩
  · split <;> exact ⟨_, rfl⟩
theorem event_some {f : State → Option State} {s t : State} (h : f s = some t) : event f s = .next t := by simp [event, h]
theorem event_none {f : State → Option State} {s : State} (h : f s = none) : event f s = .next s := by simp [event, h]
theorem event_next (f : State → Option State) (s : State) : ∃ t, event f s = .next t := ⟨_, rfl⟩
/-- Where no run-ahead path is open, nothing is held. -/
theorem heldBack_free {f : State → Except Stop State} {s : State} (h : s.d.gen = none) : heldBack f s = f s := by simp [heldBack, h]
/-- On a run-ahead path the instruction waits (R104). -/
theorem heldBack_held {f : State → Except Stop State} {s : State} (h : s.d.gen ≠ none) : heldBack f s = .error (.wait .held) := by
  cases hg : s.d.gen <;> simp_all [heldBack]
theorem onDesk_ok {f : Desk → Except Stop Desk} {s : State} {d : Desk} (h : f s.d = .ok d) : onDesk f s = .ok (s.setD d) := by simp [onDesk, h]
theorem onDesk_error {f : Desk → Except Stop Desk} {s : State} {e : Stop} (h : f s.d = .error e) : onDesk f s = .error e := by
  simp [onDesk, h]
theorem privileged_super {f : State → Except Stop State} {s : State} (h : s.d.user = false) : privileged f s = f s := by simp [privileged, h]
theorem privileged_user {f : State → Except Stop State} {s : State} (h : s.d.user = true) :
    privileged f s = .error (.trap 0x003 s.d.xword) := by simp [privileged, h]
theorem stopWith_trap {s : State} (h : s.d.gen = none) (c : Cause) (x : Word) (a : BitVec 2) (tf : Option (BitVec 9)) :
    s.stopWith (.trap c x a tf) = s.takeTrap c x a tf false := by simp [State.stopWith, h]
/-- An off-core reference waits with a switch (R15), any other wait without one. -/
theorem stopWith_reference (s : State) : s.stopWith (.wait .reference) = (s.hold .reference).switchDesk := rfl
theorem stopWith_wait (s : State) (w : Wait) (h : w ≠ .reference) : s.stopWith (.wait w) = s.hold w := by
  cases w <;> first | rfl | exact absurd rfl h
/-- Without a run-ahead path a discard changes nothing. -/
theorem discardGen_free {d : Desk} (h : d.gen = none) : d.discardGen = d := by simp [Desk.discardGen, h]
/-- A trap of a desk in user mode enters its handler (R353). -/
theorem takeTrap_user {s : State} (hg : s.d.gen = none) (hu : s.d.user = true) (c : Cause) (x : Word) (a : BitVec 2) (tf : Option (BitVec 9))
    (as : Bool) : s.takeTrap c x a tf as =
      s.setD (({ s.d with tfinfo := tf.getD s.d.tfinfo, grant := 0, walk := none, seen := [] } : Desk).enter c x a as) := by
  simp [State.takeTrap, discardGen_free hg, hu]

/-! ### Operands -/

/-- The guard code 0000 is always true (R39). -/
@[simp] theorem guard_zero (d : Desk) : d.guard 0 = true := by simp [Desk.guard, Desk.sel, Desk.getP]
@[simp] theorem guard_zero' (d : Desk) : d.guard 0#4 = true := guard_zero d
theorem limsG_cons (d : Desk) (r : GReg) (rs : List GReg) : d.limsG (r :: rs) = .ok () ↔ d.limG r = .ok () ∧ d.limsG rs = .ok () := by
  simp only [Desk.limsG]; cases d.limG r <;> simp
@[simp] theorem limsG_nil (d : Desk) : d.limsG [] = .ok () := rfl
theorem popsG_cons (d : Desk) (r : GReg) (rs : List GReg) (xs : List (Word × Bool)) (k : Desk) :
    d.popsG (r :: rs) = .ok (xs, k) ↔ ∃ x ys, d.popG r = .ok x ∧ x.d.popsG rs = .ok (ys, k) ∧ xs = (x.val, x.bad) :: ys := by
  simp only [Desk.popsG]
  constructor
  · intro h
    split at h
    · simp at h
    · rename_i x hx
      split at h
      · simp at h
      · rename_i ys k' hy
        simp only [Except.ok.injEq, Prod.mk.injEq] at h
        obtain ⟨rfl, rfl⟩ := h
        exact ⟨x, ys, hx, hy, rfl⟩
  · rintro ⟨x, ys, hx, hy, rfl⟩
    simp [hx, hy]
@[simp] theorem popsG_nil (d k : Desk) (xs : List (Word × Bool)) : d.popsG [] = .ok (xs, k) ↔ xs = [] ∧ k = d := by
  simp only [Desk.popsG, Except.ok.injEq, Prod.mk.injEq]; constructor <;> rintro ⟨rfl, rfl⟩ <;> simp
/-- A register, not a port, is read as it stands and nothing is popped (R37). -/
theorem popG_reg {d : Desk} {r : GReg} (h : d.isPort r = false) : d.popG r = .ok ⟨d.getG r, d.poisonG r, d⟩ := by simp [Desk.popG, h]
theorem popV_reg {d : Desk} {r : GReg} (h : d.isPort r = false) : d.popV r = .ok ⟨d.getV r, d.poisonV r, d⟩ := by simp [Desk.popV, h]
theorem roomG_reg {d : Desk} {r : GReg} (h : d.isPort r = false) : d.roomG r = .ok () := by simp [Desk.roomG, h]
theorem roomV_reg {d : Desk} {r : GReg} (h : d.isPort r = false) : d.roomV r = .ok () := by simp [Desk.roomV, h]
theorem pushG_reg {d : Desk} {r : GReg} (h : d.isPort r = false) (x : Word) (b : Bool) : d.pushG r x b = d.setG r x b := by
  simp [Desk.pushG, h]
theorem pushV_reg {d : Desk} {r : GReg} (h : d.isPort r = false) (x : Vec) (b : Bool) : d.pushV r x b = d.setV r x b := by
  simp [Desk.pushV, h]
theorem useG_clean {d : Desk} {r : GReg} (h : d.isPort r = false) (hp : d.poisonG r = false) : d.useG r = .ok ⟨d.getG r, d.poisonG r, d⟩ := by
  simp [Desk.useG, popG_reg h, hp]
/-- A kernel without queues names no port. -/
theorem isPort_off {d : Desk} (h : d.kern.queues = false) (r : GReg) : d.isPort r = false := by simp [Desk.isPort, h]
/-- Registers of a desk without ports are read together. -/
theorem popsG_regs {d : Desk} (h : d.kern.queues = false) (rs : List GReg) :
    d.popsG rs = .ok (rs.map (fun r => (d.getG r, d.poisonG r)), d) := by
  induction rs with
  | nil => rfl
  | cons r rs ih => simp [Desk.popsG, popG_reg (isPort_off h r), ih]
theorem take_ok {d : Desk} {g : Guard} {rs more : List GReg} {k : Nat} {xs : List (Word × Bool)} {d' : Desk}
    (hl : d.limsG (rs ++ more) = .ok ()) (hp : d.popsG rs = .ok (xs, d')) (hr : d.guard g = true → d'.rooms more [] = .ok ())
    (hc : d.guard g = true → cleanG (rs.take k) xs = .ok ()) :
    d.take g rs more k = .ok ⟨d.guard g, xs.map (·.1), xs.any (·.2), d'⟩ := by
  simp only [Desk.take, hl, hp]
  cases hg : d.guard g
  · simp
  · simp [hr hg, hc hg]
@[simp] theorem rooms_nil (d : Desk) : d.rooms [] [] = .ok () := rfl
theorem rooms_one (d : Desk) (r : GReg) : d.rooms [r] [] = .ok () ↔ d.roomG r = .ok () := by
  simp only [Desk.rooms, Desk.roomsG, Desk.roomsV]; cases d.roomG r <;> simp
@[simp] theorem cleanG_zero (rs : List GReg) (xs : List (Word × Bool)) : cleanG (rs.take 0) xs = .ok () := by simp [cleanG]

/-! ### Scalar shapes (R89 to R91, R143) -/

/-- What a scalar instruction leaves on its desk: the destination written where the guard selects it. -/
def Desk.scalarOut (d k : Desk) (g : Guard) (r : GReg) (v : Word) (bad : Bool) : Desk := if d.guard g then k.pushG r v bad else k

theorem alu2_ok {d : Desk} {g : Guard} {b a r : GReg} {f : Word → Word → Word} {xs : List (Word × Bool)} {k : Desk}
    (hl : d.limsG [a, b, r] = .ok ()) (hp : d.popsG [a, b] = .ok (xs, k)) (hr : d.guard g = true → k.roomG r = .ok ()) :
    alu2 g b a r f d = .ok (d.scalarOut k g r (f ((xs.map (·.1)).getD 0 0) ((xs.map (·.1)).getD 1 0)) (xs.any (·.2))) := by
  simp only [popsG_cons, popsG_nil] at hp
  obtain ⟨x, ys, hx, ⟨y, zs, hy, ⟨rfl, rfl⟩, rfl⟩, rfl⟩ := hp
  simp only [alu2, hl, hx, hy, ok_bind, Desk.scalarOut]
  cases hg : d.guard g
  · simp
  · simp [hr hg, ok_bind]
theorem alu1_ok {d : Desk} {g : Guard} {a r : GReg} {f : Word → Word} {xs : List (Word × Bool)} {k : Desk}
    (hl : d.limsG [a, r] = .ok ()) (hp : d.popsG [a] = .ok (xs, k)) (hr : d.guard g = true → k.roomG r = .ok ()) :
    alu1 g a r f d = .ok (d.scalarOut k g r (f ((xs.map (·.1)).getD 0 0)) (xs.any (·.2))) := by
  simp only [popsG_cons, popsG_nil] at hp
  obtain ⟨x, ys, hx, ⟨rfl, rfl⟩, rfl⟩ := hp
  simp only [alu1, hl, hx, ok_bind, Desk.scalarOut]
  cases hg : d.guard g
  · simp
  · simp [hr hg, ok_bind]
theorem aluI_ok {d : Desk} {i : BitVec 15} {a r : GReg} {f : Word → Word → Word} {xs : List (Word × Bool)} {k : Desk}
    (hl : d.limsG [a, r] = .ok ()) (hp : d.popsG [a] = .ok (xs, k)) (hr : k.roomG r = .ok ()) :
    aluI i a r f d = .ok (k.pushG r (f ((xs.map (·.1)).getD 0 0) (i.signExtend 64)) (xs.any (·.2))) := by
  simp only [popsG_cons, popsG_nil] at hp
  obtain ⟨x, ys, hx, ⟨rfl, rfl⟩, rfl⟩ := hp
  simp [aluI, hl, hx, hr, ok_bind]
theorem aluW_ok {d : Desk} {r : GReg} {f : Desk → Word} (hl : d.limsG [r] = .ok ()) (hr : d.roomG r = .ok ()) :
    aluW r f d = .ok (d.pushG r (f d) false) := by
  simp only [limsG_cons, limsG_nil, and_true] at hl
  simp [aluW, hl, hr, ok_bind]
theorem selOp_ok {d : Desk} {c : Guard} {b a r : GReg} {xs : List (Word × Bool)} {k : Desk}
    (hl : d.limsG [a, b, r] = .ok ()) (hp : d.popsG [a, b] = .ok (xs, k)) (hr : k.roomG r = .ok ()) :
    selOp c b a r d = .ok (k.pushG r (if d.guard c then (xs.map (·.1)).getD 0 0 else (xs.map (·.1)).getD 1 0) (xs.any (·.2))) := by
  simp only [popsG_cons, popsG_nil] at hp
  obtain ⟨x, ys, hx, ⟨y, zs, hy, ⟨rfl, rfl⟩, rfl⟩, rfl⟩ := hp
  simp [selOp, hl, hx, hy, hr, ok_bind]
theorem predG_ok {d : Desk} {g : Guard} {a : PReg} {r : GReg} {f : Word → Word} (hl : d.limsG [r] = .ok ())
    (hr : d.guard g = true → d.roomG r = .ok ()) : predG g a r f d = .ok (d.scalarOut d g r (f (d.getP a)) false) := by
  simp only [limsG_cons, limsG_nil, and_true] at hl
  simp only [predG, hl, ok_bind, Desk.scalarOut]
  cases hg : d.guard g
  · simp
  · simp [hr hg, ok_bind]
theorem field_ok {d : Desk} {g : Guard} {rs : List GReg} {r : GReg} {f : Taken → Word} {xs : List (Word × Bool)} {k : Desk}
    (hl : d.limsG (rs ++ [r]) = .ok ()) (hp : d.popsG rs = .ok (xs, k)) (hr : d.guard g = true → k.roomG r = .ok ()) :
    field g rs r f d = .ok (d.scalarOut k g r (f ⟨d.guard g, xs.map (·.1), xs.any (·.2), k⟩) (xs.any (·.2))) := by
  simp only [field, take_ok hl hp (fun h => (rooms_one k r).mpr (hr h)) (fun _ => cleanG_zero rs xs), ok_bind, Desk.scalarOut]
  cases hg : d.guard g <;> simp
/-- PCMP with clean operands writes every bit of its predicate (R91). -/
theorem pcmp_ok {d : Desk} {g : Guard} {b a : GReg} {p : PReg} {f : Word → Word → Bool} {xs : List (Word × Bool)} {k : Desk}
    (hl : d.limsG [a, b] = .ok ()) (hp : d.popsG [a, b] = .ok (xs, k)) (hc : d.guard g = true → xs.any (·.2) = false) :
    pcmp g b a p f d = .ok (if d.guard g then k.setP p (if f ((xs.map (·.1)).getD 0 0) ((xs.map (·.1)).getD 1 0) then BitVec.allOnes 64 else 0) else k) := by
  simp only [popsG_cons, popsG_nil] at hp
  obtain ⟨x, ys, hx, ⟨y, zs, hy, ⟨rfl, rfl⟩, rfl⟩, rfl⟩ := hp
  simp only [pcmp, hl, hx, hy, ok_bind]
  cases hg : d.guard g
  · simp
  · have := hc hg
    simp at this
    simp [this.1, this.2]

end Sys2Proof.Machine
end

