-- ==== Sys2Proof/Laws/Refs.lean ====
section
/-! SUPPORT. Off-core references, desk switches and the caches beside memory: what each shared operation does, said once (R15, R16, R190). -/

namespace Sys2Proof.Machine

/-! ### References -/

theorem asRef_ok {α : Type} (a : α) : asRef (.ok a) = .ok a := rfl
/-- An access that stands behind earlier ones of its desk has issued. -/
theorem asRef_memory {α : Type} : asRef (.error (.wait .memory) : Except Stop α) = .error (.wait .reference) := rfl
theorem asRef_key {α : Type} : asRef (.error (.wait .key) : Except Stop α) = .error (.wait .reference) := rfl
theorem asRef_trap {α : Type} (c : Cause) (x : Word) (a : BitVec 2) (tf : Option (BitVec 9)) :
    asRef (.error (.trap c x a tf) : Except Stop α) = .error (.trap c x a tf) := rfl
/-- Only the reason of a wait changes: what answers, answers as before. -/
theorem asRef_eq_ok {α : Type} (x : Except Stop α) (a : α) : asRef x = .ok a ↔ x = .ok a := by
  unfold asRef; split <;> simp
theorem keyRef_local {f : State → Taken → KTab → Who → Except Stop (State × Bool × Option Stop)} {tab : KTab} (h : tab.loc = true)
    (s : State) (t : Taken) (w : Who) : keyRef f s t tab w = f s t tab w := by simp [keyRef, h]
theorem keyRef_global {f : State → Taken → KTab → Who → Except Stop (State × Bool × Option Stop)} {tab : KTab} (h : tab.loc = false)
    (s : State) (t : Taken) (w : Who) : keyRef f s t tab w = asRef (f s t tab w) := by simp [keyRef, h]

/-- A reference whose value is back retires and the core switches. -/
theorem finishRef_ref {f : State → Except Stop (State × Bool)} {s t : State} (hl : s.leaderFull = false) (h : f s = .ok (t, true)) :
    finishRef f s = .next t.retire.switchDesk := by
  simp [finishRef, hl, h, asRef]
/-- An access that stayed on the core retires without a switch. -/
theorem finishRef_near {f : State → Except Stop (State × Bool)} {s t : State} (hl : s.leaderFull = false) (h : f s = .ok (t, false)) :
    finishRef f s = .next t.retire := by
  simp [finishRef, hl, h, asRef]
theorem finishRef_trap {f : State → Except Stop (State × Bool)} {s : State} {c : Cause} {x : Word} {a : BitVec 2} {tf : Option (BitVec 9)}
    (hl : s.leaderFull = false) (h : f s = .error (.trap c x a tf)) : finishRef f s = .next (s.stopWith (.trap c x a tf)) := by
  simp [finishRef, hl, h, asRef]
/-- A reference that stands behind earlier accesses waits as one that has issued: the desk holds, the core switches. -/
theorem finishRef_wait {f : State → Except Stop (State × Bool)} {s : State} (hl : s.leaderFull = false) (h : f s = .error (.wait .memory)) :
    finishRef f s = .next (s.hold .reference).switchDesk := by
  simp [finishRef, hl, h, asRef, stopWith_reference]
theorem finishRef_next (f : State → Except Stop (State × Bool)) (s : State) : ∃ t, finishRef f s = .next t := by
  unfold finishRef; split
  · exact ⟨_, rfl⟩
  · split <;> exact ⟨_, rfl⟩
theorem heldRef_free {f : State → Except Stop (State × Bool)} {s : State} (h : s.d.gen = none) : heldRef f s = finishRef f s := by
  simp [heldRef, h]
theorem heldRef_held {f : State → Except Stop (State × Bool)} {s : State} (h : s.d.gen.isSome = true) :
    heldRef f s = .next (s.hold .held) := by simp [heldRef, h]
theorem heldRef_next (f : State → Except Stop (State × Bool)) (s : State) : ∃ t, heldRef f s = .next t := by
  unfold heldRef; split
  · exact ⟨_, rfl⟩
  · exact finishRef_next f s

/-! ### Switches -/

/-- A switch stands on the desk that the ring gives, or does nothing. -/
theorem switchDesk_eq (s : State) : s.switchDesk = s ∨ ∃ j, s.c.nextReady s.desk = some j ∧ s.switchDesk = s.setC { s.c with desk := j } := by
  unfold State.switchDesk
  dsimp only
  split
  · exact .inr ⟨_, ‹_›, rfl⟩
  · exact .inl rfl
theorem switchDesk_mem (s : State) : s.switchDesk.mem = s.mem := by
  obtain h | ⟨j, -, h⟩ := switchDesk_eq s <;> rw [h]; rfl
theorem switchDesk_tick (s : State) : s.switchDesk.tick = s.tick := by
  obtain h | ⟨j, -, h⟩ := switchDesk_eq s <;> rw [h]; rfl
/-- A desk that becomes ready is resumed only by a core that idled. -/
theorem wakes_busy (s : State) (c : CoreId) (i : DeskId) : s.wakes false c i = s := by simp [State.wakes]
theorem wakes_mem (s : State) (idle : Bool) (c : CoreId) (i : DeskId) : (s.wakes idle c i).mem = s.mem := by
  simp only [State.wakes]; split <;> rfl

/-! ### The caches and the bytes beside them -/

/-- A write's own L1 copies go: nothing of memory does. -/
theorem l1Drop_mem (s : State) (c : CoreId) (ps : List Part) : (s.l1Drop c ps).mem = s.mem := by
  unfold State.l1Drop
  generalize ps.flatMap (fun p => lines32 p.pa.toNat p.n) = ls
  induction ls generalizing s with
  | nil => rfl
  | cons l ls ih => rw [List.foldl_cons, ih]; rfl
theorem l1Fill_mem (s : State) (c : CoreId) (line : Nat) : (s.l1Fill c line).mem = s.mem := rfl
/-- An L1 that comes to hold a line changes nothing of memory. -/
theorem l1Chance_mem (s : State) (c : CoreId) : (s.l1Chance c).mem = s.mem := by
  unfold State.l1Chance; dsimp only; split <;> rfl
/-- An entry that has left the digest index is never looked up again (R216). -/
theorem unindex_chain (b : Bank) (n : Nat) : n ∉ (b.unindex (some n)).chain := by simp [Bank.unindex]

end Sys2Proof.Machine
end

