-- ==== Sys2Proof/Laws/Streams.lean ====
section
/-! SUPPORT. What the streams of a desk make of an issue, said once (R100, R411). -/

namespace Sys2Proof.Machine

/-- Without a run-ahead path every word runs. -/
theorem pathAct_free {d : Desk} (h : d.gen = none) (c : Code) : d.pathAct c = .run {} := by simp [Desk.pathAct, h]
/-- What the streams make of an issue is a state again. -/
theorem streams_next (s : State) (u : Use) (t : State) : ∃ v, s.streams u (.next t) = .next v := by
  simp only [State.streams]
  repeat' split
  all_goals exact ⟨_, rfl⟩
/-- An issue that leaves the desk on no path and not waiting for room of a port stands as it is. -/
theorem streams_free {s t : State} {u : Use} (h : (t.deskAt s.core s.desk).gen = none)
    (hw : ∀ n, (t.deskAt s.core s.desk).wait ≠ some (.port n false)) : s.streams u (.next t) = .next t := by
  simp only [State.streams]
  split <;> simp_all
/-- A word that no path stands in the way of runs as its code says. -/
theorem runWord_free {s : State} (h : s.d.gen = none) (c : Code) : s.runWord c = s.streams {} (runCode c s) := by
  simp [State.runWord, pathAct_free h]

end Sys2Proof.Machine
end

