-- ==== Sys2Proof/Tests/Slice0.lean ====
section
/-! SUPPORT. Tests: a word of each encoded instruction written from the operation table, the checks of well-formedness, for each
statement of the certificate a state and operands that meet its hypotheses, clause by clause, and the spec's own worked examples. -/

set_option Elab.async false

namespace Sys2Proof.Tests
open Sys2Proof Sys2Proof.Machine Sys2Proof.Claims

/-! ### Decoding: words laid out from the match and mask columns and the fields of the operation table -/

/-- A word reads as an instruction, and the instruction is written as that word. -/
noncomputable def decodes (x : Code × Instr) : Bool := decodeCode x.1 == some x.2 && encode x.2 == some x.1
/-- Words of majors 0x01, 0x02, by the fields of the operation table. -/
theorem test_decode_01_02 : ([
    (.full 0x03F2F783, .add 15 25 15 15),
    (.full 0x06793383, .sub 9 28 19 7),
    (.full 0x08F51803, .mul 3 26 17 16),
    (.full 0x0EE9A303, .mulh 11 20 26 6),
    (.full 0x109EA283, .mulhU 2 15 10 5),
    (.full 0x14A5AE83, .div 2 18 26 29),
    (.full 0x1B2A2A03, .divU 12 21 2 20),
    (.full 0x1DFEFA83, .rem 7 31 15 21),
    (.full 0x23295303, .remU 12 20 21 6),
    (.full 0x2683B883, .and 10 1 27 17),
    (.full 0x28842383, .or 2 2 2 7),
    (.full 0x2FD14083, .xor 15 8 20 1),
    (.full 0x335EB783, .shl 13 15 11 15),
    (.full 0x36B67883, .shr 10 27 7 17),
    (.full 0x392AA803, .sha 4 21 10 16),
    (.full 0x3C6C3783, .slt 1 22 3 15),
    (.full 0x42D2E903, .sltU 11 9 14 18),
    (.full 0x47F63B83, .min 15 27 3 23),
    (.full 0x49579403, .minU 5 11 25 8),
    (.full 0x4E541183, .max 9 10 1 3),
    (.full 0x52B24683, .maxU 10 25 4 13),
    (.full 0x5481C503, .clz 2 28 10),
    (.full 0x59C03F83, .ctz 7 3 31),
    (.full 0x5C41CB03, .popc 1 28 22),
    (.full 0x60407383, .extB 1 7 7),
    (.full 0x67C1E103, .extH 15 30 2),
    (.full 0x69C0E183, .extW 7 14 3),
    (.full 0x6E815383, .extBu 10 21 7),
    (.full 0x73416483, .extHu 13 22 9),
    (.full 0x75803503, .extWu 6 3 10),
    (.full 0x7983F703, .sel 6 1 31 14),
    (.full 0xC211E205, .addImm 24840 30 4)] : List (Code × Instr)).all decodes = true := by decide +kernel

/-- Words of majors 0x03, 0x04, 0x05, 0x06, 0x07, 0x08, 0x09, 0x0A, 0x0B, 0x0C, 0x0D, by the fields of the operation table. -/
theorem test_decode_03_04_05_06_07_08_09_0a_0b_0c_0d : ([
    (.full 0x22768B87, .andImm 4411 8 23),
    (.full 0x19E01109, .orImm 3312 1 2),
    (.full 0x7709A80B, .xorImm 15236 26 16),
    (.full 0x0019690D, .shlImm 12 22 18),
    (.full 0x009AF88D, .shrImm 13 15 17),
    (.full 0x011B8C8D, .shaImm 13 24 25),
    (.full 0x2188EA8F, .sltImm 4292 14 21),
    (.full 0x623D9211, .lui 402393 4),
    (.full 0x65152713, .addpc 414034 14),
    (.full 0x01029395, .pcmpEq 4 1 9 7),
    (.full 0x0766A095, .pcmpNe 13 19 10 1),
    (.full 0x090CD395, .pcmpLt 4 6 13 7),
    (.full 0x0EAB3095, .pcmpGe 10 21 19 1),
    (.full 0x104A7215, .pcmpLtU 1 5 7 4),
    (.full 0x15439295, .pcmpGeU 5 1 25 5),
    (.full 0x218E3215, .pand 6 7 3 4),
    (.full 0x24821115, .por 2 1 1 2),
    (.full 0x2A8C2095, .pxor 10 6 2 1),
    (.full 0x2E863295, .pandn 10 3 3 5),
    (.full 0x30C07215, .pnot 3 7 4),
    (.full 0x34C06115, .pmov 3 6 2),
    (.full 0x39402D95, .pcnt 5 2 27),
    (.full 0x3E802C15, .pfirst 10 2 24),
    (.full 0x41002C15, .pall 4 2 24),
    (.full 0x46C05395, .pnone 11 5 7),
    (.full 0xAFF94197, .b 1407 1 4 20 3),
    (.full 0x6C004099, .bpAny 864 0 1 1),
    (.full 0x0A105319, .bpAll 80 1 1 6),
    (.full 0xB470A219, .bpNone 1443 1 2 4),
    (.full 0xD2DF3E9B, .jal 863731 29)] : List (Code × Instr)).all decodes = true := by decide +kernel

/-- Words of majors 0x0E, 0x0F, 0x10, 0x11, 0x12, 0x13, 0x18, 0x19, 0x1A, 0x1B, 0x1C, 0x1D, 0x1E, 0x1F, 0x20, by the fields of the operation table. -/
theorem test_decode_0e_0f_10_11_12_13_18_19_1a_1b_1c_1d_1e_1f_20 : ([
    (.full 0x0001481D, .jr 20 16),
    (.full 0x04E2679D, .rep 3 17 6 15),
    (.full 0x0800609D, .setk 6 1),
    (.full 0x0C00011D, .pendk 2),
    (.full 0x1000011D, .qflush 2),
    (.full 0x1400491D, .qcnt 4 18),
    (.full 0x1801501D, .gang 21),
    (.full 0x1C00001D, .ungang),
    (.full 0xDA38141F, .loop 13966 20 0),
    (.full 0x47C0DA21, .loopi 4592 218 0),
    (.full 0xBFC29723, .brd 1534 0 1 9 14),
    (.full 0x72222EA5, .brq 913 0 1 2 1),
    (.full 0x482EB027, .rejoin 295659),
    (.full 0x5EBA51B1, .ld 378 3 5 5 3),
    (.full 0xF6E63B33, .st 987 2 3 3 22),
    (.full 0x7943CE35, .ldl 485 1 28 28),
    (.full 0x6B03C837, .stl 428 1 28 16),
    (.full 0x92D14B39, .vld 587 1 20 22),
    (.full 0x622130BB, .vst 392 2 19 1),
    (.full 0x9C0031BD, .vldl 624 3 3),
    (.full 0x1741523F, .vstl 93 21 4),
    (.full 0x03C2C541, .lda 15 1 12 10),
    (.full 0x0587B141, .str 6 3 27 2),
    (.full 0x09794141, .vlds 5 28 20 2),
    (.full 0x0EEE99C1, .vsts 11 23 9 19),
    (.full 0x11955D41, .vgathW 6 10 21 26),
    (.full 0x168352C1, .vgathD 10 1 21 5),
    (.full 0x19DE70C1, .vscatW 7 15 7 1),
    (.full 0x1F769441, .vscatD 13 27 9 8),
    (.full 0x234BA041, .pref 13 5 26),
    (.full 0x24560241, .fence 1 11 4),
    (.full 0x28000041, .l1gen)] : List (Code × Instr)).all decodes = true := by decide +kernel

/-- Words of majors 0x21, by the fields of the operation table. -/
theorem test_decode_21 : ([
    (.full 0x02415AC3, .ldv 9 21 21),
    (.full 0x048163C3, .ldvs 2 22 7),
    (.full 0x09000DC3, .valset 4 27),
    (.full 0x0D400043, .vclr 5),
    (.full 0x10EE1CC3, .vcas 3 23 1 25),
    (.full 0x14406443, .lver 1 6 8),
    (.full 0x1972C2C3, .l2ret 5 25 12 5),
    (.full 0x1F0002C3, .unpin 12 5),
    (.full 0x22680CC3, .l2stat 9 20 25)] : List (Code × Instr)).all decodes = true := by decide +kernel

/-- Words of majors 0x22, by the fields of the operation table. -/
theorem test_decode_22 : ([
    (.full 0x01B9ABC5, .amoAdd 1 2 28 26 23),
    (.full 0x055DEEC5, .amoAnd 1 1 14 30 29),
    (.full 0x0B8AF7C5, .amoOr 3 2 5 15 15),
    (.full 0x0DFBE0C5, .amoXor 1 3 29 30 1),
    (.full 0x12E75EC5, .amoMin 2 3 19 21 29),
    (.full 0x179EBAC5, .amoMax 3 2 15 11 21),
    (.full 0x1971CDC5, .amoMinU 1 1 24 28 27),
    (.full 0x1FC87445, .amoMaxU 3 3 4 7 8),
    (.full 0x22552D45, .amoSwap 2 1 10 18 26),
    (.full 0x26BD7E45, .amoFadd 2 2 30 23 28),
    (.full 0x29A23145, .amoFmin 1 2 17 3 2),
    (.full 0x2EA4ECC5, .amoFmax 2 2 18 14 25),
    (.full 0x42BC13C5, .amoAddW 2 2 30 1 7),
    (.full 0x45B42345, .amoAndW 1 2 26 2 6),
    (.full 0x4BADAF45, .amoOrW 3 2 22 26 30),
    (.full 0x4D8B1EC5, .amoXorW 1 2 5 17 29),
    (.full 0x53F76BC5, .amoMinW 3 3 27 22 23),
    (.full 0x56A7FBC5, .amoMaxW 2 2 19 31 23),
    (.full 0x595F1945, .amoMinUW 1 1 15 17 18),
    (.full 0x5EE55345, .amoMaxUW 2 3 18 21 6),
    (.full 0x63F7E945, .amoSwapW 3 3 27 30 18),
    (.full 0x72ACDFC5, .cas 2 2 22 13 31),
    (.full 0x7755C2C5, .casW 3 1 10 28 5),
    (.full 0x83A5A045, .aredAdd 3 2 18 26),
    (.full 0x879DE045, .aredAnd 3 2 14 30),
    (.full 0x8A910045, .aredOr 2 2 8 16),
    (.full 0x8DA81045, .aredXor 1 2 20 1),
    (.full 0x93890045, .aredMin 3 2 4 16),
    (.full 0x97BA6045, .aredMax 3 2 29 6),
    (.full 0x9BA36045, .aredMinU 3 2 17 22),
    (.full 0x9DBD6045, .aredMaxU 1 2 30 22),
    (.full 0xA3879045, .aredSwap 3 2 3 25)] : List (Code × Instr)).all decodes = true := by decide +kernel

/-- Words of majors 0x22b, by the fields of the operation table. -/
theorem test_decode_22b : ([
    (.full 0xA59AF045, .aredFadd 1 2 13 15),
    (.full 0xABA74045, .aredFmin 3 2 19 20),
    (.full 0xAEBC4045, .aredFmax 2 2 30 4),
    (.full 0xC2A04045, .aredAddW 2 2 16 4),
    (.full 0xC5ABD045, .aredAndW 1 2 21 29),
    (.full 0xCB967045, .aredOrW 3 2 11 7),
    (.full 0xCFA66045, .aredXorW 3 2 19 6),
    (.full 0xD1A61045, .aredMinW 1 2 19 1),
    (.full 0xD59ED045, .aredMaxW 1 2 15 13),
    (.full 0xDB824045, .aredMinUW 3 2 1 4),
    (.full 0xDE93D045, .aredMaxUW 2 2 9 29),
    (.full 0xE1A06045, .aredSwapW 1 2 16 6)] : List (Code × Instr)).all decodes = true := by decide +kernel

/-- Words of majors 0x23, by the fields of the operation table. -/
theorem test_decode_23 : ([
    (.full 0x03A12A47, .vamoAdd 14 16 18 20),
    (.full 0x0684EFC7, .vamoAnd 10 2 14 31),
    (.full 0x09E8A647, .vamoOr 7 20 10 12),
    (.full 0x0E550AC7, .vamoXor 9 10 16 21),
    (.full 0x1165E547, .vamoMin 5 18 30 10),
    (.full 0x16EF8547, .vamoMax 11 23 24 10),
    (.full 0x18439447, .vamoMinU 1 1 25 8),
    (.full 0x1E855347, .vamoMaxU 10 2 21 6),
    (.full 0x21F366C7, .vamoSwap 7 25 22 13),
    (.full 0x247ABC47, .vamoFadd 1 29 11 24),
    (.full 0x29C53C47, .vamoFmin 7 2 19 24),
    (.full 0x2D87AEC7, .vamoFmax 6 3 26 29),
    (.full 0x411D8847, .varedAdd 4 14 24 16),
    (.full 0x45728147, .varedAnd 5 25 8 2),
    (.full 0x4A49ED47, .varedOr 9 4 30 26),
    (.full 0x4F3CF2C7, .varedXor 12 30 15 5),
    (.full 0x53914BC7, .varedMin 14 8 20 23),
    (.full 0x54854747, .varedMax 2 2 20 14),
    (.full 0x585912C7, .varedMinU 1 12 17 5),
    (.full 0x5C98F2C7, .varedMaxU 2 12 15 5),
    (.full 0x62DCFA47, .varedSwap 11 14 15 20),
    (.full 0x656B3B47, .varedFadd 5 21 19 22),
    (.full 0x69D99C47, .varedFmin 7 12 25 24),
    (.full 0x6E765FC7, .varedFmax 9 27 5 31),
    (.full 0xC000A647, .nmop 10 12),
    (.full 0xC4005047, .nmwait 5)] : List (Code × Instr)).all decodes = true := by decide +kernel

/-- Words of majors 0x24, 0x25, 0x26, by the fields of the operation table. -/
theorem test_decode_24_25_26 : ([
    (.full 0x01891EC9, .cadd 1 2 4 17 29),
    (.full 0x0415A049, .cwait 10 26),
    (.full 0x08234E49, .ctest 17 20 28),
    (.full 0x0C1894C9, .barv 12 9 9),
    (.full 0x10296049, .bwait 20 22),
    (.full 0x14000049, .bell),
    (.full 0x18000049, .xdone),
    (.full 0x1C313BC9, .xput 24 19 23),
    (.full 0x20267AC9, .xget 19 7 21),
    (.full 0x0172804B, .tdef 5 25 8),
    (.full 0x053E804B, .tfill 4 31 8),
    (.full 0x0A41504B, .tready 9 21),
    (.full 0x0FC0704B, .tdrain 15 7),
    (.full 0x13C1604B, .tfree 15 22),
    (.full 0x1441514B, .tstat 1 21 2),
    (.full 0x1852904B, .twait 1 9 9),
    (.full 0x1DC3414B, .tcast 7 1 20 2),
    (.full 0x0091204D, .bbinit 2 8 18),
    (.full 0x0547904D, .bbinitw 5 3 25),
    (.full 0x08BC0B4D, .bbpeek 2 30 22),
    (.full 0x0CE4044D, .bbget 3 18 8),
    (.full 0x12D8004D, .bbskip 11 12),
    (.full 0x1580704D, .bbseek 6 7),
    (.full 0x198005CD, .bbpos 6 11),
    (.full 0x1F87A24D, .bblut 14 3 26 4),
    (.full 0x22B7904D, .bbput 10 27 25),
    (.full 0x2740004D, .bbflush 13),
    (.full 0x291EEC4D, .bfx 4 15 14 24),
    (.full 0x2D5BA2CD, .bfi 5 13 26 5),
    (.full 0x318B5DCD, .fshl 6 5 21 27),
    (.full 0x3696A94D, .fshr 10 11 10 18),
    (.full 0x3B418DCD, .brev 13 24 27)] : List (Code × Instr)).all decodes = true := by decide +kernel

/-- Words of majors 0x28, 0x29, 0x2A, 0x2B, by the fields of the operation table. -/
theorem test_decode_28_29_2a_2b : ([
    (.full 0x09EAC9D1, .vadd 2 7 21 12 19),
    (.full 0x349D39D1, .vsub 5 2 14 19 19),
    (.full 0x5F423551, .vmul 7 13 1 3 10),
    (.full 0x6BED41D1, .vfma 2 15 22 20 3),
    (.full 0x99618CD1, .vfms 6 5 16 24 25),
    (.full 0xB995D2D1, .vmin 6 6 10 29 5),
    (.full 0xC9AD85D1, .vmax 2 6 22 24 11),
    (.full 0xE899B651, .vdiv 2 2 12 27 12),
    (.full 0x058166D3, .vabs 1 6 22 13),
    (.full 0x35C1A3D3, .vneg 5 7 26 7),
    (.full 0x4740FED3, .vsqrt 1 13 15 29),
    (.full 0x6A402953, .vrcp 2 9 2 18),
    (.full 0x8A80AFD3, .vrsqrt 2 10 10 31),
    (.full 0xA6C1BD53, .vexp2 1 11 27 26),
    (.full 0xC7C0B1D3, .vlog2 1 15 11 3),
    (.full 0xE6C152D3, .vmov 1 11 21 5),
    (.full 0x0B8A3655, .vact 2 14 5 3 12),
    (.full 0x29C5B7D5, .vdact 2 7 2 27 15),
    (.full 0x57064155, .vcmpEq 5 12 3 4 2),
    (.full 0x64C8E255, .vcmpNe 1 3 4 14 4),
    (.full 0x9C97E3D5, .vcmpLt 7 2 11 30 7),
    (.full 0xAB4BB355, .vcmpLe 2 13 5 27 6),
    (.full 0xD470DA55, .vsel 5 1 24 13 20),
    (.full 0xEAC142D5, .vnfin 2 11 20 5),
    (.full 0x055675D7, .vand 1 5 11 7 11),
    (.full 0x2EDE4957, .vor 3 11 15 4 18),
    (.full 0x5122BD57, .vxor 4 4 17 11 26),
    (.full 0x6F804A57, .vnot 3 14 4 20),
    (.full 0x98D39957, .vshl 6 3 9 25 18),
    (.full 0xB64B3BD7, .vshr 5 9 5 19 23),
    (.full 0xDFCF3FD7, .vsha 7 15 7 19 31),
    (.full 0xF5C00BD7, .viota 5 7 23)] : List (Code × Instr)).all decodes = true := by decide +kernel

/-- Words of majors 0x2C, 0x2D, of the 16-bit forms, by the fields of the operation table. -/
theorem test_decode_2c_2d_half : ([
    (.full 0x0D803F59, .vbcast 3 6 3 30),
    (.full 0x3D92FED9, .vextr 7 6 9 15 29),
    (.full 0x566521D9, .vins 5 9 18 18 3),
    (.full 0x77D26F59, .vperm 5 15 9 6 30),
    (.full 0x95C3EED9, .vred 5 7 1 30 29),
    (.full 0xB70537D9, .vscan 5 12 2 19 15),
    (.full 0xDFCCB2D9, .vdot 7 15 6 11 5),
    (.full 0xE0023259, .vhad 1 3 4),
    (.full 0x0ABB3D5B, .vcvt 2 10 3 5 19 26),
    (.full 0x30002BDB, .vpack 4 2 23),
    (.full 0x4C01BA5B, .vunpk 3 27 20),
    (.half 0xC444, .vaddF32S 24 17),
    (.half 0xCA48, .vsubF32S 25 9),
    (.half 0xCCCC, .vmulF32S 25 19),
    (.half 0x80D0, .vmaxF32S 16 3),
    (.half 0xAED4, .vminF32S 21 27),
    (.half 0x8998, .vaddBf16S 17 6),
    (.half 0x6A5C, .vmulBf16S 13 9),
    (.half 0x41A0, .vaddI32S 8 6),
    (.half 0x85E4, .vsubI32S 16 23),
    (.half 0xB6E8, .vandS 22 27),
    (.half 0xA6AC, .vorS 20 26),
    (.half 0x78B0, .vxorS 15 2),
    (.half 0x5BB4, .vmovS 11 14),
    (.half 0x7B38, .vabsF32S 15 12),
    (.half 0xB9FC, .vreluF32S 23 7),
    (.half 0xB446, .dictRef 721 1)] : List (Code × Instr)).all decodes = true := by decide +kernel

/-- Words of majors 0x30, 0x34, by the fields of the operation table. -/
theorem test_decode_30_34 : ([
    (.full 0x022380E1, .mmaPt 8 17 24 0 0 1),
    (.full 0x065504E1, .mmaMinp 9 10 16 1 0 1),
    (.full 0x0AEF9361, .mmaMaxp 11 23 25 0 1 2),
    (.full 0x0FE87161, .mmaMaxt 15 20 7 0 0 2),
    (.full 0x12AA2561, .mmaOrand 10 21 2 1 0 2),
    (.full 0x239BE361, .mmas 14 13 30 0 1 2),
    (.full 0x274020E1, .mzero 13 2 1),
    (.full 0x2B406161, .mldc 13 6 2),
    (.full 0x2E80F161, .mout 10 15 2),
    (.full 0x3200F161, .mepi 8 15 2),
    (.full 0x36C160E1, .mmaskRow 11 22 1),
    (.full 0x378102E1, .mmaskBlk 14 16 1),
    (.full 0x380001E1, .mwait 3),
    (.full 0x3E831061, .msend 10 1 17),
    (.full 0x40006C61, .mcap 6 24),
    (.full 0x44009061, .mrevoke 9),
    (.full 0x4806D9E1, .mstat 3 13 19),
    (.full 0x4FC151E1, .mthr 15 21 3),
    (.full 0x500204E1, .mprogRd 1 9),
    (.full 0x54004161, .mprogWr 4 2),
    (.full 0x004B8F69, .khash 1 5 24 30),
    (.full 0x07585CE9, .kfind 13 12 5 25),
    (.full 0x0931BF69, .kins 4 24 27 30),
    (.full 0x0C82BDE9, .kdel 2 1 11 27),
    (.full 0x11DE3E69, .kacc 7 15 3 28),
    (.full 0x17DAB4E9, .kget 15 13 11 9),
    (.full 0x1B7B1B69, .kput 13 29 17 22),
    (.full 0x1C54DA69, .khot 1 10 13 20),
    (.full 0x21202069, .kmerge 4 16 2),
    (.full 0x250B1A69, .kscan 4 5 17 20),
    (.full 0x28C47069, .kdirty 3 2 7),
    (.full 0x2D5CE869, .kcount 5 14 14 16)] : List (Code × Instr)).all decodes = true := by decide +kernel

/-- Words of majors 0x35, 0x38, 0x3A, 0x3C, 0x3D, by the fields of the operation table. -/
theorem test_decode_35_38_3a_3c_3d : ([
    (.full 0x002570EB, .jbind 18 23 1),
    (.full 0x0422396B, .jnode 17 3 18),
    (.full 0x0812BC6B, .krange 9 11 24),
    (.full 0x0E2CD2EB, .kruns 8 22 13 5),
    (.full 0x13C0706B, .kisect 15 7),
    (.full 0x14369F6B, .jgather 27 9 3 6),
    (.full 0x1A1A5AEB, .jscatter 8 13 5 2 5),
    (.full 0x0380C071, .cpy 14 12),
    (.full 0x06C10071, .cpyq 11 16),
    (.full 0x0A801071, .gath 10 1),
    (.full 0x0F419071, .coll 13 25),
    (.full 0x1300A071, .fput 12 10),
    (.full 0x16C16071, .fget 11 22),
    (.full 0x18003F71, .jobx 3 30),
    (.full 0x1F8F2071, .msg 14 7 18),
    (.full 0x20003671, .mrecv 3 12),
    (.full 0x24003271, .mpeek 3 4),
    (.full 0x283F9E71, .msgNb 31 25 28),
    (.full 0x00188D75, .launch 12 8 26),
    (.full 0x040154F5, .spawn 21 9),
    (.full 0x080001F5, .share 3),
    (.full 0x0C000075, .tend),
    (.full 0x1034E075, .esignal 26 14),
    (.full 0x140046F5, .sqput 4 13),
    (.full 0x18010175, .sqget 16 2),
    (.full 0x1C0016F5, .sqlen 1 13),
    (.full 0x1DCA05F9, .mfs 3813 11),
    (.full 0x091D007B, .mts 1166 16)] : List (Code × Instr)).all decodes = true := by decide +kernel

/-- Words of majors 0x3E, by the fields of the operation table. -/
theorem test_decode_3e : ([
    (.full 0x0018907D, .trap 12 9),
    (.full 0x0400007D, .xret),
    (.full 0x040000FD, .xretSkip),
    (.full 0x0C10607D, .ctxsv 8 6),
    (.full 0x103CD07D, .ctxrs 30 13),
    (.full 0x140F007D, .tlbinv 7 16),
    (.full 0x1832007D, .brkpt 25),
    (.full 0x1C00037D, .roll 6),
    (.full 0x2000007D, .ckpt),
    (.full 0x2400C07D, .idle 12)] : List (Code × Instr)).all decodes = true := by decide +kernel

/-! ### Well-formedness -/
/-- One ill-formed term or two for each check: the reserved guard, a condition that is always true, a slot code, a pair at g31, p0, types,
     scopes and the ranges of the other fields. -/
theorem test_wellFormed_refuses :
    ([.add 8 0 0 0, .kcount 8 0 0 0, .sel 8 0 0 0, .vsel 0 8 0 0 0, .pcmpEq 0 0 0 0, .jgather 0 0 0 0, .b 0 0 6 0 0, .vact 0 0 6 0 0, .loop 0 0 0, .loopi 0 0 0, .ld 0 0 7 0 0,
     .ldl 0 7 0 0, .st 0 0 4 0 0, .st 0 1 0 0 0, .aredSwapW 0 1 0 0, .lda 0 5 0 0, .fence 0 0 5, .ldv 0 0 31, .share 31, .nmop 0 7, .msg 7 0 0, .cadd 0 1 0 0 0, .vadd 3 0 0 0 0,
     .vdot 3 0 0 0 0, .vdiv 5 0 0 0 0, .vdact 5 0 0 0 0, .vdact 0 0 3 0 0, .vshl 0 0 0 0 0, .viota 0 0 0, .vred 0 0 3 0 0, .vhad 3 0 0, .vpack 0 0 0, .vunpk 0 0 0,
     .mmas 0 30 2 0 0 0, .vnfin 5 0 0 1] : List Instr).all (fun i => !i.wellFormed) = true := by decide +kernel
/-- The same terms with that field in its range. -/
theorem test_wellFormed_accepts :
    ([.add 0 0 0 0, .kcount 0 0 0 0, .sel 9 0 0 0, .vsel 0 9 0 0 0, .pcmpEq 0 0 0 1, .jgather 0 0 0 1, .b 0 0 0 0 0, .vact 0 0 0 0 0, .loop 1 0 0, .loopi 1 0 0, .ld 0 0 0 0 0,
     .ldl 0 0 0 0, .st 0 0 0 0 0, .st 0 0 0 0 0, .aredSwapW 0 0 0 0, .lda 0 0 0 0, .fence 0 0 0, .ldv 0 0 2, .share 2, .nmop 0 0, .msg 0 0 0, .cadd 0 1 0 0 3, .vadd 0 0 0 0 0,
     .vdot 0 0 0 0 0, .vdiv 0 0 0 0 0, .vdact 0 0 0 0 0, .vdact 0 0 0 0 0, .vshl 5 0 0 0 0, .viota 5 0 0, .vred 0 0 0 0 0, .vhad 0 0 0, .vpack 3 0 0, .vunpk 3 0 0,
     .mmas 0 0 2 0 0 0, .vnfin 0 0 0 1] : List Instr).all (fun i => i.wellFormed) = true := by decide +kernel

/-! ### Small states, and what a witness says -/

/-- A module whose core 0 runs its desk 0 in user mode at 0x1000, with the first GiB of memory mapped to itself. -/
def w0 : State := { State.reset.withFetchWord 32 3 with turns := [] }
/-- Changes the desk that moves. -/
def on (s : State) (f : Desk → Desk) : State := s.setD (f s.d)
/-- Changes the core that moves. -/
def onC (s : State) (f : Core → Core) : State := s.setC (f s.c)
/-- Some g registers hold some values. -/
def regs (s : State) (xs : List (GReg × Word)) : State := on s (fun d => xs.foldl (fun d x => d.setG x.1 x.2 false) d)
/-- A g register is poisoned. -/
def bad (s : State) (r : GReg) : State := on s (fun d => d.setG r 5 true)
/-- A kernel with queue ports, and some entries in q0. -/
def ported (s : State) (xs : List Word) : State :=
  on s (fun d => { d with kern := { d.kern with queues := true }, q := d.q.set 0 (xs.map (fun x => ⟨x, false, false⟩)) })
/-- The desk in supervisor mode. -/
def sup (s : State) : State := on s (fun d => { d with user := false })
/-- The desk runs a launch. -/
def launched (s : State) : State :=
  (on s (fun d => { d with launch := some 0 })).setLaunch 0 { status := .running, started := true, stages := [{}] }

/-- Some bytes, of which those that are not 0 are listed, stand in memory that held none there. -/
def put (s : State) (a x n : Nat) : State :=
  { s with mem := { s.mem with bytes := (natLe x n).zipIdx.foldl (fun m y => if y.1 = 0 then m else cput m (a + y.2) y.1) s.mem.bytes } }
/-- Core 0 leads a gang of two, and core 1 waits at something. -/
def led (g : GangRole) (w : Wait) : State :=
  (on w0 (fun d => { d with gang := .leader 2, sent := true })).setDeskAt 1 0 { (w0.deskAt 1 0) with occ := true, gang := g, wait := some w, gangPc := 0x1234 }

/-- The state that an instruction or an event leads to. -/
def after (i : Instr) (s : State) : State := match exec i s with | .next t => t | _ => s
/-- Whether it goes on in one. -/
def goes (i : Instr) (s : State) : Bool := match exec i s with | .next _ => true | _ => false

/-- The desk that moves issues freely. -/
def issues (s : State) : Bool := s.d.gen.isNone && !s.leaderFull
/-- An operation succeeds, and its result has a property. -/
def okAnd {ε α : Type} (x : Except ε α) (p : α → Bool) : Bool := match x with | .ok a => p a | .error _ => false
/-- An operation succeeds. -/
def fine {ε α : Type} (x : Except ε α) : Bool := okAnd x (fun _ => true)
/-- Such a witness is one for the hypothesis of a statement. -/
theorem issues_sound {s : State} (h : issues s = true) : s.Issues := by
  simpa [issues, State.Issues] using h
theorem okAnd_sound {ε α : Type} {x : Except ε α} {p : α → Bool} (h : okAnd x p = true) : ∃ a, x = .ok a ∧ p a = true := by
  cases x with
  | ok a => exact ⟨a, rfl, h⟩
  | error e => simp [okAnd] at h

/-! ### Witnesses: states and operands that meet the hypotheses of each statement, clause by clause -/

theorem test_w0 : issues w0 = true ∧ w0.d.user = true ∧ w0.d.ready = true ∧ w0.d.pc = 0x1000 := by decide +kernel
/-- O1: a register and a port as sources; selected and not selected; a poisoned operand of PCMP is O3's. -/
theorem test_witness_ScalarResult :
    let s := regs (ported w0 [7]) [(1, 5)]
    issues s && fine (s.d.limsG [1, 28, 2]) && okAnd (s.d.popsG [1, 28]) (fun y => y.1 == [(5, false), (7, false)] && s.d.guard 0 && fine (y.2.roomG 2)) &&
    !s.d.guard 1 && (scalarRule (.add 0 28 1 2)).isSome := by decide +kernel
/-- O2. -/
theorem test_witness_BitFields :
    let s := regs w0 [(1, 5), (2, 0x0808), (3, 9)]
    (issues s && fine (s.d.limsG [1, 2, 3, 3]) && okAnd (s.d.popsG [1, 2, 3]) (fun y => y.1.length == 3 && fine (y.2.roomG 3)) && (fieldRule (.bfi 0 2 1 3)).isSome) = true := by
  decide +kernel
/-- O3: clean operands, and a poisoned one. -/
theorem test_witness_PredicateResult :
    let s := regs w0 [(1, 5)]
    (issues s && fine (s.d.limsG [1, 2]) && okAnd (s.d.popsG [1, 2]) (fun y => !y.1.any (·.2)) && (predRule (.pcmpEq 0 2 1 3)).isSome) = true ∧
    (issues (bad s 2) && fine ((bad s 2).d.limsG [1, 2]) && !(bad s 2).d.kern.queues && (bad s 2).d.guard 0 && ((bad s 2).d.poisonG 1 || (bad s 2).d.poisonG 2)) = true := by decide +kernel

/-- O4: a branch in and outside a gang's reach, a jump, an even and an odd target. -/
theorem test_witness_BranchResult :
    let s := regs w0 [(1, 5), (2, 0x2001)]
    (issues s && !s.d.pc.getLsbD 0 && s.d.gang == .none && fine (s.d.limsG [1, 2]) && okAnd (s.d.popsG [1, 2]) (fun y => !y.1.any (·.2)) &&
      (branchRule (.brd 5 1 0 1 2)).isSome && (branchRule (.bpAll 5 0 2 1)).isSome) = true ∧
    (fine (s.d.limG 3) && fine (s.d.roomG 3) && fine (s.d.limsG [2, 3]) && okAnd (s.d.popsG [2]) (fun y => y.1 == [(0x2001, false)] && fine (y.2.roomG 3)) &&
      okAnd (s.d.popsG [1]) (fun y => y.1 == [(5, false)])) = true := by decide +kernel
/-- O5: counts 0, 1, 2^32 - 1 and 2^32, a loop that breaks the nesting, and a body's end with counts 2 and 1. -/
theorem test_witness_LoopResult :
    let s := regs w0 [(1, 1), (2, 0xFFFFFFFF), (3, 0x100000000)]
    (issues s && ([0, 1, 2, 3] : List GReg).all (fun r => fine (s.d.limsG [r]) && okAnd (s.d.popsG [r]) (fun y => !y.1.any (·.2))) && (loopRule (.loop 4 1 0)).isSome) = true ∧
    ((⟨3, 0xFF0, 0x1002, true, 0xFEC⟩ : Loop).broken 0x1000 0x1004 0x1008 = true) ∧
    (let l : Loop := ⟨2, 0xFF0, 0x1004, true, 0xFEC⟩
     let d := { w0.d with lc := #v[l, {}] }
     (d.jump.isNone && d.lc == #v[l, {}] && !({} : Loop).active && l.active && l.stop == d.pc + BitVec.ofNat 64 d.len && decide (l.start.toNat ≤ d.pc.toNat) &&
      decide (d.pc.toNat < l.stop.toNat) && decide (1 < l.count.toNat)) = true) := by decide +kernel
/-- O6: ports on and off. -/
theorem test_witness_QueueAndSlots :
    (issues w0 && !w0.d.kern.queues && w0.d.gang == .none) = true ∧
    (let s := ported w0 [7]; issues s && s.d.kern.queues && fine (s.d.limG 1) && fine (s.d.roomG 1)) = true := by decide +kernel
/-- O5: two loops that share an end, with counts 2 and 2, 1 and 2, 1 and 1; and a transfer that leaves a body, one that does not, and a call. -/
theorem test_witness_LoopEnds :
    (([(2, 2), (1, 2), (1, 1)] : List (BitVec 32 × BitVec 32)).all (fun n =>
      let i : Loop := ⟨n.1, 0xFF4, 0x1004, true, 0xFF0⟩
      let o : Loop := ⟨n.2, 0xFEC, 0x1004, true, 0xFE8⟩
      let d := { w0.d with lc := #v[i, o] }
      d.jump.isNone && d.lc == #v[i, o] && i.active && o.active && i.stop == d.pc + BitVec.ofNat 64 d.len && o.stop == i.stop && decide (o.start.toNat < i.start.toNat) &&
      decide (i.start.toNat ≤ d.pc.toNat) && decide (d.pc.toNat < i.stop.toNat)) = true) ∧
    (([((0x2000#64), false), (0x1000#64, false), (0x2000#64, true)] : List (Word × Bool)).all (fun j =>
      let d := { w0.d with lc := #v[⟨3, 0xFF0, 0x1004, true, 0xFEC⟩, {}], jump := some j }
      d.jump == some j && d.lc[0].active && !d.lc[1].active && decide (d.lc[0].start.toNat ≤ d.pc.toNat) && decide (d.pc.toNat < d.lc[0].stop.toNat)) = true) := by decide +kernel
/-- O7: a head of the port, an empty port with and without a port as operand, a run-ahead path whose head has come, one behind a push whose port has room, and waits on a port
outside a path, on BRQ's path and behind a push. -/
theorem test_witness_RunAhead :
    (let s := ported w0 [7]; issues s && s.d.kern.queues && !s.d.pc.getLsbD 0 && fine (s.d.limG 1) && okAnd (s.d.popG 1) (fun y => !y.bad) && s.d.q[0] == [⟨7, false, false⟩]) = true ∧
    (let s := ported w0 []; s.d.q[0] == [] && !s.d.isPort 1) = true ∧
    (let s := on (ported w0 []) (fun d => { d with q := d.q.set 1 [⟨9, false, false⟩] })
     issues s && s.d.gang == .none && s.d.isPort 29 && fine (s.d.limG 29) && okAnd (s.d.popG 29) (fun y => !y.bad) && s.d.q[0] == []) = true ∧
    (let s := on (ported w0 [7]) (fun d => d.openGen (.brq 0 0 7 none 0x1100 0x1004 true))
     okAnd (s.d.gen.elim (.error ()) .ok) (fun x => x.kind == .brq 0 0 7 none 0x1100 0x1004 true) && s.d.head 0 == some ⟨7, false, false⟩) = true ∧
    (let s := on (ported w0 [7]) (fun d => d.openGen (.behind 0 true))
     okAnd (s.d.gen.elim (.error ()) .ok) (fun x => x.kind == .behind 0 true) && s.d.pend.isNone && s.d.portRoom 0) = true ∧
    (let s := on w0 (fun d => { d with wait := some (.port 0 true) }); s.d.gen.isNone && s.d.wait == some (.port 0 true)) = true ∧
    (let s := on w0 (fun d => { d.openGen (.brq 0 0 7 none 0x1100 0x1004 true) with wait := some .held })
     okAnd (s.d.gen.elim (.error ()) .ok) (fun x => x.kind == .brq 0 0 7 none 0x1100 0x1004 true) && s.d.wait.isSome) = true ∧
    (let s := on w0 (fun d => { d.openGen (.behind 0 true) with wait := some .held })
     okAnd (s.d.gen.elim (.error ()) .ok) (fun x => x.kind == .behind 0 true) && s.d.wait.isSome) = true := by decide +kernel

/-- O8: VADD.f32 after REP, with counts 0, 2 and 2^32 - 1; a pass before the last and the last one. -/
theorem test_witness_RepResult :
    (let s := put (regs w0 [(1, 2), (2, 0xFFFFFFFF)]) 0x1004 0x000411D1 4
     issues s && s.d.gang == .none && !s.d.rep.active && ([0, 1, 2] : List GReg).all (fun r => fine (s.d.limG r) && okAnd (s.d.popG r) (fun y => !y.bad && decide (y.val.toNat < 2 ^ 32) &&
       fine ((s.setD y.d).recordRep y.d (s.d.pc + BitVec.ofNat 64 s.d.len) 1)))) = true ∧
    (let w : RepWord := ⟨0x1004, 4, false, false, 0x000411D1, 0x000411D1⟩
     ([0, 1] : List Word).all (fun p =>
       let s := on w0 (fun d => { d with pc := 0x1004, rep := { words := [w], step := 1, mask := 7, count := 2, pass := p, active := true } })
       s.d.repAt == some 0 && s.d.rep.words == [w] && okAnd (repOne w (s.d.atWord 0 w)) (fun k => k.rep == (s.d.atWord 0 w).rep && k.lc.toList.all (fun l => !l.active)) &&
       decide (s.d.rep.pass.toNat < s.d.rep.count.toNat))) = true := by decide +kernel
/-- O9: GANG of 0, 1, 2, 16 and 17 cores, on a free core, on desk 1 and in a gang; a leader at UNGANG and at REJOIN; a follower with a word; a member that waits. -/
theorem test_witness_GangResult :
    (let s := (regs w0 [(1, 2), (2, 1), (3, 16), (4, 17)]).setDeskAt 1 0 { (w0.deskAt 1 0) with gang := .offered, wait := some .gangFollower }
     s.d.gen.isNone && !s.leaderFull && ([0, 1, 2, 3, 4] : List GReg).all (fun r => fine (s.d.limG r) && okAnd (s.d.popG r) (fun y => !y.bad)) && s.desk == 0 && s.d.gang == .none &&
     decide (s.core.toNat % 16 + 16 ≤ 16) && (gangCores s.core 2).all (fun c => (s.deskAt c 0).gang == .offered && (s.deskAt c 0).wait == some .gangFollower && (s.deskAt c 0).launch == s.d.launch)) = true ∧
    (let s := regs ({ w0 with desk := 1 } : State) [(1, 2)]; s.d.gen.isNone && s.desk != 0 && okAnd (s.d.popG 1) (fun y => !y.bad)) = true ∧
    (let s := led (.follower 0) .ungang; s.d.gen.isNone && s.d.gang != .none && s.d.gang != .offered && okAnd (s.d.popG 1) (fun y => !y.bad)) = true ∧
    (let s := led (.follower 0) .ungang
     issues s && s.desk == 0 && s.d.gang == .leader 2 && decide (s.core.toNat % 16 + 2 ≤ 16) && !s.d.forwards && (gangCores s.core 2).all (fun c => (s.deskAt c 0).gang == .follower s.core && (s.deskAt c 0).wait == some .ungang)) = true ∧
    ([led (.detached 0) (.rejoin 0x1020), led (.detached 0) .ungang, led (.follower 0) .memory].all (fun s =>
     issues s && s.desk == 0 && s.d.gang == .leader 2 && decide (s.core.toNat % 16 + 2 ≤ 16) && !s.d.pc.getLsbD 0 && (gangCores s.core 2).all (fun c => let d := s.deskAt c 0
       ((d.gang == .follower s.core && d.fwd.all (!·.diverges)) || (d.gang == .detached s.core && (d.wait == some (.rejoin (s.d.pc + 2 * (0x10#64))) || d.wait == some .ungang)))))) = true ∧
    (let s := w0.setDeskAt 1 0 { (w0.deskAt 1 0) with gang := .follower 0, fwd := [⟨3, false, 0x1000, 4, false, 3, false⟩] }
     (s.deskAt 1 0).gang == .follower 0 && (s.deskAt 1 0).fwd.length == 1 && (s.deskAt 1 0).inStream && (s.deskAt 1 0).latch.isNone) = true ∧
    (let s := ({ w0.setDeskAt 1 0 { w0.d with gang := .follower 0, fwd := [⟨3, false, 0x1000, 4, false, 3, false⟩] } with core := 1 } : State)
     issues s && s.d.gang == .follower 0 && s.d.fwd.length == 1 && s.d.inStream && s.d.jump.isNone && !s.d.pc.getLsbD 0 && fine (s.d.limsG [1, 2]) &&
       okAnd (s.d.popsG [1, 2]) (fun y => !y.1.any (·.2))) = true ∧
    ((led (.detached 0) (.rejoin 0x1020)).deskAt 1 0).wait = some (.rejoin 0x1020) ∧ ((on w0 (fun d => { d with wait := some .gangLeader })).deskAt 0 0).wait = some .gangLeader := by decide +kernel

/-- O10: loads that read memory, and one of no lane, which completes at once; a load that returns, read at its home. -/
theorem test_witness_LoadResult :
    (let s := regs w0 [(1, 0x2000)]
     ([.ld 0 0 3 1 2, .vld 0 0 1 2, .lda 0 0 1 2, .vlds 1 1 1 2] : List Instr).all (fun i => match loadRule i with
       | none => false
       | some r => issues s && fine (s.d.limsG (r.rs ++ if r.vec then [] else [r.dst])) && fine (s.d.limsV (r.vs ++ if r.vec then [r.dst] else [])) && (s.d.guard r.g || r.vec) &&
         okAnd (s.d.popsG r.rs) (fun y => !y.1.any (·.2) && okAnd (popsV y.2 r.vs) (fun z => !z.1.any (·.2)) &&
           fine (s.d.await r.rs (r.vs ++ if r.merge then [r.dst] else []) (if r.vec then [] else [r.dst]) (if r.vec then [r.dst] else [])) &&
           okAnd (s.loadLanes s.d r.size (r.lanes s.d (y.1.map (·.1)) [])) (fun x => x.2 != [] || (r.vec && !r.home && x.1.loadClear 0 0 (r.pending x.2) && fine (x.1.completeLoad (r.pending x.2))))))) = true ∧
    (let s := after (.ld 0 1 3 1 2) (regs w0 [(1, 0x2000)])
     match s.d.pend with
     | some p => p.amo.isNone && !p.vec && p.vs == [] && p.units.length == 1 && p.home && p.units.all (fun l => s.unitClear 0 0 p l && (s.macFail 0 l.parts).isNone &&
         okAnd (s.readUnit 0 s.d.part p l) (fun x => okAnd (({ x.1.d with pend := none } : Desk).popsG p.gs) (fun y => fine (y.2.roomG p.dst))))
     | none => false) = true := by decide +kernel
/-- Two reads of one lane: the lower byte is read first. -/
theorem pick_two (p : Pending) (a b : LoadUnit) (tick : Nat) (h : p.units = [a, b]) (e : b.lane = a.lane) : p.pick tick = some a := by
  rcases Nat.mod_two_eq_zero_or_one (Config.pickAt tick 1) with k | k <;> simp [Pending.pick, h, k, e]
/-- A load of two bytes at an odd address, issued. -/
def misaligned : State := after (.ld 0 1 1 1 2) (regs w0 [(1, 0x2001)])
/-- O10: a vector load that returns; one of two reads, of which the first is made; a read that meets both alignments. -/
theorem test_witness_LoadParts :
    (([false, true] : List Bool).all (fun m =>
      let s := on (after (.vld 0 1 1 2) (regs w0 [(1, 0x2000)])) (fun d => { d with pend := d.pend.map (fun p => { p with merge := m }) })
      match s.d.pend with
      | some p => p.amo.isNone && p.vec && p.units.length == 1 && p.units.all (fun l => l.bit % 8 == 0 && s.unitClear 0 0 p l &&
          okAnd (s.readUnit 0 s.d.part p l) (fun x => okAnd (({ x.1.d with pend := none } : Desk).popsG p.gs) (fun y => okAnd (y.2.popsV p.vs) (fun z =>
            (!p.merge || okAnd (z.2.2.popV p.dst) (fun o => fine (o.d.roomV p.dst))) && fine (z.2.2.roomV p.dst)))))
      | none => false)) = true ∧
    (match misaligned.d.pend with
      | some p => p.amo.isNone && p.units.length == 2 && p.units.all (fun l => l.lane == 0 && l.parts.all (fun q => q.n == 1) && misaligned.unitClear 0 0 p l && fine (misaligned.readUnit 0 0 p l))
      | none => false) = true := by decide +kernel
/-- O11: a store of 8 bytes, of a vector, of no lane, a release, and a scatter; a queued store at the queue's head. -/
theorem test_witness_StoreResult :
    (let s := regs w0 [(1, 0x2000), (2, 0x77)]
     ([.st 0 0 3 1 2, .vst 0 0 1 2, .str 0 2 1 0, .vsts 1 1 1 2, .vscatW 1 3 1 2] : List Instr).all (fun i => match storeRule i with
       | none => false
       | some r => issues s && fine (s.d.limsG r.rs) && fine (s.d.limsV r.vs) && s.d.guard r.g && okAnd (s.d.popsG r.rs) (fun y => !(y.1.take r.uses).any (·.2) &&
         okAnd (popsV y.2 r.vs) (fun z => !(z.1.take 1).any (·.2) && decide (s.d.sq.length < 16) && fine (s.storeOps s.d 1 (r.ws s.d y.1 z.1)))))) = true ∧
    (let s := after (.st 0 0 3 1 2) (regs w0 [(1, 0x2000), (2, 0x77)])
     match (s.deskAt 0 0).sq[0]? with
     | some it => it.kind == .plain && it.ops.length == 1 && it.ops.all (fun o => o.parts.length == 1 && o.parts.all (fun p => p.n == o.bytes.length && decide (p.pa.toNat + p.n < 2 ^ 52))) && s.storeClear 0 0 0 it
     | none => false) = true := by decide +kernel
/-- O12: a FENCE of every kind on an empty queue, one that selects nothing, an L1 of its own; a line that an access under way asks for, and one that PREF has asked for; a
memory-side request that may be forwarded; walks that succeed, fail, and join another. -/
theorem test_witness_OrderingResult :
    (issues w0 && w0.d.guard 0 && !w0.d.guard 1 && w0.storesOut 0 0 && w0.d.sq == [] && w0.l1Cores 0 == [0] && fine (w0.d.limsG [1, 2]) && fine (w0.d.popsG [1, 2])) = true ∧
    (let s := after (.ld 0 1 3 1 2) (regs w0 [(1, 0x2000)]); (s.mem.tag 0x80).isNone && !s.mem.msOut.contains 0x80 && (s.underWay 0x80 false).isSome) = true ∧
    (let s : State := { w0 with mem := { w0.mem with asked := [(0x80, {})] } }; (s.mem.tag 0x80).isNone && (s.underWay 0x80 false).isNone && (s.mem.asked.find? (·.1 == 0x80)).isSome) = true ∧
    (let s := on w0 (fun d => { d with sq := [⟨.plain, [⟨0x2000, [⟨0x2000, 8, 0, true, false, false⟩], natLe 7 8, false⟩], false, none, 0, 0⟩] }); s.msReady 0x80) = true ∧
    (let d := w0.deskAt 0 0
     let w := w0.whoAt 0 d
     d.occ && d.walk.isNone && (w0.runOf w 0x2000 accRead).isNone && decide ((w0.runs w.site.die).length < 64) &&
     okAnd (w0.mem.walk (w0.partAt d.part).conf (w0.mem.readEntry w.site.die d.part) w.root 0x2000 accRead) (fun _ => true) &&
     !okAnd (w0.mem.walk (w0.partAt d.part).conf (w0.mem.readEntry w.site.die d.part) w.root 0x40000000 accRead) (fun _ => true)) = true ∧
    (let s := w0.setDeskAt 1 0 { w0.d with walk := some ⟨0, (w0.whoAt 0 w0.d).root, 2, accRead, none, (0, 0), false⟩ }
     (s.deskAt 0 0).walk.isNone && (s.runOf (s.whoAt 0 (s.deskAt 0 0)) 0x2000 accRead).isSome) = true := by decide +kernel

/-- O13: LDV, LDVS with and without the line recorded, LVER, and VCAS where the versions agree and differ. -/
theorem test_witness_VersionedResult :
    let s := regs w0 [(1, 0x2000), (2, 0x77), (4, 9), (6, 1)]
    let ver (x : State) (p : Part) : Word := versionOf (x.readHome 0 0x2000 [p] false).1 p
    (issues s && s.d.guard 0 && fine (s.d.limsG [1, 4, 5]) && okAnd (s.d.popsG [1]) (fun k => k.1 == [(0x2000, false)] && fine (k.2.roomG 4) && k.2.snaps == []) && fine (s.d.pairOk 4 2) &&
      okAnd (s.access (s.who s.d) 0x2000 8 accRead) (fun x => match x.2 with
        | [p] => !p.ms && (x.1.macFail 0 [p]).isNone && fine (x.1.homeClear [p])
        | _ => false)) = true ∧
    (([4, 6] : List GReg).map (fun d => fine (s.d.pairOk d 2) && fine (s.d.limsG [1, 2, d, d + 1]) && okAnd (s.d.popsG [1, 2, d]) (fun k => !k.1.any (·.2)) && !s.d.poisonG d &&
      okAnd (s.access (s.who s.d) 0x2000 8 accRmw) (fun x => match x.2 with
        | [p] => !p.ms && (x.1.macFail 0 [p]).isNone && p.n == 8 && p.pa.toNat % 8 == 0 && !x.1.msBusy p && x.1.storesDone 0 0 && x.1.fenceClear 0 0 .l && x.1.fenceClear 0 0 .s &&
          ((ver x.1 p == ((s.d.getG d).setWidth 32).setWidth 64) == (d == 6))
        | _ => false))) = [true, true] := by decide +kernel
/-- O13: a set that holds the line, and one that holds eight others. -/
theorem test_witness_SnapSet :
    let s := regs w0 [(1, 0x2000)]
    let held (vs : List (BitVec 51)) : List Snap := vs.map (fun v => { version := 0, pline := 0, vline := v })
    let hs : List (List Snap × Bool) := [(held [0x80], true), (held [1, 2, 3, 4, 5, 6, 7, 8], false)]
    hs.all (fun h =>
      let s := on s (fun d => { d with snaps := h.1 })
      okAnd (s.d.popsG [1]) (fun k => k.1 == [(0x2000, false)] && k.2.snaps.any (fun z => z.vline == (0x2000#64).extractLsb' 6 51) == h.2 && (h.2 || decide (8 ≤ k.2.snaps.length)))) = true := by decide +kernel
/-- O14: an empty snapshot set, one line of it and two, of which one does not translate; L2RET at its limits; a slot that holds something; L2STAT. -/
theorem test_witness_RetentionResult :
    (let s := regs w0 [(1, 0x2000), (2, 64), (3, 0x1000000000), (4, 7)]
     let s := s.setPart 0 { s.partAt 0 with ways := (s.partAt 0).ways.set 1 4, ret := [(1, 0x2000, 64)] }
     issues s && s.d.guard 0 && fine (s.d.limG 5) && fine (s.d.roomG 5) && s.d.snaps == [] && fine (s.d.limsG [1, 2]) &&
     ([2, 3] : List GReg).all (fun r => okAnd (s.d.popsG [1, r]) (fun k => !k.1.any (·.2) && decide (64 ≤ (s.d.getG r).toNat) && decide ((s.d.getG r).toNat ≤ 2 ^ 36))) &&
     (s.partAt 0).ways.getD 1 0 != 0 && (tget? (s.partAt 0).ret 1).isSome && okAnd (s.d.popsG [4]) (fun k => k.1 == [(7, false)] && fine (k.2.roomG 5)) && s.storesDone 0 0) = true ∧
    (let s := after (.ldvs 0 1 4) (regs w0 [(1, 0x2000)])
     match s.d.snaps with | [x] => issues s && fine (s.snapClear x) && fine (s.span (s.who s.d) 0x2000 0x2000 0 2 64) && !fine (s.span (s.who s.d) 0x40000000 0x40000000 0 2 64) && fine (s.snapClear { version := 0, pline := 0, vline := 0x1000000 }) | _ => false) = true := by decide +kernel

/-- What an atomic of n bytes at 0x2000 needs. -/
def atomFine (s : State) (n : Nat) : Bool :=
  okAnd (s.access (s.who s.d) 0x2000 n accRmw) (fun x => match x.2 with
    | [p] => p.n == n && decide (p.pa.toNat + n ≤ 2 ^ 52) && !x.1.msBusy p && (x.1.macFail 0 [p]).isNone && x.1.storesDone 0 0 && x.1.fenceClear 0 0 .l && x.1.fenceClear 0 0 .s && x.1.fenceClear 0 0 .n
    | _ => false)
/-- O15: 4 and 8 bytes; CAS that finds its value and one that does not. -/
theorem test_witness_AtomicResult :
    let s := regs w0 [(1, 0x2000), (2, 0x77), (4, 9)]
    (issues s && fine (s.d.limsG [1, 2, 3]) && okAnd (s.d.popsG [1, 2]) (fun k => k.1 == [(0x2000, false), (0x77, false)] && fine (k.2.roomG 3)) && atomFine s 8 && atomFine s 4 &&
      (amoRule (.amoAdd 0 0 2 1 3)).isSome && (amoRule (.amoSwapW 0 0 2 1 3)).isSome && okAnd (s.d.popsG [1, 2, 3]) (fun k => !k.1.any (·.2) && fine (k.2.roomG 3)) &&
      okAnd (s.d.popsG [1, 2, 4]) (fun k => !k.1.any (·.2)) && leNat (creads s.mem.bytes 0x2000 8) == 0 && s.d.getG 3 == 0 && s.d.getG 4 != 0) = true := by decide +kernel
/-- O16: a reduction that enters the queue and one at its head; VAMO and VARED of two lanes and of none. -/
theorem test_witness_ReductionResult :
    let s := on (regs w0 [(1, 0x2000), (2, 0x77)]) (fun d => { d with p := d.p.set 1 3 })
    (issues s && fine (s.d.limsG [1, 2]) && okAnd (s.d.popsG [1, 2]) (fun k => k.1 == [(0x2000, false), (0x77, false)]) && fine (s.access (s.who s.d) 0x2000 8 accRmw) && decide (s.d.sq.length < 16) &&
      (aredRule (.aredAdd 0 2 2 1)).isSome) = true ∧
    (let t := after (.aredAdd 0 2 2 1) s
     match (t.deskAt 0 0).sq[0]? with
     | some it => it.kind == .ared 0 && it.ops.length == 1 && it.ops.all (fun o => o.parts.length == 1 && o.parts.all (fun p => p.n == o.bytes.length && decide (p.pa.toNat + p.n ≤ 2 ^ 52))) && t.storeClear 0 0 0 it
     | none => false) = true ∧
    (([1, 2] : List Guard).map (fun g => okAnd (vatom [4] g 3 1 4 s) (fun t => t.lanes.length == (if g == 1 then 2 else 0)) && okAnd (vatom [] g 3 1 4 s) (fun t =>
      (s.varedOps t t.lanes).2.2.isNone))) = [true, true] ∧
    (let t := after (.vamoAdd 1 3 1 4) s
     match t.d.pend with
     | some p => p.amo.isSome && t.d.gen.isNone && p.units.length == 2 && p.units.all (fun l => okAnd (t.access (t.who t.d) l.va 4 2) (fun x => match x.2 with
         | [q] => fine (x.1.homeClear [q]) && fine x.1.writeClear && fine (x.1.pastFences [.l, .s, .n]) && (x.1.macFail x.1.d.part [q]).isNone && q.n == 4 && decide (q.pa.toNat + 4 ≤ 2 ^ 52) &&
           okAnd (x.1.d.popsG p.gs) (fun y => fine (y.2.popsV p.vs))
         | _ => false))
     | none => false) = true ∧
    (let t := after (.vamoAdd 1 3 1 4) (regs s [(1, 0x40000000)])
     match t.d.pend with
     | some p => p.amo.isSome && t.d.gen.isNone && p.units.all (fun l => match t.access (t.who t.d) l.va 4 2 with | .error (.trap c _ _ _) => c == 0x040 | _ => false)
     | none => false) = true := by decide +kernel

/-- A near-memory command of one element, on memory-side pages: p at 0x4000, g at 0x4800, COUNTER at 0x5000. -/
def nmState : State :=
  put (put (put (regs w0 [(1, 0x3000)]) 0x102000 0x93F 8) 0x3000 (0x4000 * 2 ^ 64 + 0x4800 * 2 ^ 128 + 2 ^ 320 + 0x5000 * 2 ^ 448) 64) 0x4000 0x3F800000 4
/-- The command in a state of its update. -/
noncomputable def nmSays (st : NmState) : State :=
  let s := after (.nmTranslationPhase 0 0 0) (after (.nmop 1 0) nmState)
  { s with sys := { s.sys with nm := s.sys.nm.map (fun x => { x with st := st }) } }
/-- Whether an element of an array meets `nmElem`. -/
def elemFine (x : NmCmd) (a : Word) (n i : Nat) : Bool :=
  let va := a + BitVec.ofNat 64 (n * i)
  match x.held.find? (·.holds va 0), x.held.find? (·.holds va 2) with
  | some t, some u => t == u && pteKind t.pte != 3#2 && decide (0 < n ∧ n ≤ 4) && decide (va.toNat % 4096 + n ≤ 4096) &&
      (let p := partOf t.pte t.log2 va n; p.ms && p.pa.toNat % n == 0 && decide (p.pa.toNat + n ≤ 2 ^ 52))
  | _, _ => false
/-- O17: an element of each operation, with its arrays at 0x4000, 0x4800, 0x5000 and 0x5800. -/
theorem test_witness_NearMemoryValues :
    ([0, 1, 2, 3] : List Nat).all (fun op =>
      match (nmSays .waiting).nmHead 0 0 0 with
      | some x =>
        let x := { x with raw := BitVec.ofNat 512 (op + 0x4000 * 2 ^ 64 + 0x4800 * 2 ^ 128 + 0x5000 * 2 ^ 192 + 0x5800 * 2 ^ 256 + 2 ^ 320) }
        nmOp x.raw == op && elemFine x (dword x.raw 8) 4 0 && elemFine x (dword x.raw 16) 4 0 && elemFine x (dword x.raw 24) 4 0 && elemFine x (dword x.raw 32) 4 0 &&
          ((nmSays .waiting).macFail x.maker.part [⟨0x4000, 4, 0, true, false, false⟩, ⟨0x5000, 4, 0, true, false, false⟩]).isNone
      | none => false) = true := by decide +kernel
/-- O17: a command whose records pass, one that waits with a true and a false binding, and one that runs its last element. -/
theorem test_witness_NearMemoryResult :
    (let s := nmState
     issues s && fine (s.d.limG 1) && okAnd (s.d.popsG [1]) (fun k => k.1 == [(0x3000, false)]) && decide ((s.nmOf 0 0).length < 8) && okAnd (s.readRecord 0x3000 64) (fun x =>
       let r := recOf x.2
       fine (nmCheck 0x3000 r) && dword r 48 == 0 && nmOp r == 0 && fine (x.1.nmFoot (s.who s.d) ((nmArrays r).map (fun a => (a.1, a.2.1 * nmCount r, a.2.2)))) && (x.1.footOk (s.who s.d) (dword r 56) 8 2).isNone && fine (x.1.grip (s.who s.d) (dword r 56) (dword r 56) 2 2 8)) &&
     s.storesDone 0 0 && s.fenceClear 0 0 .n && (s.nmOf 0 0).all (fun x => x.addr != 0x3000)) = true ∧
    (([0, 8] : List Guard).map (fun g =>
      let s := put (put nmState 0x3000 (2 + 0x6000 * 2 ^ 192 + 0x6800 * 2 ^ 256 + 0x7000 * 2 ^ 384) 64) 0x7000 (0x7100 * 2 ^ 256) 64
      let s := on (put (put s 0x3008 (0x4000 + 0x4800 * 2 ^ 64) 16) 0x3028 1 8) (fun d => { d with k := d.k.set 0 .no })
      okAnd (s.readRecord 0x3000 64) (fun x =>
        let r := recOf x.2
        nmOp r == 2 && fine (nmCheck 0x3000 r) && okAnd (x.1.readRecord (dword r 48) 64) (fun y =>
          fine (hyperCheck (dword r 48) 2 (recOf y.2)) && (s.d.slot g == .no) == (g == 8) &&
          okAnd (y.1.reachable (s.who s.d) (dword (recOf y.2) 32) 8 0 0) (fun z => okAnd (z.readRecord (dword (recOf y.2) 32) 8) (fun z =>
            fine (z.1.nmFoot (s.who s.d) ((nmArrays r).map (fun a => (a.1, a.2.1 * nmCount r, a.2.2)))))))))) = [true, true] ∧
    (let s := after (.nmop 1 0) nmState
     match s.nmHead 0 0 0 with
     | some x => x.bind == .yes && x.st == .waiting && (s.nmTranslate (s.whoOf x.maker) (nmCount x.raw) (nmArrays x.raw)).2.2.isNone
     | none => false) = true ∧
    (let s := after (.nmTranslationPhase 0 0 0) (after (.nmop 1 0) nmState)
     match s.nmHead 0 0 0 with
     | some x => x.st == .running 0 [] [] && nmCount x.raw == 1 && (match oneOf s.tick 1 (((nmFresh s.tick 1 0 []).map (fun e => ({ el := e } : NmOpen))).flatMap (fun o => (nmNext (nmOp x.raw) o).map (fun a => (o, a)))) with
         | some (o, a) => a == .g && fine (s.nmPiece x o a) && !fine (({ s with mem := { s.mem with badMac := [0x120] } } : State).nmPiece x o a)
         | none => false)
     | none => false) = true ∧
    (let s := nmSays (.running 1 [] [])
     match s.nmHead 0 0 0 with | some x => x.st == .running 1 [] [] && decide (nmCount x.raw ≤ 1) | none => false) = true ∧
    (let o : NmOpen := { el := 0, g := some (0, false) }
     let s := nmSays (.running 1 [] [o])
     match s.nmHead 0 0 0 with
     | some x => x.st == .running 1 [] [o] && (match oneOf s.tick 1 (([o] ++ (nmFresh s.tick (nmCount x.raw) 1 []).map (fun e => ({ el := e } : NmOpen))).flatMap (fun o => (nmNext (nmOp x.raw) o).map (fun a => (o, a)))) with
         | some (o, a) => a == .p && fine (s.nmPiece x o a)
         | none => false)
     | none => false) = true ∧
    (let s := after (.nmop 1 8) (on nmState (fun d => { d with k := d.k.set 0 .no }))
     match s.nmHead 0 0 0 with | some x => x.bind == .no | none => false) = true ∧
    (let s := after (.nmop 1 0) (put (put nmState 0x3010 0x40000000 8) 0x3000 0 8)
     let t := after (.nmTranslationPhase 0 0 0) s
     (match s.nmHead 0 0 0 with
       | some x => x.bind == .yes && x.st == .waiting && x.addr == 0x3000 && (s.nmTranslate (s.whoOf x.maker) (nmCount x.raw) (nmArrays x.raw)).2.2.isSome
       | none => false) &&
     (match t.nmOf 0 0 with
       | [x] => x.addr == 0x3000 && (match x.st with | .fault f b => f.cause == 0x04D && !b | _ => false)
       | _ => false)) = true := by decide +kernel
/-- What a counter at 0x2000 needs. -/
def counterFine (s : State) (acc : BitVec 2) : Bool :=
  okAnd (s.counterAccess 0x2000 acc) (fun x => match x.2 with
    | [p] => p.n == 8 && decide (p.pa.toNat + 8 ≤ 2 ^ 52) && (x.1.macFail 0 [p]).isNone && !partBad x.1 p && !x.1.msBusy p && s.storesDone 0 0 && s.fenceClear 0 0 .l && x.1.storesDone 0 0 && x.1.fenceClear 0 0 .l &&
      x.1.fenceClear 0 0 .s && x.1.fenceClear 0 0 .n
    | _ => false)
/-- O18: a counter that reads 5, with addends and targets 0, 5 and 6; BARV of 1 and 2^32 - 1; waits listed and not. -/
theorem test_witness_CounterResult :
    (let s := put (on (regs w0 [(1, 0x2000), (2, 5), (3, 6), (4, 0xFFFFFFFF), (5, 1)]) (fun d => { d with tokens := [⟨0x2000, 5⟩] })) 0x2000 5 8
     issues s && fine (s.d.limsG [1, 2, 6]) && ([0, 2, 3, 4, 5] : List GReg).all (fun b => okAnd (s.d.popsG [1, b]) (fun k => !k.1.any (·.2) && fine (k.2.roomG 6))) && counterFine s accRmw && counterFine s accRead &&
     fine (s.counterAccess 0x2000 accRmw) && decide (s.d.sq.length < 16) && leNat (creads s.mem.bytes 0x2000 8) == 5 && s.d.tokens.contains ⟨0x2000, 5⟩ && decide (s.d.tokens.length < 4)) = true ∧
    (let s := after (.cwait 2 1) (regs w0 [(1, 0x2000), (2, 5)])
     match (s.deskAt 0 0).cw with
     | some w => w.va == 0x2000 && w.listed && !w.token && ([false, true].all fun due => match ({ s with mem := { s.mem with waiters := s.mem.waiters.map (fun (x : Waiter) => { x with due := some due }) } }).mem.waiters with
       | [x] => x.pa == w.pa && x.due == some due && x.core == 0 && x.desk == 0 && fine (({ s.deskAt 0 0 with cw := none, wait := none } : Desk).popsG w.regs)
       | _ => false)
     | none => false) = true ∧
    (let s := put (on w0 (fun d => { d with cw := some ⟨0x2000, 0x2000, 5, false, [], false⟩ })) 0x2000 5 8
     match (s.deskAt 0 0).cw with
     | some w => !w.listed && !w.token && !s.mem.poison.contains (w.pa.toNat / 64) && decide (w.target.toNat ≤ leNat (creads s.mem.bytes w.pa.toNat 8)) &&
       fine (({ s.deskAt 0 0 with cw := none, wait := none } : Desk).popsG w.regs)
     | none => false) = true := by decide +kernel
/-- Core 0 and core 1 of one launch in exchange. -/
def exState : State :=
  let s := on (launched w0) (fun d => { d with exch := true })
  let s := onC s (fun c => { c with work := { c.work with launch := some 0 } })
  s.setCoreAt 1 { s.coreAt 1 with work := { (s.coreAt 1).work with launch := some 0 } }
/-- O19: outside and in exchange; lengths 8 and 0x80000. -/
theorem test_witness_ExchangeCopies :
    (let s := regs w0 [(1, 0x80000), (2, 0), (3, 8)]; issues s && fine (s.d.limsG [1, 2, 3]) && okAnd (s.d.popsG [1, 2, 3]) (fun k => !k.1.any (·.2)) && !s.d.exch) = true ∧
    (let s := regs exState [(1, 0x80000), (2, 0), (3, 8), (4, 0x80000)]
     issues s && s.d.exch && ([3, 4] : List GReg).all (fun r => okAnd (s.d.popsG [1, 2, r]) (fun k => !k.1.any (·.2)) && fine (s.tupleOk s.d (s.d.getG 1) (s.d.getG r).toNat 1) && fine (s.tupleOk s.d (s.d.getG 1) (s.d.getG r).toNat 0) && s.d.inside 0 (s.d.getG r).toNat &&
       fine (s.mayRead 0 (s.d.getG r).toNat) && (s.c.protects 0 (s.d.getG r).toNat).isNone) && (s.d.getG 1).extractLsb' 29 11 == s.device) = true ∧
    (let s := on exState (fun d => { d with xfers := copyOf 1 0x40 8 none (fun _ => (natLe 5 8, false)) })
     match s.d.xfers with | [x] => (s.unitData x).1.length == 8 | _ => false) = true := by decide +kernel

/-- O20: the first and the last bytes of the region, and the byte after it. -/
theorem test_witness_LocalResult :
    let s := regs w0 [(1, 0x7FFF8), (2, 0x7FFC0), (3, 0x80000)]
    (issues s && fine (s.d.limsG [1, 4]) && fine (s.d.limV 4) && ([0, 1, 2, 3] : List GReg).all (fun r => okAnd (s.d.popsG [r]) (fun k => !k.1.any (·.2) && fine (k.2.roomG 4) && fine (k.2.roomV 4)) &&
      okAnd (s.d.popsG [r, 4]) (fun k => !(k.1.take 1).any (·.2)) && fine (s.d.popV 4)) && fine (s.mayRead 0x7FFF8 8) && fine (s.mayRead 0x7FFC0 64) && fine (s.mayWrite 0x7FFF8 8) && fine (s.mayWrite 0x7FFC0 64) &&
      s.d.base == 0 && s.d.kern.scratch == 0x80000) = true := by decide +kernel
/-- Tile 0 in some state, of 64 bytes at 0. -/
def tiled (s : State) (st : TileSt) : State := onC s (fun c => { c with tiles := c.tiles.set 0 { base := 0, size := 64, st := st, prod := 0 } })
/-- O21: each transition at the state that permits it; a tile of no bytes, and one of the whole region. -/
theorem test_witness_TileResult :
    (([(.tfill 0 2 1, .empty), (.tready 0 1, .filling), (.tdrain 0 1, .ready), (.tfree 0 1, .draining), (.twait 0 3 1, .empty)] : List (Instr × TileSt)).all (fun x =>
      let s := regs (tiled w0 x.2) [(2, 15)]
      match tileRule x.1 with
      | none => false
      | some (g, rs, f) => issues s && s.d.guard g && fine (s.d.limsG rs) && decide (0 < s.d.kern.tiles) && okAnd (s.d.popsG rs) (fun k => !k.1.any (·.2) && (f (s.core.setWidth 4) (arg (k.1.map (·.1)) 1) (s.c.tile 0)).isSome))) = true ∧
    (let s := regs w0 [(1, 1), (2, 0), (3, 0x80000)]
     ([2, 3] : List GReg).all (fun r => issues s && fine (s.d.limsG [1, r]) && okAnd (s.d.popsG [1, r]) (fun k => !k.1.any (·.2)) && decide ((s.d.getG r).toNat < 2 ^ 39) && ((s.d.getG r).extractLsb' 0 20).toNat % 64 == 0 &&
       (s.c.tile 1).st == .empty && s.c.tiles.toList.all (fun t => t.size == 0)) && okAnd (s.d.popsG [1]) (fun k => fine (k.2.roomG 4))) = true := by decide +kernel
/-- O22: a target that accepts, and one that does not; a desk that waits for one. -/
theorem test_witness_TcastResult :
    let core1 (s : State) (st : TileSt) : State := s.setCoreAt 1 { s.coreAt 1 with work := { (s.coreAt 1).work with launch := some 0 }, tiles := (s.coreAt 1).tiles.set 0 { base := 0, size := 64, st := st, prod := 0 } }
    let x : Cast := ⟨0, 64, 2, 0, [1, 2, 3]⟩
    (([.filling, .ready] : List TileSt).map (fun st =>
      let s := core1 (onC (launched (regs w0 [(1, 0), (2, 0x80), (3, 64)])) (fun c => { c with work := { c.work with launch := some 0 } })) st
      issues s && s.d.guard 0 && fine (s.d.limsG [1, 2, 3]) && okAnd (s.d.popsG [1, 2, 3]) (fun k => !k.1.any (·.2)) && s.d.inside 0 64 && decide (0 < s.d.kern.tiles) && clusterCores s.core x.mask == [1] &&
      ((s.notAccepting x == 0) == (st == .filling)) && fine (s.castDeliver x) && ((s.coreAt 1).protects 0 64).isNone && fine (s.mayRead 0 64))) = [true, true] ∧
    (let s := on (core1 (onC (launched (regs w0 [(1, 0), (2, 0x80), (3, 64)])) (fun c => { c with work := { c.work with launch := some 0 } })) .filling) (fun d => { d with cast := some x })
     s.d.cast == some x && s.notAccepting x == 0 && okAnd (s.castDeliver x) (fun t => fine (t.d.popsG x.regs))) = true ∧
    (let tile (n : CoreId) (s : State) : State := s.setCoreAt n { s.coreAt n with tiles := (s.coreAt n).tiles.set 0 { base := 64, size := 128, st := .filling, prod := 0 } }
     let s := tile 1 (tile 2 w0)
     (clusterCores s.core 6).length == 2 && (clusterCores s.core 6).all (fun c => decide (128 ≤ ((s.coreAt c).tile 0).size) && ((s.coreAt c).protects ((s.coreAt c).tile 0).base 128).isNone) && fine (s.mayRead 0 128)) = true ∧
    (let s := on w0 (fun d => { d with wait := some (.tile 0) }); (s.deskAt 0 0).wait = some (.tile 0) ∧ (s.deskAt 0 0).cast = none) ∧
    (let s := after (.tcast 0 2 1 3) (core1 (onC (launched (regs w0 [(1, 0), (2, 0x80), (3, 64)])) (fun c => { c with work := { c.work with launch := some 0 } })) .ready)
     (s.deskAt 0 0).wait = some (.tile 0) ∧ (s.deskAt 0 0).cast.isSome = true) := by decide +kernel
/-- A stream of four bytes at 0, begun. -/
def reading (s : State) : State := after (.bbinit 0 2 1) (regs (onC s (fun c => { c with pad := cwrites c.pad 0 (natLe 0xDEADBEEF 4) })) [(1, 0), (2, 4), (3, 1), (5, 32), (6, 16)])
/-- O23: reads of 1 and 32 bits, a move to the stream's end, a look-up of 16 bits, an empty stream to begin; writes of 1 and 64 bits, and a flush with and without bits. -/
theorem test_witness_BitStream :
    (let s := reading w0
     let holdsB (c : Core) (b : BitBuf) : Bool := b.mode == 1#2 && b.sound && (List.range b.count.toNat).all (fun j => b.buf.getLsbD j == streamBit c (b.pos.toNat + j))
     issues s && s.d.guard 0 && holdsB s.c s.d.bb && s.d.bb.stop == 4 && s.d.bb.pos == 0 && s.c.tiles.toList.all (fun t => t.st != .filling) && s.c.padPoison == [] && fine (s.d.limsG [1, 2, 4]) && fine (s.d.roomG 4) &&
     ([1, 2, 3, 5, 6] : List GReg).all (fun r => okAnd (s.d.popsG [r]) (fun k => !k.1.any (·.2) && fine (k.2.roomG 4))) && okAnd (s.d.popsG [1, 2]) (fun k => !k.1.any (·.2)) && okAnd (s.d.popsG [1, 6]) (fun k => !k.1.any (·.2)) &&
     fine (s.mayRead (2 * 0xBEEF) 2) && decide (2 * 0xBEEF + 2 ≤ s.d.base + s.d.kern.scratch) && decide (s.d.base + s.d.kern.scratch ≤ 2 ^ 19)) = true ∧
    ((moveRule (.bbget 0 5 4)).isSome && (moveRule (.bbskip 0 5)).isSome && (moveRule (.bbseek 0 5)).isSome && w0.d.bb.sound && fine (w0.d.limsG [1, 2]) && okAnd (w0.d.popsG [1, 2]) (fun k => k.1 == [(0, false), (0, false)])) = true ∧
    (let s := after (.bbinitw 0 2 1) (regs w0 [(1, 0), (2, 16), (3, 1), (5, 64)])
     issues s && s.d.bb.sound && s.d.bb.mode == 2 && s.d.bb.count == 0 && ([3, 5] : List GReg).all (fun r => okAnd (s.d.popsG [1, r]) (fun k => !k.1.any (·.2))) && fine (s.mayWrite 0 8)) = true ∧
    (let s := after (.bbput 0 3 1) (after (.bbinitw 0 2 1) (regs w0 [(1, 0), (2, 16), (3, 1)])); s.d.bb.sound && s.d.bb.mode == 2 && s.d.bb.count == 1 && s.d.bb.ptr != s.d.bb.stop && fine (s.mayWrite 0 1)) = true := by decide +kernel
/-- O24: in compute and in exchange; the share's last desk, and one that is not. -/
theorem test_witness_PhaseEnds :
    (let s := launched w0; s.d.gen.isNone && !s.d.member && !s.d.exch && s.d.pendingSlots == 0 && s.c.work.todo == [] && !s.c.work.resumed && s.c.busyTiles == 0 && s.c.others s.desk == [] && !s.awayDesks && !s.c.work.replay &&
      (s.shareHolds true).isNone && (s.shareHolds s.ringing).isNone) = true ∧
    (let s := launched w0
     let s : State := { s with sys := { s.sys with away := [{ launch := 0, ctx := 1, core := 0, share := (s.d.stage.toNat, s.d.shareIx), part := 0, at_ := 0x8000, fails := 0, va := 0x9000, box := [] }] } }
     s.d.gen.isNone && !s.d.member && !s.d.exch && s.d.pendingSlots == 0 && s.c.busyTiles == 0 && !s.c.work.replay && s.awayDesks) = true ∧
    (let s := exState; s.d.gen.isNone && !s.d.member && s.d.exch && s.d.xfers == [] && s.storesOut 0 0 && s.allCards.isEmpty && s.d.pendingSlots == 0) = true ∧
    (let s := (launched w0).setDeskAt 0 1 { ((launched w0).deskAt 0 0) with wait := none }
     s.d.gen.isNone && !s.d.member && !s.d.exch && s.d.pendingSlots == 0 && (s.c.others s.desk).any (fun j => (s.c.at j).wait != some .bell) && (s.c.at 1).occ && (s.c.at 1).launch == (s.c.at 0).launch) = true ∧
    (let c := (launched w0).c; (c.at 0).launch.isSome && ([1, 2, 3] : List DeskId).all (fun j => !(c.at j).occ)) = true := by decide +kernel

/-- v registers hold some values. -/
def vregs (s : State) (xs : List (GReg × Vec)) : State := on s (fun d => xs.foldl (fun d x => d.setV x.1 x.2 false) d)
/-- q4 holds one entry. -/
def vported (s : State) (x : Vec) : State := on s (fun d => { d with kern := { d.kern with queues := true }, vq := d.vq.set 0 [⟨x, false, false⟩] })
/-- O25: registers, a port as source, a merged destination under a predicate, and the last register; the roundings that leave the seed. -/
theorem test_witness_VectorLanes :
    (let s := vported (vregs w0 [(1, 0x3F800000)]) 0x40000000
     ([.vadd 0 0 28 1 2, .vadd 0 0 1 28 29, .vfma 4 9 27 0 2, .vmovS 27 27, .vdiv 1 1 3 2 1] : List Instr).all (fun i => match laneRule i with
       | none => false
       | some r => issues s && fine (s.d.limsV (r.srcs ++ [r.d])) && okAnd (popsV s.d r.srcs) (fun y => okAnd (oldV (r.readD || r.g != 0#4) y.2 r.d) (fun o => fine (o.d.roomV r.d))))) = true ∧
    ((∃ r : Rm, r.mode ≠ 4) ∧ [(5#32), 6].length ≤ 16 ∧ (List.replicate 16 5).length = 512 / 32 ∧ (List.replicate 64 5).length = 512 / 8 ∧ 63 < 512 / 8) := by
  refine ⟨by decide +kernel, ⟨rne, ?_⟩, ?_⟩ <;> decide +kernel
/-- O26: an integer and a float type; the widest values of 32 bits. -/
theorem test_witness_VectorCompare :
    (let s := vregs w0 [(1, 1 <<< 31), (2, 5)]
     ([.vcmpLt 5 0 2 1 7, .vcmpEq 0 9 2 1 1, .vcmpNe 7 0 2 1 1, .vcmpLe 4 0 2 1 1] : List Instr).all (fun i => match compareRule i with
       | none => false
       | some (_, _, b, a, p, _, _) => issues s && fine (s.d.limsV [a, b]) && p != 0 && okAnd (popsV s.d [a, b]) (fun y => !y.1.any (·.2))) &&
     fine (s.d.limV 1) && okAnd (popsV s.d [1]) (fun y => !y.1.any (·.2)) && fmtOf 5 == none && fmtOf 7 == none && bitsOf 5 == 32 && fmtOf 4 == some .e5m2) = true := by decide +kernel
/-- O27: each of the six, where the destination is and is not merged, and where the guard selects nothing. -/
theorem test_witness_VectorMoves :
    (let s := regs (vregs w0 [(1, 5), (2, 7)]) [(1, 15), (2, 16)]
     issues s && fine (s.d.limsV [1, 2, 3]) && okAnd (popsV s.d [1, 2]) (fun y => y.1.length == 2 && fine (y.2.roomV 3)) && fine (s.d.limV 3) &&
     ([0, 1] : List Guard).all (fun g => okAnd (oldV (g != 0#4) s.d 3) (fun o => fine (o.d.roomV 3)) &&
       okAnd (s.d.popsG [1]) (fun k => okAnd (oldV (g != 0#4) k.2 3) (fun o => fine (o.d.roomV 3))) &&
       okAnd (popsV s.d [1, 2]) (fun k => okAnd (oldV (g != 0#4) k.2 3) (fun o => fine (o.d.roomV 3))) &&
       okAnd (s.d.popV 1) (fun x => okAnd (x.d.popG 2) (fun y => !s.d.guard g || fine (y.d.roomG 3)))) &&
     s.d.guard 0 && !s.d.guard 1 && fine (s.d.limG 1) && fine (s.d.limsG [2, 3]) && fine (s.d.limsG [1, 2]) &&
     okAnd (s.d.popsG [1, 2]) (fun k => okAnd (k.2.popV 3) (fun o => fine (o.d.roomV 3)))) = true := by decide +kernel
/-- O28: one source and two, and a fold into a source. -/
theorem test_witness_VectorFolds :
    (let s := vregs w0 [(1, 5), (2, 7)]
     ([.vred 5 0 0 1 2, .vscan 0 9 1 1 1, .vdot 7 0 2 1 2] : List Instr).all (fun i => match foldRule i with
       | none => false
       | some (_, srcs, d, _) => issues s && fine (s.d.limsV (srcs ++ [d])) && okAnd (popsV s.d srcs) (fun y => fine (y.2.roomV d))) &&
     fmtOf 5 == none && fmtOf 0 == some .f32 && fmtOf 3 == some .e4m3 && (List.range (512 / bitsOf 5)).any (s.d.sel 0)) = true := by decide +kernel
/-- The rest of O27: conversions that keep, double and quarter the width, under a guard and without; the transforms; a block packed, unpacked and foreign. -/
theorem test_witness_VectorConvert :
    (let s := vregs w0 [(4, 0x81), (5, 0), (6, 0x42)]
     ([(0, 5, 0, 4, 5), (0, 3, 9, 4, 8), (3, 0, 9, 8, 4), (1, 0, 0, 6, 27)] : List (BitVec 3 × BitVec 3 × Guard × GReg × GReg)).all (fun (t, src, g, a, d) =>
       let na := if bitsOf t < bitsOf src then bitsOf src / bitsOf t else 1
       let nd := if bitsOf src < bitsOf t then bitsOf t / bitsOf src else 1
       issues s && fine (s.d.groups a na d nd) && okAnd (s.d.popGroup a na) (fun x => if g != 0#4 then okAnd (x.2.2.popGroup d nd) (fun o => nd != 1 || fine (o.2.2.roomV d)) else nd != 1 || fine (x.2.2.roomV d))) &&
     ([0, 1, 2] : List GReg).all (fun n => issues s && fine (s.d.groups 8 (2 ^ n.toNat) 12 (2 ^ n.toNat)) && okAnd (s.d.popGroup 8 (2 ^ n.toNat)) (fun x => n != 0 || fine (x.2.2.roomV 12))) &&
     ([3, 4] : List (BitVec 3)).all (fun t => fine (s.d.groups 8 ((sxOf t).n / 16) 5 1) && okAnd (s.d.popGroup 8 ((sxOf t).n / 16)) (fun x => fine (x.2.2.roomV 5)) &&
       fine (s.d.groups 5 1 8 ((sxOf t).n / 16)) && okAnd (s.d.popGroup 5 1) (fun x => fine ((sxOf t).read x.1)) &&
       okAnd (s.d.popGroup 6 1) (fun x => match (sxOf t).read x.1 with | .error c => c == 0x42 | .ok _ => false))) = true := by decide +kernel

/-- Registers of 1×1 FP32 operands at scratchpad offsets 0, 64 and 128, whose layout words are 0, and other operands. -/
def mxState : State := put (regs w0 [(2, 0xC000000000000000), (4, 0xC000000000000040), (6, 0xC000000000000080), (1, 0x3000), (7, 2 ^ 48 - 1), (8, 63), (9, 3), (10, 0x10070)]) 0x3000 (0x3C7 + 0x3F800000 * 2 ^ 64) 64
/-- MZERO of slot 0 is queued. -/
noncomputable def mxZeroed : State := after (.mzero 0 3 0) mxState
/-- O29: every command; into an empty queue and behind another command. -/
theorem test_witness_MatrixIssue :
    ([mxState, mxZeroed].map (fun s => ([.mmaPt 0 4 2 0 0 0, .mmas 0 4 2 1 1 3, .mzero 0 3 0, .mldc 9 2 1, .mmaskRow 0 2 0, .mmaskBlk 0 2 0, .mthr 0 7 2, .mout 0 2 0] : List Instr).all (fun i => match mxRule i with
      | none => false
      | some r => issues s && okAnd (mxTake s.d r.regs) (fun t => fine (r.check s.d (s.c.mx.project r.n s.c.mx.queue.length) (r.cmd t.xs)) && (r.regs != [(7, 1)] || decide ((wd t.xs 0).toNat < 2 ^ 48))) &&
          decide (s.c.mx.queue.length < 16) && (s.c.mx.slot r.n).fault.isNone && (s.c.mx.slot r.n).dead.isEmpty && (s.c.mx.slot r.n).flags == 0 && s.c.mx.queue.all (fun c => c.st != .stopped)))) = [false, true] := by decide +kernel
/-- A capability with every right has been made, its token in r11. -/
noncomputable def capped : State := after (.mcap 8 11) mxState
/-- O30: selectors 0 and 3; 0 and 65648 for MPROG; the first and the second capability; MSEND pending, false and true. -/
theorem test_witness_MatrixControl :
    (let s := mxState
     issues s && okAnd (mxTake s.d [(1, 1)]) (fun t => (wd t.xs 0) == 0x3000) && okAnd (s.readRecord 0x3000 64) (fun x => decide ((recWord x.2 0).toNat < 2 ^ 10) && decide ((recWord x.2 8).toNat < 2 ^ 32) &&
       (x.2.drop 32).any (· != 0) == false && (recWord x.2 0).extractLsb' 3 3 != 7#3 && decide (x.1.c.mx.queue.length < 16)) &&
     (s.c.mx.slot 3).fault.isNone && (s.c.mx.slot 3).dead.isEmpty && (s.c.mx.slot 3).flags == 0 && s.c.mx.queue.isEmpty && fine (s.d.limsG [9, 12]) && fine (s.d.limG 10) && fine (s.d.roomG 12) &&
     ([0, 8, 9, 10] : List GReg).all (fun r => okAnd (s.d.popsG [r]) (fun k => !k.1.any (·.2) && fine (k.2.roomG 12))) && s.d.getG 0 == 0 && s.d.getG 9 == 3 && s.d.getG 10 == 0x10070 &&
     fine (s.d.limsG [8, 11]) && s.d.getG 8 == 63 && s.c.mx.caps[0].isNone) = true ∧
    (let s := capped
     issues s && s.c.mx.caps[1].isNone && s.c.mx.caps[0].isSome && okAnd (s.d.popsG [11]) (fun k => match k.1 with
       | [(w, false)] => w.extractLsb' 10 10 == s.core && (w.extractLsb' 0 3).toNat == 0 && (match s.c.mx.caps[0] with | some cap => cap.nonce == w.extractLsb' 20 44 | none => false)
       | _ => false)) = true ∧
    (let s := { capped with mem := { capped.mem with bytes := cwrites capped.mem.bytes 0x3000 (List.replicate 64 0) } }
     let x (k : KSlot) : State := on s (fun d => { d with k := d.k.set 0 k })
     issues s && fine (s.d.limsG [1, 11]) && okAnd (s.d.popsG [1, 11]) (fun k => !k.1.any (·.2)) && okAnd (s.readRecord 0x3000 64) (fun y => decide (y.1.c.mx.queue.length < 16) && okAnd (y.1.deliver s.c.work.launch y.2 (s.d.getG 11)) (·.isSome)) &&
     (x .pending).d.slot 8 == .pending && (x .no).d.slot 8 == .no && s.d.slot 0 == .yes && s.storesDone 0 0 && okAnd (s.readRecord 0x3000 64) (fun y => remoteOk y.2 && fine (y.1.sendCounter (s.d.maker (.matrix s.core)) y.2 (s.d.getG 11))) &&
       !remoteOk (63 :: List.replicate 63 0)) = true := by decide +kernel
/-- A product of two 1×1 operands has started on slot 0. -/
noncomputable def mmStarted : State := after (.matrixCommandStart 0 0) (after (.mmaPt 0 4 2 0 0 0) mxState)
/-- The head of core 0's queue is a held MSEND of a zero record to the capability. -/
noncomputable def sending (b : Bind) : State :=
  onC capped (fun c => { c with mx := { c.mx with queue := [{ op := .msend (List.replicate 64 0) (capped.d.getG 11), slot := 0, bind := b, desk := 0, maker := {}, seq := 0 }] } })
/-- O31: commands bound false and true, of each kind; blocks that commit and one whose operand fails; remote commands. -/
theorem test_witness_MatrixWork :
    (([after (.mzero 8 3 0) (on mxState (fun d => { d with k := d.k.set 0 .no })), mxZeroed, after (.mmaPt 0 4 2 0 0 0) mxState] : List State).map (fun s => match s.c.mx.first 0 with
      | some (i, x) => (s.c.mx.mayStart i x && s.mxInOrder s.c.mx i x, x.bind == .no, x.bind == .yes, x.isMm, x.begun || x.acc)
      | none => (false, false, false, false, true))) = [(true, true, false, false, false), (true, false, true, false, false), (true, false, true, true, false)] ∧
    (let s := onC (after (.mmaPt 0 4 2 0 0 0) mxState) (fun c => { c with mx := { c.mx with
       queue := c.mx.queue.map (fun x => { x with acc := true }), slots := c.mx.slots.set 0 { c.mx.slots[0] with kind := some .i, m := 1, n := 1 } } })
     match s.c.mx.first 0 with
     | some (i, x) => s.c.mx.mayStart i x && s.mxInOrder s.c.mx i x && x.bind == .yes && x.isMm && !x.begun && x.acc && (s.c.mx.slot 0).kind != some (fmtFam (layOf x.la).fmt)
     | none => false) = true ∧
    (match (after (.matrixCommandStart 0 0) mxZeroed).mxRunning 0 with | some x => x.op == .mzero && x.slot == 0 && x.remote == none | none => false) = true ∧
    (match mmStarted.mxRunning 0 with | some x => x.isMm && x.slot == 0 && decide (16 * (mmStarted.c.mx.slot 0).block < x.dims.1) && fine (mmStarted.mmBlock x) | none => false) = true ∧
    (let s := after (.matrixCommandStart 0 0) (after (.mmaPt 0 4 2 0 0 0) (regs mxState [(2, 0x100000000)]))
     match s.mxRunning 0 with | some x => x.isMm && (match s.mmBlock x with | .error (.trap ..) => true | _ => false) | none => false) = true ∧
    (let s := after (.matrixCommandStart 0 0) (after (.mmaPt 0 4 2 0 0 0) (regs mxState [(2, 0x2000)]))
     let s : State := { s with mem := { s.mem with badMac := [0x80] } }
     match s.mxRunning 0 with | some x => x.isMm && (match s.mmBlock x with | .error (.mac ..) => true | _ => false) | none => false) = true ∧
    (([(0, .row (BitVec.allOnes 128)), (8, .row 1), (0, .row 1)] : List (Nat × MMask)).all (fun c =>
      let s := onC w0 (fun k => { k with mx := { k.mx with
        queue := [{ op := .mout, slot := 0, bind := .yes, a := 0xC000000000000000, la := BitVec.ofNat 64 (c.1 * 2 ^ 32), desk := 0, maker := {}, seq := 0 }]
        slots := k.mx.slots.set 0 { k.mx.slots[0] with kind := some .f, m := (layOf (BitVec.ofNat 64 (c.1 * 2 ^ 32))).vr, n := (layOf (BitVec.ofNat 64 (c.1 * 2 ^ 32))).vc, mask := c.2 } } })
      match s.c.mx.first 0 with
      | some (i, x) => s.c.mx.mayStart i x && s.mxInOrder s.c.mx i x && x.op == .mout && (layOf x.la).vr == (s.c.mx.slot 0).m && (layOf x.la).vc == (s.c.mx.slot 0).n && (layOf x.la).sx == (c.1 == 8) &&
          (s.c.mx.slot 0).mask.full == (c.2 == .row (BitVec.allOnes 128))
      | none => false) = true) ∧
    (([.no, .yes] : List Bind).map (fun b => match (sending b).c.mx.queue with
      | [x] => match x.op with
        | .msend bs tok => x.desk == 0 && x.bind == b && (sending b).storesDone 0 0 && okAnd (((sending b).setMx { (sending b).c.mx with queue := [] }).deliver x.maker.launch bs tok) (·.isSome)
        | _ => false
      | _ => false)) = [true, true] ∧
    (let s := onC w0 (fun c => { c with mx := { c.mx with queue := [{ op := .mzero, slot := 0, bind := .yes, desk := 0, maker := {}, seq := 0, st := .done, remote := some 0x2000 }] } })
     match s.c.mx.first 0 with | some (_, x) => x.st == .done && x.remote == some 0x2000 | none => false) = true ∧
    0 < 1 := by decide +kernel

/-- No restartable share runs on a core that runs no launch. -/
theorem protects_none {c : Core} (h : c.desks.toList.all (fun d => d.launch.isNone) = true) (off n : Nat) : c.protects off n = none := by
  simp only [List.all_eq_true, Option.isNone_iff_eq_none] at h
  simp only [Core.protects, List.findSome?_eq_none_iff]
  intro d hd
  simp [h d hd]
/-- A table in the scratchpad, checked. -/
def padTable (s : State) (t : KTab) : Bool :=
  t.loc && s.c.padPoison == [] && s.c.tiles.toList.all (fun x => x.size == 0) && s.c.desks.toList.all (fun d => d.launch.isNone) && s.d.inside (padOff t.head) 64 &&
  padOff (t.head + 48) == padOff t.head + 48 && padOff (t.head + 56) == padOff t.head + 56 &&
  (List.range t.slots).all (fun i => s.d.inside (padOff (t.keyAt i)) 8 && s.d.inside (padOff (t.metaAt i)) 8 && s.d.inside (padOff (t.payAt i)) t.pbytes)
theorem padTable_sound {s : State} {t : KTab} (h : padTable s t = true) : PadTable s t := by
  simp only [padTable, Bool.and_eq_true, List.all_eq_true, beq_iff_eq, List.mem_range] at h
  obtain ⟨⟨⟨⟨⟨⟨⟨h1, h2⟩, h3⟩, h4⟩, h5⟩, h6⟩, h7⟩, h8⟩ := h
  exact ⟨h1, h2, h3, protects_none (List.all_eq_true.mpr h4), ⟨h5, h6, h7⟩, fun i hi => ⟨(h8 i hi).1.1, (h8 i hi).1.2, (h8 i hi).2⟩⟩
/-- A table of 64 slots of one line at 0 of the scratchpad, empty; keys 5 and NK, a scratchpad operand, cursors, and numbers of replicas. -/
def padState : State :=
  onC (regs w0 [(1, 0xC000000000000000), (2, 5), (3, 0x2000), (4, noKey), (5, 2), (6, 2 ^ 33 + 5), (7, 1), (8, 3), (9, 2 ^ 33 + 63)]) (fun c =>
    let head := natLe (64 + 2 ^ 38 + 2 ^ 128 * 0xC000000000000040 + 2 ^ 192 * 0xC000000000000240 + 2 ^ 256 * 0xC000000000000440) 64
    { c with pad := cwrites c.pad 0 head })
/-- The same in memory at 0x4000, with up to 2 replicas, hot past a count of 1. -/
def globState : State :=
  put (regs padState [(1, 0x4000)]) 0x4000 (64 + 2 ^ 38 + 2 * 2 ^ 43 + 2 ^ 50 + 2 ^ 128 * 0x4040 + 2 ^ 192 * 0x4240 + 2 ^ 256 * 0x4440 + 2 ^ 320 * 0x6000) 64
/-- Every slot of the scratchpad's table is live, with key 0. -/
def fullState : State :=
  onC padState (fun c => { c with pad := c.pad ++ (List.range 64).map (fun i => (0x244 + 8 * i, 1#8)) })
/-- Key 5 is inserted. -/
noncomputable def inserted (s : State) : State := after (.kins 0 2 1 7) s
/-- What a KEY instruction's table needs, and more. -/
def keyed (i : Instr) (s : State) (p : Taken → State → KTab → Bool) : Bool :=
  match keyForm i with
  | none => false
  | some (g, rs, more) => issues s && okAnd (s.d.take g rs more rs.length) (fun t => t.on && okAnd (s.kTable (s.who s.d) (t.x 0)) (fun x => fine (x.1.arrays x.2 (keyPay i)) && fine (x.1.padOrder x.2) && p t x.1 x.2))
theorem keyed_sound {i : Instr} {s : State} {p : Taken → State → KTab → Bool} (h : keyed i s p = true) (hp : ∀ g b a d, i = .kscan g b a d → s.d.pairOk d 2 = .ok ()) :
    ∃ t s1 tab, Keyed i s t s1 tab ∧ p t s1 tab = true := by
  unfold keyed at h
  split at h
  · simp at h
  · rename_i g rs more hk
    simp only [Bool.and_eq_true] at h
    obtain ⟨t, ht, h2⟩ := okAnd_sound h.2
    simp only [Bool.and_eq_true] at h2
    obtain ⟨⟨s1, tab⟩, h3, h4⟩ := okAnd_sound h2.2
    simp only [Bool.and_eq_true] at h4
    obtain ⟨_, h5, _⟩ := okAnd_sound h4.1.1
    obtain ⟨_, h6, _⟩ := okAnd_sound h4.1.2
    exact ⟨t, s1, tab, ⟨issues_sound h.1, ⟨g, rs, more, hk, ht⟩, hp, h2.1, h3, h5, h6⟩, h4.2⟩
/-- The table of the scratchpad. -/
def padTab : KTab := ⟨0xC000000000000000, 6, false, 1, 0, 0, 0, 0xC000000000000040, 0xC000000000000240, 0xC000000000000440, 0⟩
/-- O32: a key that is not there, one that is, and a full table. -/
theorem test_witness_KeyProbe :
    PadTable padState padTab ∧ PadTable (inserted padState) padTab ∧ PadTable fullState padTab ∧
    ([(padState, false, true), (inserted padState, true, true), (fullState, false, false)].map (fun x => ((stopsAt x.1 padTab 5).filter (fun i => slotState x.1 padTab i = 1)).isSome == x.2.1 &&
      ((probes padTab 5).find? (fun i => slotState x.1 padTab i = 0 || slotState x.1 padTab i = 2)).isSome == x.2.2 && (List.range 64).all (fun i => !x.1.slotBusy (x.1.who x.1.d) padTab i))) = [true, true, true] ∧
    (5 : Word) ≠ noKey ∧ 0 < padTab.log2 := by
  refine ⟨padTable_sound (by decide +kernel), padTable_sound (by decide +kernel), padTable_sound (by decide +kernel), ?_⟩
  decide +kernel
/-- O33: the two kinds of table, without and with the key; guards true and false; NK; a full table; the scan's two answers, from its first slot and from the last. -/
theorem test_witness_KeyLookup :
    ([padState, globState].all (fun s => ([false, true] : List Bool).all (fun has =>
      let s := if has then inserted s else s
      keyed (.kfind 0 2 1 7) s (fun t s1 tab => fine (t.d.roomG 7) && okAnd (s1.kFind (s.who s.d) tab (t.x 1)) (fun x => x.2.isSome == has)) &&
      keyed (.kins 0 2 1 7) s (fun t s1 tab => t.x 1 != noKey && fine (t.d.roomG 7) && okAnd (s1.kInsert (s.who s.d) tab (t.x 1)) (·.2.isSome)) &&
      keyed (.kdel 0 2 1 7) s (fun t s1 tab => fine (t.d.roomG 7) && okAnd (s1.kFind (s.who s.d) tab (t.x 1)) (fun x => match x.2 with
        | none => !has
        | some n => has && !x.1.slotBusy (s.who s.d) tab n && fine (x.1.kEnd (s.who s.d) tab n))) &&
      keyed (.kcount 0 2 1 7) s (fun t s1 tab => fine (t.d.roomG 7) && fine (s1.kSettled tab) && t.x 1 != noKey && okAnd (s1.kFind (s.who s.d) tab (t.x 1)) (fun x => match x.2 with
        | none => !has
        | some n => has && fine (x.1.kWord (s.who s.d) tab.loc (tab.metaAt n) accRead))) &&
      keyed (.kcount 0 4 1 7) s (fun t s1 tab => t.x 1 == noKey && fine (s1.kWord (s.who s.d) tab.loc (tab.head + 48) accRead)) &&
      keyed (.kscan 0 (if has then 6 else 9) 1 8) s (fun t s1 tab => (t.x 1).extractLsb' 34 30 == 0 && okAnd (s1.kScan (s.who s.d) tab ((t.x 1).getLsbD 32) (tab.slots - ((t.x 1).extractLsb' 0 32).toNat) ((t.x 1).extractLsb' 0 32).toNat) (fun x => match x.2 with
        | none => !has
        | some (n, m) => has && (t.x 1).getLsbD 33 && okAnd (x.1.kWord (s.who s.d) tab.loc (tab.keyAt n) accRead) (fun y =>
            fine (y.1.kWrite (s.who s.d) tab.loc (tab.metaAt n) (natLe (m &&& ~~~0x10000000000#64).toNat 8) false accRmw)))) && fine (s.d.pairOk 8 2) &&
      keyed (.kdirty 0 2 1) s (fun t s1 tab => okAnd (s1.kFind (s.who s.d) tab (t.x 1)) (fun x => match x.2 with
        | none => !has
        | some n => has && okAnd (x.1.kWord (s.who s.d) tab.loc (tab.metaAt n) accRmw) (fun y => fine (y.1.kWrite (s.who s.d) tab.loc (tab.metaAt n) (natLe (y.2 ||| 0x10000000000).toNat 8) false accRmw))))))) = true ∧
    (keyed (.kins 0 4 1 7) padState (fun t _ _ => t.x 1 == noKey) && keyed (.kins 0 2 1 7) fullState (fun t s1 tab => t.x 1 != noKey && fine (t.d.roomG 7) &&
      okAnd (s1.kInsert (fullState.who fullState.d) tab (t.x 1)) (fun x => x.2.isNone && x.1.d.gen.isNone)) && okAnd (padState.d.take 1 [1, 2] [7] 2) (fun t => !t.on)) = true ∧ PadTable padState padTab := by
  refine ⟨by decide +kernel, by decide +kernel, padTable_sound (by decide +kernel)⟩
/-- O34: a payload of one line of memory, one element of which has been read before, and none. -/
theorem test_witness_Seen :
    ([[], [⟨5, 0x4440, [1, 2, 3, 4], false⟩]] : List (List Seen)).all (fun l =>
      let s := on globState (fun d => { d with seen := l })
      okAnd (s.kRead (s.who s.d) false 0x4440 64 accRead) (fun x => x.2.1.length == 64 && okAnd (x.1.payPieces (s.who s.d) false 5 (0x4440 + 64) 0) (fun y =>
        y.1.d.seen == l && l.all (fun z => z.val.length == 4 && y.1.d.seen.find? (fun y => y.key == 5 && y.at_ == 0x4440) == some z)))) = true := by decide +kernel
/-- The slot of key 5. -/
def five : Nat := padTab.home 5
set_option maxRecDepth 8000 in
/-- O34: the two kinds of table; 1, 2 and 3 replicas; a cold key and a hot one; one key's merge and every key's. -/
theorem test_witness_KeyPayload :
    ([padState, globState].all (fun s =>
      keyed (.kacc 0 2 1 3) s (fun t s1 tab => t.x 1 != noKey && s1.d.inside (t.x 2).toNat tab.pbytes && (t.x 2).toNat % 64 == 0 && fine (s1.mayRead (t.x 2).toNat tab.pbytes) && okAnd (s1.claim (s.who s.d) tab (t.x 1)) (fun x => match x.2.2 with
        | none => false
        | some c => (elemsOf (s1.c.padPieces (t.x 2).toNat tab.psize) 0).all (fun e => decide (4 * e.1 + 4 ≤ c.tab.pbytes)) && (c.tab.loc == tab.loc))) &&
      keyed (.kput 0 2 1 3) s (fun t s1 tab => s1.d.inside (t.x 2).toNat tab.pbytes && (t.x 2).toNat % 64 == 0 && fine (s1.mayRead (t.x 2).toNat tab.pbytes) && fine (s1.kSettled tab) && okAnd (s1.kInsert (s.who s.d) tab (t.x 1)) (fun x => match x.2 with
        | none => false
        | some n => okAnd (x.1.kPieces (s.who s.d) tab.loc (tab.payAt n) (x.1.c.padPieces (t.x 2).toNat tab.psize)) (fun s3 => okAnd (s3.kWord (s.who s.d) tab.loc (tab.metaAt n) accRmw) (fun y =>
            fine (y.1.kWrite (s.who s.d) tab.loc (tab.metaAt n) (natLe ((y.2 &&& 0xFFFFFFFF00000000) ||| 1).toNat 8) false accRmw))))) &&
      ([false, true] : List Bool).all (fun has =>
        let s := if has then inserted s else s
        keyed (.kget 0 2 1 3) s (fun t s1 tab => s1.d.inside (t.x 2).toNat tab.pbytes && (t.x 2).toNat % 64 == 0 && fine (s1.mayWrite (t.x 2).toNat tab.pbytes) && fine (s1.kSettled tab) && okAnd (s1.kFind (s.who s.d) tab (t.x 1)) (fun x => match x.2 with
          | none => !has
          | some n => has && fine (x.1.payPieces (s.who s.d) tab.loc (t.x 1) (tab.payAt n) tab.psize)))) &&
      ([2, 4] : List GReg).all (fun k => keyed (.kmerge 0 k 1) (if k == 2 then inserted s else s) (fun t s1 tab => fine (s1.kSettled tab) && (tab.loc || (if t.x 1 == noKey then fine (s1.mergeFrom (s.who s.d) tab 64 0) else
        okAnd (s1.kFind (s.who s.d) tab (t.x 1)) (fun x => match x.2 with | some n => fine (x.1.mergeSlot (s.who s.d) tab n) | none => false))))))) = true ∧
    (([7, 8] : List GReg).all (fun r => keyed (.khot 0 2 1 r) globState (fun t _ tab => decide ((t.x 2).toNat < 2) || decide (tab.maxrep < (t.x 2).toNat)))) = true ∧
    (let s := globState; keyed (.khot 0 2 1 5) s (fun t s1 tab => (t.x 2).toNat == 2 && tab.maxrep == 2 && okAnd (s1.kInsert (s.who s.d) tab (t.x 1)) (fun x => match x.2 with
        | none => false
        | some n => okAnd (x.1.kWord (s.who s.d) false (tab.metaAt n) accRmw) (fun y => !metaHot y.2 && okAnd (y.1.promote (s.who s.d) tab n 2) (·.isSome))))) = true ∧
    keyed (.khot 0 2 1 5) (put (put globState 0x4068 5 8) 0x4268 (2 ^ 32 + 2 ^ 41 + 2 ^ 49) 8) (fun t s1 tab => okAnd (s1.kInsert (globState.who globState.d) tab (t.x 1)) (fun x => match x.2 with
        | none => false
        | some n => okAnd (x.1.kWord (globState.who globState.d) false (tab.metaAt n) accRmw) (fun y => metaHot y.2))) = true ∧
    PadTable padState padTab ∧ (([63] : List Nat).all (fun n => decide (n < padTab.slots) && (List.range (padTab.pbytes - 3)).all (fun j => padOff (padTab.payAt n + BitVec.ofNat 64 j) == padOff (padTab.payAt n) + j)) &&
      decide (4 * 15 + 4 ≤ padTab.pbytes)) = true := by
  refine ⟨by decide +kernel, by decide +kernel, by decide +kernel, by decide +kernel, padTable_sound (by decide +kernel), by decide +kernel⟩

/-- A relation of three rows with keys 5, 5 and 7 at 0x8000, a type of a root and one child at 0x9000, their binding at 0xA000 with the table at 0x4000 as the child's P and D, a KISECT record at 0xC000; and operands. -/
def joinState : State :=
  let s := regs globState [(10, 0x9000), (11, 0xA000), (12, 0xE01), (13, 0x8000), (14, 0xB000), (16, 0), (17, 3), (15, 0xC000), (18, 2 ^ 32), (19, 3 * 2 ^ 32 + 2)]
  let s := put s 0x8000 (3 + 16 * 2 ^ 32 + 2 ^ 112 + 8 * 2 ^ 128 + 2 ^ 144 + 0x8100 * 2 ^ 256) 64
  let s := put s 0x8100 (5 + 5 * 2 ^ 128 + 7 * 2 ^ 256) 48
  let s := put s 0x9000 2 64
  let s := put s 0x9040 (31 * 2 ^ 8 + 2 ^ 16 + 31 * 2 ^ 24 + 2 ^ 48 + 2 ^ 256 * (1 + 31 * 2 ^ 16 + 31 * 2 ^ 24 + 2 ^ 48)) 64
  let s := put s 0xA000 (0x8000 + 9 * 2 ^ 192 + 2 ^ 256 * (0x8000 + 0x4000 * 2 ^ 64 + 0x4000 * 2 ^ 128)) 64
  put s 0xC000 (2 + 0x8000 * 2 ^ 128 + 0x8000 * 2 ^ 192 + 0xB000 * 2 ^ 384 + 4 * 2 ^ 448) 64
/-- Handle 0 is bound, and tile 0 is filled. -/
noncomputable def boundState (s : State) : State := tiled (after (.jbind 11 10 0) s) .ready
/-- Slot 5 of the table at 0x4000 is live, and has had more accumulations in one window than HOTTHR. -/
def hotState : State :=
  let s := put (put globState 0x4068 5 8) 0x4268 (2 ^ 32 + 2) 8
  { s with sys := { s.sys with hots := [⟨0, 0x4000, 5, 0, 2, true, 0⟩] } }
/-- Who makes an addition or a held command. -/
def whoKey (s : State) (m : Maker) (held : List TlbEntry) (seq : Nat) : Who := { s.whoOf m held with keys := some seq }
/-- O35: an addition claimed, to a cold slot and to a hot one of a recorded table, and one whose COUNT has landed. -/
theorem test_witness_KeyEvents_adds :
    (([(false, false), (true, false), (false, true)] : List (Bool × Bool)).all (fun (ph, hot) =>
      let g := if hot then put (put globState 0x4068 5 8) 0x4268 (2 ^ 32 + 2 ^ 41 + 2 * 2 ^ 48) 8 else globState
      let s := after (.kacc 0 2 1 3) g
      let s := onC s (fun c => { c with key := { c.key with merge := [(0, 0x4000)], adds := c.key.adds.map (fun (x : KAdd) => { x with phase2 := ph }) } })
      let first (s : State) : Bool := match (s.coreAt 0).key.adds with
        | [x] => let w := whoKey s x.maker x.held x.seq
          x.phase2 == ph && x.at_.isNone && x.elems != [] && okAnd ({ s with core := 0, desk := x.desk }.kWord w false (x.tab.metaAt x.slot) accRmw) (fun y => metaHot y.2 == hot && (
            let z := y.1.countHot w.part x.tab x.slot
            if hot then
              let a := x.tab.groupAt (metaGroup y.2)
              decide (0 < metaReps y.2) && z.c.key.merge.contains (w.part, x.tab.head) && z.reach w x.tab y.2 && z.core.toNat == 0 && okAnd (z.kRead w false a 4 accRmw) (fun v =>
                fine (v.1.kWrite w false a (natLe (min (leNat v.2.1 + 1) (2 ^ 32 - 1)) 4) false accRmw))
            else fine (z.kWrite w false (x.tab.metaAt x.slot) (natLe (metaAdd y.2 1).toNat 8) false accRmw)))
        | _ => false
      let second (s : State) : Bool := match (s.coreAt 0).key.adds with
        | [x] => match x.at_ with
          | some p => x.elems != [] && x.elems.all (fun (j, v, bad) => let w := whoKey s x.maker x.held x.seq; okAnd ({ s with core := 0, desk := x.desk }.kRead w false (p + BitVec.ofNat 64 (4 * j)) 4 accRmw) (fun y =>
              fine (y.1.kWrite w false (p + BitVec.ofNat 64 (4 * j)) (natLe (if x.tab.int then (leNat y.2.1 + v.toNat) % 2 ^ 32 else rAdd (leNat y.2.1) v.toNat) 4) bad accRmw)))
          | none => false
        | _ => false
      (s.coreAt 0).key.held.isEmpty && first s && second (s.setAdds 0 (fun l => l.map (fun (x : KAdd) => { x with at_ := some (x.tab.payAt x.slot) }))))) = true := by decide +kernel
/-- The desk's held commands take a binding. -/
def bindAs (s : State) (b : Bind) : State := onC s (fun c => { c with key := { c.key with held := c.key.held.map (fun (x : KCmd) => { x with bind := b }) } })
/-- What the key unit makes of its oldest held command stands before it. -/
def unheld (s : State) (x : KCmd) : State := { s.setCoreAt 0 { s.coreAt 0 with key := { (s.coreAt 0).key with held := [] } } with core := 0, desk := x.desk }
/-- O35: KRUNS, KISECT and a guarded JSCATTER held, bound false, pending and true. -/
theorem test_witness_KeyEvents_held :
    (([(.kruns 8 0 14 13, .no), (.kruns 0 14 13 16, .slot 3), (.kruns 0 14 13 16, .yes), (.kisect 0 15, .yes), (.jscatter 9 0 18 0 0, .yes)] : List (Instr × Bind)).drop 1).all (fun ib =>
      let s := match ib.1 with
        | .jscatter .. => let b := boundState joinState; { b with mem := { b.mem with bytes := cput (cput b.mem.bytes 0x4068 5) 0x426C 1 } }
        | _ => joinState
      let s := bindAs (after ib.1 (on s (fun d => { d with k := d.k.set 1 .pending }))) ib.2
      match (s.coreAt 0).key.held with
      | [x] =>
        let w := whoKey s x.maker x.held x.seq
        let t := unheld s x
        x.bind == ib.2 && (s.coreAt 0).key.adds.isEmpty && (match x.op with
        | .runs r first cnt col out => okAnd (t.runsOf w r col cnt first []) (fun y =>
            fine (y.1.kWrite w false out (natLe y.2.length 8 ++ natLe 0 8 ++ y.2.flatMap (fun z => natLe z.1.toNat 8 ++ natLe z.2 8)) false accWrite))
        | .isect ins out cap _ => okAnd (t.isect w cap ((ins.map (fun y => y.1.rows)).sum + 2) (ins.map (fun y => (y, 0))) []) (fun y =>
            fine (y.1.kWrite w false out (natLe y.2.1.length 8 ++ natLe (if y.2.2 then 1 else 0) 8 ++
              y.2.1.flatMap (fun e => let bs := natLe e.1.toNat 8 ++ e.2.flatMap (natLe · 4); bs ++ List.replicate (32 - bs.length) 0)) false accWrite))
        | .scatter h node own first rows mask base _ => fine (t.scatter w x.maker h node own first rows mask base))
      | _ => false) = true := by decide +kernel
/-- O35: two inputs of three sorted keys on a memory-side page, whose reading changes nothing, so that R holds of one state; two replicas there. -/
theorem test_witness_KeyEvents_reads :
    (let s := put joinState 0x102000 0x93F 8
     let w := whoKey s (s.d.maker (.core 0)) [] 0
     okAnd (s.relAt (s.who s.d) 0x8000) (fun x => x.2.rows == 3 && ([5, 5, 7] : List Word).zipIdx.all (fun k => okAnd (x.1.rowKey w x.2 k.2 0) (fun y => y.1 == x.1 && y.2 == k.1)))) = true ∧
    ([5, 5, 7] : List Word).Pairwise (fun x y => x.toNat ≤ y.toNat) ∧ noKey ∉ ([5, 5, 7] : List Word) ∧
    (let s := put globState 0x102000 0x93F 8
     let w := whoKey s (s.d.maker (.core 0)) [] 0
     okAnd (s.kTable (s.who s.d) 0x4000) (fun x => ([0, 1] : List Nat).all (fun r =>
       okAnd (x.1.kRead w false (x.2.repAt 0 r) x.2.pbytes accRmw) (fun y => y.1 == x.1 && !y.2.2 && y.2.1.length == x.2.pbytes) &&
       okAnd (x.1.kRead w false (x.2.groupAt 0 + BitVec.ofNat 64 (4 * r)) 4 accRmw) (fun y => y.1 == x.1 && !y.2.2)))) = true := by
  refine ⟨by decide +kernel, by decide, by decide, by decide +kernel⟩
/-- An addition in progress, and the window that the next one counts in. -/
noncomputable def counting : State :=
  let s := after (.kacc 0 2 1 3) globState
  s.setAdds 0 (fun l => l.map (fun (x : KAdd) => { x with at_ := some (x.tab.payAt x.slot) }))
/-- Such a slot is one for the count of accumulations. -/
theorem test_witness_KeyEvents_counts :
    (match (counting.coreAt 0).key.adds with
     | [x] => decide (0 < x.tab.hotthr) && x.at_.isSome && counting.cores.any (fun c => c.2.key.adds.any (fun z => z.maker.part == x.maker.part && z.tab.head == x.tab.head && z.slot == x.slot && z.at_.isSome))
     | _ => false) = true ∧
    ∃ s : State, s.sys.hots.find? (fun h => h.part == 0 && h.head == 0x4000 && h.slot == 5) = some ⟨0, 0x4000, 5, s.hotWindow, 1, false, 0⟩ :=
  ⟨by decide +kernel, { w0 with sys := { w0.sys with hots := [⟨0, 0x4000, 5, w0.hotWindow, 1, false, 0⟩] } }, rfl⟩
set_option maxRecDepth 8000 in
/-- A slot past its threshold that is due; its promotion finds a free group, and none where every group is taken. -/
theorem test_witness_KeyEvents_promotes :
    hotState.sys.hots.any (fun h => (h.part == 0 && h.head == 0x4000 && h.slot == 5) && h.due && h.count == 2 && decide (h.tried ≤ hotState.hotWindow)) = true ∧ isLocal 0x4000 = false ∧
    (([(hotState, true), (put hotState 0x6000 (2 ^ 256 - 1) 32, false)] : List (State × Bool)).all (fun (s, free) =>
      okAnd (s.kTable (s.hwWho 0) 0x4000) (fun x => decide (0 < x.2.hotthr) && decide (2 ≤ x.2.maxrep) && decide (5 < x.2.slots) &&
        okAnd (x.1.kWord (s.hwWho 0) false (x.2.metaAt 5) accRmw) (fun y => metaState y.2 == 1 && !metaHot y.2 && okAnd (y.1.promote (s.hwWho 0) x.2 5 x.2.maxrep) (fun p => p.isSome == free))))) = true :=
  ⟨List.any_eq_true.mpr ⟨⟨0, 0x4000, 5, 0, 2, true, 0⟩, List.mem_singleton.mpr rfl, by simp⟩, by decide, by decide +kernel⟩
/-- O35: a stage of one core that has rung, with a table recorded. -/
theorem test_witness_KeyEvents_bell :
    (let s := onC (launched w0) (fun c => { c with work := { c.work with launch := some 0, rung := true }, key := { c.key with merge := [(0, 0x4000)] } })
     let s := s.setLaunch 0 { s.launchAt 0 with stages := [{ begun := true, cores := [0] }] }
     s.live && !s.stopped 0 0 && !(s.stageOf 0 0).ended && (s.stageOf 0 0).begun && !(s.stageOf 0 0).exch && (s.stageOf 0 0).resume.isEmpty && !s.stopDue 0 0 false && !s.ckDue 0 0 && s.hasRung 0 0 &&
       !s.ctxInUse 0 7) = true ∧ fine (globState.kTable (globState.hwWho 0) 0x4000) = true := by decide +kernel
/-- O36, JoinHandles: a type and its binding; fields 0 and 14 of its two nodes; an unbound handle; three sorted keys on a memory-side page, whose reading changes nothing, so that R holds of one state. -/
theorem test_witness_JoinHandles :
    (let s := joinState
     issues s && okAnd (s.d.take 0 [10, 11] [] 2) (fun t => fine (s.bindHandle (s.who s.d) (t.x 0) (t.x 1))) && okAnd (s.d.take 0 [12] [20] 1) (fun _ => (s.c.key.handles[3]).isNone && s.c.key.binds.isEmpty)) = true ∧
    (let s := after (.jbind 11 10 0) joinState
     ([0, 12] : List GReg).all (fun r => okAnd (s.d.take 0 [r] [20] 1) (fun t => fine (t.d.roomG 20) && (match s.c.key.handles[0] with
       | some h => let f := ((t.x 0).extractLsb' 8 4).toNat; let v := ((t.x 0).extractLsb' 0 4).toNat; t.x 0 == BitVec.ofNat 64 (256 * f + v) && decide (f ≤ 14) && decide (v < h.nodes.length)
       | none => false)))) = true ∧
    (let s := put joinState 0x102000 0x93F 8
     fine (s.d.pairOk 20 2) && okAnd (s.d.take 0 [13, 2] [20, 21] 2) (fun t => okAnd (s.relAt (s.who s.d) (t.x 0)) (fun x => x.2.rows == 3 &&
       ([5, 5, 7] : List Word).zipIdx.all (fun k => okAnd (x.1.rowKey (s.who s.d) x.2 k.2 0) (fun y => y.1 == x.1 && y.2 == k.1))))) = true ∧ ([5, 5, 7] : List Word).Pairwise (fun x y => x.toNat ≤ y.toNat) := by
  refine ⟨by decide +kernel, by decide +kernel, by decide +kernel, by decide⟩
/-- O36: a handle that a restore has still to bind. -/
theorem test_witness_JoinWaits :
    (let s := onC joinState (fun c => { c with key := { c.key with binds := [⟨1, 0, 0x9000, 0xA000⟩] } })
     issues s && okAnd (s.d.take 0 [12] [20] 1) (fun _ => s.c.key.binds.any (fun x => x.n == 1))) = true := by decide +kernel
/-- O36, JoinRows: KRUNS of three rows; KISECT of two inputs; JGATHER and JSCATTER of one row of the root; rows at the relation's end and past it. -/
theorem test_witness_JoinRows :
    (let s := joinState
     issues s && fine (s.d.pairOk 16 2) && okAnd (s.d.take 0 [13, 14, 16, 17] [] 4) (fun t => (t.x 3).extractLsb' 34 30 == 0 && (t.x 1).toNat % 16 == 0 && okAnd (s.relAt (s.who s.d) (t.x 0)) (fun x =>
       let cnt := ((t.x 3).extractLsb' 0 32).toNat
       decide (((t.x 3).extractLsb' 32 2).toNat < x.2.keys.length) && decide ((t.x 2).toNat + cnt ≤ x.2.rows) && okAnd (x.1.kGrip (s.who s.d) (x.2.row (t.x 2).toNat) (cnt * x.2.stride) accRead) (fun y =>
         fine (y.1.kGrip y.2.1 (t.x 1) (16 + 16 * cnt) accWrite))))) = true ∧
    (let s := joinState
     okAnd (s.d.take 0 [15] [] 1) (fun t => (t.x 0).toNat % 64 == 0 && okAnd (s.kRecord (s.who s.d) false (t.x 0)) (fun x =>
       let rec_ := x.2
       (rec_.extractLsb' 0 8).toNat == 2 && rec_.extractLsb' 16 112 == 0 && dword rec_ 32 == 0 && dword rec_ 40 == 0 && (dword rec_ 48).toNat % 16 == 0 &&
       okAnd (x.1.relsAt (s.who s.d) [dword rec_ 16, dword rec_ 24]) (fun y => y.2.all (fun r => decide (0 < r.keys.length)) && okAnd (y.1.gripRels (s.who s.d) y.2) (fun z =>
         fine (z.1.kGrip z.2 (dword rec_ 48) (16 + 32 * y.2.foldl (fun m x => min m x.rows) (dword rec_ 56).toNat) accWrite)))))) = true ∧
    (let s := boundState joinState
     let s := { s with mem := { s.mem with bytes := cput (cput s.mem.bytes 0x4068 5) 0x426C 1 } }
     okAnd (s.d.take 0 [18, 0] [] 2) (fun t => okAnd (jrow false 0 t s) (fun j => j.count == 1 && s.c.key.adds.isEmpty && s.c.key.held.isEmpty && fine (s.mayWrite j.base (4 * j.h.h * j.count)) && fine (s.gatherRows (s.who s.d) j j.count 0)) &&
       okAnd (jrow true 0 t s) (fun j => okAnd (s.gripRows (s.who s.d) j) (fun x => x.1.c.key.held.isEmpty && fine (x.1.padOrders ((scatterTabs j.h j.node j.own).filterMap (fun y => y.2.2))) && okAnd (x.1.scatter x.2 (x.1.d.maker (.core x.1.core)) j.h j.node j.own j.first j.count (s.d.getP 0) j.base) (fun y => y.2.isNone) &&
         fine (x.1.gripTables x.2 ((scatterTabs j.h j.node j.own).filterMap (fun y => y.2.2))))))) = true ∧
    (let h : Handle := ⟨0, 0, 0, [⟨0, 31, 31, 31, 0, 0, 0, 0, 0, 0, 0, ⟨0, 3, 8, [], 0, 0⟩, none, none⟩]⟩
     let j (first : Nat) : JRow := ⟨h, 0, 0, 1, first, false⟩
     decide ((j 3).rel.rows ≤ (j 3).first + 0) && (j 2).node == (j 2).h.root && (gatherTabs (j 2).h (j 2).node).isEmpty && decide ((j 2).first + 1 ≤ (j 2).rel.rows)) = true := by decide +kernel

/-- In exchange on cores 0 and 1, with a card of each kind from 0x3000 on, one at every 64 bytes, and a group 7 of the two cores; device 0, core 1's scratchpad as another's. -/
def cardState : State :=
  let s := regs exState ([0, 1, 2, 3, 4, 5].map (fun i => (BitVec.ofNat 5 (1 + i), BitVec.ofNat 64 (0x3000 + 64 * i))) ++ [(7, 0x3001), (8, 0x4000)])
  let copy (kind src dst slen dlen a0 a1 : Nat) : Nat := kind + 2 ^ 64 * src + 2 ^ 128 * slen + 2 ^ 192 * dst + 2 ^ 256 * dlen + 2 ^ 320 * a0 + 2 ^ 384 * a1 + 2 ^ 448 * 0x5000
  let s := put s 0x3000 (copy 1 0x6000 0x7000 64 64 1 0) 64
  let s := put s 0x3040 (copy 2 0x6000 0x7000 64 32 1 0) 64
  let s := put s 0x3080 (copy 3 0x6000 0x7000 64 8 0x6800 (1 + 8 * 2 ^ 32)) 64
  let s := put s 0x30C0 (copy (4 + 3 * 2 ^ 16 + 7 * 2 ^ 32) 0x6000 0x7000 64 64 0 0) 64
  let s := put s 0x3100 (copy 5 0x6000 0xC000000000080000 64 64 0 0) 64
  let s := put s 0x3140 (copy 6 0xC000000000080000 0x7000 64 64 0 0) 64
  let l := s.launchAt 0
  let gr : Group := { id := 7, stage := 0, members := some [0, 0x80000] }
  s.setLaunch 0 { l with groups := [gr] }
/-- O37, CardSubmit: a card of each kind, a misaligned one, and a group's next instance. -/
theorem test_witness_CardSubmit :
    (let s := cardState
     ([.cpy 0 1, .cpyq 0 2, .gath 8 3, .coll 0 4, .fput 0 5, .fget 0 6] : List Instr).all (fun i => match cardForm i with
      | none => false
      | some (n, _, a) => issues s && okAnd (s.d.take 0 [a] [] 1) (fun t => okAnd (s.readCard (s.who s.d) (t.x 0)) (fun x =>
          okAnd (x.1.grip (s.who s.d) (t.x 0) (t.x 0 + 6) accWrite 2 2) (fun y => okAnd (y.1.cardCheck n (t.x 0) x.2) (fun z => let eng := z.1.engineFor n (t.x 0) z.1.core
          !z.1.sys.retired.contains (.engine eng) && decide ((z.1.queueOf (engNo eng)).length < engDepth eng) && fine z.1.released && fine (z.1.pastFences [.e])))))) &&
     okAnd (s.d.take 0 [7] [] 1) (fun t => (t.x 0).toNat % 64 != 0 && (match s.readCard (s.who s.d) (t.x 0) with | .error (.trap c _ _ _) => c != 0x1C0 | _ => true)) && s.d.launch == some 0 && (s.groupOf 0 7).isSome) = true := by decide +kernel
/-- Two cards of an instance, of members 0 and 1, have started; a change is made to the second. -/
noncomputable def instState (f : Card → Card) (two : Bool) : State :=
  let s := after (.coll 0 4) cardState
  match s.allCards with
  | [c] => s.setQueue 128 ({ c with started := true } :: (if two then [f { c with started := true, seq := 1, rank := 1, raw := c.raw + 2 ^ 192 * 0x800, inst := 0 }] else []))
  | _ => s
/-- O37, JobCancel: no card of an address; one queued, one started, and a collective. -/
theorem test_witness_JobCancel :
    (okAnd (cardState.d.take 0 [1] [9] 1) (fun t => fine (t.d.roomG 9)) && cardState.allCards.isEmpty) = true ∧
    (([after (.cpy 0 1) cardState, (after (.cpy 0 1) cardState).updCard 0 (fun c => some { c with started := true }), after (.coll 0 4) (regs cardState [(1, 0x30C0)])] : List State).map (fun s => match s.allCards with
      | [c] => okAnd (s.d.take 0 [1] [9] 1) (fun t => fine (t.d.roomG 9) && c.addr == t.x 0 && c.owner.same (s.ownerOf s.core s.desk) && c.started == (c.kind == 1 && s.allCards.any (·.started)) && (c.kind == 1 || c.kind == 4))
      | _ => false)) = [true, true, true] := by decide +kernel
/-- O38: cards bound false and true that start; a started card; a copy of 8 bytes; a card and an instance that fail; an instance that disagrees, one that agrees and has all its sources, and one
that has written all; one with a member elsewhere. -/
theorem test_witness_EngineEvents :
    (([8, 0] : List Guard).map (fun k =>
      let s := after (.cpy k 1) (on cardState (fun d => { d with k := d.k.set 0 .no }))
      match (s.queueOf (engNo (.copy 0 0)))[0]? with
      | some c => !c.started && s.mayRun c.owner.launch c.stage && c.kind != 4 && s.allCards.all (fun x => !c.after x) && (if k == 8 then c.bind == .no else c.bind == .yes)
      | none => false)) = [true, true] ∧
    (([(.cpy 0 1, .copy 0 0), (.fput 0 5, .gateway), (.fget 0 6, .gateway)] : List (Instr × EngineId)).map (fun x =>
      let s := (after x.1 cardState).updCard 0 (fun c => some { c with started := true })
      match (s.queueOf (engNo x.2))[0]? with | some c => c.started && c.fail.isNone && c.kind != 4 | none => false)) = [true, true, true] ∧
    (let s := after (.cpy 0 1) (put (put cardState 0x3010 8 8) 0x3020 8 8)
     match (s.queueOf (engNo (.copy 0 0)))[0]? with
     | some c => c.kind == 1 && (cAux0 c.raw).extractLsb' 0 32 == 1#32 && c.done == 0 && c.buf.isEmpty && c.out.isEmpty && decide (0 < cSlen c.raw) && decide (cSlen c.raw + (cSrc c.raw).toNat % 8 ≤ 8) &&
         decide (cSlen c.raw + (cDst c.raw).toNat % 8 ≤ 8) && (match s.engRead c.maker (cSrc c.raw) (cSlen c.raw) with
           | .ok (s1, bs, bad) => bs.length == cSlen c.raw && (match s1.engWrite c.maker (cDst c.raw) bs bad with | .ok _ => true | .error _ => false)
           | .error _ => false)
     | none => false) = true ∧
    (([(.cpy 0 1, .copy 0 0), (.coll 0 4, .coll 0)] : List (Instr × EngineId)).map (fun x =>
      let s := (after x.1 cardState).updCard 0 (fun c => some { c with started := true, fail := some { cause := 0x140 } })
      match (s.queueOf (engNo x.2))[0]? with
      | some c => c.fail.isSome && c.kind != 4
      | none => false)) = [true, false] ∧
    (([0, 1, 2] : List Nat).map (fun k =>
      let full (c : Card) : Card := if k = 1 then { c with buf := (units8 (cSrc c.raw).toNat 65 64).map (fun u => (u.1, List.replicate u.2 0, false)) } else if k = 2 then { c with paid := true } else c
      let s := instState (fun c => if k = 0 then { c with raw := c.raw + 2 ^ 256 } else c) true
      let s := s.setQueue 128 ((s.queueOf 128).map full)
      match s.groupOf 0 7 with
      | some gr => !(s.members 0 gr).contains none && s.members 0 gr != [] && s.mayRun (some 0) gr.stage && (match (s.instCards 0 7 0).filter (fun x => x.started && x.fail.isNone) with
        | c :: cs => (List.range (s.members 0 gr).length).all (fun r => (c :: cs).any (fun x => x.rank == r)) &&
            (if k = 0 then (c :: cs).all (fun x => !x.paid && x.buf.isEmpty) && cs.any (fun x => x.terms != c.terms)
             else cs.all (fun x => x.terms == c.terms) &&
              (if k = 1 then (c :: cs).all (fun x => !x.paid && (toRead (cSrc x.raw) (cSlen c.raw) x.buf).isEmpty) else (c :: cs).all (fun x => x.paid && x.out.isEmpty)))
        | [] => false)
      | none => false)) = [true, true, true] := by decide +kernel
/-- The last clause of O38: a member on another device, cards that permit a switch, and a switch of the partition's trust set. -/
theorem test_witness_EngineEvents_switch :
    (let s := instState (fun c => c) false
     let s := match s.allCards with | [c] => s.setQueue 128 [{ c with raw := c.raw + 2 ^ 10 }] | _ => s
     let l := s.launchAt 0
     let s := s.setLaunch 0 { l with groups := [{ id := 7, stage := 0, members := some [0, 0x20000000] }] }
     let s := { s with sys := { s.sys with records := tset s.sys.records 0 (2 ^ 320 * 0x8000) } }
     let s := put s 0x8000 (1 + 2 ^ 64 * 99) 16
     match s.groupOf 0 7 with
     | some gr => (s.members 0 gr).contains none && (match (s.instCards 0 7 0).filter (·.started) with | [] => false | cs => cs.all (fun c => cSwitch c.raw)) && s.trustsSwitch (s.launchAt 0).part 99
     | none => false) = true := by decide +kernel

/-- Cores 0 and 1 of a launch; r1 holds the target of core 1's queue 2 for context 0, r2 one for context 5 there. -/
def msgState : State := vregs (regs exState [(1, 0x80002), (2, 0x50000080002)]) [(3, 77)]
/-- Core 1's queue 2 holds n messages for context 0. -/
def filled (s : State) (n : Nat) : State := s.setCoreAt 1 ((s.coreAt 1).setQueue 2 (List.replicate n ⟨0, 5, false⟩))
/-- Core 1 has a desk of context 0. -/
def settled (s : State) : State := s.setDeskAt 1 0 { s.deskAt 0 0 with wait := none }
/-- O39, MessageSend: each state of the guard slot; MSG.nb behind an earlier message, placed, full and refused; a desk that waits already. -/
theorem test_witness_MessageSend :
    (let s := settled msgState
     let held := after (.msg 8 3 1) (on s (fun d => { d with k := d.k.set 0 .pending }))
     let takes (s : State) (a : GReg) : Bool := okAnd (msgTake 3 a [] s) (fun x => fine (s.targetOk s.d x.1))
     issues s && takes s 1 && takes s 2 && !s.waiting (s.ownerOf s.core s.desk) && fine s.released && fine (s.pastFences [.s]) && fine (s.d.limG 4) && okAnd (msgTake 3 1 [4] s) (fun x => fine (s.targetOk s.d x.1) && targetDevice x.1 == s.device) &&
     ([.yes, .no, .pending] : List KSlot).all (fun k => (on s (fun d => { d with k := d.k.set 0 k })).d.slot 8 == k) &&
     issues held && takes held 1 && held.sys.net.any (·.ahead (held.ownerOf held.core held.desk) 0x80002) && !s.sys.net.any (·.ahead (s.ownerOf s.core s.desk) 0x80002) &&
     (s.arrive 0x80002 ⟨0, 77, false⟩).1 == .taken && ((filled s 16).arrive 0x80002 ⟨0, 77, false⟩).1 == .full && (s.arrive 0x50000080002 ⟨5, 77, false⟩).1 == .refused) = true ∧
    (let s := after (.msg 0 3 1) (settled msgState); issues s && fine (msgTake 3 1 [] s) && s.waiting (s.ownerOf s.core s.desk)) = true := by decide +kernel
/-- O39, MessageReceipt: queues of 15 and 16; a context that is not there; a message bound false, one that is placed with and without a desk that waits, one that is held back and one refused; the watchdog; receipt behind another's message and of none. -/
theorem test_witness_MessageReceipt :
    (([15, 16] : List Nat).all (fun n => let s := filled (settled msgState) n
      (s.coreAt (targetCore 0x80002)).resident 0 && (s.coreAt (targetCore 0x80002)).mail.isEmpty && ((s.coreAt 1).queue (targetQueue 0x80002)).length == n && !(s.coreAt 1).resident 5 && s.sys.away.isEmpty)) = true ∧
    (let sent (a : GReg) : State := after (.msg 0 3 a) (settled msgState)
     ([(sent 1, .taken), (filled (sent 1) 16, .full), (sent 2, .refused)] : List (State × Fate)).all (fun y => match y.1.sys.net with
       | [x] => targetDevice x.target == y.1.device && x.bind == .yes && x.waits.isSome && (y.1.arrive x.target x.msg).1 == y.2 && (y.1.deskAt 0 0).wait == some (.msg x.target) &&
           (y.2 != .taken || (let u := (y.1.arrive x.target x.msg).2
             okAnd (({ u with sys := { u.sys with net := [] }, core := x.owner.core, desk := x.owner.desk } : State).d.popG 1) (fun z => fine (z.d.popV 3))))
       | _ => false)) = true ∧
    (([.no, .yes] : List Bind).all (fun b =>
      let s := after (.msg 8 3 1) (on (settled msgState) (fun d => { d with k := d.k.set 0 .pending }))
      let s := { s with sys := { s.sys with net := s.sys.net.map (fun (x : NetMsg) => { x with bind := b }) } }
      match s.sys.net with
      | [x] => targetDevice x.target == s.device && x.bind == b && x.waits.isNone && (s.arrive x.target x.msg).1 == .taken
      | _ => false)) = true ∧
    (let s := msgState
     let t := s.setC (s.c.setQueue 1 [⟨9, 1, false⟩, ⟨0, 2, true⟩, ⟨0, 3, false⟩])
     issues s && fine (s.d.limV 3) && fine (s.d.roomV 3) && fine (s.d.limG 3) && fine (s.d.roomG 3) && (s.c.queue 1).all (fun y => y.ctx != s.d.ctxid) &&
     issues t && fine (t.d.limV 3) && (match t.c.queue 1 with | y :: m :: _ => y.ctx != t.d.ctxid && m.ctx == t.d.ctxid | _ => false)) = true ∧
    (let c := ((launched w0).setDeskAt 0 1 ((launched w0).deskAt 0 0)).c
     (c.at 1).occ && (c.at 1).launch == (c.at 0).launch && (c.at 0).launch.isSome) = true := by decide +kernel

/-- A launch record at 0x9000 with its stage entry at 0xB000 and its image at 0xA000, and a launch queue 3 of the partition at 0x10000; r1 holds the record's address. -/
def recState : State :=
  let s := regs (launched w0) [(1, 0x9000), (2, 3), (3, 16), (4, 1), (5, 15), (6, 2)]
  let s := put s 0x9000 (2 ^ 16 + 0xA000 * 2 ^ 64 + 0xB000 * 2 ^ 256 + 0xB100 * 2 ^ 448) 256
  let s := put s 0xA000 (0x4D49584B + 2 ^ 32 + 2 ^ 64) 64
  let s := put s 0xA040 (2 ^ 128 + 2 ^ 136 + 2 ^ 144) 128
  let s := put s 0xB000 (2 ^ 16 + 2 ^ 32 + 2 ^ 64 + 2 ^ 96) 64
  let s := s.setLaunch 0 { s.launchAt 0 with foots := [⟨0, 0x100000, true, false⟩] }
  s.setPart 0 { s.partAt 0 with queues := [(3, { ring := 0x10000, log2 := 1, hostfed := false, tail := 0x5000, head := 0x5008 })] }
/-- O40, TaskOps: SHARE; LAUNCH into a queue with room, into a full one, and of number 16; SPAWN with room and behind 64 children; ESIGNAL of 0, of 1 with 15, and of 2. -/
theorem test_witness_TaskResult :
    (let s := recState
     let takes (s : State) : Bool := okAnd (s.d.take 0 [1] [7] 1) (fun t => fine (t.d.roomG 7) && okAnd (s.takeRecord (t.x 0)) (fun x => x.1.d.launch == some 0))
     issues s && fine (s.d.pairOk 8 2) && fine (s.d.limsG [8, 9]) && takes s && decide ((s.childrenOf 0).length < 64) &&
     (let s := (List.range 64).foldl (fun (s : State) i => s.setLaunch (1 + i) { status := .running, parent := some 0 }) s; takes s && decide (64 ≤ (s.childrenOf 0).length)) &&
     okAnd (s.d.take 0 [1, 2] [7] 2) (fun t => fine (t.d.roomG 7) && decide ((t.x 1).toNat ≤ 15) && ([(s, false), (put s 0x5000 2 8, true)] : List (State × Bool)).all (fun (s, full) => let s0 := s.loadQueues s.d.part
       match tget? (s0.partAt s0.d.part).queues (t.x 1).toNat with
       | some q => !q.hostfed && okAnd (s0.takeRecord (t.x 0)) (fun x => okAnd (x.1.hwWord x.1.d.part q.tail) (fun y => okAnd (y.1.hwWord x.1.d.part q.head) (fun z => full == decide (2 ^ q.log2 ≤ (y.2 - z.2).toNat))))
       | none => false)) &&
     okAnd (s.d.take 0 [1, 3] [7] 2) (fun t => (t.x 1).toNat == 16) && okAnd (s.d.take 0 [0, 0] [] 2) (fun t => t.x 0 == 0 && t.x 1 == 0) && okAnd (s.d.take 0 [4, 5] [] 2) (fun t => t.x 0 == 1 && (t.x 1).toNat == 15) &&
     okAnd (s.d.take 0 [6, 5] [] 2) (fun t => t.x 0 == 2) && s.d.launch == some 0) = true := by decide +kernel
/-- A launch of two stages whose second has a queue of two items at 0x9000; the desk's stage, and the items that the queue has taken. -/
def stageState (k : BitVec 4) (n : Word) : State :=
  let s := on (regs (launched w0) [(1, 0x40)]) (fun d => { d with stage := k })
  s.setLaunch 0 { s.launchAt 0 with stages := [{}, { qbase := 0x9000, qlog2 := 1, qtail := n }] }
/-- O40, StageQueues: a queue of two items that is empty, holds one and is full; SQLEN of both queues, and of stages that have none. -/
theorem test_witness_StageQueues :
    (([0, 1, 2] : List Nat).all (fun n => ([false, true] : List Bool).all (fun out =>
      let s := stageState (if out then 0 else 1) (BitVec.ofNat 64 n)
      issues s && okAnd (s.d.take 0 [1] [7] 1) (fun t => fine (t.d.roomG 7) && (t.x 0).toNat % 64 == 0 && s.d.inside (t.x 0).toNat 64) && okAnd (s.stageQueue out) (fun x =>
        let st := x.2.2
        (st.qtail - st.qhead).toNat == n && (if out then fine s.released && okAnd (s.access (s.who s.d) (st.qbase + BitVec.ofNat 64 (64 * (st.qtail.toNat % 2 ^ st.qlog2))) 64 accWrite) (fun y => fine (y.1.homeClear y.2))
         else okAnd (s.access (s.who s.d) (st.qbase + BitVec.ofNat 64 (64 * (st.qhead.toNat % 2 ^ st.qlog2))) 64 accRead) (fun y => fine (y.1.homeClear y.2) &&
           okAnd (y.1.readMac y.1.d.part (st.qbase + BitVec.ofNat 64 (64 * (st.qhead.toNat % 2 ^ st.qlog2))) y.2 false accRead) (fun _ => true))))))) = true ∧
    (let s := stageState 1 1
     fine (s.d.limG 7) && fine (s.d.roomG 7) && fine (s.stageQueue false) && decide (s.myStages.length ≤ s.d.stage.toNat + 1) && (stageState 0 1).d.stage == 0 && w0.d.launch.isNone) = true := by decide +kernel

/-- O41: a register that user mode reads and one that it may not, in both modes; every kind of number, and one that is not assigned; RTREQ and SRSEED. -/
theorem test_witness_SystemRegisters :
    ([w0, sup w0].all (fun s => issues s && fine (s.d.limG 31) && fine (s.d.limG 1) && fine (s.d.roomG 1) && !s.c.mx.srPending s.desk && okAnd (s.d.take 0 [1] [] 1) (fun _ => true))) = true ∧
    w0.d.user = true ∧ (sup w0).d.user = false ∧ (mfsForm (.mfs 0x012 1)).isSome = true ∧ (mfsForm (.mondataRead 1)).isSome = true ∧ (mtsForm (.mts 0x1DF 1)).isSome = true ∧ (mtsForm (.srseedWrite 1)).isSome = true ∧
    (sysRead.map Prod.fst).contains 0x000 = true ∧ (sysRead.map Prod.fst).contains 0x1B0 = true ∧ (sysWrite.map Prod.fst).contains 0x1B0 = true ∧ 0x1C0 + (31 : BitVec 5).setWidth 12 = (0x1DF : BitVec 12) ∧
    ¬ assigned 0x006 ∧ ¬ assigned 0x1E0 ∧ ¬ assigned 0x0FF := by
  refine ⟨by decide +kernel, by decide +kernel, by decide +kernel, rfl, rfl, rfl, rfl, by decide +kernel, by decide +kernel, by decide +kernel, by decide, ?_, ?_, ?_⟩ <;>
    · unfold assigned; decide +kernel
/-- O42: a software cause with a handler, and the three ways to go past one. -/
theorem test_witness_TrapEntry :
    let s := on w0 (fun d => { d with xvec := 0x2000 })
    s.d.user = true ∧ s.d.gen = none ∧ 0x1F0 ≤ (0x1F0 : Cause).toNat ∧ s.d.xvec ≠ 0 ∧ s.d.xstat.getLsbD 8 = false ∧ ¬ 0x1F0 ≤ (0x1EF : Cause).toNat ∧ w0.d.xvec = 0 ∧
    (on s (fun d => { d with xstat := 0x100 })).d.xstat.getLsbD 8 = true := by decide +kernel
/-- O43: a desk of a launch, one whose core's work is a launch's, and one of none. -/
theorem test_witness_DoubleTrap :
    let s := sup (launched w0); s.d.user = false ∧ s.d.gen = none ∧ s.d.launch = some 0 ∧ (s.launchAt 0).status = .running ∧
    (let u := onC (on s (fun d => { d with launch := none })) (fun c => { c with work := { c.work with launch := some 0 } }); u.d.user = false ∧ u.d.gen = none ∧ u.d.launch = none ∧ u.c.work.launch = some 0 ∧ (u.launchAt 0).status = .running) ∧
    (sup w0).d.user = false ∧ (sup w0).d.gen = none ∧ (sup w0).d.launch = none ∧ (sup w0).c.work.launch = none := by decide +kernel
/-- O44: both modes, with and without a user handler; even and odd addresses, past a short instruction and a long one; IDLE with a request and without; a report; a desk to go to. -/
theorem test_witness_TrapReturn :
    (issues w0 && okAnd (w0.d.take 0 [1] [] 1) (fun _ => true) && w0.d.user && !w0.d.xstat.getLsbD 8 && w0.d.gen.isNone && !(sup w0).d.user && (sup w0).d.gen.isNone && w0.d.rtreq == 0 &&
     (([(0x1000, 0), (0x1001, 0), (0xFFFFFFFE, 0x400)] : List (BitVec 57 × BitVec 13)).map (fun x => let s := on (sup w0) (fun d => { d with xpc := x.1, xstat := x.2 })
       (s.d.xpc.setWidth 64 + (if !s.d.xstat.getLsbD 10 then (if s.d.xstat.getLsbD 1 then 2 else 4) else 0)).toNat % 2)) == [0, 1, 0] &&
     okAnd ((sup w0).d.take 0 [1] [] 1) (fun _ => true) && (on w0 (fun d => { d with xstat := 0x100, xpc := 0x1000 })).d.xstat.getLsbD 8) = true ∧
    (let s := on w0 (fun d => { d with reports := [{ cause := 0x1C1, xval := 0, tf := none }] }); { s with core := 0, desk := 0 }.d.mayReport && s.d.reports != []) = true ∧
    (let s := (on w0 (fun d => { d with wait := some .bell })).setDeskAt 0 2 w0.d
     !((s.coreAt 0).at (s.coreAt 0).desk).ready && (s.coreAt 0).nextReady (s.coreAt 0).desk == some 2) = true := by decide +kernel
/-- The desk in supervisor mode, its kernel of one register of each file; r1 an area, r2 and r3 desks 0 and 1, r4 no control word, r5 an address; the head of an area of desk 1 at 0x20000. -/
def ctxState : State :=
  let s := on (sup (regs w0 [])) (fun d => { d with kern := { d.kern with gregs := 1, vregs := 1 } })
  let s := on s (fun d => [(1, 0x20000), (2, 1), (3, 2), (4, 0), (5, 0x1FFFFFFFFFFFFFF)].foldl (fun (d : Desk) x => d.setG x.1 x.2 false) d)
  put s 0x20000 (2 + 2 ^ 64 * s.d.kern.deskPart) 64
/-- O45: areas saved and restored, and control words that are refused; TLBINV of one page and of all; BRKPT in and out of debug. -/
theorem test_witness_SupervisorResult :
    (issues w0 && w0.d.user && ([.ctxsv 1 2, .ctxrs 1 2, .tlbinv 1 2, .roll 1, .ckpt] : List Instr).all privForm) = true ∧
    (let s := ctxState
     issues s && !s.d.user && okAnd (s.d.take 0 [1, 4] [] 2) (fun t => s.saveRefused (t.x 1) (t.x 0) && !ctlOk (t.x 1) && (t.x 1).toNat ≤ 2) &&
     okAnd (s.d.take 0 [1, 2] [] 2) (fun t => !s.saveRefused (t.x 1) (t.x 0) && okAnd ((s.setD t.d).bringToRest s.core (t.x 1)) (fun s1 => fine (s1.saveArea (s1.who s1.d) s1.core (some s1.desk) (t.x 1) (t.x 0)))) &&
     okAnd (s.d.take 0 [1, 3] [] 2) (fun t => ctlOk (t.x 1) && (t.x 0).toNat % 64 == 0 && !ctlShare (t.x 1) && (ctlDesks (t.x 1)).all (fun i => (s.c.at i).free) && fine s.released &&
       fine ((s.setD t.d).restoreArea (s.who s.d) s.core (t.x 1) (t.x 0)))) = true ∧
    (let s := ctxState
     ([4, 2, 3] : List GReg).all (fun b => okAnd (s.d.take 0 [5, b] [] 2) (fun t => decide ((t.x 1).toNat ≤ 2) && decide ((t.x 0).toNat < 2 ^ 57))) && s.heldEntries.isEmpty && (s.loadStoreRanges s.d.part).isEmpty && fine s.released &&
     fine (s.d.limG 6) && fine (s.d.roomG 6) && s.d.launch.isNone) = true ∧
    (([false, true] : List Bool).map (fun dbg => let s := (launched w0).setLaunch 0 { (launched w0).launchAt 0 with debug := dbg }
     issues s && s.d.launch == some 0 && (s.launchAt 0).stop.isNone && (s.launchAt 0).debug == dbg &&
     ((s.setLaunch 0 { s.launchAt 0 with stop := some ⟨2, 0, [(0, false)], BitVec.allOnes 10, 0, 1, none, false⟩ }).launchAt 0).stop.isSome)) = [true, true] := by decide +kernel
/-- A launch under debug whose stage stands at the start of a superstep. -/
def debugState : State :=
  let s := launched w0
  s.setLaunch 0 { s.launchAt 0 with debug := true, stages := [{ begun := true, fresh := true, cores := [0], order := [0], kern := { scratch := 64 } }] }
/-- O46: a session; a stop asked for at a bell not yet rung and at one that is, at the start of a superstep, and one taken before; a checkpoint asked for; a span that is written; a replayed desk at its count; a partition with a period; an
event, and a monitor with and without samples. -/
theorem test_witness_DebugEvents :
    (let s := debugState
     let y := s.launchAt 0
     let asks (s : State) (ks : List (Nat × Bool)) (a : Option (Nat × Word)) : State := s.setLaunch 0 { s.launchAt 0 with stop := some ⟨2, 0, ks, BitVec.allOnes 10, 0, 1, a, false⟩ }
     let t := asks s [(0, false), (0, true)] none
     let u := asks (onC (s.setLaunch 0 { y with stages := [{ begun := true, fresh := false, cores := [0], order := [0] }] }) (fun c => { c with work := { c.work with launch := some 0, rung := true } })) [(0, false)] none
     y.status == .running && y.debug && y.started && y.stop.isNone && (s.stageOf 0 0).begun && !(s.stageOf 0 0).ended && (t.launchAt 0).debug && (t.launchAt 0).started && (t.launchAt 0).stop.isSome &&
     !t.atPoint 0 0 false && t.atPoint 0 0 true && u.atPoint 0 0 false && ((asks s [(0, true)] (some (0, 7))).launchAt 0).stop.isSome) = true ∧
    (let s := debugState.setPart 0 { debugState.partAt 0 with ckpts := 1, ckarea := 0x40000 }
     let st := s.stageOf 0 0
     let p := s.partAt 0
     s.live && !s.stopped 0 0 && st.begun && !st.ended && s.ckDue 0 0 &&
     (let s1 := s.ckWrite 0 (p.ckarea + 64) (natLe st.sscnt.toNat 8 ++ natLe 0 8 ++ natLe 1 8 ++ natLe st.shares.toNat 8 ++ natLe st.kern.ckPart 8 ++ List.replicate 24 0) false
      fine ((s1.ckCores 0 0 0 (p.ckarea + 128) [(0, 0)]).hwRead 0 (s.launchAt 0).info.cntbase 32768)) &&
     fine (s.span (s.supWho 0) 0x40000 0x40000 accWrite 2 64)) = true ∧
    (let s := on w0 (fun d => { d with stepcnt := 7, icnt := 7 }); (s.deskAt 0 0).stepDone) = true ∧
    (let s := { w0 with parts := [(0, { w0.partAt 0 with rcctl := 10 })] }
     match s.parts with | [(p, x)] => decide (p < 2 ^ 14) && x.rcctl != 0 | _ => false) = true ∧
    ([(0, 1, [0])] : List (Nat × Nat × List Nat)).find? (fun e => e.1 == (0 : PartId).toNat) = some (0, 1, [0]) ∧
    (([0, 5] : List Nat).all (fun n =>
      let s := w0.setPart 0 { w0.partAt 0 with mons := (w0.partAt 0).mons.set 3 { ctl := 1, count := BitVec.ofNat 64 n } }
      let m := (s.partAt 0).mons[3]
      m.ctl.getLsbD 0 && !m.ctl.getLsbD 4 && m.count != BitVec.allOnes 64 && m.count.toNat == n)) = true := by decide +kernel
/-- O46: a monitor of a level that has not yet sampled in its window, whichever that is. -/
theorem test_witness_DebugEvents_level :
    let s := w0.setPart 0 { w0.partAt 0 with mons := (w0.partAt 0).mons.set 3 { ctl := 0xFF0B, last := Config.clkAt w0.tick / 2 ^ 16 + 1 } }
    let m := (s.partAt 0).mons[(3 : BitVec 5).toNat]
    (∀ e ∈ s.mem.events, e.1 ≠ (0 : PartId).toNat) ∧ m.ctl.getLsbD 0 = true ∧ 5 ≤ (m.ctl.extractLsb' 1 4).toNat ∧ m.ctl.extractLsb' 8 8 = 0xFF ∧ m.last ≠ Config.clkAt s.tick / 2 ^ 16 := by
  have h : w0.mem.events = [] := by decide +kernel
  refine ⟨fun e he => absurd (h ▸ he : e ∈ ([] : List (Nat × Nat × List Nat))) (by simp), ?_⟩
  have hm : ((w0.setPart 0 { w0.partAt 0 with mons := (w0.partAt 0).mons.set 3 { ctl := 0xFF0B, last := Config.clkAt w0.tick / 2 ^ 16 + 1 } }).partAt 0).mons[(3 : BitVec 5).toNat]
    = { ctl := 0xFF0B, last := Config.clkAt w0.tick / 2 ^ 16 + 1 } := rfl
  rw [hm]
  exact ⟨by decide, by decide, by decide, Nat.succ_ne_self _⟩

/-- A record published in queue 3 of the partition: a good one, or zeros. -/
def ringState (good : Bool) : State :=
  let s := put recState 0x5000 1 8
  if good then put s 0x10000 (2 ^ 16 + 0xA000 * 2 ^ 64 + 0xB000 * 2 ^ 256 + 0xB100 * 2 ^ 448) 256 else s
/-- A child of launch 1 that is eligible, whose stage asks for no core: which cores are a partition's is left open. -/
def childState : State := w0.setLaunch 0 { status := .running, parent := some 1, eligAt := some 0, stages := [{ min := 0 }] }
/-- The one candidate is the best, whichever way heads and children are taken. -/
theorem childState_best : (([0] : List Nat).foldl (fun s l => State.refresh s l) childState).best 0 = some 0 := by
  unfold State.best
  cases Config.choice _ <;> decide +kernel
theorem w0_best : (([] : List Nat).foldl (fun s l => State.refresh s l) w0).best 0 = none := by
  unfold State.best
  cases Config.choice _ <;> decide +kernel
/-- The partition of the ring belongs to TDI 5, which is in a state. -/
def tdiState (x : TdiState) : State :=
  let s := ringState true
  { s with sys := { s.sys with tdis := [(5, x)], records := [(0, 1 <<< 49 ||| 5 <<< 192)] } }
/-- A child whose stage asks for more cores than any list has. -/
def hungry (n : Nat) : State := childState.setLaunch 0 { childState.launchAt 0 with stages := [{ min := n + 1 }] }
/-- O47: a child for which cores must be claimed. -/
theorem test_witness_LaunchEvents_claim : ∀ cs : List CoreId, let s := hungry cs.length
    s.live = true ∧ s.tdiOf 0 = none ∧ (s.partAt 0).pre = none ∧ s.waitingHeads 0 = [] ∧ s.waitingChildren 0 = [0] ∧ (s.refresh 0).best 0 = some 0 ∧ ((s.refresh 0).launchAt 0).queue = none ∧
    infoOk ((s.refresh 0).launchAt 0) ⟨0, 0, 0, [], 0, [], true, 0⟩ = true ∧ giveMin ((s.refresh 0).launchAt 0).stages cs = none := by
  intro cs
  refine ⟨rfl, (by decide +kernel : childState.tdiOf 0 = none), rfl, rfl, rfl, ?_, rfl, rfl, ?_⟩
  · unfold State.best
    cases Config.choice _ <;> rfl
  · show giveMin [{ min := cs.length + 1 }] cs = none
    simp [giveMin]
/-- O47: a record that is accepted and one that is not; nothing to start, and a child that starts; a span, an end, a held trap, a limit and a pre-emption; a TDI in RUN and in the states before it. -/
theorem test_witness_LaunchEvents :
    (([false, true] : List Bool).all (fun good =>
      let s := ringState good
      let s0 := s.loadQueues 0
      s0.live && (match tget? (s0.partAt 0).queues 3 with
        | some x => x.cur.isNone && okAnd (s0.hwWord 0 x.tail) (fun y => okAnd (y.1.hwWord 0 x.head) (fun z => decide (z.2.toNat < y.2.toNat) &&
            okAnd (z.1.hwRead 0 (x.ring + BitVec.ofNat 64 (256 * (z.2.toNat % 2 ^ x.log2))) 256) (fun v => let u := v.1.counterAdd (v.1.hwWho 0) x.head 1
              (u.tdiOf 0).isNone && fine (u.checkRecord 0 (x.ring + BitVec.ofNat 64 (256 * (z.2.toNat % 2 ^ x.log2))) v.2) == good)))
        | none => false))) = true ∧
    (childState.live && (childState.tdiOf 0).isNone && childState.waitingHeads 0 == [] && w0.waitingHeads 0 == [] && w0.waitingChildren 0 == [] && (childState.partAt 0).pre.isNone && (w0.partAt 0).pre.isNone && w0.live &&
      (w0.tdiOf 0).isNone && (childState.launchAt 0).queue.isNone && infoOk (childState.launchAt 0) ⟨0, 0, 0, [], 0, [], true, 0⟩ && (childState.refresh 0).waitingChildren 0 == [0]) = true ∧
    (∀ cs, (giveMin (childState.launchAt 0).stages cs).isSome = true) ∧
    (let s := (launched w0).setLaunch 0 { (launched w0).launchAt 0 with hang := 9, spanReady := false, stages := [{ begun := true }] }
     let y := s.launchAt 0
     s.live && y.status == .running && y.started && !y.spanReady && decide (y.spandev.toNat ≤ 1) && !s.stopped 0 0 && y.hang != 0 && (s.stageOf 0 0).begun && !(s.stageOf 0 0).exch && !(s.stageOf 0 0).ended) = true ∧
    (let s := (launched w0).setLaunch 0 { (launched w0).launchAt 0 with stages := [{ ended := true }] }
     s.live && (s.launchAt 0).status == .running && (s.launchAt 0).started && (s.launchAt 0).stages.all (·.ended) && (s.launchAt 0).stages != [] && !s.stopDue 0 0 true && (s.childrenOf 0).isEmpty && s.allCards.isEmpty && s.sys.nm.isEmpty) = true ∧
    (let s := on (sup (launched w0)) (fun d => { d with xcause := 0x40, xval := 7, xpc := 0x1000 })
     match s.trapped 0 0 (fun d => d.xcause == 0x40 && d.xval == 7 && d.xpc.setWidth 64 == 0x1000) with | some d => !s.rerunnable 0 d | none => false) = true ∧
    (let s := childState.setPart 0 { childState.partAt 0 with pre := some (0, [5]) }
     (s.partAt (s.launchAt 0).part).pre = some (0, [5])) ∧
    (let s := (launched w0).setLaunch 0 { (launched w0).launchAt 0 with span := 9, spandev := 2 }
     s.live && (s.launchAt 0).status == .running && (s.launchAt 0).span != 0 && decide (1 < (s.launchAt 0).spandev.toNat) && decide (2 ^ 57 ≤ (0x200000000000000 : Word).toNat)) = true ∧
    (([.unlocked, .locked, .run] : List TdiState).all (fun x => let s := tdiState x; s.live && s.tdiOf 0 == some 5 && s.tdi 5 == x)) = true := by
  refine ⟨by decide +kernel, by decide +kernel, ?_, by decide +kernel, by decide +kernel, by decide +kernel, by decide +kernel, by decide +kernel, by decide +kernel⟩
  intro cs
  have h : (childState.launchAt 0).stages = [{ min := 0 }] := by decide +kernel
  simp [h, giveMin]
/-- Core 0 belongs to stage 0 of launch 0, whose stage and its own work are given; its desks are free. -/
def coreState (st : Stage) (f : Work → Work) : State :=
  let s := (launched w0).setLaunch 0 { (launched w0).launchAt 0 with stages := [st] }
  onC (s.setDeskAt 0 0 { s.deskAt 0 0 with occ := false }) (fun c => { c with work := f { c.work with launch := some 0 } })
/-- O48: a slot that starts, without a dictionary and with one; an item; a bell; an exchange that ends; a core vacated without desks and with one; a resume entry; a share that runs again. -/
theorem test_witness_ShareEvents :
    (([(0, 0), (0x1000, 2)] : List (Nat × Nat)).all (fun dict => let s := coreState { begun := true, kern := { dictAt := dict } } (fun w => { w with todo := [1023] })
     let k := s.coreAt 0
     k.work.launch == some 0 && k.work.todo == [1023] && s.live && !s.stopped 0 0 && (s.stageOf 0 0).begun && !(s.stageOf 0 0).exch && k.work.slot.isNone && s.coreQuiet 0 && s.ctxOk 0 ⟨0, 1, 2, 0xFFFF⟩ (s.stageOf 0 0).kern.desks &&
       !s.ckDue 0 0 && !s.stopDue 0 0 true && decide (0 < (s.stageOf 0 0).kern.desks) && fine (s.imageTable (s.launchAt 0).part (s.launchAt 0).image dict.1 dict.2 4))) = true ∧
    (let s := (coreState {} (fun w => { w with stage := 1 })).setLaunch 0 { (launched w0).launchAt 0 with stages := [{}, { qtail := 1 }] }
     (s.coreAt 0).work.launch == some 0 && (s.coreAt 0).work.stage != 0 && (s.stageOf 0 (s.coreAt 0).work.stage).items != 0) = true ∧
    (let s := coreState { begun := true, cores := [0] } (fun w => { w with rung := true })
     let st := s.stageOf 0 0
     s.live && !s.stopped 0 0 && !st.ended && st.begun && !st.exch && st.resume == [] && !s.stopDue 0 0 false && !s.ckDue 0 0 && st.cores != [] && st.cores.all (s.hasRung 0) &&
       (List.range st.cores.length).all (fun i => !s.ctxInUse 0 (0xFFFF + BitVec.ofNat 16 i)) &&
       (let s := coreState { begun := true, cores := [0], order := [0], farNext := (0, 1) } id; (s.stageOf 0 0).farNext != (s.stageOf 0 0).far && (s.stageOf 0 0).cores.contains 0)) = true ∧
    (let s := coreState { begun := true, exch := true, cores := [0], endReq := true } id
     let st := s.stageOf 0 0
     s.live && !s.stopped 0 0 && st.exch && st.cores.all (fun c => (s.coreAt c).mx.stuck && (s.coreAt c).desks.toList.all (fun d => !d.occ)) && st.endReq) = true ∧
    (([false, true] : List Bool).all (fun has =>
      let s := coreState { begun := true, cores := [0], urgent := [0], kern := w0.d.kern } (fun w => { w with slot := some 3 })
      let s := if has then s.setDeskAt 0 0 { s.deskAt 0 0 with occ := true } else s
      let k := s.coreAt 0
      k.work.launch == some 0 && s.live && (s.stageOf 0 0).urgent.contains 0 && !s.stopped 0 0 && !(s.stageOf 0 0).exch && s.savePoint 0 && (k.shareDesks != []) == has && k.key.adds.isEmpty &&
      k.shareDesks.all (fun i => (k.at i).user) && (!has || okAnd (s.bringToRest 0 k.shareCtl) (fun s1 =>
        fine (s1.saveArea (s.supWho (s.launchAt 0).part) 0 none k.shareCtl 0x20000))))) = true ∧
    (([none, some { slot := 3, area := none }] : List (Option Resume)).all (fun r => let s := coreState { begun := true, cores := [0], resume := [{ slot := 3, area := none }] } (fun w => { w with next := r })
     let k := s.coreAt 0
     k.work.launch == some 0 && (k.work.next == some { slot := 3, area := none } || (s.stageOf 0 k.work.stage).resume[(s.readyCores (s.stageOf 0 k.work.stage)).idxOf 0]? == some { slot := 3, area := none }) && !k.work.replay && s.live && !s.stopped 0 0 && (s.stageOf 0 0).begun && !(s.stageOf 0 0).exch && k.work.slot.isNone && k.work.todo == [] && !k.work.byBell && !(s.stageOf 0 k.work.stage).urgent.contains 0 &&
       s.coreQuiet 0)) = true := by decide +kernel
/-- A launch under debug with a checkpoint of one core at 0x40000 + 64, and core 0 at the end of an earlier replay. -/
def replayState : State :=
  let s := coreState { begun := true, kern := { scratch := 64 } } (fun w => { w with replay := true })
  let s := s.setLaunch 0 { s.launchAt 0 with debug := true }
  let s := s.setPart 0 { s.partAt 0 with ckarea := 0x40000 }
  put s 0x40040 (2 ^ 128 + 2 ^ 192 + (s.stageOf 0 0).kern.ckPart * 2 ^ 256) 64
/-- O48: a share of the checkpoint runs again, whichever slot the run-time takes of the one that there is. -/
theorem test_witness_ShareEvents_replay : (∃ t, replayState.startReplay 0 0 ⟨0, 1, 2, 3⟩ = some t) ∧ (replayState.coreAt 0).work.todo = [] ∧
    replayState.parts.findSome? (fun p => if replayState.replayCore (BitVec.ofNat 14 p.1) 0 then replayState.debugLaunch (BitVec.ofNat 14 p.1) else none) = some 0 := by
  refine ⟨?_, by decide +kernel, ?_⟩
  · have h : okAnd (replayState.areaClean (replayState.supWho (replayState.launchAt 0).part) ((replayState.partAt (replayState.launchAt 0).part).ckarea + 64) 1) (fun y =>
        fldN y.2 8 8 == 0 && fldN y.2 16 8 == 1 && fldN y.2 24 8 == 1 && fldN y.2 32 8 == (y.1.stageOf 0 0).kern.ckPart && (y.1.stageOf 0 0).far.1 == 0 && y.1.ctxOk 0 ⟨0, 1, 2, 3⟩ (y.1.stageOf 0 0).kern.desks &&
        okAnd (y.1.areaClean (replayState.supWho (replayState.launchAt 0).part) ((replayState.partAt (replayState.launchAt 0).part).ckarea + 64 + 64) 9) (fun z =>
          fine ((z.1.setCoreAt 0 (z.1.coreAt 0).vacate).areaLoad (replayState.supWho (replayState.launchAt 0).part) ((replayState.partAt (replayState.launchAt 0).part).ckarea + 64 + 64 + 576) 0
            (replayState.launchAt 0).info.base.toNat ((y.1.stageOf 0 0).kern.scratch / 64)))) = true := by decide +kernel
    have hn : (replayState.launchAt 0).stages.length = 1 := by decide +kernel
    obtain ⟨⟨u, b⟩, hu, hb⟩ := okAnd_sound h
    simp only [Bool.and_eq_true, beq_iff_eq] at hb
    obtain ⟨⟨⟨⟨⟨⟨h1, h2⟩, h3⟩, h4⟩, h5⟩, h6⟩, h7⟩ := hb
    obtain ⟨⟨v, e⟩, hv, he⟩ := okAnd_sound h7
    obtain ⟨w, hw, -⟩ := okAnd_sound he
    unfold State.startReplay
    simp only [hu]
    simp at hv hw h6
    simp [h1, h2, h3, h4, h5, h6, hn, Nat.mod_one, hv, hw]
  · have h : (replayState.launches.filter (fun y => y.2.part == 0 && y.2.debug && y.2.status == .running && y.2.started)).map (·.1) = [0] := by decide +kernel
    have hd : replayState.debugLaunch 0 = some 0 := by
      obtain ⟨x, hx, h0⟩ := List.map_eq_singleton_iff.mp h
      unfold State.debugLaunch
      simp only [hx]
      simp [Nat.mod_one, h0]
    have hp : replayState.parts.map (fun p => (BitVec.ofNat 14 p.1 : PartId)) = [0] := by decide +kernel
    have hc : replayState.replayCore 0 0 = true := by decide +kernel
    show replayState.parts.findSome? ((fun p => if replayState.replayCore p 0 then replayState.debugLaunch p else none) ∘ (fun p => (BitVec.ofNat 14 p.1 : PartId))) = some 0
    rw [← List.findSome?_map, hp]
    simp only [List.findSome?, hc, if_true, hd]

/-- A share whose desk met a hardware error and may run again. -/
def errState : State :=
  let s := coreState { begun := true } (fun w => { w with slot := some 3 })
  s.setDeskAt 0 0 { s.deskAt 0 0 with occ := true, user := false, xcause := 0x1C1, kern := { (s.deskAt 0 0).kern with restart := true } }
/-- The last clause of O48: some core takes the share. -/
theorem test_witness_ShareEvents_rerun :
    (let s := errState
     let k := s.coreAt 0
     k.work.launch == some 0 && k.work.slot == some 3 && !k.work.replay && (s.trapped 0 0 (s.rerunnable 0)).isSome && s.live && !s.stopped 0 0 && k.desks.toList.all (fun d => d.sq.isEmpty) && k.key.adds.isEmpty &&
       s.ctxOk 0 ⟨8, 9, 10, 11⟩ (s.stageOf 0 0).kern.desks && !s.spareUsed 0 && !(s.coreAt 0).lost) = true ∧ ∃ c, errState.rerunCore 0 0 = some c := by
  refine ⟨by decide +kernel, ?_⟩
  have h : (errState.spareUsed 0 || (errState.coreAt 0).lost) = false := by decide +kernel
  have hl (xs : List CoreId) (k : Nat) : ∃ c, (xs ++ [0])[k % (xs ++ [0]).length]? = some c :=
    ⟨_, List.getElem?_eq_getElem (Nat.mod_lt _ (by simp))⟩
  simp only [State.rerunCore, h, Bool.false_eq_true, if_false]
  exact hl _ _

/-- O49: units struck where power is on: a scratchpad, a line without a copy, a set of tags with a dirty line, a desk, a running matrix command, a started card of a copy and of a collective, a near-memory command that runs; a row that failed twice. -/
theorem test_witness_ErrorEvents :
    (!w0.sys.off && w0.mem.inMemory 0x9000 && (w0.mem.tag (0x9000 / 64)).isNone && (w0.deskAt 0 0).occ && decide ((4 : BitVec 4).toNat ≤ 4)) = true ∧
    (let t : L2Tag := { line := 0x9000 / 64, dirty := true, entry := none, version := 1, domain := 0, part := some 0, rslot := 0, due := false }
     let s := { launched w0 with mem := { w0.mem with banks := [(w0.mem.bankNo t.line, { tags := [t] })] } }
     let bank := tget s.mem.banks (s.mem.bankNo t.line) {}
     !s.sys.off && s.mem.inMemory 0x9000 && bank.tags == [t] && t.dirty && bank.tags.all (fun x => s.mem.bankNo x.line == s.mem.bankNo t.line) && s.runningOf 0 == [0]) = true ∧
    (let s := mmStarted
     !s.sys.off && (match (s.coreAt 0).mx.first 0 with | some (_, x) => x.st == .running && x.isMm | none => false)) = true ∧
    (let s := (after (.cpy 0 1) cardState).updCard 0 (fun c => some { c with started := true })
     !s.sys.off && (match (s.queueOf (engNo (.copy 0 0)))[0]? with | some c => c.started && c.kind != 4 | none => false)) = true ∧
    (let s := instState (fun c => c) true
     !s.sys.off && (match (s.queueOf (engNo (.coll 0)))[0]? with | some c => c.started && c.kind == 4 | none => false)) = true ∧
    (let s := nmSays (.running 1 [] [])
     !s.sys.off && (match s.nmHead 0 0 0 with | some x => x.st == .running 1 [] [] && s.sys.nm.all (fun y => y.seq != x.seq || y == x) | none => false)) = true ∧
    (let s := { w0 with sys := { w0.sys with counts := [(.row 1 2, 5), (.row 1 2, 5)] } }; !s.sys.off && s.sys.lasting (.row 1 2)) = true := by decide +kernel
/-- O50: an image that runs; a link up, at its third failure of a group and down; an update begun, under way and met by another. -/
theorem test_witness_HostEvents :
    (w0.horuf && w0.sys.running.isSome && (w0.measurement 0).isNone && (w0.measurement 2).isSome && w0.sys.update.isNone && decide (36 ≤ (36 : BitVec 6).toNat)) = true ∧
    (let s := { w0 with sys := { w0.sys with links := [(1, { up := true, fails := [(7, 3)] }), (2, { up := false })] } }
     s.horuf && (s.link 0).up && (s.link 0).fails.all (fun f => decide (f.2 < 3)) && (s.link 1).up && (s.link 1).fails.any (fun f => decide (3 ≤ f.2)) && !(s.link 2).up) = true ∧
    ({ w0 with sys := { w0.sys with update := some (true, 7) } } : State).sys.update = some (true, 7) ∧ ((true, 7) : Bool × Word) ≠ (false, 7) := by decide +kernel
/-- O50: a ring with room that the host feeds, in a plain frame and in one of confidential lines; a line of either; an address outside memory; records that fit and that do not; an interface in each state; a confidential partition. -/
theorem test_witness_HostAccess :
    (w0.horuf && !w0.msBusy ⟨0x9000, 64, 0, false, false, false⟩ && ({ w0.mem with badMac := [0x9000 / 64] } : MemSys).macBad false (0x9000 / 64) none && !w0.mem.inMemory 0xFFFFFFFFFF000 && !(w0.partAt 0).conf && ({ w0.partAt 0 with conf := true } : Partition).conf && w0.mem.inMemory 0x9000 && !w0.mem.secret 0x9000 && !w0.mem.macBad false (0x9000 / 64) none && ({ w0.mem with keyOf := [(0x9000 / 64, 1)] } : MemSys).secret 0x9000 && (w0.tdiOf 0).isNone &&
      (recPart (1 <<< 32)) == 0 && (recTdi (1 <<< 32)).isNone && (recWays (1 <<< 32)).all (fun n => decide (n ≤ 8)) && recDomain (1 <<< 32) == 1 && w0.sys.records.isEmpty && !w0.recordFits 0 && w0.tdi 5 == .unlocked) = true ∧
    (let s := put recState 0x5000 0 8
     let s := s.setPart 0 { s.partAt 0 with queues := [(3, { ring := 0x10000, log2 := 1, hostfed := true, tail := 0x5000, head := 0x5008 })] }
     ([s, { s with mem := { s.mem with keyOf := [(0x10000 / 64, 1)] } }] : List State).map (fun s => let s0 := s.loadQueues 0; match tget? (s0.partAt 0).queues 3 with
       | some x => s.horuf && x.hostfed && fine (s0.hwWord 0 x.tail) && okAnd (s0.publish 0 x (natLe 7 256)) (fun y => y.2 != BitVec.allOnes 64) && !s0.hostRefused 0 x.tail 8 && !s0.hostRefused 0 x.ring 256
       | none => false)) = [true, false] ∧
    (([.locked, .run, .error] : List TdiState).all (fun x => let s := { w0 with sys := { w0.sys with tdis := [(5, x)], records := [(0, 1 <<< 49 ||| 5 <<< 192)] } }; s.horuf && s.tdi 5 == x && s.tdiOf (recPart 0) == some 5)) = true := by decide +kernel

/-- A core's turn. -/
def turned (s : State) : State := { s with turns := [.issue 0] }
/-- What a path does with a word: 0 runs it, 1 goes on past it, 2 waits. -/
def pathNo (d : Desk) (c : Code) : Nat := match d.pathAct c with | .run _ => 0 | .pass _ => 1 | .hold => 2
/-- O51: words that decode and that do not, fetched and standing ready, on a desk that may issue, and on a path that runs one, passes one and waits at one; an event; a module without power with a move, with an event that it serves and with one that it does not. -/
theorem test_witness_StepRunsDecoded :
    (([(32, 0x00907303), (32, 0x00128375), (16, 0)] : List (Nat × Nat)).map (fun x => ([none, some false, some true] : List (Option Bool)).map (fun behind =>
      let s := State.reset.withFetchWord x.1 x.2
      let s := match behind with | some e => { on s (fun d => d.openGen (.behind 0 e)) with turns := [.issue 0] } | none => s
      let u := turnOf s 0 []
      let v := u.setD { u.d with len := 4, dict := false, xword := 0 }
      if s.turns == [.issue 0] && !s.sys.off && ((s.coreAt 0).at (s.coreAt 0).desk).ready && !(s.coreAt 0).ganged && !u.d.mayReport && !u.d.stepDone && u.d.repAt.isNone && u.d.latch.isNone && u.d.gang == .none
      then match v.fetchCode v.d v.d.pc with
        | .ok y => if (decodeCode y.2).isSome == (x.1 == 32) && issues y.1 == behind.isNone then some (pathNo (y.1.setD { y.1.d with len := codeLen y.2, dict := false, xword := codeXval y.2 }).d y.2) else none
        | .error _ => none
      else none))) = [[some 0, some 1, some 0], [some 0, some 2, some 2], [some 0, some 2, some 2]] ∧
    (([(0x00907303, false), (0x00128375, false), (0, true)] : List (BitVec 32 × Bool)).map (fun x => ([none, some false, some true] : List (Option Bool)).map (fun behind =>
      let s := turned (on w0 (fun d => { d with latch := some x }))
      let s := match behind with | some e => on s (fun d => d.openGen (.behind 0 e)) | none => s
      let u := turnOf s 0 []
      let code : Code := if x.2 then .half (x.1.setWidth 16) else .full x.1
      if ((s.coreAt 0).at (s.coreAt 0).desk).ready && !u.d.mayReport && !u.d.stepDone && u.d.repAt.isNone && !(s.coreAt 0).ganged && u.d.latch == some x && issues u == behind.isNone && (decodeCode code).isSome == !x.2
      then some (pathNo u.d code) else none))) = [[some 0, some 1, some 0], [some 0, some 2, some 2], [some 0, some 2, some 2]] ∧
    (let s := { w0 with turns := [.event .coldReset] }; s.sys.off = false ∧ s.turns = [.event .coldReset]) ∧
    (let s := { w0 with sys := { w0.sys with off := true }, turns := [.issue 0] }; s.sys.off = true ∧ s.turns = [.issue 0]) ∧ servesOff .coldReset = true ∧ servesOff .rollCall = false ∧ w0.d.gen = none ∧ (w0.deskAt 0 0).wait = none := by decide +kernel
/-- O52: an entry with and without a guard field, one whose bit 0 is 0, one that the image does not fill; the guards 0, 1 and 8. -/
theorem test_witness_EncodingTraps :
    (let s := on w0 (fun d => { d with kern := { d.kern with dictWords := [0x00128375, 3, 2], dict := true } })
     issues s && s.d.kern.dict && (s.d.kern.dictWords.getD 0 0).getLsbD 0 && !takesGuard (s.d.kern.dictWords.getD 0 0) && (s.d.kern.dictWords.getD 1 0).getLsbD 0 && takesGuard (s.d.kern.dictWords.getD 1 0) &&
       !(s.d.kern.dictWords.getD 2 0).getLsbD 0 && !(s.d.kern.dictWords.getD 1023 0).getLsbD 0) = true := by decide +kernel
/-- O53 and O56: a halfword that decodes. -/
theorem test_witness_ShortForms : issues w0 = true ∧ (decodeCode (.half (31#5 ++ 0#5 ++ 1#4 ++ 0#2)) == some (.vaddF32S 31 0)) = true := by decide +kernel
/-- O55 and O56: the words of two instructions, of which one is no halfword's. -/
theorem test_witness_EncodeDecode :
    (([.launch 9 8 31, .vaddF32S 31 0] : List Instr).all (fun i => i.wellFormed && (match encode i with | some c => decodeCode c == some i | none => false))) = true := by decide +kernel
/-- O58: a step from canonical memory; O59 has no hypothesis that a state meets. -/
theorem test_witness_MemoryCanonical :
    Memory.wf (State.reset.withFetchWord 32 0x08000375).mem.bytes = true ∧ (match step (State.reset.withFetchWord 32 0x08000375) with | .next _ => true | _ => false) = true := by decide +kernel
/-- O60: an addition that completes, one that waits at an empty port, and one that traps, in both modes; a loop and a vector instruction. -/
theorem test_witness_Frame :
    (([.add 0 2 1 3, .loopi 3 2 0, .vaddF32S 1 2, .bfi 0 2 1 3] : List Instr).all (fun i => (dests i).isSome && goes i w0)) = true ∧ w0.d.gen = none ∧ w0.d.gang = .none ∧ w0.d.stopped = false ∧
    (after (.add 0 28 1 3) (ported w0 [])).d.stopped = false ∧ (after (.pcmpEq 0 2 1 1) (bad w0 2)).d.user = false ∧ (after (.pcmpEq 0 2 1 1) (bad (sup w0) 2)).d.stopped = true := by decide +kernel

/-! ### The spec's own worked examples -/

/-- The example words that the spec works out for encodings (R47 and the tables of the chapters of instructions), each with the operation it is said to be. -/
theorem test_decode_examples : ([
    (.full 0x600A41D1, .vfma 0 0 5 4 3), (.full 0x00907303, .add 2 8 7 6), (.full 0x01044531, .ld 4 0 2 4 10), (.full 0xFF140197, .b 0x7F8 1 2 0 3),
    (.half 0x4884, .vaddF32S 9 2), (.half 0x0166, .dictRef 5 9), (.half 0xEF04, .vaddF32S 29 28), (.full 0x0006A333, .st 0 0 3 10 6), (.full 0x009081B9, .vld 2 1 8 3),
    (.full 0x80401159, .vred 0 1 0 1 2), (.full 0xA04011D9, .vscan 0 1 0 1 3), (.full 0x0410415B, .vcvt 1 0 1 0 4 2),
    (.full 0x00008343, .ldv 0 8 6), (.full 0x04008343, .ldvs 0 8 6), (.full 0x08000543, .valset 0 10), (.full 0x10128343, .vcas 0 9 8 6), (.full 0x18128143, .l2ret 0 9 8 2),
    (.full 0x200E0343, .l2stat 0 7 6), (.full 0x02507345, .amoAdd 2 1 8 7 6), (.full 0xA4107045, .aredFadd 0 0 8 7), (.full 0x72D07345, .cas 2 3 8 7 6),
    (.full 0xC0008547, .nmop 8 10), (.full 0xC4008047, .nmwait 8), (.full 0x02907349, .cadd 2 2 8 7 6), (.full 0x04107049, .cwait 8 7), (.full 0x0C107349, .barv 8 7 6),
    (.full 0x100C7049, .bwait 6 7), (.full 0x14000049, .bell), (.full 0x18000049, .xdone), (.full 0x1C107349, .xput 8 7 6), (.full 0x34008061, .mmaskRow 0 8 0), (.full 0x34008361, .mmaskBlk 0 8 2),
    (.full 0x480063E1, .mstat 0 6 7), (.full 0x4C006061, .mthr 0 6 0), (.full 0x50020361, .mprogRd 1 6)] : List (Code × Instr)).all decodes = true := by decide +kernel
/-- The same for keys, joins, engines and the system. -/
theorem test_decode_examples_system : ([
    (.full 0x04128369, .kfind 0 9 8 6), (.full 0x101283E9, .kacc 0 9 8 7), (.full 0x24148369, .kscan 0 10 8 6), (.full 0x001280EB, .jbind 9 8 1), (.full 0x0812836B, .krange 9 8 6),
    (.full 0x141AC56B, .jgather 13 12 1 2), (.full 0x1A9AC46B, .jscatter 10 13 12 1 0), (.full 0x00008071, .cpy 0 8), (.full 0x02408071, .cpy 9 8), (.full 0x0C008071, .coll 0 8),
    (.full 0x18008371, .jobx 8 6), (.full 0x1C068071, .msg 0 3 8), (.full 0x20002271, .mrecv 2 4), (.full 0x28068371, .msgNb 3 8 6), (.full 0x0022607B, .mts 0x011 6), (.full 0x1C00037D, .roll 6),
    (.full 0x180A007D, .brkpt 5), (.full 0x0C000075, .tend)] : List (Code × Instr)).all decodes = true := by decide +kernel
/-- PA 0x35040 lies in stack 5 of die 1, in bank 1 of it (R187). -/
theorem test_home_of_address : stackOf 0x35040 = 5 ∧ w0.mem.die 0x35040 = 1 ∧ w0.mem.bankNo (0x35040 / 64) = 64 + 1 := by decide +kernel
/-- The generator of R57 from state 1, as the worked example of R59 gives it. -/
theorem test_stochastic_states : srNext 1 = 0x40822041 ∧ srNext 0x40822041 = 0x100041060C011441 := by decide +kernel
/-- `(p1) VCVT.bf16.f32.sr v2, v4`, the example of R59: the results of its two elements, the generator, and NX. -/
theorem test_stochastic_rounding :
    (let s := after (.vcvt 1 1 3 0 4 2) (on (vregs w0 [(4, 0x3F80F8003F806000)]) (fun d => { d with p := d.p.set 1 3 }))
     (s.d.v[2]).extractLsb' 0 32 == 0x3F813F80#32 && s.d.srseed == 0x100041060C011441 && s.d.fflags == 16) = true := by decide +kernel
/-- Conversions to E4M3 near its limit (R60): 460, 470, -470, -infinity and a quiet NaN, with SAT = 0 and SAT = 1. -/
theorem test_e4m3_limit :
    ([(0x43E60000, 0x7E, 16, 0x7E, 16), (0x43EB0000, 0x7F, 20, 0x7E, 20), (0xC3EB0000, 0x7F, 20, 0xFE, 20), (0xFF800000, 0x7F, 0, 0xFE, 0), (0x7FC00000, 0x7F, 0, 0x7F, 0)] :
      List (Nat × Nat × FFlags × Nat × FFlags)).all (fun (x, a, fa, b, fb) =>
        floatToFloat .f32 .e4m3 {} x == ⟨a, fa⟩ && floatToFloat .f32 .e4m3 { sat := true } x == ⟨b, fb⟩) = true := by decide +kernel
/-- Tree against sequence (R130): VRED gives 2^24 + 2, VSCAN 2^24 in each element, and NX is set. -/
theorem test_reduction_order :
    (let s := on (vregs w0 [(1, 0x3F8000003F8000003F8000004B800000)]) (fun d => { d with p := d.p.set 1 15 })
     let r := (after (.vred 0 1 0 1 2) s).d
     let c := (after (.vscan 0 1 0 1 3) s).d
     r.v[2] == 0x4B800001 && r.fflags == 16 && c.v[3] == BitVec.ofNat 512 ((List.range 16).foldl (fun n _ => n * 2 ^ 32 + 0x4B800000) 0) && c.fflags == 16) = true := by decide +kernel
/-- Reading past the end of a stream of two bytes (R140, R141), step by step: values, position, bits held, and the trap that consumes nothing. -/
theorem test_stream_past_the_end :
    (let n (x : Word) (s : State) := regs s [(7, x)]
     let s1 := after (.bbinit 0 9 8) (regs (onC w0 (fun c => { c with pad := cwrites c.pad 0x100 [0xB5, 0x3C] })) [(8, 0x100), (9, 0x102)])
     let s2 := after (.bbpeek 0 7 6) (n 3 s1)
     let s3 := after (.bbget 0 7 6) (n 5 s2)
     let s4 := after (.bbget 0 7 6) (n 7 s3)
     let s5 := after (.bbpeek 0 7 6) (n 8 s4)
     let s6 := after (.bbget 0 7 6) (n 8 s5)
     let at_ (s : State) (g : Word) (p : Int) (k : BitVec 8) (lo : Nat) : Bool := s.d.getG 6 == g && s.d.bb.pos == p && s.d.bb.count.setWidth 8 == k && s.d.bb.buf.toNat == lo
     s1.d.bb.pos == 0x800 && s1.d.bb.count.toNat == 16 && s1.d.bb.buf.toNat == 0x3CB5 && at_ s2 5 0x800 16 0x3CB5 && at_ s3 0x15 0x805 11 0x1E5 && at_ s4 0x65 0x80C 4 3 && at_ s5 3 0x80C 4 3 &&
     s6.d.bb == s5.d.bb && s6.d.xcause == 0x0D0 && s6.d.xval == 0x814) = true := by decide +kernel
/-- The PC fields and the first state bytes of the example of R386. -/
theorem test_roll_call_fields : leb128 10 (zigzag (0x40 / 2)) = [0x40] ∧ leb128 10 (zigzag (-8 / 2)) = [0x07] ∧ nibbles [0, 4, 9, 9] = [0x40, 0x99] := by decide +kernel

end Sys2Proof.Tests
end

/-! SUPPORT and PROOF. The events of the host, the interfaces, the links and the management port (O50): one rule for each, from its guards to the
state that it leaves, and the facts about windows, links and records that they rest on (R187, R396 to R405). -/

namespace Sys2Proof.Machine

/-- Where Horuf answers, the module serves. -/
theorem live_of_horuf {s : State} (h : s.horuf = true) : s.live = true := (Bool.and_eq_true_iff.mp h).1

/-! ### Resets and firmware (R3, R187, R404, R405) -/

@[simp] theorem exec_coldReset (s : State) : exec .coldReset s = .next s.coldReset := rfl
@[simp] theorem exec_mgmtReset (s : State) : exec .mgmtReset s = .next ((s.failAll { cause := 0x1E4 }).coldReset.answer .down) := rfl
/-- Without power the module is off, and what runs on it is gone. -/
theorem exec_powerLoss (s : State) : exec .powerLoss s = .next { s.boot { windows := s.mem.windows } with
    sys := { (s.boot { windows := s.mem.windows }).sys with off := true, running := none, hostUp := false, links := [], linkMap := [], spConf := 0 } } := rfl

/-- An insertion adds its own element only. -/
theorem mem_insN (l : List Nat) (a b : Nat) : b ∈ insN l a ↔ b = a ∨ b ∈ l := by
  induction l with
  | nil => simp [insN]
  | cons k t ih =>
    simp only [insN]
    split
    · simp only [List.mem_cons, ih]
      exact or_left_comm
    · split
      · subst_vars; simp
      · simp
/-- What is inserted one after another, and what was there, is there. -/
theorem mem_foldl_insN {α : Type} (xs : List (Nat × α)) (l : List Nat) (b : Nat) :
    b ∈ xs.foldl (fun l x => insN l x.1) l ↔ b ∈ l ∨ ∃ x ∈ xs, x.1 = b := by
  induction xs generalizing l with
  | nil => simp
  | cons x xs ih =>
    simp only [List.foldl_cons, ih, mem_insN, List.mem_cons, exists_eq_or_imp]
    rw [eq_comm (a := b), or_comm (a := x.1 = b), or_assoc]
/-- After a cold reset a line under a partition's key verifies no more (R398, R400). -/
theorem keyed_mem_badMac_afterReset (m : MemSys) (tick : Nat) : ∀ x ∈ m.keyOf, x.1 ∈ (m.afterReset tick).badMac :=
  fun x hx => (mem_foldl_insN m.keyOf m.badMac x.1).mpr (.inr ⟨x, hx, rfl⟩)

/-- A module that starts again runs the slot's image, or serves its management port alone. -/
theorem boot_runs_or_mgmtOnly (s : State) (m : MemSys) :
    ((s.boot m).sys.running = none ∧ (s.boot m).sys.mgmtOnly = true ∧ (s.boot m).sys.hostUp = false) ∨
    (∃ i, s.sys.slot = .good i ∧ (s.boot m).sys.running = some i ∧ (s.boot m).sys.mgmtOnly = false ∧ (s.boot m).sys.hostUp = true) := by
  simp only [State.boot]
  cases s.sys.slot with
  | broken => exact .inl ⟨rfl, rfl, rfl⟩
  | good i =>
    cases Config.choice s.tick
    · exact .inl ⟨rfl, rfl, rfl⟩
    · exact .inr ⟨i, rfl, rfl, rfl, rfl⟩

/-- A window of a port: whole GiB in the second tier's range (R187). -/
def TierWindow (w : Nat × Nat × Nat) : Prop := w.1 < 8 ∧ w.2.1 % 2 ^ 30 = 0 ∧ w.2.2 % 2 ^ 30 = 0 ∧ 2 ^ 44 ≤ w.2.1 ∧ w.2.1 + w.2.2 ≤ 2 ^ 45
/-- Two windows that do not overlap. -/
def Apart (x y : Nat × Nat × Nat) : Prop := x.2.1 + x.2.2 ≤ y.2.1 ∨ y.2.1 + y.2.2 ≤ x.2.1
/-- Windows that the management controller may have configured. -/
def TierOk (ws : List (Nat × Nat × Nat)) : Prop := (∀ w ∈ ws, TierWindow w) ∧ ws.Pairwise Apart
/-- A window that fits and meets none of the others may join them. -/
theorem TierOk.concat {ws : List (Nat × Nat × Nat)} {w : Nat × Nat × Nat} (h : TierOk ws) (hw : TierWindow w) (ha : ∀ x ∈ ws, Apart x w) :
    TierOk (ws ++ [w]) := by
  obtain ⟨hall, hpair⟩ := h
  refine ⟨fun x hx => ?_, List.pairwise_append.mpr ⟨hpair, List.pairwise_singleton .., ?_⟩⟩
  · obtain hx | rfl := by simpa using hx
    · exact hall x hx
    · exact hw
  · simpa using ha
/-- Whatever base and length are picked for a port, they make a window. -/
theorem tierWindow_of_picks {p : Nat} (hp : p < 8) (x y : Nat) :
    let base := 0x4000 + x % 0x4000
    TierWindow (p, base * 2 ^ 30, y % (0x8000 - base + 1) * 2 ^ 30) := by
  intro base
  have hb : base < 0x8000 := by omega
  have hn : y % (0x8000 - base + 1) < 0x8000 - base + 1 := Nat.mod_lt _ (Nat.succ_pos _)
  exact ⟨hp, Nat.mul_mod_left .., Nat.mul_mod_left .., by dsimp only; omega, by dsimp only; omega⟩
/-- The windows of the second tier lie in its range and overlap nowhere. -/
theorem tierMap_ok (tick : Nat) : TierOk (tierMap tick) := by
  refine List.foldlRecOn (motive := TierOk) _ _ ⟨by simp, .nil⟩ fun ws hws p hp => ?_
  dsimp only
  split
  next => exact hws
  next hfree =>
    simp only [not_or, Bool.not_eq_true, List.any_eq_false, Bool.and_eq_true, decide_eq_true_eq, not_and, Nat.not_lt] at hfree
    obtain ⟨-, hfree⟩ := hfree
    exact hws.concat (tierWindow_of_picks (List.mem_range.mp hp) ..) fun x hx => (Nat.lt_or_ge _ _).symm.imp_right (hfree x hx)

/-- A firmware request has a way in by the management port, or by Horuf where it answers. -/
theorem port_or_horuf {port : Bool} {s : State} (h : port = true ∨ s.horuf = true) : (!port && !s.horuf) = false := by
  obtain h | h := h <;> simp [h]
/-- An image that verifies opens an update session, any other is refused (R405). -/
theorem execFirmwareUpdate_free {port : Bool} {s : State} (img : BitVec 512) (h : port = true ∨ s.horuf = true) (hu : s.sys.update = none) :
    execFirmwareUpdate port img s = .next (if Config.verifies img = true
      then { s with sys := { s.sys with slot := .broken, update := some (port, img) } } else s.answer .refused) := by
  refine event_some ?_
  simp only [port_or_horuf h, hu, Bool.false_eq_true, if_false]
  split <;> rfl
/-- The request of a session, made again, is the end of its write. -/
theorem execFirmwareUpdate_again {port : Bool} {img : BitVec 512} {s : State} (h : port = true ∨ s.horuf = true) (hu : s.sys.update = some (port, img)) :
    execFirmwareUpdate port img s = .next { s with sys := { s.sys with slot := .good img, update := none } } :=
  event_some (by simp [port_or_horuf h, hu])
/-- Another request during a session changes nothing (R404). -/
theorem execFirmwareUpdate_other {port : Bool} {img : BitVec 512} {s : State} {u : Bool × BitVec 512} (h : port = true ∨ s.horuf = true)
    (hu : s.sys.update = some u) (hne : u ≠ (port, img)) : execFirmwareUpdate port img s = .next (s.answer .updating) :=
  event_some (by simp [port_or_horuf h, hu, hne])

/-! ### Attestation and the management port (R399, R403, R404) -/

theorem execSpdmRequest_refused {ix : BitVec 16} {s : State} (nonce : BitVec 256) (h : s.measurement ix = none) :
    execSpdmRequest ix nonce s = .next (s.answer .refused) := event_some (by simp [h])
/-- A measurement is answered with a signature over the request and the digest. -/
theorem execSpdmRequest_signed {ix : BitVec 16} {s : State} {d : BitVec 512} (nonce : BitVec 256) (h : s.measurement ix = some d) :
    execSpdmRequest ix nonce s = .next (({ s with sys := { s.sys with signed := s.sys.signed + 1 } } : State).answer
      (.signed ix d (Config.sign (Config.sha3 (natLe ix.toNat 2 ++ natLe nonce.toNat 32 ++ natLe d.toNat 64))))) := event_some (by simp [h])
/-- Where an image runs, blocks 1 to 3 are the image, the security processor's configuration and the link map. -/
theorem measurement_running {s : State} {i : BitVec 512} (h : s.sys.running = some i) : s.measurement 1 = some (Config.sha3 (natLe i.toNat 64)) ∧
    s.measurement 2 = some (Config.sha3 (natLe s.sys.spConf.toNat 64)) ∧ s.measurement 3 = some (Config.sha3 (s.sys.linkMap.flatMap
      (fun x => natLe x.1 1 ++ natLe x.2.partner.toNat 8 ++ natLe x.2.identity.toNat 64))) := by simp [State.measurement, h]
/-- From block 16 on a measurement is an interface's frozen records. -/
theorem measurement_interface (s : State) (t : BitVec 11) : s.measurement (16 + t.setWidth 16) = tget? s.sys.frozen t.toNat := by
  have hn : (16 + t.setWidth 16 : BitVec 16).toNat = 16 + t.toNat := by
    have := t.isLt
    simp; omega
  have hne (k : BitVec 16) (hk : k.toNat < 16) : (16 + t.setWidth 16 : BitVec 16) ≠ k := fun e => by
    rw [e] at hn; omega
  simp only [State.measurement, if_neg (hne 1 (by decide)), if_neg (hne 2 (by decide)), if_neg (hne 3 (by decide)), hn,
    if_pos (Nat.le_add_right 16 _), Nat.add_sub_cancel_left]
theorem execPldmMonitor_log (s : State) : execPldmMonitor 0 s = .next (s.answer (.log (s.sys.log.map s.shown))) := rfl
theorem execPldmMonitor_sensor {r : BitVec 8} (h : r ≠ 0) (s : State) :
    execPldmMonitor r s = .next (s.answer (.sensor (Config.freeWord s.tick))) := event_some (if_neg h)

/-! ### Links (R402) -/

theorem isLink_eq_true {k : BitVec 6} (h : k.toNat < 36) : isLink k = true := decide_eq_true h
/-- A link is spent when one of its groups has failed three times. -/
theorem Link.spent_eq_true_iff (x : Link) : x.spent = true ↔ ∃ f ∈ x.fails, 3 ≤ f.2 := by simp [Link.spent]
theorem Link.spent_eq_false_iff (x : Link) : x.spent = false ↔ ∀ f ∈ x.fails, f.2 < 3 := by simp [Link.spent]
@[simp] theorem Link.failures_failed_same (x : Link) (g : Word) : (x.failed g).failures g = x.failures g + 1 := by
  simp [Link.failed, Link.failures]
/-- A failure of one group counts for no other. -/
theorem Link.failures_failed_other (x : Link) {g h : Word} (hne : h ≠ g) : (x.failed g).failures h = x.failures h := by
  have hp (f : Word × Nat) : decide ((f.1 != g) = true ∧ (f.1 == h) = true) = (f.1 == h) := by by_cases hf : f.1 = h <;> simp [hf, hne]
  have hf : (x.failed g).fails.find? (fun f => f.1 == h) = x.fails.find? (fun f => f.1 == h) := by
    rw [Link.failed, List.find?_cons_of_neg (by simpa using hne.symm), List.find?_filter]
    simp only [hp]
  simp only [Link.failures, hf]

/-- The module has no link beyond its 36. -/
theorem execLinkGroupFail_beyond {k : BitVec 6} (h : 36 ≤ k.toNat) (g : Word) (s : State) : execLinkGroupFail k g s = .next s :=
  event_none (by simp [isLink, h])

section
variable {s : State} {k : BitVec 6} (hh : s.horuf = true) (hk : k.toNat < 36)
include hh hk

theorem execLinkGroupFail_up (hu : (s.link k).up = true) (hs : (s.link k).spent = false) (g : Word) :
    execLinkGroupFail k g s = .next (s.setLink k ((s.link k).failed g)) := event_some (by simp [hh, isLink_eq_true hk, hu, hs])
theorem execLinkDown_spent (hu : (s.link k).up = true) (hs : (s.link k).spent = true) :
    execLinkDown k s = .next (((s.setLink k { s.link k with up := false }).dropCards).dropMsgs) := event_some (by simp [hh, isLink_eq_true hk, hu, hs])
theorem execLinkRekey_up (hu : (s.link k).up = true) :
    execLinkRekey k s = .next (s.setLink k { s.link k with key := (s.link k).key + 1 }) := event_some (by simp [hh, isLink_eq_true hk, hu])
theorem execNewSpdmSession_down (hu : (s.link k).up = false) : execNewSpdmSession k s =
    .next (s.setLink k { up := true, partner := (s.link k).partner, identity := Config.freeV s.tick 0, key := (s.link k).key + 1 }) :=
  event_some (by simp [hh, isLink_eq_true hk, hu])

end

/-! ### The host's own accesses (R329, R396, R401) -/

/-- The host's write of a queue's tail meets a frame with confidential lines, at the record's place or at TAILCNT (R401). -/
def State.tailRefused (s : State) (p : PartId) (x : LQueue) (tail : Word) : Bool :=
  s.hostRefused p (x.ring + BitVec.ofNat 64 (256 * (tail.toNat % 2 ^ x.log2))) 256 || s.hostRefused p x.tail 8

section
variable {s a : State} {p : PartId} {q : BitVec 4} {x : LQueue} {tail : Word} (hh : s.horuf = true)
  (hq : tget? ((s.loadQueues p).partAt p).queues q.toNat = some x) (hf : x.hostfed = true)
  (ht : (s.loadQueues p).hwWord p x.tail = .ok (a, tail))
include hh hq hf ht

theorem execHostTailWrite_refused (hr : (s.loadQueues p).tailRefused p x tail = true) (r : BitVec 2048) :
    execHostTailWrite p q r s = .next ((s.loadQueues p).answer .refused) := by
  unfold State.tailRefused at hr
  exact event_some (by simp only [hh, hq, hf, ht, hr, Bool.not_true, Bool.false_eq_true, if_false, if_true])
/-- A record is stored into a ring that has room. -/
theorem execHostTailWrite_stored (hr : (s.loadQueues p).tailRefused p x tail = false) {r : BitVec 2048} {u : State} {v : Word}
    (hp : (s.loadQueues p).publish p x (natLe r.toNat 256) = .ok (u, v)) (hv : v ≠ BitVec.allOnes 64) :
    execHostTailWrite p q r s = .next u := by
  unfold State.tailRefused at hr
  exact event_some (by simp only [hh, hq, hf, ht, hr, hp, hv, Bool.not_true, Bool.false_eq_true, if_false])

end

/-- The line that the host reads or writes, as a part. -/
def hostLine (pa : PAddr) : Part := ⟨BitVec.ofNat 52 (pa.toNat / 64 * 64), 64, 0, false, false, false⟩

/-- Outside memory nothing is written, and the operator's view is read (R403). -/
theorem execHostMemoryAccess_outside {s : State} {pa : PAddr} (hh : s.horuf = true) (hm : s.mem.inMemory pa.toNat = false) (wr : Bool) (v : Vec) :
    execHostMemoryAccess wr pa v s = .next (s.answer (if wr then .refused else s.view v)) := event_some (by simp [hh, hm])

section
variable {s : State} {pa : PAddr} (hh : s.horuf = true) (hm : s.mem.inMemory pa.toNat = true) (hb : s.msBusy (hostLine pa) = false)
include hh hm hb

/-- Of a frame with confidential lines the host reads ciphertext and writes nothing (R401). -/
theorem execHostMemoryAccess_secret (hs : s.mem.secret pa.toNat = true) (wr : Bool) (v : Vec) :
    execHostMemoryAccess wr pa v s = .next (s.answer (if wr then .refused else
      .cipher (Config.cipher (tget s.mem.keyOf (pa.toNat / 64) 0) (pa.toNat / 64) (creads s.mem.bytes (pa.toNat / 64 * 64) 64)))) :=
  event_some (by simpa [hh, hm, hs, hostLine] using hb)
theorem execHostMemoryAccess_write (hs : s.mem.secret pa.toNat = false) (v : Vec) :
    execHostMemoryAccess true pa v s = .next { s with mem := s.mem.writePart (hostLine pa) {} false (natLe v.toNat 64) } :=
  event_some (by simpa [hh, hm, hs, hostLine] using hb)
theorem execHostMemoryAccess_spoiled (hs : s.mem.secret pa.toNat = false) (hx : s.mem.macBad false (pa.toNat / 64) none = true) (v : Vec) :
    execHostMemoryAccess false pa v s = .next (({ s with mem := s.mem.spoil (pa.toNat / 64) } : State).answer .failed) :=
  event_some (by simpa [hh, hm, hs, hx, hostLine] using hb)
theorem execHostMemoryAccess_read (hs : s.mem.secret pa.toNat = false) (hx : s.mem.macBad false (pa.toNat / 64) none = false) (v : Vec) :
    let r := s.mem.readPart (hostLine pa) {}
    execHostMemoryAccess false pa v s = .next (({ s with mem := r.1 } : State).answer (.data (BitVec.ofNat 512 (leNat r.2.1)) r.2.2)) :=
  event_some (by simpa [hh, hm, hs, hx, hostLine] using hb)

end

/-! ### The operator's view (R403) -/

/-- The bits of a record from `lo` up to `hi`. -/
def bitField (lo hi : Nat) : Vec := (BitVec.allOnes (hi - lo)).setWidth 512 <<< lo
theorem getLsbD_bitField (lo hi : Nat) {i : Nat} (h : i < 512) : (bitField lo hi).getLsbD i = (decide (lo ≤ i) && decide (i < hi)) := by
  rw [Bool.eq_iff_iff]
  simp only [bitField, BitVec.getLsbD_shiftLeft, BitVec.getLsbD_setWidth, BitVec.getLsbD_allOnes, Bool.and_eq_true, Bool.not_eq_true', decide_eq_true_eq,
    decide_eq_false_iff_not]
  omega
/-- The fields of a completion record that the operator sees of a confidential partition: CAUSE, CORENUM and SSCNT, and XVAL and XPC where
the tenant permits it. -/
theorem recordShown_conf {s : State} {p : PartId} (hc : (s.partAt p).conf = true) (v : Vec) : s.recordShown p v =
    v &&& (bitField 8 17 ||| bitField 24 34 ||| bitField 64 128 ||| (if s.tenantSets p 258 then bitField 128 256 else 0)) := by
  simp only [State.recordShown, hc, Bool.not_true, Bool.false_eq_true, if_false]
  cases s.tenantSets p 258 <;> exact congrArg (v &&& ·) (by decide +kernel)
/-- Which bits of a completion record the operator sees. -/
theorem getLsbD_recordShown (s : State) (p : PartId) (v : Vec) {i : Nat} (hi : i < 512) : (s.recordShown p v).getLsbD i = (v.getLsbD i &&
    (!(s.partAt p).conf || (8 ≤ i && i < 17) || (24 ≤ i && i < 34) || (64 ≤ i && i < 128) || (s.tenantSets p 258 && 128 ≤ i && i < 256))) := by
  cases hc : (s.partAt p).conf
  · simp [State.recordShown, hc]
  · rw [recordShown_conf hc]
    have hb (lo k : Nat) := getLsbD_bitField lo k hi
    cases s.tenantSets p 258 <;> simp [hb, -BitVec.getLsbD_eq_getElem]
theorem shown_open {s : State} {e : LogEntry} (h : (s.partAt e.part).conf = false) : s.shown e = e := by simp [State.shown, h]
theorem shown_fault {s : State} {e : LogEntry} (h : (s.partAt e.part).conf = true) (hk : e.kind = .fault) :
    s.shown e = if s.tenantSets e.part 258 then e else { e with xval := 0, xpc := 0 } := by simp [State.shown, h, hk, State.tenantSets]
/-- A request of kind 2 reads a word of a monitor. -/
theorem view_monitor {s : State} {req : Vec} (h : req.extractLsb' 0 8 = 2) : let p : PartId := req.extractLsb' 16 14
    let i := (req.extractLsb' 32 32).toNat
    s.view req = if (s.partAt p).conf = true ∧ s.tenantSets p 257 = false then .refused else .sensor (((s.partAt p).mon (BitVec.ofNat 5 i)).word (i / 32)) := by
  simp [State.view, h]
/-- A request of kind 5 reads an L2STAT total. -/
theorem view_l2stat {s : State} {req : Vec} (h : req.extractLsb' 0 8 = 5) : let p : PartId := req.extractLsb' 16 14
    let i := (req.extractLsb' 32 32).toNat
    s.view req = if (s.partAt p).conf = true ∧ s.tenantSets p 259 = false then .refused else .sensor ((s.mem.asRead s.tick).stat p (i % 8)) := by
  simp [State.view, h]

/-! ### Partitions and interfaces (R396 to R398) -/

/-- The limits of a record, as R397 words them. -/
theorem recordFits_of_limits {s : State} {r : BitVec 512} (ht : ∀ t, recTdi r = some t → s.tdi t = .unlocked) (hw : ∀ n ∈ recWays r, n ≤ 8)
    (hd : recDomain r ≠ 0) (ho : ∀ x ∈ s.sys.records, x.1 ≠ (recPart r).toNat → recDomain x.2 ≠ recDomain r) : s.recordFits r = true := by
  simp only [State.recordFits, Bool.and_eq_true]
  refine ⟨⟨⟨?owner, by simpa using hw⟩, by simpa using hd⟩, by simpa [Decidable.or_iff_not_imp_left] using ho⟩
  cases h : recTdi r with
  | none => rfl
  | some u => simpa using ht u h

section
variable {s : State} {r : BitVec 512} (hh : s.horuf = true)
include hh

/-- A record that no frozen interface owns is taken where it fits, and refused where it does not. -/
theorem execPartitionConfigWrite_unlocked (ht : ∀ t, s.tdiOf (recPart r) = some t → s.tdi t = .unlocked) :
    execPartitionConfigWrite r s = .next (if s.recordFits r then s.configure r else s.answer .refused) := by
  refine event_some ?_
  simp only [hh, Bool.not_true, Bool.false_eq_true, if_false]
  cases h : s.tdiOf (recPart r) with
  | none => rfl
  | some t => simp [ht t h]
/-- A write of a frozen record puts its interface in error (R398). -/
theorem execPartitionConfigWrite_frozen {t : BitVec 11} (ht : s.tdiOf (recPart r) = some t) (hf : s.tdi t = .locked ∨ s.tdi t = .run) :
    execPartitionConfigWrite r s = .next ((s.tdiFail t).answer .refused) := by
  refine event_some ?_
  obtain hf | hf := hf <;> simp [hh, ht, hf]

theorem execLockInterface_unlocked {t : BitVec 11} (ht : s.tdi t = .unlocked) : execLockInterface t s =
    .next { s with sys := { s.sys with tdis := tset s.sys.tdis t.toNat .locked, frozen := tset s.sys.frozen t.toNat (Config.sha3 (s.recordsOf t)) } } :=
  event_some (by simp [hh, ht])
/-- A locked interface runs, with keys of the tenant's session (R399). -/
theorem execStartInterface_locked {t : BitVec 11} (ht : s.tdi t = .locked) : execStartInterface t s =
    .next { s with mem := (s.partsOf t).foldl (fun m p => m.renew (keyNo p)) s.mem, sys := { s.sys with tdis := tset s.sys.tdis t.toNat .run } } :=
  event_some (by simp [hh, ht])
theorem execStopInterface_locked {t : BitVec 11} (ht : s.tdi t ≠ .unlocked) : execStopInterface t s =
    .next { s with sys := { s.sys with tdis := tset s.sys.tdis t.toNat .unlocked, frozen := tdel s.sys.frozen t.toNat } } :=
  event_some (by simp [hh, ht])
theorem execTdiError_fails {t : BitVec 11} (ht : s.tdi t ≠ .error) : execTdiError t s = .next (s.tdiFail t) :=
  event_some (by simp [live_of_horuf hh, ht])

end
end Sys2Proof.Machine

namespace Sys2Proof.Claims
open Sys2Proof.Machine

/-- Part of O50: the module, its firmware, its links and its management port. -/
theorem hostModule : HostModule := by
  refine ⟨fun s => ?coldReset, tierMap_ok, fun s => ⟨_, exec_mgmtReset s, rfl, rfl, rfl, rfl, rfl, rfl⟩,
    fun s => ⟨_, exec_powerLoss s, rfl, rfl, rfl, rfl, rfl⟩,
    fun ix nonce s => ⟨execSpdmRequest_refused nonce, fun d hd => ⟨_, execSpdmRequest_signed nonce hd, rfl, rfl⟩⟩,
    fun s => ⟨fun i => measurement_running, measurement_interface s⟩, fun k g s hk => execLinkGroupFail_beyond hk g s,
    fun k g s hh hk => ⟨?groupFail, ?linkDown, execLinkRekey_up hh hk, ?newSession⟩,
    fun r s => ⟨?portLog, fun hr => ⟨_, execPldmMonitor_sensor hr s⟩⟩, fun port img s hp => ?firmware⟩
  case coldReset =>
    exact ⟨_, exec_coldReset s, rfl, rfl, rfl, rfl, rfl, keyed_mem_badMac_afterReset s.mem s.tick, rfl, rfl, rfl, rfl, rfl, rfl, boot_runs_or_mgmtOnly s _⟩
  case groupFail =>
    exact fun hu hf => ⟨_, execLinkGroupFail_up hh hk hu ((Link.spent_eq_false_iff _).mpr hf) g, hu,
      Link.failures_failed_same .., fun _ => Link.failures_failed_other _⟩
  case linkDown => exact fun hu hf => execLinkDown_spent hh hk hu ((Link.spent_eq_true_iff _).mpr hf)
  case newSession => exact fun hu => ⟨_, execNewSpdmSession_down hh hk hu, rfl, rfl, rfl, rfl⟩
  case portLog => rintro rfl; exact execPldmMonitor_log s
  case firmware => exact ⟨execFirmwareUpdate_free img hp, execFirmwareUpdate_again hp, fun u => execFirmwareUpdate_other hp⟩

/-- Part of O50: the host's accesses, the operator's view, records and interfaces. -/
theorem hostAccess : HostAccess := by
  refine ⟨fun p q r s x a tail hh hq hf ht => ?tail, fun pa v s hh hm hb => ⟨fun hs => ?secret, fun hs => ?plain⟩, fun pa v s hh hm => ?outside,
    fun s p v i => getLsbD_recordShown s p v, fun s e => ⟨shown_open, shown_fault⟩, fun s req => ⟨view_monitor, view_l2stat⟩,
    fun r s hh ht hu hw hd ho => ?taken, fun r s hh ht hr => ?refused, fun r t s hh ht hf => execPartitionConfigWrite_frozen hh ht hf,
    fun t s hh => ⟨execLockInterface_unlocked hh, fun ht => ?start, execStopInterface_locked hh, execTdiError_fails hh⟩⟩
  case tail => exact ⟨fun hr => execHostTailWrite_refused hh hq hf ht hr r, fun hr u v hp hv => execHostTailWrite_stored hh hq hf ht hr hp hv⟩
  case secret => exact ⟨execHostMemoryAccess_secret hh hm hb hs true v, execHostMemoryAccess_secret hh hm hb hs false v⟩
  case plain =>
    exact ⟨execHostMemoryAccess_write hh hm hb hs v, fun hx => execHostMemoryAccess_spoiled hh hm hb hs hx v,
      fun hx => ⟨_, _, execHostMemoryAccess_read hh hm hb hs hx v⟩⟩
  case outside => exact ⟨execHostMemoryAccess_outside hh hm true v, execHostMemoryAccess_outside hh hm false v⟩
  case taken => exact (execPartitionConfigWrite_unlocked hh ht).trans (by rw [if_pos (recordFits_of_limits hu hw hd ho)])
  case refused => exact (execPartitionConfigWrite_unlocked hh ht).trans (by rw [hr, if_neg Bool.false_ne_true])
  case start => exact ⟨_, execStartInterface_locked hh ht, tget_tset_same .., rfl⟩

/-- Settles O50: every clause is the rule of its event, and the windows, links and records are as their own lemmas say. -/
theorem hostEvents : Obligations.HostEvents := ⟨hostModule, hostAccess⟩

end Sys2Proof.Claims

/-! SUPPORT and PROOF. The folds of the vector unit (O28): a pairwise tree over 2^k elements, a sequential scan, the extreme of a list, and
what VRED, VSCAN and VDOT are in their terms (R53, R68, R130). -/

namespace Sys2Proof.Machine
open Sys2Proof.Claims (bitsOf fmtOf signed node levels scanAt identOf identInt sumOf extremeOf)

/-! ### Types and elements (R41, R116) -/

theorem tyWidth_eq_bitsOf (t : BitVec 3) : tyWidth t = bitsOf t := by revert t; decide
theorem tyFmt_eq_fmtOf (t : BitVec 3) : tyFmt t = fmtOf t := by revert t; decide
theorem tyCount_eq_div (t : BitVec 3) : tyCount t = 512 / bitsOf t := by rw [tyCount, tyWidth_eq_bitsOf]
theorem bitsOf_pos (t : BitVec 3) : 0 < bitsOf t := by revert t; decide
/-- A register holds a power of two of elements, at most 64. -/
theorem count_eq_two_pow (t : BitVec 3) : 512 / bitsOf t = 2 ^ levels (bitsOf t) ∧ levels (bitsOf t) ≤ 7 := by revert t; decide
theorem lane_lt (w x e : Nat) : lane w x e < 2 ^ w := Nat.mod_lt _ (Nat.two_pow_pos w)

theorem wrapW_eq_ofInt (w : Nat) (i : Int) : wrapW w i = (BitVec.ofInt w i).toNat := by simp [wrapW, BitVec.toNat_ofInt]
theorem slane_eq_signed {w x : Nat} (hw : 0 < w) (hx : x < 2 ^ w) : slane w x = signed w x := by
  obtain ⟨k, rfl⟩ : ∃ k, w = k + 1 := ⟨w - 1, by omega⟩
  have hc : (2 : Int) ^ (k + 1) = ((2 ^ (k + 1) : Nat) : Int) := by simp
  simp only [slane, signed, BitVec.toInt_eq_toNat_cond, BitVec.toNat_ofNat, Nat.mod_eq_of_lt hx, Nat.add_sub_cancel]
  rw [hc, Nat.pow_succ']
  split <;> split <;> omega
/-- The pattern of an element's value is the element. -/
theorem ofInt_signed {w x : Nat} (hx : x < 2 ^ w) : (BitVec.ofInt w (signed w x)).toNat = x := by
  rw [signed, BitVec.ofInt_toInt, BitVec.toNat_ofNat, Nat.mod_eq_of_lt hx]
/-- The value of an element of a register. -/
theorem slane_lane (t : BitVec 3) (x e : Nat) : slane (bitsOf t) (lane (bitsOf t) x e) = signed (bitsOf t) (lane (bitsOf t) x e) :=
  slane_eq_signed (bitsOf_pos t) (lane_lt ..)
theorem slane_wrapW (t : BitVec 3) (i : Int) : slane (bitsOf t) (wrapW (bitsOf t) i) = signed (bitsOf t) (BitVec.ofInt (bitsOf t) i).toNat := by
  rw [wrapW_eq_ofInt, slane_eq_signed (bitsOf_pos t) (BitVec.isLt _)]
theorem intIdent_eq_identInt (w o : Nat) : (if o = 0 then 0 else intIdent w (o = 1)) = identInt w o := by simp [intIdent, identInt]
/-- No value of an element lies beyond the identities of maximum and minimum. -/
theorem signed_bounds (w x : Nat) : identInt w 1 ≤ signed w x ∧ signed w x ≤ identInt w 2 := by
  have hl := BitVec.le_toInt (BitVec.ofNat w x)
  have hu := BitVec.toInt_lt (x := BitVec.ofNat w x)
  simp only [identInt, signed]
  constructor <;> simp <;> omega

/-! ### The pairwise tree (R68) -/

section
variable {α : Type} (f : α → α → α) (z : α)

/-- The lowest level of a node, made the inputs, leaves the levels above. -/
theorem node_succ (x : Nat → α) (k i : Nat) : node f x (k + 1) i = node f (fun i => f (x (2 * i)) (x (2 * i + 1))) k i := by
  induction k generalizing i with
  | zero => rfl
  | succ k ih => rw [node, ih, ih, node]
/-- A level of an even number of elements combines neighbours, and the identity takes no part. -/
theorem treeLevel_range (x : Nat → α) (n : Nat) :
    treeLevel f z ((List.range (2 * n)).map x) = (List.range n).map (fun i => f (x (2 * i)) (x (2 * i + 1))) := by
  induction n generalizing x with
  | zero => rfl
  | succ n ih =>
    have hcons (y : Nat → α) (k : Nat) : (List.range (k + 1)).map y = y 0 :: (List.range k).map (fun i => y (i + 1)) := by
      simp [List.range_succ_eq_map, Function.comp_def]
    rw [Nat.mul_succ, hcons, hcons, treeLevel, ih, hcons]
    rfl
theorem tree_succ (k : Nat) {xs : List α} (h : 2 ≤ xs.length) : tree f z (k + 1) xs = tree f z k (treeLevel f z xs) := by
  match xs, h with
  | _ :: _ :: _, _ => rfl
/-- A tree over 2^k elements, with levels to spare, is its one node at level k. -/
theorem tree_range (x : Nat → α) {k j : Nat} (h : k ≤ j) : tree f z j ((List.range (2 ^ k)).map x) = [node f x k 0] := by
  induction k generalizing j x with
  | zero => cases j <;> rfl
  | succ k ih =>
    obtain ⟨j, rfl⟩ : ∃ i, j = i + 1 := ⟨j - 1, by omega⟩
    have hk := Nat.two_pow_pos k
    rw [tree_succ f z j (by simp; omega), Nat.pow_succ', treeLevel_range, ih _ (by omega), node_succ]
/-- The tree over a register's elements. -/
theorem tree_register (x : Nat → α) (t : BitVec 3) :
    tree f z 7 ((List.range (512 / bitsOf t)).map x) = [node f x (levels (bitsOf t)) 0] := by
  obtain ⟨hn, hl⟩ := count_eq_two_pow t
  rw [hn, tree_range f z x hl]

end

/-! ### Scans (R130) -/

/-- What a scan keeps, last element first. -/
theorem foldl_scan {α : Type} {op : α → α → α} {step : List α → α → List α} (h0 : ∀ y, step [] y = [y])
    (h1 : ∀ p l y, step (p :: l) y = op p y :: p :: l) (x : Nat → α) (n : Nat) :
    ((List.range n).map x).foldl step [] = ((List.range n).map (scanAt op x)).reverse := by
  match n with
  | 0 => rfl
  | n + 1 =>
    induction n with
    | zero => exact h0 _
    | succ n ih =>
      rw [List.range_succ, List.map_append, List.foldl_append, ih]
      simp [List.range_succ, h1, scanAt]
/-- The same of an operation that raises flags, with the flags of every step. -/
theorem foldl_scan_flags {op : Nat → Nat → FRes} {step : List Nat × FFlags → Nat → List Nat × FFlags} (h0 : ∀ fl y, step ([], fl) y = ([y], fl))
    (h1 : ∀ p l fl y, step (p :: l, fl) y = ((op p y).bits :: p :: l, fl ||| (op p y).fl)) (x : Nat → Nat) (n : Nat) :
    ((List.range n).map x).foldl step ([], 0) = (((List.range n).map (scanAt (fun a b => (op a b).bits) x)).reverse,
      (List.range (n - 1)).foldl (fun fl e => fl ||| (op (scanAt (fun a b => (op a b).bits) x e) (x (e + 1))).fl) 0) := by
  match n with
  | 0 => rfl
  | n + 1 =>
    induction n with
    | zero => exact h0 ..
    | succ n ih =>
      rw [List.range_succ, List.map_append, List.foldl_append, ih]
      simp [List.range_succ, h1, scanAt]

/-! ### Sums and extremes of the selected elements -/

/-- Elements left out as 0 add nothing. -/
theorem sum_masked {M : Type} [Add M] [Zero M] (h0 : ∀ a : M, 0 + a = a) (l : List Nat) (sel : Nat → Bool) (v : Nat → M) :
    (l.map (fun e => if sel e then v e else 0)).sum = ((l.filter sel).map v).sum := by
  induction l with
  | nil => rfl
  | cons e l ih =>
    cases h : sel e
    · rw [List.map_cons, List.sum_cons, if_neg (Bool.eq_false_iff.mp h), h0, ih, List.filter_cons_of_neg (Bool.eq_false_iff.mp h)]
    · rw [List.map_cons, List.sum_cons, if_pos h, ih, List.filter_cons_of_pos h, List.map_cons, List.sum_cons]

/-- A fold over the selected elements of a list from `z`; the others enter as `z`. -/
def selectedFold (op : Int → Int → Int) (z : Int) (l : List Nat) (sel : Nat → Bool) (v : Nat → Int) : Int :=
  (l.map (fun e => if sel e then v e else z)).foldl op z

/-- `op` gives one of its operands, and the one that is the further by an order `R`. -/
structure Picks (op : Int → Int → Int) (R : Int → Int → Prop) : Prop where
  refl (a : Int) : R a a
  trans {a b c : Int} : R a b → R b c → R a c
  antisymm {a b : Int} : R a b → R b a → a = b
  left (a b : Int) : R a (op a b)
  right (a b : Int) : R b (op a b)
  pick (a b : Int) : op a b = a ∨ op a b = b
theorem picks_max : Picks max (· ≤ ·) :=
  ⟨Int.le_refl, Int.le_trans, Int.le_antisymm, Int.le_max_left, Int.le_max_right, fun _ _ => by omega⟩
theorem picks_min : Picks min (· ≥ ·) :=
  ⟨Int.le_refl, fun h k => Int.le_trans k h, fun h k => Int.le_antisymm k h, Int.min_le_left, Int.min_le_right, fun _ _ => by omega⟩

namespace Picks
variable {op : Int → Int → Int} {R : Int → Int → Prop} (h : Picks op R)
include h

theorem foldl_mem (a : Int) (l : List Int) : l.foldl op a = a ∨ l.foldl op a ∈ l := by
  induction l generalizing a with
  | nil => exact .inl rfl
  | cons b l ih =>
    rw [List.foldl_cons, List.mem_cons]
    obtain hm | hm := ih (op a b)
    · rw [hm]
      exact (h.pick a b).imp_right .inl
    · exact .inr (.inr hm)
theorem start_foldl (a : Int) (l : List Int) : R a (l.foldl op a) := by
  induction l generalizing a with
  | nil => exact h.refl a
  | cons b l ih => exact h.trans (h.left a b) (ih _)
theorem mem_foldl (a : Int) {l : List Int} {b : Int} (hb : b ∈ l) : R b (l.foldl op a) := by
  induction l generalizing a with
  | nil => cases hb
  | cons c l ih =>
    cases hb with
    | head => exact h.trans (h.right a b) (h.start_foldl _ l)
    | tail _ hb => exact ih _ hb

variable {l : List Nat} {sel : Nat → Bool} {v : Nat → Int} {z : Int}

/-- Every selected element is bounded by the fold. -/
theorem selected_foldl {e : Nat} (he : e ∈ l) (hs : sel e = true) : R (v e) (selectedFold op z l sel v) :=
  h.mem_foldl z (List.mem_map.mpr ⟨e, he, if_pos hs⟩)
/-- With an element selected the fold is a selected element, where `z` is beyond none. -/
theorem foldl_selected (hz : ∀ e, R z (v e)) (ha : l.any sel = true) :
    ∃ e ∈ l, sel e = true ∧ selectedFold op z l sel v = v e := by
  obtain ⟨e, he, hs⟩ := List.any_eq_true.mp ha
  have hstart (hm : selectedFold op z l sel v = z) : z = v e :=
    h.antisymm (hz e) (hm ▸ h.selected_foldl he hs)
  obtain hm | hm := h.foldl_mem z (l.map (fun e => if sel e then v e else z))
  · exact ⟨e, he, hs, Eq.trans hm (hstart hm)⟩
  · obtain ⟨k, hk, hv⟩ := List.mem_map.mp hm
    by_cases hks : sel k = true
    · exact ⟨k, hk, hks, hv.symm.trans (if_pos hks)⟩
    · rw [if_neg hks] at hv
      exact ⟨e, he, hs, Eq.trans hv.symm (hstart hv.symm)⟩
/-- With none selected it is the start. -/
theorem foldl_unselected (ha : l.any sel = false) : selectedFold op z l sel v = z := by
  have hz : ∀ x ∈ l.map (fun e => if sel e then v e else z), x = z := by
    intro x hx
    obtain ⟨e, he, rfl⟩ := List.mem_map.mp hx
    exact if_neg (List.any_eq_false.mp ha e he)
  exact (h.foldl_mem z _).elim id (hz _)

end Picks

/-! ### VRED, VDOT and VSCAN by type -/

section
variable {t : BitVec 3} {f : Fmt} (sel : Nat → Bool) (x y : Nat)

theorem vredVal_sum_float (h : fmtOf t = some f) :
    let r := node sumOf (fun e => if sel e then ⟨f.value (lane (bitsOf t) x e), 0⟩ else ⟨.num true 0 0, 0⟩) (levels (bitsOf t)) 0
    vredVal t 0 sel x = ((Fmt.f32.ofVal rne r.v).bits, r.fl) := by
  simp only [vredVal, tyFmt_eq_fmtOf, tyWidth_eq_bitsOf, tyCount_eq_div, h, if_true, tree_register]
  rfl
theorem vredVal_extreme_float (h : fmtOf t = some f) {o : Nat} (ho : o = 1 ∨ o = 2) :
    let r := node (extremeOf f (o == 1)) (fun e => ⟨if sel e then lane (bitsOf t) x e else identOf f o, 0⟩) (levels (bitsOf t)) 0
    vredVal t o sel x = (r.bits, r.fl) := by
  obtain rfl | rfl := ho <;>
  · simp only [vredVal, tyFmt_eq_fmtOf, tyWidth_eq_bitsOf, tyCount_eq_div, h, tree_register]
    rfl
theorem vdotVal_float (h : fmtOf t = some f) :
    let prod (e : Nat) : Exact := exMul (f.value (lane (bitsOf t) x e)) (f.value (lane (bitsOf t) y e))
    let r := node sumOf (fun e => if sel e then ⟨(prod e).v, (prod e).nv⟩ else ⟨.num true 0 0, 0⟩) (levels (bitsOf t)) 0
    vdotVal t sel x y = ((Fmt.f32.ofVal rne r.v).bits, r.fl) := by
  simp only [vdotVal, tyFmt_eq_fmtOf, tyWidth_eq_bitsOf, tyCount_eq_div, h, tree_register]
  rfl
theorem vredVal_sum_int (h : fmtOf t = none) : vredVal t 0 sel x =
    ((BitVec.ofInt 32 (((List.range (512 / bitsOf t)).filter sel).map (fun e => signed (bitsOf t) (lane (bitsOf t) x e))).sum).toNat, 0) := by
  simp only [vredVal, tyFmt_eq_fmtOf, tyWidth_eq_bitsOf, tyCount_eq_div, h, if_true, slane_lane, ← List.sum_eq_foldl, sum_masked Int.zero_add, wrapW_eq_ofInt]
theorem vdotVal_int (h : fmtOf t = none) : vdotVal t sel x y =
    ((BitVec.ofInt 32 (((List.range (512 / bitsOf t)).filter sel).map (fun e =>
      signed (bitsOf t) (lane (bitsOf t) x e) * signed (bitsOf t) (lane (bitsOf t) y e))).sum).toNat, 0) := by
  simp only [vdotVal, tyFmt_eq_fmtOf, tyWidth_eq_bitsOf, tyCount_eq_div, h, slane_lane, ← List.sum_eq_foldl, sum_masked Int.zero_add, wrapW_eq_ofInt]

/-- VRED's extremes of an integer type fold the selected elements from the identity. -/
theorem vredVal_max_int (h : fmtOf t = none) : vredVal t 1 sel x = ((BitVec.ofInt (bitsOf t)
    (selectedFold max (identInt (bitsOf t) 1) (List.range (512 / bitsOf t)) sel (fun e => signed (bitsOf t) (lane (bitsOf t) x e)))).toNat, 0) := by
  simp only [vredVal, tyFmt_eq_fmtOf, tyWidth_eq_bitsOf, tyCount_eq_div, h, slane_lane, wrapW_eq_ofInt]
  rfl
theorem vredVal_min_int (h : fmtOf t = none) : vredVal t 2 sel x = ((BitVec.ofInt (bitsOf t)
    (selectedFold min (identInt (bitsOf t) 2) (List.range (512 / bitsOf t)) sel (fun e => signed (bitsOf t) (lane (bitsOf t) x e)))).toNat, 0) := by
  simp only [vredVal, tyFmt_eq_fmtOf, tyWidth_eq_bitsOf, tyCount_eq_div, h, slane_lane, wrapW_eq_ofInt]
  rfl

theorem vscanVal_float (h : fmtOf t = some f) (o : Nat) :
    let op (a b : Nat) : FRes := if o = 0 then f.add rne a b else if o = 1 then f.fmax a b else f.fmin a b
    let ins (e : Nat) : Nat := if sel e then lane (bitsOf t) x e else identOf f o
    let y := scanAt (fun a b => (op a b).bits) ins
    vscanVal t o sel x = ((List.range (512 / bitsOf t)).map y,
      (List.range (512 / bitsOf t - 1)).foldl (fun fl e => fl ||| (op (y e) (ins (e + 1))).fl) 0) := by
  intro op ins y
  simp only [vscanVal, tyFmt_eq_fmtOf, tyWidth_eq_bitsOf, tyCount_eq_div, h]
  rw [foldl_scan_flags (op := op) (fun _ _ => rfl) (fun _ _ _ _ => rfl), List.reverse_reverse]
  rfl
theorem vscanVal_int (h : fmtOf t = none) (o : Nat) :
    let w := bitsOf t
    let y := scanAt (fun a b => if o = 0 then signed w (BitVec.ofInt w (a + b)).toNat else if o = 1 then max a b else min a b)
      (fun e => if sel e then signed w (lane w x e) else identInt w o)
    vscanVal t o sel x = ((List.range (512 / w)).map (fun e => (BitVec.ofInt w (y e)).toNat), 0) := by
  intro w y
  simp only [vscanVal, tyFmt_eq_fmtOf, tyWidth_eq_bitsOf, tyCount_eq_div, h, slane_lane, slane_wrapW, intIdent_eq_identInt]
  rw [foldl_scan (fun _ => rfl) (fun _ _ _ => rfl), List.reverse_reverse, List.map_map]
  simp only [Function.comp_def, wrapW_eq_ofInt, w, y]

end

/-- The patterns of the identities. -/
theorem ofInt_identInt (t : BitVec 3) : (BitVec.ofInt (bitsOf t) (identInt (bitsOf t) 1)).toNat = 2 ^ (bitsOf t - 1) ∧
    (BitVec.ofInt (bitsOf t) (identInt (bitsOf t) 2)).toNat = 2 ^ (bitsOf t - 1) - 1 := by revert t; decide

/-! ### Instructions that write a whole register -/

/-- The statements' popping of v operands is the desk's. -/
theorem popsV_of_claims {d k : Desk} {rs : List GReg} {vs : List (Vec × Bool)} (h : Claims.popsV d rs = .ok (vs, k)) :
    d.popsV rs = .ok (vs.map (fun v => v.1.toNat), vs.any (·.2), k) := by
  induction rs generalizing d vs with
  | nil => cases h; rfl
  | cons r rs ih =>
    simp only [Claims.popsV] at h
    split at h
    · cases h
    next x hx =>
      split at h
      · cases h
      next ys d' hy =>
        cases h
        simp [Desk.popsV, hx, ih hy, ok_bind]
theorem vecWhole_ok {d k : Desk} {srcs : List GReg} {r : GReg} {vs : List (Vec × Bool)} (f : Desk → List Nat → Nat × FFlags)
    (hl : d.limsV (srcs ++ [r]) = .ok ()) (hp : Claims.popsV d srcs = .ok (vs, k)) (hr : k.roomV r = .ok ()) :
    let x := f d (vs.map (fun v => v.1.toNat))
    vecWhole srcs r f d = .ok { k.pushV r (BitVec.ofNat 512 x.1) (vs.any (·.2)) with fflags := d.fflags ||| x.2 } := by
  simp only [vecWhole, hl, popsV_of_claims hp, hr, ok_bind]
theorem exec_vred (t : BitVec 3) (g : Guard) (o a d : GReg) (s : State) : exec (.vred t g o a d) s = vector .red t g o a d s := rfl
theorem exec_vscan (t : BitVec 3) (g : Guard) (o a d : GReg) (s : State) : exec (.vscan t g o a d) s = vector .scan t g o a d s := rfl
theorem exec_vdot (t : BitVec 3) (g : Guard) (b a d : GReg) (s : State) : exec (.vdot t g b a d) s = vector .dot t g b a d s := rfl
/-- A vector instruction that its unit completes. -/
theorem vector_ok {op : VOp} {t : BitVec 3} {g : Guard} {b a r : GReg} {s : State} {d : Desk} (hs : s.Issues)
    (h : runV op t g b a r s.d = .ok d) : vector op t g b a r s = .next (s.setD d).retire := by
  obtain ⟨hg, hl⟩ := hs
  exact finish_ok hl (by simp [Desk.executes, hg, onDesk_ok h])
/-- One that writes the whole destination. -/
theorem vector_whole_ok {op : VOp} {t : BitVec 3} {g : Guard} {b a r : GReg} {s : State} {k : Desk} {srcs : List GReg}
    {vs : List (Vec × Bool)} {f : Desk → List Nat → Nat × FFlags} (ho : runV op t g b a r s.d = vecWhole srcs r f s.d) (hs : s.Issues)
    (hl : s.d.limsV (srcs ++ [r]) = .ok ()) (hp : Claims.popsV s.d srcs = .ok (vs, k)) (hr : k.roomV r = .ok ()) :
    let x := f s.d (vs.map (fun v => v.1.toNat))
    vector op t g b a r s = .next (s.setD { k.pushV r (BitVec.ofNat 512 x.1) (vs.any (·.2)) with fflags := s.d.fflags ||| x.2 }).retire :=
  vector_ok hs (ho.trans (vecWhole_ok f hl hp hr))

end Sys2Proof.Machine

namespace Sys2Proof.Claims
open Sys2Proof.Machine

/-- Each fold completes as its rule says. -/
theorem exec_fold {i : Instr} {g : Guard} {srcs : List GReg} {d : GReg} {f : (Nat → Bool) → List Nat → Nat × FFlags}
    (hi : foldRule i = some (g, srcs, d, f)) {s : State} {vs : List (Vec × Bool)} {k : Desk} (hs : s.Issues)
    (hl : s.d.limsV (srcs ++ [d]) = .ok ()) (hp : popsV s.d srcs = .ok (vs, k)) (hr : k.roomV d = .ok ()) :
    let r := f (s.d.sel g) (vs.map (fun v => v.1.toNat))
    exec i s = .next ((s.setD { k.pushV d (BitVec.ofNat 512 r.1) (vs.any (·.2)) with fflags := s.d.fflags ||| r.2 }).retire) := by
  unfold foldRule at hi
  split at hi
  case h_1 t g o a d =>
    cases hi
    exact (exec_vred ..).trans (vector_whole_ok (f := fun d x => vredVal t o.toNat (d.sel g) (s0 x)) rfl hs hl hp hr)
  case h_2 t g o a d =>
    cases hi
    rw [← tyWidth_eq_bitsOf]
    exact (exec_vscan ..).trans (vector_whole_ok (f := fun d x => let y := vscanVal t o.toNat (d.sel g) (s0 x); (ofLanes (tyWidth t) y.1, y.2)) rfl hs hl hp hr)
  case h_3 t g b a d =>
    cases hi
    exact (exec_vdot ..).trans (vector_whole_ok (f := fun d x => vdotVal t (d.sel g) (s0 x) (s1 x)) rfl hs hl hp hr)
  case h_4 => cases hi

/-- What O28 says of an integer extreme, by its order: `m` bounds every selected element and is one of them, or is `z`. -/
theorem extreme_spec {t : BitVec 3} {sel : Nat → Bool} {x z : Nat} {op : Int → Int → Int} {R : Int → Int → Prop} (h : Picks op R)
    {i : Int} (hi : ∀ e, R i (signed (bitsOf t) (lane (bitsOf t) x e))) (hz : (BitVec.ofInt (bitsOf t) i).toNat = z) :
    let m := (BitVec.ofInt (bitsOf t)
      (selectedFold op i (List.range (512 / bitsOf t)) sel (fun e => signed (bitsOf t) (lane (bitsOf t) x e)))).toNat
    ((List.range (512 / bitsOf t)).any sel = true →
      (∀ e, e < 512 / bitsOf t → sel e = true → R (signed (bitsOf t) (lane (bitsOf t) x e)) (signed (bitsOf t) m)) ∧
      ∃ e, e < 512 / bitsOf t ∧ sel e = true ∧ lane (bitsOf t) x e = m) ∧
    ((List.range (512 / bitsOf t)).any sel = false → m = z) := by
  intro m
  refine ⟨fun ha => ?_, fun ha => by rw [← hz]; exact congrArg (fun i => (BitVec.ofInt _ i).toNat) (h.foldl_unselected ha)⟩
  obtain ⟨k, hk, hks, hm⟩ := h.foldl_selected hi ha
  have hmk : m = lane (bitsOf t) x k := by
    simp only [m, hm]
    exact ofInt_signed (lane_lt ..)
  refine ⟨fun e he hs => ?_, k, List.mem_range.mp hk, hks, hmk.symm⟩
  rw [hmk, ← hm]
  exact h.selected_foldl (v := fun e => signed (bitsOf t) (lane (bitsOf t) x e)) (List.mem_range.mpr he) hs

/-- Part of O28: the folds complete, and what they give on integers. -/
theorem foldResults : FoldResults := by
  refine ⟨fun i g srcs d f hi s vs k hs hl hp hr => exec_fold hi hs hl hp hr, fun t sel x ht => vredVal_sum_int sel x ht,
    fun t sel x y ht => vdotVal_int sel x y ht, fun t sel x o ht ho => ?_⟩
  obtain rfl | rfl := ho
  · rw [vredVal_max_int sel x ht]
    exact ⟨rfl, extreme_spec picks_max (fun e => (signed_bounds _ _).1) (ofInt_identInt t).1⟩
  · rw [vredVal_min_int sel x ht]
    exact ⟨rfl, extreme_spec picks_min (fun e => (signed_bounds _ _).2) (ofInt_identInt t).2⟩

/-- Part of O28: what the folds give on floats, and scans. -/
theorem foldValues : FoldValues :=
  ⟨fun _ _ sel x ht => vredVal_sum_float sel x ht, fun _ _ sel x _ ht ho => vredVal_extreme_float sel x ht ho,
    fun _ _ sel x y ht => vdotVal_float sel x y ht, fun _ _ sel x o ht _ => vscanVal_float sel x ht o,
    fun _ sel x o ht _ => vscanVal_int sel x ht o⟩

/-- Settles O28: a tree is its node at the level of the register's size, a scan its list in order, and an extreme the further of the
selected elements. -/
theorem vectorFolds : Obligations.VectorFolds := ⟨foldResults, foldValues⟩

end Sys2Proof.Claims

/-! SUPPORT and PROOF. The system registers (O41): MFS and MTS from their guards to what they leave, and the register map row by row (R3,
R362, R363, R390). -/

namespace Sys2Proof.Machine

/-! ### What is written twice -/

@[simp] theorem tset_tset_same {α : Type} (t : Table α) (n : Nat) (x y : α) : tset (tset t n x) n y = tset t n y := by
  induction t with
  | nil => simp [tset]
  | cons p t ih =>
    obtain ⟨k, v⟩ := p
    rcases Nat.lt_trichotomy k n with h | h | h
    · simp [tset, h, ih]
    · simp [tset, h]
    · simp [tset, Nat.lt_asymm h, Nat.ne_of_gt h]
@[simp] theorem Core.put_put (c : Core) (i : DeskId) (d e : Desk) : (c.put i d).put i e = c.put i e := by simp [Core.put]
@[simp] theorem State.setD_setD (s : State) (d e : Desk) : (s.setD d).setD e = s.setD e := by
  simp [State.setD, State.setDeskAt, State.setCoreAt, State.coreAt]

/-! ### Fields of a written value (R55, R138, R357, R385) -/

/-- An address field whose bit 0 reads zero. -/
theorem extract_append_zero (x : Word) : x.extractLsb' 1 56 ++ 0#1 = x.setWidth 57 &&& ~~~1 := by
  refine BitVec.eq_of_getLsbD_eq fun i hi => BitVec.getLsbD_append.trans ?_
  cases i with
  | zero => simp
  | succ i =>
    rw [if_neg (by omega), BitVec.getLsbD_and, BitVec.getLsbD_not, BitVec.getLsbD_setWidth, BitVec.getLsbD_extractLsb']
    simp [hi, Nat.add_comm]
    omega
theorem frmWrite_eq (old : BitVec 4) (x : Word) :
    frmWrite old x = if x.toNat % 8 ≤ 4 then x.setWidth 4 else (x.setWidth 4 &&& 8) ||| (old &&& 7) := by
  have hm : (x.extractLsb' 0 3).toNat = x.toNat % 8 := by simp
  simp only [frmWrite, hm]
  split <;>
  · refine BitVec.eq_of_getLsbD_eq fun i hi => BitVec.getLsbD_append.trans ?_
    obtain rfl | rfl | rfl | rfl : i = 0 ∨ i = 1 ∨ i = 2 ∨ i = 3 := by omega
    all_goals simp
theorem rcctlWrite_eq (old : BitVec 5) (x : Word) :
    rcctlWrite old x = if x.toNat % 32 = 0 ∨ (10 ≤ x.toNat % 32 ∧ x.toNat % 32 ≤ 24) then x.setWidth 5 else old := by
  have hm : (x.extractLsb' 0 5).toNat = x.toNat % 32 := by simp
  have hz : x.extractLsb' 0 5 = 0 ↔ x.toNat % 32 = 0 := by rw [← hm, ← BitVec.toNat_inj]; rfl
  simp only [rcctlWrite, hm, hz]
  rfl
theorem BitBuf.cnt_eq_ofNat (b : BitBuf) : b.cnt = BitVec.ofNat 64 (256 * b.mode.toNat + b.count.toNat) := by
  have hm := b.mode.isLt
  have hc := b.count.isLt
  apply BitVec.eq_of_toNat_eq
  rw [BitVec.toNat_ofNat, Nat.mod_eq_of_lt (by omega), show 256 = 2 ^ 8 from rfl, Nat.two_pow_add_eq_or_of_lt hc]
  simp only [BitBuf.cnt, BitVec.toNat_or, BitVec.toNat_shiftLeft, BitVec.toNat_setWidth, Nat.shiftLeft_eq]
  rw [Nat.mod_eq_of_lt (by omega), Nat.mod_eq_of_lt (by omega), Nat.mod_eq_of_lt (by omega), Nat.mul_comm]
theorem append_low_eq (b : BitVec 128) (x : Word) : b.extractLsb' 64 64 ++ x = (b >>> 64) <<< 64 ||| x.setWidth 128 := by
  refine BitVec.eq_of_getLsbD_eq fun i hi => BitVec.getLsbD_append.trans ?_
  have hi : i < 128 := hi
  by_cases h : i < 64
  · simp [h, hi]
  · have hl : i - 64 < 64 := by omega
    simp [h, hi, hl, BitVec.getLsbD_of_ge x i (Nat.le_of_not_lt h)]
theorem append_high_eq (b : BitVec 128) (x : Word) : x ++ b.extractLsb' 0 64 = x.setWidth 128 <<< 64 ||| (b.setWidth 64).setWidth 128 := by
  refine BitVec.eq_of_getLsbD_eq fun i hi => BitVec.getLsbD_append.trans ?_
  have hi : i < 128 := hi
  by_cases h : i < 64 <;> simp [h, hi]
/-- KSTATE: the merge list's length and a bit for each bound handle. -/
theorem KeyUnit.kstate_eq_ofNat (k : KeyUnit) : k.kstate = BitVec.ofNat 64 (256 * k.merge.length +
    ((List.range 4).map (fun n => if (k.handles.toList.getD n none).isSome then 2 ^ n else 0)).sum) := by
  have hset : k.kstate = BitVec.ofNat 64 (k.merge.length * 256 +
      ((List.range 4).filter (fun n => (k.handles.toList.getD n none).isSome)).foldl (fun a n => a + 2 ^ n) 0) := by
    refine congrArg (fun l => BitVec.ofNat 64 (_ + l.foldl (fun a n => a + 2 ^ n) 0)) (List.filter_congr fun n _ => ?_)
    rw [List.getD_eq_getElem?_getD]
    rcases k.handles.toList[n]? with _ | _ | _ <;> rfl
  rw [hset, sum_masked Nat.zero_add, List.sum_eq_foldl, List.foldl_map, Nat.mul_comm]

/-! ### The map of the registers (R363) -/

open Sys2Proof.Claims in
/-- Each row of the statement's table is what its number reads. -/
theorem readReg_row : ∀ p ∈ sysRead, ∀ s : State, s.readReg (BitVec.ofNat 12 p.1) = some (p.2 s) := by
  simp only [sysRead, List.forall_mem_append, List.forall_mem_cons, List.not_mem_nil, false_imp_iff, implies_true, and_true, ← BitBuf.cnt_eq_ofNat]
  and_intros <;> exact fun _ => rfl

open Sys2Proof.Claims in
/-- Each row of the statement's table is what a write of its number does. -/
theorem writeReg_row : ∀ p ∈ sysWrite, ∀ (s : State) (x : Word), s.writeReg (BitVec.ofNat 12 p.1) x = some (p.2 s x) := by
  simp only [sysWrite, List.map_cons, List.map_nil, List.forall_mem_append, List.forall_mem_cons, List.not_mem_nil, false_imp_iff,
    implies_true, and_true, ← extract_append_zero, ← frmWrite_eq, ← rcctlWrite_eq]
  and_intros <;> exact fun _ _ => rfl
open Sys2Proof.Claims in
/-- A number that is written is also one that reads. -/
theorem readReg_writeRow : ∀ p ∈ sysWrite, ∀ s : State, s.readReg (BitVec.ofNat 12 p.1) ≠ none := by
  simp only [sysWrite, List.map_cons, List.map_nil, List.forall_mem_append, List.forall_mem_cons, List.not_mem_nil, false_imp_iff,
    implies_true, and_true]
  and_intros <;> exact fun _ => Option.some_ne_none _

/-- BBUFLO and BBUFHI: half of the buffer takes the value (R138). -/
theorem writeReg_bufLow (s : State) (x : Word) : s.writeReg 0x040 x =
    some (s.setD { s.d with bb := { s.d.bb with buf := (s.d.bb.buf >>> 64) <<< 64 ||| x.setWidth 128 } }) := by
  rw [← append_low_eq]
  rfl
theorem writeReg_bufHigh (s : State) (x : Word) : s.writeReg 0x041 x =
    some (s.setD { s.d with bb := { s.d.bb with buf := x.setWidth 128 <<< 64 ||| (s.d.bb.buf.setWidth 64).setWidth 128 } }) := by
  rw [← append_high_eq]
  rfl
theorem readReg_monitor {r : BitVec 12} (hl : 0x1C0 ≤ r.toNat) (hu : r.toNat ≤ 0x1DF) (s : State) :
    s.readReg r = some ((s.partAt s.d.part).mon (BitVec.ofNat 5 (r.toNat - 0x1C0))).ctl := by
  unfold State.readReg
  split
  case h_53 => exact if_pos ⟨hl, hu⟩
  all_goals omega
theorem toNat_monctl (n : BitVec 5) : (0x1C0 + n.setWidth 12 : BitVec 12).toNat = 0x1C0 + n.toNat := by
  have hn := n.isLt
  simp
  omega
theorem readReg_monctl (n : BitVec 5) (s : State) :
    s.readReg (0x1C0 + n.setWidth 12) = some ((s.partAt s.d.part).mons[n.toNat]).ctl := by
  have hn := toNat_monctl n
  have hlt := n.isLt
  rw [readReg_monitor (by omega) (by omega), hn, Nat.add_sub_cancel_left, BitVec.ofNat_toNat, BitVec.setWidth_eq]
  rfl
/-- MONCTL is written once every event of the partition has entered its monitors. -/
theorem writeReg_monctl (n : BitVec 5) (s : State) (x : Word) : let p := s.d.part
    let u := s.settle p
    s.writeReg (0x1C0 + n.setWidth 12) x = some (u.setPart p { u.partAt p with
      mons := (u.partAt p).mons.set n.toNat (((u.partAt p).mons[n.toNat]).write x (Config.clkAt u.tick / 2 ^ 16)) }).rewatch := by
  have hn := toNat_monctl n
  have hlt := n.isLt
  have hi : BitVec.ofNat 5 ((0x1C0 + n.setWidth 12 : BitVec 12).toNat - 0x1C0) = n := by
    rw [hn, Nat.add_sub_cancel_left, BitVec.ofNat_toNat, BitVec.setWidth_eq]
  unfold State.writeReg
  split
  case h_34 =>
    rw [if_pos (by omega)]
    simp only [hi]
    rfl
  all_goals omega
open Sys2Proof.Claims in
theorem readReg_unassigned {r : BitVec 12} (h : ¬ assigned r) (s : State) : s.readReg r = none := by
  simp only [assigned, not_or] at h
  obtain ⟨hr, h60, hB1, hm⟩ := h
  unfold State.readReg
  split
  case h_53 => exact if_neg hm
  case h_29 hn => exact absurd (BitVec.eq_of_toNat_eq hn) h60
  case h_52 hn => exact absurd (BitVec.eq_of_toNat_eq hn) hB1
  all_goals next hn => exact absurd (hn ▸ by decide) hr

/-! ### MFS and MTS (R362) -/

section
variable {s t : State} {f : State → Except Stop State}

theorem finish_heldBack_ok (hs : s.Issues) (h : f s = .ok t) : finish (heldBack f) s = .next t.retire :=
  finish_ok hs.2 ((heldBack_free hs.1).trans h)
theorem finish_heldBack_trap (hs : s.Issues) {c : Cause} {x : Word} {a : BitVec 2} (h : f s = .error (.trap c x a)) :
    finish (heldBack f) s = .next (s.traps c x a) :=
  (finish_error hs.2 ((heldBack_free hs.1).trans h)).trans (congrArg _ (stopWith_trap hs.1 ..))

end

/-- A number that the desk's mode may name. -/
theorem notPrivileged {d : Desk} {r : BitVec 12} (h : d.user = true → r.toNat < 0x100) : (d.user && decide (0x100 ≤ r.toNat)) = false := by
  simpa using h
/-- Operands that are there to take are within their limits, and none of them is waited for. -/
theorem limG_await_of_take {d : Desk} {a : GReg} {t : Taken} (h : d.take 0 [a] [] 1 = .ok t) :
    d.limG a = .ok () ∧ d.await [a] [] [] [] = .ok () := by
  unfold Desk.take at h
  split at h
  · cases h
  next hl =>
    split at h
    · cases h
    next xs k hp =>
      refine ⟨((limsG_cons ..).mp hl).1, ?_⟩
      simp only [Desk.await, hp, Desk.popsV, rooms_nil]

section
variable {s : State} {r : BitVec 12} {d : GReg} (hs : s.Issues)
include hs

/-- A privileged number in user mode. -/
theorem execMfs_privileged (hu : s.d.user = true) (hr : 0x100 ≤ r.toNat) : execMfs r d s = .next (s.traps 0x003 s.d.xword 0) :=
  finish_heldBack_trap hs (by simp only [mfs, hu, hr, decide_true, Bool.and_self, if_true, error_bind])
theorem execMts_privileged (hu : s.d.user = true) (hr : 0x100 ≤ r.toNat) : execMts r d s = .next (s.traps 0x003 s.d.xword 0) :=
  finish_heldBack_trap hs (by simp only [mts, hu, hr, decide_true, Bool.and_self, if_true, error_bind])

variable (hn : (s.d.user && decide (0x100 ≤ r.toNat)) = false)
include hn

section
variable (hl : s.d.limG d = .ok ()) (hr : s.d.roomG d = .ok ())
include hl hr

theorem execMfs_read (hB1 : r ≠ 0x1B1) (hsr : r = 0x012 → s.c.mx.srPending s.desk = false) {x : Word} (hx : s.readReg r = some x) :
    execMfs r d s = .next (s.setD (s.d.pushG d x false)).retire := by
  have hw : (decide (r = 0x012) && s.c.mx.srPending s.desk) = false := by simpa using hsr
  exact finish_heldBack_ok hs (by simp only [mfs, hn, hl, hr, hB1, hx, hw, Bool.false_eq_true, if_false, ok_bind])
/-- MONDATA shows the monitors once every event has entered them. -/
theorem execMfs_mondata (h : r = 0x1B1) {x : Word} (hx : (s.settle s.d.part).readReg r = some x) :
    execMfs r d s = .next ((s.settle s.d.part).setD ((s.settle s.d.part).d.pushG d x false)).retire := by
  have hsr : (decide (r = 0x012) && (s.settle s.d.part).c.mx.srPending (s.settle s.d.part).desk) = false := by simp [h]
  exact finish_heldBack_ok hs (by simp only [mfs, hn, hl, hr, if_pos h, hx, hsr, Bool.false_eq_true, if_false, ok_bind])
theorem execMfs_unassigned (hB1 : r ≠ 0x1B1) (hx : s.readReg r = none) : execMfs r d s = .next (s.traps 0x001 s.d.xword 0) :=
  finish_heldBack_trap hs (by simp only [mfs, hn, hl, hr, hB1, hx, Bool.false_eq_true, if_false, ok_bind])

end

section
variable {t : Taken} (ht : s.d.take 0 [d] [] 1 = .ok t)
include ht

theorem execMts_write {u : State} (hx : s.readReg r ≠ none) (hw : (s.setD t.d).writeReg r (t.x 0) = some u) : execMts r d s = .next u.retire := by
  obtain ⟨hl, ha⟩ := limG_await_of_take ht
  have hi : (s.readReg r).isNone = false := Option.isNone_eq_false_iff.mpr (Option.isSome_iff_ne_none.mpr hx)
  exact finish_heldBack_ok hs (by simp only [mts, hn, hl, ha, hi, ht, hw, Bool.false_eq_true, if_false, ok_bind])
theorem execMts_unassigned (hx : s.readReg r = none) : execMts r d s = .next (s.traps 0x001 s.d.xword 0) := by
  obtain ⟨hl, ha⟩ := limG_await_of_take ht
  exact finish_heldBack_trap hs (by
    simp only [mts, hn, hl, ha, hx, Option.isNone_none, Bool.false_eq_true, if_false, if_true, ok_bind, error_bind])

end
end

/-! ### A monitor's control register (R390) -/

@[simp] theorem settle_tick (s : State) (p : PartId) : (s.settle p).tick = s.tick := by
  unfold State.settle
  dsimp only
  split <;> rfl
theorem getLsbD_zero_monctl (x : Word) : (x &&& 0x1FFF1F#64).getLsbD 0 = x.getLsbD 0 := by
  rw [BitVec.getLsbD_and]
  exact Bool.and_true _
/-- EN set clears the monitor. -/
theorem Monitor.write_enabled (m : Monitor) {x : Word} (h : x.getLsbD 0 = true) (w : Nat) :
    m.write x w = { ctl := x &&& 0x1FFF1F, last := w } := if_pos ((getLsbD_zero_monctl x).trans h)
theorem Monitor.write_disabled (m : Monitor) {x : Word} (h : x.getLsbD 0 = false) (w : Nat) :
    m.write x w = { m with ctl := x &&& 0x1FFF1F } := if_neg (by rw [getLsbD_zero_monctl, h]; exact Bool.false_ne_true)
theorem Monitor.write_ctl (m : Monitor) (x : Word) (w : Nat) : (m.write x w).ctl = x &&& 0x1FFF1F := by
  cases h : x.getLsbD 0
  · rw [m.write_disabled h]
  · rw [m.write_enabled h]

end Sys2Proof.Machine

namespace Sys2Proof.Claims
open Sys2Proof.Machine

/-! ### The instructions, by the number that they name -/

theorem exec_of_mfsForm {i : Instr} {r : BitVec 12} {d : GReg} (h : mfsForm i = some (r, d)) (s : State) : exec i s = execMfs r d s := by
  unfold mfsForm at h
  split at h <;> cases h <;> rfl
theorem bitBuffer_number (r : BitVec 3) : (0x040 + (if r.toNat ≤ 4 then r.setWidth 12 else 4) : BitVec 12) = 0x040 + BitVec.ofNat 12 (min 4 r.toNat) := by
  revert r; decide
theorem exec_of_mtsForm {i : Instr} {r : BitVec 12} {a : GReg} (h : mtsForm i = some (r, a)) (s : State) : exec i s = execMts r a s := by
  unfold mtsForm at h
  split at h
  case h_7 => cases h; exact congrArg (execMts · _ s) (bitBuffer_number _)
  all_goals cases h
  all_goals rfl

theorem readReg_of_mem {r : BitVec 12} {f : State → Word} (h : (r.toNat, f) ∈ sysRead) (s : State) : s.readReg r = some (f s) := by
  simpa using readReg_row _ h s
theorem writeReg_of_mem {r : BitVec 12} {f : State → Word → State} (h : (r.toNat, f) ∈ sysWrite) (s : State) (x : Word) :
    s.writeReg r x = some (f s x) := by
  simpa using writeReg_row _ h s x
theorem readReg_ne_none_of_mem {r : BitVec 12} {f : State → Word → State} (h : (r.toNat, f) ∈ sysWrite) (s : State) : s.readReg r ≠ none := by
  simpa using readReg_writeRow _ h s
/-- MONDATA is no row of the table. -/
theorem ne_mondata_of_mem {r : BitVec 12} {f : State → Word} (h : (r.toNat, f) ∈ sysRead) : r ≠ 0x1B1 := by
  rintro rfl
  have hk : 0x1B1 ∈ sysRead.map Prod.fst := List.mem_map_of_mem (f := Prod.fst) h
  exact absurd hk (by decide)
theorem ne_mondata_of_unassigned {r : BitVec 12} (h : ¬ assigned r) : r ≠ 0x1B1 := fun e => h (.inr (.inr (.inl e)))

/-- Settles O41: every row of the map, the registers beside it, and the numbers that trap. -/
theorem systemRegisters : Obligations.SystemRegisters := by
  refine ⟨fun i r d hi s hs hu hl hr hsr => ?read, fun i r a hi s t hs hu ht => ?write, fun i r d hi s hs hu hr => ?privileged⟩
  case read =>
    rw [exec_of_mfsForm hi]
    refine ⟨fun f hf => execMfs_read hs (notPrivileged hu) hl hr (ne_mondata_of_mem hf) hsr (readReg_of_mem hf s), ?kstate, ?monctl,
      fun h => execMfs_mondata hs (notPrivileged hu) hl hr h (by subst h; rfl),
      fun h => execMfs_unassigned hs (notPrivileged hu) hl hr (ne_mondata_of_unassigned h) (readReg_unassigned h s)⟩
    case kstate =>
      rintro rfl
      rw [← KeyUnit.kstate_eq_ofNat]
      exact execMfs_read hs (notPrivileged hu) hl hr (by decide) hsr rfl
    case monctl =>
      rintro n rfl
      have hn := toNat_monctl n
      exact execMfs_read hs (notPrivileged hu) hl hr (fun h => by rw [h] at hn; simp at hn; omega) hsr (readReg_monctl n s)
  case write =>
    rw [exec_of_mtsForm hi]
    refine ⟨fun f hf => execMts_write hs (notPrivileged hu) ht (readReg_ne_none_of_mem hf s) (writeReg_of_mem hf _ _), ?low, ?high, ?monctl,
      fun h => execMts_unassigned hs (notPrivileged hu) ht (readReg_unassigned h s)⟩
    case low =>
      rintro rfl
      exact execMts_write hs (notPrivileged hu) ht (Option.some_ne_none _) (by rw [writeReg_bufLow, State.d_setD, State.setD_setD])
    case high =>
      rintro rfl
      exact execMts_write hs (notPrivileged hu) ht (Option.some_ne_none _) (by rw [writeReg_bufHigh, State.d_setD, State.setD_setD])
    case monctl =>
      rintro n rfl
      refine ⟨_, Monitor.write_ctl _ (t.x 0) _, fun h => ?_, fun h => ?_,
        execMts_write hs (notPrivileged hu) ht (by rw [readReg_monctl]; exact Option.some_ne_none _) (writeReg_monctl n _ _)⟩
      · rw [Monitor.write_enabled _ h, settle_tick, State.setD_tick]
      · rw [Monitor.write_disabled _ h]
  case privileged =>
    obtain hi | hi := hi
    · rw [exec_of_mfsForm hi, execMfs_privileged hs hu hr]
    · rw [exec_of_mtsForm hi, execMts_privileged hs hu hr]

end Sys2Proof.Claims

/-! SUPPORT and PROOF. Compares, moves, conversions and blocks of the vector unit (O26, O27): predicates by their bits, what each operation
leaves on its desk where its operands are there, and register groups within their limits and past them (R50, R118, R125 to R133). -/

namespace Sys2Proof.Machine
open Sys2Proof.Claims (bitsOf fmtOf signed oldV)

/-! ### Predicates by their bits -/

/-- The number that a list of bits makes, lowest first, has those bits. -/
theorem testBit_foldr_bits (bs : List Bool) (e : Nat) :
    (bs.foldr (fun (b : Bool) acc => (if b then 1 else 0) + 2 * acc) 0).testBit e = bs.getD e false := by
  induction bs generalizing e with
  | nil => rw [List.foldr_nil, Nat.zero_testBit, List.getD_nil]
  | cons b bs ih =>
    cases e with
    | zero =>
      have hmod (acc : Nat) : ((if b then 1 else 0) + 2 * acc) % 2 = if b then 1 else 0 := by split <;> omega
      rw [List.foldr_cons, Nat.testBit_zero, hmod, List.getD_cons_zero]
      cases b <;> rfl
    | succ e =>
      have hdiv (acc : Nat) : ((if b then 1 else 0) + 2 * acc) / 2 = acc := by split <;> omega
      simp only [List.foldr_cons, Nat.testBit_succ, hdiv, ih, List.getD_cons_succ]
/-- A predicate made of the first `n` bits of `f` has those, and none from `n` up. -/
theorem getLsbD_ofBits_range (f : Nat → Bool) (n : Nat) {e : Nat} (he : e < 64) :
    (ofBits ((List.range n).map f)).getLsbD e = (decide (e < n) && f e) := by
  rw [ofBits, BitVec.getLsbD_ofNat, testBit_foldr_bits, decide_eq_true he, Bool.true_and]
  rw [List.getD_eq_getElem?_getD, List.getElem?_map]
  by_cases h : e < n
  · rw [decide_eq_true h, Bool.true_and, List.getElem?_range h, Option.map_some, Option.getD_some]
  · rw [decide_eq_false h, Bool.false_and, List.getElem?_eq_none (List.length_range ▸ Nat.le_of_not_lt h), Option.map_none, Option.getD_none]
/-- A register has no more elements than a predicate bits. -/
theorem count_le (t : BitVec 3) : 512 / bitsOf t ≤ 64 := by revert t; decide
theorem any_range_below (f : Nat → Bool) {n m : Nat} (h : n ≤ m) :
    (List.range m).any (fun e => decide (e < n) && f e) = (List.range n).any f := by
  rw [Bool.eq_iff_iff]
  simp only [List.any_eq_true, List.mem_range, Bool.and_eq_true, decide_eq_true_eq]
  constructor
  · rintro ⟨e, -, hn, hf⟩
    exact ⟨e, hn, hf⟩
  · rintro ⟨e, hn, hf⟩
    exact ⟨e, by omega, hn, hf⟩

/-! ### Operands -/

section
variable {d k : Desk} {a b : GReg}

theorem popsV_one {x : Vec} {bx : Bool} (h : Claims.popsV d [a] = .ok ([(x, bx)], k)) : d.popV a = .ok ⟨x, bx, k⟩ := by
  simp only [Claims.popsV] at h
  split at h
  · cases h
  next hx => cases h; exact hx
theorem popsV_two {x y : Vec} {bx bY : Bool} (h : Claims.popsV d [a, b] = .ok ([(x, bx), (y, bY)], k)) :
    ∃ d', d.popV a = .ok ⟨x, bx, d'⟩ ∧ d'.popV b = .ok ⟨y, bY, k⟩ := by
  rw [Claims.popsV] at h
  split at h
  · cases h
  next z hz =>
    split at h
    · cases h
    next ys d' hy =>
      cases h
      exact ⟨z.d, hz, popsV_one hy⟩
theorem popsG_one {x : Word} {bx : Bool} (h : d.popsG [a] = .ok ([(x, bx)], k)) : d.popG a = .ok ⟨x, bx, k⟩ := by
  obtain ⟨z, ys, hz, hy, e⟩ := (popsG_cons ..).mp h
  obtain ⟨rfl, rfl⟩ := (popsG_nil ..).mp hy
  cases e
  exact hz
theorem popsG_two {x y : Word} {bx bY : Bool} (h : d.popsG [a, b] = .ok ([(x, bx), (y, bY)], k)) :
    ∃ d', d.popG a = .ok ⟨x, bx, d'⟩ ∧ d'.popG b = .ok ⟨y, bY, k⟩ := by
  obtain ⟨z, ys, hz, hy, e⟩ := (popsG_cons ..).mp h
  cases e
  exact ⟨z.d, hz, popsG_one hy⟩
theorem limsV_one (h : d.limV a = .ok ()) : d.limsV [a] = .ok () := by simp only [Desk.limsV, h]
/-- An operand that is not poisoned may be used. -/
theorem useV_ok {x : Vec} (h : d.popV a = .ok ⟨x, false, k⟩) : d.useV a = .ok ⟨x, false, k⟩ := by
  simp only [Desk.useV, h, Bool.false_eq_true, if_false]
theorem popV_fflags {x : Opd 512} (h : d.popV a = .ok x) : x.d.fflags = d.fflags := by
  simp only [Desk.popV] at h
  split at h
  · split at h
    · split at h
      · cases h
      · cases h; rfl
    · cases h
  · cases h; rfl
@[simp] theorem pushV_fflags (d : Desk) (r : GReg) (x : Vec) (bad : Bool) : (d.pushV r x bad).fflags = d.fflags := by
  simp only [Desk.pushV]
  split <;> rfl

end

/-- The old destination is read where the guard makes the instruction merge (R118). -/
theorem ite_popV_bind (g : Guard) (d : Desk) (r : GReg) (f : Opd 512 → Except Stop Desk) :
    (if g != 0#4 then d.popV r >>= f else f ⟨0, false, d⟩) = oldV (g != 0#4) d r >>= f := by
  unfold oldV
  split <;> rfl
/-- A wait for room that the destination has, or that is not asked for, is none. -/
theorem ite_roomV_bind {c : Prop} [Decidable c] {d : Desk} {r : GReg} (h : c → d.roomV r = .ok ()) (m : Except Stop Desk) :
    (if c then d.roomV r >>= fun _ => m else m) = m := by
  split
  next hc => rw [h hc, ok_bind]
  next => rfl

/-! ### Ending a vector instruction -/

/-- A vector instruction that its unit refuses. -/
theorem vector_trap {op : VOp} {t : BitVec 3} {g : Guard} {b a r : GReg} {s : State} {c : Cause} {x : Word} (hs : s.Issues)
    (h : runV op t g b a r s.d = .error (.trap c x)) : vector op t g b a r s = .next (s.traps c x 0) := by
  obtain ⟨hg, hl⟩ := hs
  have hx : s.d.executes = true := by simp only [Desk.executes, hg, Option.map_none]
  exact (finish_error hl ((if_pos hx).trans (onDesk_error h))).trans (congrArg _ (stopWith_trap hg ..))

theorem exec_vnfin (t : BitVec 3) (g : Guard) (a : GReg) (p : PReg) (s : State) : exec (.vnfin t g a p) s = vector .nfin t g 0 a (p.setWidth 5) s := rfl
theorem exec_vsel (t : BitVec 3) (c : Guard) (b a d : GReg) (s : State) : exec (.vsel t c b a d) s = vector .sel t c b a d s := rfl
theorem exec_viota (t : BitVec 3) (g : Guard) (d : GReg) (s : State) : exec (.viota t g d) s = vector .iota t g 0 0 d s := rfl
theorem exec_vbcast (t : BitVec 3) (g : Guard) (a d : GReg) (s : State) : exec (.vbcast t g a d) s = vector .bcast t g 0 a d s := rfl
theorem exec_vextr (t : BitVec 3) (g : Guard) (b a d : GReg) (s : State) : exec (.vextr t g b a d) s = vector .extr t g b a d s := rfl
theorem exec_vins (t : BitVec 3) (g : Guard) (b a d : GReg) (s : State) : exec (.vins t g b a d) s = vector .ins t g b a d s := rfl
theorem exec_vperm (t : BitVec 3) (g : Guard) (b a d : GReg) (s : State) : exec (.vperm t g b a d) s = vector .perm t g b a d s := rfl
theorem exec_vcvt (t : BitVec 3) (g : Guard) (r : BitVec 2) (src : BitVec 3) (a d : GReg) (s : State) :
    exec (.vcvt t g r src a d) s = vector .cvt t g (r ++ src) a d s := rfl
theorem exec_vhad (n a d : GReg) (s : State) : exec (.vhad n a d) s = vector .had 0 0 n a d s := rfl
theorem exec_vpack (t : BitVec 3) (a d : GReg) (s : State) : exec (.vpack t a d) s = vector .pack t 0 0 a d s := rfl
theorem exec_vunpk (t : BitVec 3) (a d : GReg) (s : State) : exec (.vunpk t a d) s = vector .unpk t 0 0 a d s := rfl

/-! ### Compares (R125, R127) -/

theorem preg_of_field (p : PReg) : (p.setWidth 5 : GReg).setWidth 3 = p := by
  rw [BitVec.setWidth_setWidth_of_le _ (by decide), BitVec.setWidth_eq]
/-- A compare of integers sets no flag. -/
theorem cmpLane_int_flags {t : BitVec 3} (h : fmtOf t = none) (op : VOp) (x y : Nat) : (cmpLane t op x y).2 = 0 := by
  simp only [cmpLane, tyFmt_eq_fmtOf, h]

/-- What VCMP makes of element `e`: the outcome and flags of the compare where the guard selects it, the predicate's own bit elsewhere. -/
def Desk.compared (d : Desk) (op : VOp) (t : BitVec 3) (g : Guard) (p : PReg) (x y e : Nat) : Bool × FFlags :=
  if d.sel g e then cmpLane t op (lane (bitsOf t) x e) (lane (bitsOf t) y e) else ((d.getP p).getLsbD e, 0)
theorem compared_int_flags {t : BitVec 3} (h : fmtOf t = none) (d : Desk) (op : VOp) (g : Guard) (p : PReg) (x y e : Nat) :
    (d.compared op t g p x y e).2 = 0 := by
  unfold Desk.compared
  split
  · exact cmpLane_int_flags h ..
  · rfl
/-- The flags of all elements together. -/
def flagsOf (l : List (Bool × FFlags)) : FFlags := l.foldl (fun a x => a ||| x.2) 0
theorem flagsOf_eq_zero {l : List (Bool × FFlags)} (h : ∀ x ∈ l, x.2 = 0) : flagsOf l = 0 :=
  List.foldlRecOn (motive := (· = 0)) l _ rfl fun b hb x hx => by rw [hb, h x hx]; rfl

/-- VCMP of two clean operands. -/
theorem vcmp_ok {d k : Desk} {t : BitVec 3} {g : Guard} {b a : GReg} {x y : Vec} (op : VOp) (p : PReg) (hl : d.limsV [a, b] = .ok ())
    (hp : Claims.popsV d [a, b] = .ok ([(x, false), (y, false)], k)) :
    let r := (List.range (512 / bitsOf t)).map (d.compared op t g p x.toNat y.toNat)
    vcmp op t g b a p d = .ok { k.setP p (ofBits (r.map (·.1))) with fflags := d.fflags ||| flagsOf r } := by
  obtain ⟨d', hx, hy⟩ := popsV_two hp
  have hw : d.await [] [a, b] [] [] = .ok () := by simp only [Desk.await, Desk.popsG, popsV_of_claims hp, rooms_nil]
  simp only [vcmp, hl, hw, useV_ok hx, useV_ok hy, ok_bind, tyWidth_eq_bitsOf, tyCount_eq_div]
  rfl
/-- VNFIN of a clean operand. -/
theorem vnfin_ok {d k : Desk} {t : BitVec 3} {g : Guard} {a : GReg} {x : Vec} (p : PReg) (hl : d.limV a = .ok ())
    (hp : Claims.popsV d [a] = .ok ([(x, false)], k)) :
    let hit (e : Nat) : Bool := d.sel g e && nonFinite t (lane (bitsOf t) x.toNat e)
    vnfin t g a p d = .ok { k.setP p (ofBits ((List.range (512 / bitsOf t)).map hit)) with
      fflags := d.fflags ||| (if (List.range (512 / bitsOf t)).any hit then flNF else 0) } := by
  simp only [vnfin, limsV_one hl, useV_ok (popsV_one hp), ok_bind, tyWidth_eq_bitsOf, tyCount_eq_div, List.any_map, Function.id_comp]

/-! ### Movement (R126, R128, R129) -/

section
variable {d : Desk} {t : BitVec 3} {g : Guard} {b a r : GReg}

/-- A register made of the elements that `f` gives. -/
def vecOf (t : BitVec 3) (f : Nat → Nat) : Vec := BitVec.ofNat 512 (ofLanes (bitsOf t) ((List.range (512 / bitsOf t)).map f))

theorem runV_sel_ok {k : Desk} {x y : Vec} {bx bY : Bool} (hl : d.limsV [a, b, r] = .ok ())
    (hp : Claims.popsV d [a, b] = .ok ([(x, bx), (y, bY)], k)) (hr : k.roomV r = .ok ()) :
    runV .sel t g b a r d = .ok (k.pushV r (vecOf t fun e => lane (bitsOf t) (if d.sel g e then x else y).toNat e) (bx || bY)) := by
  have hsel (e : Nat) : (if d.sel g e then lane (bitsOf t) x.toNat e else lane (bitsOf t) y.toNat e) =
      lane (bitsOf t) (if d.sel g e then x else y).toNat e := by split <;> rfl
  simp only [runV, hl, popsV_of_claims hp, hr, ok_bind, tyWidth_eq_bitsOf, tyCount_eq_div, vecOf, ← hsel, List.any_cons, List.any_nil, Bool.or_false]
  rfl
theorem count_le_two_pow (t : BitVec 3) : 512 / bitsOf t ≤ 2 ^ bitsOf t := by revert t; decide
/-- The number of an element fits into it. -/
theorem index_mod (t : BitVec 3) {e : Nat} (he : e < 512 / bitsOf t) : e % 2 ^ bitsOf t = e := by
  have hle := count_le_two_pow t
  exact Nat.mod_eq_of_lt (by omega)
theorem runV_iota_ok {o : Opd 512} (hl : d.limV r = .ok ()) (ho : oldV (g != 0#4) d r = .ok o) (hr : o.d.roomV r = .ok ()) :
    runV .iota t g b a r d = .ok (o.d.pushV r (vecOf t fun e => if d.sel g e then e else lane (bitsOf t) o.val.toNat e) o.bad) := by
  have hxs : (List.range (512 / bitsOf t)).map (fun e => if d.sel g e then e % 2 ^ bitsOf t else lane (bitsOf t) o.val.toNat e) =
      (List.range (512 / bitsOf t)).map (fun e => if d.sel g e then e else lane (bitsOf t) o.val.toNat e) :=
    List.map_congr_left fun e he => by rw [index_mod t (List.mem_range.mp he)]
  simp only [runV, hl, ↓ite_popV_bind, ho, hr, ok_bind, tyWidth_eq_bitsOf, tyCount_eq_div, hxs, vecOf]
theorem vbcast_ok {k : Desk} {x : Word} {bx : Bool} {o : Opd 512} (hl : d.limG a = .ok ()) (hv : d.limV r = .ok ())
    (hp : d.popsG [a] = .ok ([(x, bx)], k)) (ho : oldV (g != 0#4) k r = .ok o) (hr : o.d.roomV r = .ok ()) :
    vbcast t g a r d = .ok (o.d.pushV r (vecOf t fun e => if d.sel g e then x.toNat % 2 ^ bitsOf t else lane (bitsOf t) o.val.toNat e)
      (bx || o.bad)) := by
  simp only [vbcast, hl, hv, popsG_one hp, ↓ite_popV_bind, ho, hr, ok_bind, tyWidth_eq_bitsOf, tyCount_eq_div, vecOf]
theorem vextr_ok {k k' : Desk} {x : Vec} {y : Word} {bx bY : Bool} (hl : d.limV a = .ok ()) (hg : d.limsG [b, r] = .ok ())
    (hx : d.popV a = .ok ⟨x, bx, k⟩) (hy : k.popG b = .ok ⟨y, bY, k'⟩) (hr : d.guard g = true → k'.roomG r = .ok ()) :
    let e := lane (bitsOf t) x.toNat (y.toNat % (512 / bitsOf t))
    vextr t g b a r d = .ok (d.scalarOut k' g r
      (if (fmtOf t).isSome then BitVec.ofNat 64 e else BitVec.ofInt 64 (signed (bitsOf t) e)) (bx || bY)) := by
  simp only [vextr, hl, hg, hx, hy, ok_bind, Desk.scalarOut, tyWidth_eq_bitsOf, tyCount_eq_div, tyFmt_eq_fmtOf, slane_lane]
  split
  next h => simp only [hr h, ok_bind]
  next => rfl
theorem vins_ok {k : Desk} {x y : Word} {bx bY : Bool} {o : Opd 512} (hg : d.limsG [a, b] = .ok ()) (hl : d.limV r = .ok ())
    (hp : d.popsG [a, b] = .ok ([(x, bx), (y, bY)], k)) (ho : k.popV r = .ok o) (hr : o.d.roomV r = .ok ()) :
    let n := y.toNat % (512 / bitsOf t)
    vins t g b a r d = .ok (o.d.pushV r
      (vecOf t fun e => if e = n ∧ d.sel g n = true then x.toNat % 2 ^ bitsOf t else lane (bitsOf t) o.val.toNat e) (bx || bY || o.bad)) := by
  obtain ⟨d', hx, hy⟩ := popsG_two hp
  simp only [vins, hg, hl, hx, hy, ho, hr, ok_bind, tyWidth_eq_bitsOf, tyCount_eq_div, vecOf, Bool.and_eq_true, beq_iff_eq]
theorem vperm_ok {k : Desk} {x y : Vec} {bx bY : Bool} {o : Opd 512} (hl : d.limsV [a, b, r] = .ok ())
    (hp : Claims.popsV d [a, b] = .ok ([(x, bx), (y, bY)], k)) (ho : oldV (g != 0#4) k r = .ok o) (hr : o.d.roomV r = .ok ()) :
    vperm t g b a r d = .ok (o.d.pushV r (vecOf t fun e => if d.sel g e then
      lane (bitsOf t) x.toNat (lane (bitsOf t) y.toNat e % (512 / bitsOf t)) else lane (bitsOf t) o.val.toNat e) (bx || bY || o.bad)) := by
  obtain ⟨d', hx, hy⟩ := popsV_two hp
  simp only [vperm, hl, hx, hy, ↓ite_popV_bind, ho, hr, ok_bind, tyWidth_eq_bitsOf, tyCount_eq_div, vecOf]

end

/-! ### Groups, conversions and blocks (R50, R118, R131 to R133) -/

section
variable {d k : Desk} {a r : GReg}

/-- Reading a group leaves the flags. -/
theorem popGroup_fflags {n x : Nat} {bad : Bool} (h : d.popGroup a n = .ok (x, bad, k)) : k.fflags = d.fflags := by
  simp only [Desk.popGroup] at h
  split at h
  · cases hp : d.popV a with
    | error e => rw [hp] at h; cases h
    | ok y => rw [hp] at h; cases h; exact popV_fflags hp
  · cases h; rfl
/-- Writing a group leaves the flags. -/
@[simp] theorem pushGroup_fflags (d : Desk) (r : GReg) (n x : Nat) (bad : Bool) : (d.pushGroup r n x bad).fflags = d.fflags := by
  unfold Desk.pushGroup
  split
  · exact pushV_fflags ..
  · exact List.foldlRecOn (motive := fun k : Desk => k.fflags = d.fflags) _ _ rfl fun k hk i _ => (Desk.setV_fflags ..).trans hk
/-- In user mode, without queues, a group that passes the last of 32 registers is refused for the first number beyond it. -/
theorem limGroup_past {n : Nat} (hu : d.user = true) (hq : d.kern.queues = false) (hv : d.kern.vregs = 32) (h : 32 < a.toNat + n) :
    d.limGroup a n = .error (.trap 0x006 0x120) := by
  have ha := a.isLt
  have hfind : (List.range n).find? (fun i => decide (32 ≤ a.toNat + i)) = some (32 - a.toNat) := by
    rw [List.find?_range_eq_some]
    refine ⟨decide_eq_true (by omega), List.mem_range.mpr (by omega), fun j hj => ?_⟩
    rw [decide_eq_false (by omega)]
    rfl
  have hsum : a.toNat + (32 - a.toNat) = 32 := by omega
  simp only [Desk.limGroup, hu, hq, hv, List.find?_map, Function.comp_def, Bool.true_and, Bool.false_and, Bool.not_false, hfind,
    Option.map_some, hsum]
  rfl

theorem vhad_ok {n : GReg} {x : Nat} {bx : Bool} (hg : d.groups a (2 ^ n.toNat) r (2 ^ n.toNat) = .ok ())
    (hp : d.popGroup a (2 ^ n.toNat) = .ok (x, bx, k)) (hr : n = 0 → k.roomV r = .ok ()) :
    let y := hadamard (4 + n.toNat) ((List.range (16 * 2 ^ n.toNat)).map (lane 32 x))
    vhad n a r d = .ok { k.pushGroup r (2 ^ n.toNat) (ofLanes 32 y.1) bx with fflags := d.fflags ||| y.2 } := by
  have hone (h : 2 ^ n.toNat = 1) : n = 0 := BitVec.eq_of_toNat_eq ((Nat.pow_eq_one.mp h).resolve_left (by decide))
  simp only [vhad, hg, hp, ok_bind, ite_roomV_bind fun h => hr (hone h)]
theorem vhad_past (n : GReg) (hu : d.user = true) (hq : d.kern.queues = false) (hv : d.kern.vregs = 32) (h : 32 < a.toNat + 2 ^ n.toNat) :
    vhad n a r d = .error (.trap 0x006 0x120) := by
  simp only [vhad, Desk.groups, limGroup_past hu hq hv h, error_bind]
theorem vpack_ok {t : BitVec 3} {x : Nat} {bx : Bool} (hg : d.groups a ((sxOf t).n / 16) r 1 = .ok ())
    (hp : d.popGroup a ((sxOf t).n / 16) = .ok (x, bx, k)) (hr : k.roomV r = .ok ()) :
    let y := (sxOf t).pack ((List.range (sxOf t).n).map (fun e => Fmt.f32.value (lane 32 x e)))
    vpack t a r d = .ok { k.pushV r (BitVec.ofNat 512 y.1) bx with fflags := d.fflags ||| y.2 } := by
  simp only [vpack, hg, hp, hr, ok_bind]
section
variable {t : BitVec 3} {x : Nat} {bx : Bool} (hg : d.groups a 1 r ((sxOf t).n / 16) = .ok ()) (hp : d.popGroup a 1 = .ok (x, bx, k))
include hg hp

theorem vunpk_ok {xs : List FVal} (hx : (sxOf t).read x = .ok xs) :
    vunpk t a r d = .ok { k.pushGroup r ((sxOf t).n / 16) (ofLanes 32 (xs.map (fun v => (Fmt.f32.ofVal rne v).bits))) bx with
      fflags := d.fflags ||| xs.foldl (fun f v => f ||| (Fmt.f32.ofVal rne v).fl) 0 } := by
  simp only [vunpk, hg, hp, hx, ok_bind, List.map_map, Function.comp_def, List.foldl_map]
theorem vunpk_foreign {c : Nat} (hx : (sxOf t).read x = .error c) : vunpk t a r d = .error (.trap 0x088 (BitVec.ofNat 64 c)) := by
  simp only [vunpk, hg, hp, hx, ok_bind]

end

/-- The rounding that VCVT names (R132). -/
theorem vcvt_mode (m : BitVec 3) (rr : BitVec 2) :
    (if rr = 0#2 then m else if rr = 1#2 then 0 else if rr = 2#2 then 1 else 4) = [m, 0, 1, 4].getD rr.toNat 0 := by
  revert m rr; decide
/-- VCVT of groups that are there, the old destination read under a guard. -/
theorem vcvt_ok {k' : Desk} {t src : BitVec 3} {g : Guard} {x o : Nat} {bx bo : Bool} (rr : BitVec 2) :
    let na := if bitsOf t < bitsOf src then bitsOf src / bitsOf t else 1
    let nd := if bitsOf src < bitsOf t then bitsOf t / bitsOf src else 1
    d.groups a na r nd = .ok () → d.popGroup a na = .ok (x, bx, k) →
    (if g != 0#4 then k.popGroup r nd = .ok (o, bo, k') else o = 0 ∧ bo = false ∧ k' = k) → (nd = 1 → k'.roomV r = .ok ()) →
    let l := lanesFrom (d.sel g) true { d.rm with mode := [d.rm.mode, 0, 1, 4].getD rr.toNat 0 } (lane (bitsOf t) o)
      (fun m e => cvtLane src t m (lane (bitsOf src) x e)) (512 / min (bitsOf t) (bitsOf src)) 0 d.srseed
    vcvt t g rr src a r d = .ok { k'.pushGroup r nd (ofLanes (bitsOf t) l.xs) (bx || bo) with fflags := d.fflags ||| l.fl, srseed := l.seed } := by
  intro na nd hg hp ho hr l
  have hfl : k'.fflags = d.fflags := by
    rw [← popGroup_fflags hp]
    split at ho
    · exact popGroup_fflags ho
    · obtain ⟨-, -, rfl⟩ := ho; rfl
  simp only [vcvt, tyWidth_eq_bitsOf, vcvt_mode, hg, hp, ok_bind, na, nd]
  split at ho
  next h => simp only [h, if_true, ho, ok_bind, ite_roomV_bind hr, Desk.fpDone, pushGroup_fflags, hfl, l, nd]
  next h =>
    obtain ⟨rfl, rfl, rfl⟩ := ho
    simp only [h, Bool.false_eq_true, if_false, ite_roomV_bind hr, Desk.fpDone, pushGroup_fflags, hfl, l, nd]

end

end Sys2Proof.Machine

namespace Sys2Proof.Claims
open Sys2Proof.Machine

/-- Each compare is VCMP with its operation. -/
theorem exec_compare {i : Instr} {t : BitVec 3} {g : Guard} {b a : GReg} {p : PReg} {op : VOp} {f : Int → Int → Bool}
    (hi : compareRule i = some (t, g, b, a, p, op, f)) (s : State) : exec i s = vector op t g b a (p.setWidth 5) s ∧
      runV op t g b a (p.setWidth 5) s.d = vcmp op t g b a p s.d := by
  have hp := preg_of_field p
  unfold compareRule at hi
  split at hi
  case h_5 => cases hi
  all_goals
    cases hi
    exact ⟨rfl, congrArg (vcmp _ _ _ _ _ · _) hp⟩
/-- On integers a compare is that of the two's complement values. -/
theorem cmpLane_int {i : Instr} {t : BitVec 3} {g : Guard} {b a : GReg} {p : PReg} {op : VOp} {f : Int → Int → Bool}
    (hi : compareRule i = some (t, g, b, a, p, op, f)) (ht : fmtOf t = none) {x y : Nat} (hx : x < 2 ^ bitsOf t) (hy : y < 2 ^ bitsOf t) :
    cmpLane t op x y = (f (signed (bitsOf t) x) (signed (bitsOf t) y), 0) := by
  rw [← slane_eq_signed (bitsOf_pos t) hx, ← slane_eq_signed (bitsOf_pos t) hy]
  unfold compareRule at hi
  split at hi
  case h_5 => cases hi
  all_goals
    cases hi
    simp only [cmpLane, tyFmt_eq_fmtOf, ht, tyWidth_eq_bitsOf]

/-- Settles O26: a predicate by its bits, and integers by their values. -/
theorem vectorCompare : Obligations.VectorCompare := by
  refine ⟨fun i t g b a p op f hi s x y k hs hl _ hp => ?compare, fun i t g b a p op f hi ht x y hx hy => cmpLane_int hi ht hx hy,
    fun t g a p s x k hs hl hp => ?nonFinite⟩
  case compare =>
    obtain ⟨hexec, hrun⟩ := exec_compare hi s
    refine ⟨_, _, hexec.trans (vector_ok hs (hrun.trans (vcmp_ok op p hl hp))), fun e he => ⟨?_, fun ht => flagsOf_eq_zero ?_⟩⟩
    · rw [List.map_map, getLsbD_ofBits_range _ _ he, Function.comp_apply, Desk.compared]
      by_cases hn : 512 / bitsOf t ≤ e
      · rw [if_pos hn, decide_eq_false (Nat.not_lt_of_le hn), Bool.false_and]
      · rw [if_neg hn, decide_eq_true (Nat.lt_of_not_le hn), Bool.true_and]
        exact apply_ite Prod.fst ..
    · intro z hz
      obtain ⟨e, -, rfl⟩ := List.mem_map.mp hz
      exact compared_int_flags ht ..
  case nonFinite =>
    intro hit
    have hhit : hit = fun e => decide (e < 512 / bitsOf t) && (s.d.sel g e && nonFinite t (lane (bitsOf t) x.toNat e)) := by
      funext e
      simp only [hit, nonFinite, tyFmt_eq_fmtOf, Bool.and_assoc]
      cases fmtOf t <;> rfl
    have hrun : runV .nfin t g 0 a (p.setWidth 5) s.d = vnfin t g a p s.d := congrArg (vnfin t g a · s.d) (preg_of_field p)
    rw [hhit, any_range_below _ (count_le t)]
    exact ⟨_, (exec_vnfin ..).trans (vector_ok hs (hrun.trans (vnfin_ok p hl hp))), fun e he => getLsbD_ofBits_range _ _ he⟩

/-- Part of O27: each move completes as its operation says. -/
theorem laneMoves : LaneMoves :=
  ⟨fun _ _ _ _ _ _ _ _ _ _ _ hs hl hp hr => (exec_vsel ..).trans (vector_ok hs (runV_sel_ok hl hp hr)),
    fun _ _ _ _ _ hs hl ho hr => (exec_viota ..).trans (vector_ok hs (runV_iota_ok hl ho hr)),
    fun _ _ _ _ _ _ _ _ _ hs hl hv hp ho hr => (exec_vbcast ..).trans (vector_ok hs (vbcast_ok hl hv hp ho hr)),
    fun _ _ _ _ _ _ _ _ _ _ _ _ hs hl hg hx hy hr => (exec_vextr ..).trans (vector_ok hs (vextr_ok hl hg hx hy hr)),
    fun _ _ _ _ _ _ _ _ _ _ _ _ hs hg hl hp ho hr => (exec_vins ..).trans (vector_ok hs (vins_ok hg hl hp ho hr)),
    fun _ _ _ _ _ _ _ _ _ _ _ _ hs hl hp ho hr => (exec_vperm ..).trans (vector_ok hs (vperm_ok hl hp ho hr))⟩

/-- Part of O27: conversions, transforms and blocks complete on their groups, and a group past the last register is refused. -/
theorem vectorConvert : VectorConvert := by
  refine ⟨fun t g rr src a d s x bx k o bo k' hs => ?convert,
    fun n a d s x bx k hs _ hg hp hr => (exec_vhad ..).trans (vector_ok hs (vhad_ok hg hp hr)),
    fun t a d s x bx k hs hg hp hr => (exec_vpack ..).trans (vector_ok hs (vpack_ok hg hp hr)),
    fun t a d s x bx k xs hs hg hp hx => (exec_vunpk ..).trans (vector_ok hs (vunpk_ok hg hp hx)),
    fun t a d s x bx k c hs hg hp hx => (exec_vunpk ..).trans (vector_trap hs (vunpk_foreign hg hp hx)),
    fun n a d s hs _ hu hq hv h => (exec_vhad ..).trans (vector_trap hs (vhad_past n hu hq hv h))⟩
  case convert =>
    intro na nd hg hp ho hr mode l
    have hrun : runV .cvt t g (rr ++ src) a d s.d = vcvt t g rr src a d s.d := by
      simp only [runV, BitVec.extractLsb'_append_eq_left, BitVec.extractLsb'_append_eq_right]
    exact (exec_vcvt ..).trans (vector_ok hs (hrun.trans (vcvt_ok rr hg hp ho hr)))

/-- Settles O27: the moves and the conversions. -/
theorem vectorMoves : Obligations.VectorMoves := ⟨laneMoves, vectorConvert⟩

end Sys2Proof.Claims

/-! SUPPORT and PROOF. The bit-field instructions (O2): the bits of a mask, an insertion, a funnel and a reversal, and the five instructions in
their terms (R143). -/

namespace Sys2Proof.Machine

/-- A mask of m ones has them lowest. -/
theorem getLsbD_lowMask (m : Nat) {j : Nat} (hj : j < 64) : (lowMask m).getLsbD j = decide (j < m) := by
  rw [lowMask, BitVec.getLsbD_ofNat, Nat.testBit_two_pow_sub_one, decide_eq_true hj, Bool.true_and]
  exact decide_eq_decide.mpr (by omega)
/-- BFX takes the field; one that starts beyond bit 63 is empty. -/
theorem getLsbD_bfx (x b : Word) {j : Nat} (hj : j < 64) : let n := b.toNat % 256; let p := b.toNat / 256 % 256
    (bfx x b).getLsbD j = (decide (p ≤ 63) && decide (j < n) && x.getLsbD (p + j)) := by
  simp only [bfx]
  generalize b.toNat % 256 = n, b.toNat / 256 % 256 = p
  by_cases hp : p ≤ 63
  · rw [if_pos hp, BitVec.getLsbD_and, BitVec.getLsbD_ushiftRight, getLsbD_lowMask _ hj, decide_eq_true hp, Bool.true_and, Bool.and_comm]
  · rw [if_neg hp, decide_eq_false hp, Bool.false_and, Bool.false_and]
    exact BitVec.getLsbD_zero
/-- BFI replaces the field and keeps every other bit. -/
theorem getLsbD_bfi (old x b : Word) {j : Nat} (hj : j < 64) : let n := b.toNat % 256; let p := b.toNat / 256 % 256
    (bfi old x b).getLsbD j = if p ≤ j ∧ j < p + n then x.getLsbD (j - p) else old.getLsbD j := by
  simp only [bfi]
  generalize b.toNat % 256 = n, b.toNat / 256 % 256 = p
  by_cases hp : p ≤ 63
  · rw [if_pos hp]
    simp only [BitVec.getLsbD_or, BitVec.getLsbD_and, BitVec.getLsbD_not, BitVec.getLsbD_shiftLeft, getLsbD_lowMask _ (show j - p < 64 by omega),
      decide_eq_true hj, Bool.true_and]
    by_cases hpj : j < p
    · rw [if_neg (by omega), decide_eq_true hpj]
      simp
    · by_cases hn : j < p + n
      · rw [if_pos ⟨by omega, hn⟩, decide_eq_false hpj, decide_eq_true (show j - p < n by omega)]
        simp
      · rw [if_neg (by omega), decide_eq_false hpj, decide_eq_false (show ¬ j - p < n by omega)]
        simp
  · rw [if_neg hp, if_neg (by omega)]
/-- FSHL shifts the high bits of x in from below. -/
theorem getLsbD_fshl (old x b : Word) {j : Nat} (hj : j < 64) : let n := b.toNat % 64
    (fshl old x b).getLsbD j = if j < n then x.getLsbD (64 + j - n) else old.getLsbD (j - n) := by
  intro n
  have hn : n < 64 := Nat.mod_lt _ (by decide)
  rw [fshl, BitVec.getLsbD_extractLsb', BitVec.getLsbD_shiftLeft, BitVec.getLsbD_append, decide_eq_true hj,
    decide_eq_true (show 64 + j < 64 + 64 by omega), decide_eq_false (show ¬ 64 + j < n by omega), Bool.true_and, Bool.true_and, Bool.not_false,
    Bool.true_and]
  by_cases h : j < n
  · rw [if_pos h, if_pos (show 64 + j - n < 64 by omega)]
  · rw [if_neg h, if_neg (show ¬ 64 + j - n < 64 by omega), show 64 + j - n - 64 = j - n by omega]
/-- FSHR shifts the low bits of x in from above. -/
theorem getLsbD_fshr (old x b : Word) {j : Nat} (hj : j < 64) : let n := b.toNat % 64
    (fshr old x b).getLsbD j = if j + n < 64 then old.getLsbD (j + n) else x.getLsbD (j + n - 64) := by
  intro n
  rw [fshr, BitVec.getLsbD_setWidth, BitVec.getLsbD_ushiftRight, BitVec.getLsbD_append, decide_eq_true hj, Bool.true_and, Nat.add_comm j n]
/-- Bits taken lowest first, each below those before it, stand in reverse. -/
theorem testBit_foldl_reversed (x n j : Nat) :
    ((List.range n).foldl (fun a i => 2 * a + x / 2 ^ i % 2) 0).testBit j = (decide (j < n) && x.testBit (n - 1 - j)) := by
  induction n generalizing j with
  | zero => simp
  | succ n ih =>
    rw [List.range_succ, List.foldl_append, List.foldl_cons, List.foldl_nil]
    generalize hacc : (List.range n).foldl (fun a i => 2 * a + x / 2 ^ i % 2) 0 = acc at ih
    have hbit : x / 2 ^ n % 2 < 2 := Nat.mod_lt _ (by decide)
    cases j with
    | zero =>
      rw [Nat.testBit_zero, show (2 * acc + x / 2 ^ n % 2) % 2 = x / 2 ^ n % 2 by omega, decide_eq_true (Nat.succ_pos n), Bool.true_and]
      exact Nat.testBit_eq_decide_div_mod_eq.symm
    | succ j =>
      rw [Nat.testBit_succ, show (2 * acc + x / 2 ^ n % 2) / 2 = acc by omega, ih, show n + 1 - 1 - (j + 1) = n - 1 - j by omega]
      exact congrArg (· && _) (decide_eq_decide.mpr (by omega))
/-- BREV reverses. -/
theorem getLsbD_bitRev (x : Word) {j : Nat} (hj : j < 64) : (bitRev x).getLsbD j = x.getLsbD (63 - j) := by
  rw [bitRev, BitVec.getLsbD_ofNat, testBit_foldl_reversed, decide_eq_true hj, Bool.true_and, Bool.true_and, BitVec.testBit_toNat]

end Sys2Proof.Machine

namespace Sys2Proof.Claims
open Sys2Proof.Machine

/-- Each field instruction writes a value of its operands whose bits are those of its rule. -/
theorem exec_fieldRule {i : Instr} {g : Guard} {rs : List GReg} {d : GReg} {f : List Word → Nat → Bool} (hi : fieldRule i = some (g, rs, d, f)) :
    ∃ v : Taken → Word, (∀ s, exec i s = finish (heldBack (onDesk (field g rs d v))) s) ∧
      ∀ t : Taken, ∀ j < 64, (v t).getLsbD j = f t.xs j := by
  unfold fieldRule at hi
  split at hi
  case h_6 => cases hi
  case h_1 => cases hi; exact ⟨_, fun _ => rfl, fun _ _ hj => getLsbD_bfx (hj := hj) ..⟩
  case h_2 => cases hi; exact ⟨_, fun _ => rfl, fun _ _ hj => getLsbD_bfi (hj := hj) ..⟩
  case h_3 => cases hi; exact ⟨_, fun _ => rfl, fun _ _ hj => getLsbD_fshl (hj := hj) ..⟩
  case h_4 => cases hi; exact ⟨_, fun _ => rfl, fun _ _ hj => getLsbD_fshr (hj := hj) ..⟩
  case h_5 => cases hi; exact ⟨_, fun _ => rfl, fun _ _ hj => getLsbD_bitRev _ hj⟩

/-- Settles O2: a field instruction writes the value of its rule, and the bits of that value are those of R143. -/
theorem bitFields : Obligations.BitFields := by
  intro i g rs d f hi s xs k hs hl hp hr
  obtain ⟨v, hexec, hbits⟩ := exec_fieldRule hi
  exact ⟨_, hbits ⟨s.d.guard g, xs.map (·.1), xs.any (·.2), k⟩,
    (hexec s).trans (finish_heldBack_ok hs (onDesk_ok (field_ok hl hp hr)))⟩

end Sys2Proof.Claims

/-! SUPPORT. The bits of a stream as a number (R137), and a buffer that holds them (R138, R140). -/

namespace Sys2Proof.Machine
open Sys2Proof.Claims (streamBit holds firstBits)

/-! ### Bytes as bits -/

/-- Bit i of bytes read together is bit i % 8 of byte i / 8. -/
theorem testBit_leNat_creads (m : Cells) (a n i : Nat) :
    (leNat (creads m a n)).testBit i = (decide (i < 8 * n) && (cget m (a + i / 8)).getLsbD (i % 8)) := by
  induction n generalizing a i with
  | zero => simp [creads, leNat]
  | succ n ih =>
    rw [creads, leNat, Nat.add_comm, Nat.testBit_two_pow_mul_add (i := 8) _ (BitVec.isLt _)]
    by_cases hi : i < 8
    · rw [if_pos hi, BitVec.testBit_toNat, decide_eq_true (show i < 8 * (n + 1) by omega), Nat.div_eq_of_lt hi, Nat.mod_eq_of_lt hi, Bool.true_and,
        Nat.add_zero]
    · rw [if_neg hi, ih, show a + 1 + (i - 8) / 8 = a + i / 8 by omega, show (i - 8) % 8 = i % 8 by omega]
      exact congrArg (· && _) (decide_eq_decide.mpr (by omega))
theorem length_natLe (x n : Nat) : (natLe x n).length = n := by
  induction n generalizing x with
  | zero => rfl
  | succ n ih => exact congrArg (· + 1) (ih _)
/-- The powers of two of a number's low bits add up to them. -/
theorem foldl_two_pow_bits (x : Nat) {n : Nat} {f : Nat → Prop} [DecidablePred f] (h : ∀ j < n, x.testBit j = decide (f j)) :
    (List.range n).foldl (fun a j => a + if f j then 2 ^ j else 0) 0 = x % 2 ^ n := by
  induction n with
  | zero => exact (Nat.mod_one x).symm
  | succ n ih =>
    rw [List.range_succ, List.foldl_append, ih fun j hj => h j (by omega), Nat.mod_pow_succ, ← Nat.toNat_testBit, h n (by omega), List.foldl_cons,
      List.foldl_nil]
    by_cases hf : f n <;> simp [hf]

/-! ### Bits of a stream -/

/-- A number is the `n` bits of a core's stream from position `p`, lowest first. -/
structure StreamBits (c : Core) (p n x : Nat) : Prop where
  lt : x < 2 ^ n
  bit : ∀ j < n, x.testBit j = streamBit c (p + j)

namespace StreamBits
variable {c : Core} {p n x : Nat}

theorem nil (c : Core) (p : Nat) : StreamBits c p 0 0 := ⟨Nat.one_pos, fun _ h => absurd h (Nat.not_lt_zero _)⟩
/-- Bytes of the scratchpad are their bits of the stream. -/
theorem bytes (c : Core) (a n : Nat) : StreamBits c (8 * a) (8 * n) (leNat (c.padRead a n)) where
  lt := Nat.lt_pow_two_of_testBit _ fun i hi => by
    rw [Core.padRead, testBit_leNat_creads, decide_eq_false (by omega), Bool.false_and]
  bit j hj := by
    rw [Core.padRead, testBit_leNat_creads, decide_eq_true hj, Bool.true_and, streamBit, show (8 * a + j) / 8 = a + j / 8 by omega,
      show (8 * a + j) % 8 = j % 8 by omega]
/-- Without its lowest bits the rest starts further on. -/
theorem drop (h : StreamBits c p n x) (k : Nat) : StreamBits c (p + k) (n - k) (x / 2 ^ k) where
  lt := Nat.div_lt_of_lt_mul (Nat.lt_of_lt_of_le h.lt ((Nat.pow_add 2 k (n - k)).symm ▸ Nat.pow_le_pow_right (by decide) (by omega)))
  bit j hj := by
    rw [Nat.testBit_div_two_pow, h.bit _ (by omega), Nat.add_assoc, Nat.add_comm j]
/-- What follows stands above. -/
theorem append {m y : Nat} (h : StreamBits c p n x) (hy : StreamBits c (p + n) m y) : StreamBits c p (n + m) (x + y * 2 ^ n) := by
  rw [Nat.add_comm x, Nat.mul_comm y]
  have hbits := Nat.testBit_two_pow_mul_add y h.lt
  refine ⟨Nat.lt_pow_two_of_testBit _ fun i hi => ?_, fun j hj => ?_⟩
  · rw [hbits, if_neg (by omega)]
    exact Nat.testBit_lt_two_pow (Nat.lt_of_lt_of_le hy.lt (Nat.pow_le_pow_right (by decide) (by omega)))
  · rw [hbits]
    split
    · exact h.bit j ‹_›
    · rw [hy.bit _ (by omega), show p + n + (j - n) = p + j by omega]
/-- No bits are the number 0. -/
theorem eq_zero (h : StreamBits c p 0 x) : x = 0 := Nat.lt_one_iff.mp h.lt

end StreamBits

/-! ### The buffer (R138) -/

section
variable {b : BitBuf}

theorem BitBuf.pos_reading (hm : b.mode = 1#2) : b.pos = 8 * (b.ptr.toNat : Int) - b.count.toNat := if_neg (by rw [hm]; decide)
theorem BitBuf.pos_writing (hm : b.mode = 2#2) : b.pos = 8 * (b.ptr.toNat : Int) + b.count.toNat := if_pos hm
/-- What R138 asks of a buffer that is read: BBPTR is as far on as a full buffer brings it. -/
theorem BitBuf.sound_reading (hm : b.mode = 1#2) : b.sound = true ↔ b.count.toNat ≤ 128 ∧ b.buf.toNat < 2 ^ b.count.toNat ∧
    b.count.toNat ≤ 8 * b.ptr.toNat ∧ b.ptr.toNat = min b.stop.toNat ((8 * b.ptr.toNat - b.count.toNat + 128) / 8) := by
  have hpos : b.pos.toNat = 8 * b.ptr.toNat - b.count.toNat := by rw [pos_reading hm]; omega
  simp only [BitBuf.sound, hm, hpos, Bool.and_eq_true, decide_eq_true_eq, if_true]
  rw [pos_reading hm]
  constructor
  · rintro ⟨⟨⟨⟨-, hc⟩, -⟩, hb⟩, h0, hp⟩
    exact ⟨hc, hb, by omega, hp⟩
  · rintro ⟨hc, hb, h0, hp⟩
    exact ⟨⟨⟨⟨rfl, hc⟩, by omega⟩, hb⟩, by omega, hp⟩
/-- What R138 asks of a buffer that is written. -/
theorem BitBuf.sound_writing (hm : b.mode = 2#2) (h : b.sound = true) : b.count.toNat ≤ 7 ∧ b.buf.toNat < 2 ^ b.count.toNat := by
  have hne : ¬ (2#2 = 1#2) := by decide
  simp only [BitBuf.sound, hm, hne, Bool.and_eq_true, decide_eq_true_eq, if_true, if_false] at h
  obtain ⟨⟨-, hb⟩, hc⟩ := h
  exact ⟨hc, hb⟩

variable {c : Core}

/-- A buffer that holds its stream holds the COUNT bits from its position. -/
theorem holds_streamBits (h : holds c b) : StreamBits c b.pos.toNat b.count.toNat b.buf.toNat := by
  obtain ⟨hm, hs, hbits⟩ := h
  obtain ⟨-, hlt, -, -⟩ := (BitBuf.sound_reading hm).mp hs
  exact ⟨hlt, fun j hj => (BitVec.testBit_toNat _).trans (hbits j hj)⟩
/-- Up to 32 bits of the buffer are the first of the stream: past the bits held the stream has ended. -/
theorem firstBits_eq_peek (h : holds c b) {n : Nat} (hn : n ≤ 32) : firstBits c b n = b.peek n := by
  have hx := holds_streamBits h
  obtain ⟨hm, hs, -⟩ := h
  obtain ⟨-, -, h0, hptr⟩ := (BitBuf.sound_reading hm).mp hs
  have hpos : b.pos.toNat = 8 * b.ptr.toNat - b.count.toNat := by rw [BitBuf.pos_reading hm]; omega
  refine foldl_two_pow_bits _ fun j hj => ?_
  by_cases hc : j < b.count.toNat
  · rw [hx.bit j hc, eq_comm, Bool.decide_and, decide_eq_true (by omega), Bool.true_and, Bool.decide_eq_true]
  · rw [Nat.testBit_lt_two_pow (Nat.lt_of_lt_of_le hx.lt (Nat.pow_le_pow_right (by decide) (by omega))), eq_comm, decide_eq_false_iff_not, not_and]
    omega

end

end Sys2Proof.Machine

/-! SUPPORT. The refill of a buffer (R138, R141), and what every bit-stream instruction shares. -/

namespace Sys2Proof.Machine
open Sys2Proof.Claims (holds)

/-! ### The refill -/

/-- Where a refill begins to read: at BBPTR, or at the byte of a position that keeps nothing. -/
def BitBuf.refillFrom (b : BitBuf) (p : Nat) (fresh : Bool) : Nat := if fresh then p / 8 else b.ptr.toNat
/-- Where it ends: no more than 128 bits on, or at the stream's end. -/
def BitBuf.refillTo (b : BitBuf) (p : Nat) : Nat := min b.stop.toNat ((p + 128) / 8)
/-- The bits from position `p` that the buffer holds already. -/
def BitBuf.kept (b : BitBuf) (p : Nat) (fresh : Bool) : Nat := if fresh then 0 else b.buf.toNat / 2 ^ (p - b.pos.toNat)
/-- The bits that the bytes read bring, placed for a buffer at position `p`. -/
def Core.fetched (c : Core) (p lo hi : Nat) : Nat :=
  let got := leNat (c.padRead lo (hi - lo))
  if p ≤ 8 * lo then got * 2 ^ (8 * lo - p) else got / 2 ^ (p - 8 * lo)
/-- The buffer after a move to `p`. -/
def BitBuf.refilled (b : BitBuf) (c : Core) (p : Nat) (fresh : Bool) : BitBuf :=
  let lo := b.refillFrom p fresh
  let hi := b.refillTo p
  { b with
    mode := 1, buf := BitVec.ofNat 128 (b.kept p fresh + c.fetched p lo hi), ptr := BitVec.ofNat 19 (max lo hi)
    count := BitVec.ofNat 8 (8 * max lo hi - p) }

/-- Bits up to a byte and the bytes from there make the stream from position `p`; a position inside the first byte drops what is below. -/
theorem streamBits_fetched {c : Core} {p lo hi x : Nat} (h : StreamBits c p (8 * lo - p) x) (hlo : lo ≤ hi) :
    StreamBits c p (8 * hi - p) (x + c.fetched p lo hi) := by
  have hgot := StreamBits.bytes c lo (hi - lo)
  unfold Core.fetched
  dsimp only
  by_cases hp : p ≤ 8 * lo
  · have happ := h.append (y := leNat (c.padRead lo (hi - lo))) (m := 8 * (hi - lo)) (by rwa [show p + (8 * lo - p) = 8 * lo by omega])
    rwa [if_pos hp, show 8 * hi - p = 8 * lo - p + 8 * (hi - lo) by omega]
  · rw [show 8 * lo - p = 0 by omega] at h
    have hdrop := hgot.drop (p - 8 * lo)
    rw [show 8 * lo + (p - 8 * lo) = p by omega, show 8 * (hi - lo) - (p - 8 * lo) = 8 * hi - p by omega] at hdrop
    rw [if_neg hp, h.eq_zero, Nat.zero_add]
    exact hdrop

section
variable {s : State} {b : BitBuf} {p : Nat} {fresh : Bool}

/-- A move to a position of the stream leaves the buffer there, holding the stream from there. -/
theorem refilled_holds {c : Core} (hto : b.refillFrom p fresh ≤ b.refillTo p) (hend : p ≤ 8 * b.stop.toNat)
    (hkept : StreamBits c p (8 * b.refillFrom p fresh - p) (b.kept p fresh)) :
    holds c (b.refilled c p fresh) ∧ (b.refilled c p fresh).pos = p := by
  have hx := streamBits_fetched hkept hto
  have hhi : b.refillTo p = min b.stop.toNat ((p + 128) / 8) := rfl
  have hptr : (b.refilled c p fresh).ptr.toNat = b.refillTo p := by
    rw [BitBuf.refilled, BitVec.toNat_ofNat, Nat.max_eq_right hto]
    exact Nat.mod_eq_of_lt (by have := b.stop.isLt; omega)
  have hcount : (b.refilled c p fresh).count.toNat = 8 * b.refillTo p - p := by
    rw [BitBuf.refilled, BitVec.toNat_ofNat, Nat.max_eq_right hto]
    exact Nat.mod_eq_of_lt (by omega)
  have hbuf : (b.refilled c p fresh).buf.toNat = b.kept p fresh + c.fetched p (b.refillFrom p fresh) (b.refillTo p) :=
    (BitVec.toNat_ofNat ..).trans (Nat.mod_eq_of_lt (Nat.lt_of_lt_of_le hx.lt (Nat.pow_le_pow_right (by decide) (by omega))))
  have hpos : (b.refilled c p fresh).pos = p := by
    rw [BitBuf.pos_reading rfl, hptr, hcount]; omega
  refine ⟨⟨rfl, (BitBuf.sound_reading rfl).mpr ?_, fun j hj => ?_⟩, hpos⟩
  · rw [hbuf, hptr, hcount]
    refine ⟨by omega, hx.lt, by omega, ?_⟩
    rw [show 8 * b.refillTo p - (8 * b.refillTo p - p) = p by omega]
    exact hhi
  · rw [← BitVec.testBit_toNat, hbuf, hpos, Int.toNat_natCast]
    exact hx.bit j (hcount ▸ hj)

/-- No tile is filled: a read waits for none (R151). -/
theorem mayRead_ok (h : ∀ t ∈ s.c.tiles.toList, t.st ≠ .filling) (off n : Nat) : s.mayRead off n = .ok () := by
  have hfind : s.c.findTile (fun t => t.overlaps off n && t.foreign s.self) = none := by
    refine List.findIdx?_eq_none_iff.mpr fun t ht => ?_
    rw [Tile.foreign, decide_eq_false (h t ht), Bool.false_and, Bool.and_false]
  simp only [State.mayRead, hfind]
theorem padBadAt_clean {c : Core} (h : c.padPoison = []) (off n : Nat) : c.padBadAt off n = none := by simp [Core.padBadAt, h]
/-- A run of bytes within the region. -/
theorem outside_none {d : Desk} {off n : Nat} (hlo : d.base ≤ off) (hhi : off + n ≤ d.base + d.kern.scratch) : d.outside off n = none := by
  rw [Desk.outside, if_neg (Nat.not_lt_of_le hlo), if_neg (Nat.not_lt_of_le hhi), ite_self]

/-- A move within clean bytes of the region that no tile fills has no fault. -/
theorem bbMove_ok (hto : b.refillFrom p fresh ≤ b.refillTo p) (hend : p ≤ 8 * b.stop.toNat) (hlo : s.d.base ≤ b.refillFrom p fresh)
    (hhi : b.stop.toNat ≤ s.d.base + s.d.kern.scratch) (htile : ∀ t ∈ s.c.tiles.toList, t.st ≠ .filling) (hpoison : s.c.padPoison = []) :
    bbMove s b p fresh = .ok (b.refilled s.c p fresh) := by
  have hstop : b.refillTo p ≤ b.stop.toNat := Nat.min_le_left ..
  have hout : s.d.outside (b.refillFrom p fresh) (b.refillTo p - b.refillFrom p fresh) = none := outside_none hlo (by omega)
  unfold BitBuf.refillFrom BitBuf.refillTo at hout
  simp only [bbMove, hout, if_neg (Nat.not_lt_of_le hend), mayRead_ok htile, padBadAt_clean hpoison, ite_self, ok_bind]
  rfl

end

/-- A read-mode buffer goes on to a later position of its stream. -/
theorem bbMove_on {s : State} {b : BitBuf} {p : Nat} (hb : holds s.c b) (hp : b.pos.toNat ≤ p) (hend : p ≤ 8 * b.stop.toNat)
    (hlo : s.d.base ≤ b.ptr.toNat) (hhi : b.stop.toNat ≤ s.d.base + s.d.kern.scratch) (htile : ∀ t ∈ s.c.tiles.toList, t.st ≠ .filling)
    (hpoison : s.c.padPoison = []) : ∃ u, bbMove s b p false = .ok u ∧ holds s.c u ∧ u.pos = p ∧ u.stop = b.stop := by
  have hx := (holds_streamBits hb).drop (p - b.pos.toNat)
  obtain ⟨hm, hs, -⟩ := hb
  obtain ⟨-, -, h0, hptr⟩ := (BitBuf.sound_reading hm).mp hs
  have hpos : b.pos.toNat = 8 * b.ptr.toNat - b.count.toNat := by rw [BitBuf.pos_reading hm]; omega
  have hto : b.refillFrom p false ≤ b.refillTo p := by
    show b.ptr.toNat ≤ min b.stop.toNat ((p + 128) / 8)
    omega
  rw [show b.pos.toNat + (p - b.pos.toNat) = p by omega, show b.count.toNat - (p - b.pos.toNat) = 8 * b.ptr.toNat - p by omega] at hx
  obtain ⟨hu, hup⟩ := refilled_holds hto hend hx
  exact ⟨_, bbMove_ok hto hend hlo hhi htile hpoison, hu, hup, rfl⟩
/-- A buffer takes up a stream at any of its positions. -/
theorem bbMove_fresh {s : State} {b : BitBuf} {p : Nat} (hend : p ≤ 8 * b.stop.toNat) (hlo : 8 * s.d.base ≤ p)
    (hhi : b.stop.toNat ≤ s.d.base + s.d.kern.scratch) (htile : ∀ t ∈ s.c.tiles.toList, t.st ≠ .filling) (hpoison : s.c.padPoison = []) :
    ∃ u, bbMove s b p true = .ok u ∧ holds s.c u ∧ u.pos = p ∧ u.stop = b.stop := by
  have hto : b.refillFrom p true ≤ b.refillTo p := by
    show p / 8 ≤ min b.stop.toNat ((p + 128) / 8)
    omega
  have hx : StreamBits s.c p (8 * (p / 8) - p) 0 := by
    rw [show 8 * (p / 8) - p = 0 by omega]
    exact .nil s.c p
  obtain ⟨hu, hup⟩ := refilled_holds hto hend hx
  exact ⟨_, bbMove_ok hto hend (by show s.d.base ≤ p / 8; omega) hhi htile hpoison, hu, hup, rfl⟩

/-! ### The shared course of an instruction (R141) -/

/-- Reading an operand leaves the bit-stream unit and the region. -/
theorem popG_keeps {d : Desk} {r : GReg} {x : Opd 64} (h : d.popG r = .ok x) : x.d.bb = d.bb ∧ x.d.base = d.base ∧ x.d.kern = d.kern := by
  simp only [Desk.popG] at h
  split at h
  · split at h
    · split at h
      · cases h
      · cases h; exact ⟨rfl, rfl, rfl⟩
    · cases h
  · cases h; exact ⟨rfl, rfl, rfl⟩
/-- So does reading several. -/
theorem popsG_keeps {d k : Desk} {rs : List GReg} {xs : List (Word × Bool)} (h : d.popsG rs = .ok (xs, k)) :
    k.bb = d.bb ∧ k.base = d.base ∧ k.kern = d.kern := by
  induction rs generalizing d xs with
  | nil =>
    obtain ⟨-, rfl⟩ := (popsG_nil ..).mp h
    exact ⟨rfl, rfl, rfl⟩
  | cons r rs ih =>
    obtain ⟨x, ys, hx, hy, -⟩ := (popsG_cons ..).mp h
    obtain ⟨hb, hbase, hkern⟩ := popG_keeps hx
    obtain ⟨ihb, ihbase, ihkern⟩ := ih hy
    exact ⟨ihb.trans hb, ihbase.trans hbase, ihkern.trans hkern⟩
/-- Clean operands have no fault. -/
theorem cleanG_ok (rs : List GReg) {xs : List (Word × Bool)} (h : xs.any (·.2) = false) : cleanG rs xs = .ok () := by
  induction rs generalizing xs with
  | nil => rfl
  | cons r rs ih =>
    cases xs with
    | nil => rfl
    | cons x xs =>
      obtain ⟨hx, hxs⟩ : x.2 = false ∧ xs.any (·.2) = false := Bool.or_eq_false_iff.mp h
      exact (if_neg (by rw [hx]; exact Bool.false_ne_true)).trans (ih hxs)

section
variable {s t : State} {g : Guard} {rs more : List GReg} {modes : List (BitVec 2)} {xs : List (Word × Bool)} {k : Desk}
  {f : State → Taken → Except Stop State}

/-- A bit-stream instruction that its guard selects, with clean operands and in a mode of its own, does its own work. -/
theorem bbOp_ok (hg : s.d.guard g = true) (hl : s.d.limsG (rs ++ more) = .ok ()) (hp : s.d.popsG rs = .ok (xs, k))
    (hr : k.rooms more [] = .ok ()) (hc : xs.any (·.2) = false) (hb : s.d.bb.sound = true)
    (hm : (modes.isEmpty || modes.contains s.d.bb.mode) = true) (h : f s ⟨true, xs.map (·.1), false, k⟩ = .ok t) :
    bbOp g rs more modes f s = .ok t := by
  obtain ⟨hkb, -, -⟩ := popsG_keeps hp
  simp only [bbOp, take_ok hl hp (fun _ => hr) (fun _ => cleanG_ok _ hc), ok_bind, hg, hc, if_true, BitBuf.need, hkb, hb, hm, Bool.and_self, h]
/-- It completes. -/
theorem finish_bbOp (hs : s.Issues) (hg : s.d.guard g = true) (hl : s.d.limsG (rs ++ more) = .ok ()) (hp : s.d.popsG rs = .ok (xs, k))
    (hr : k.rooms more [] = .ok ()) (hc : xs.any (·.2) = false) (hb : s.d.bb.sound = true)
    (hm : (modes.isEmpty || modes.contains s.d.bb.mode) = true) (h : f s ⟨true, xs.map (·.1), false, k⟩ = .ok t) :
    finish (heldBack (bbOp g rs more modes f)) s = .next t.retire :=
  finish_heldBack_ok hs (bbOp_ok hg hl hp hr hc hb hm h)

end

end Sys2Proof.Machine

/-! PROOF. The bit reader and the bit writer (O23): what each instruction leaves where it has no fault (R140). -/

namespace Sys2Proof.Machine
open Sys2Proof.Claims (holds firstBits)

theorem bbN_ok {x : Word} {hi : Nat} (h1 : 1 ≤ x.toNat) (hn : x.toNat ≤ hi) : bbN x hi = .ok x.toNat := if_pos ⟨h1, hn⟩
theorem bbBounds_ok {d : Desk} {start stop : Word} (hlo : d.base ≤ start.toNat) (hle : start.toNat ≤ stop.toNat)
    (hhi : stop.toNat ≤ d.base + d.kern.scratch) : bbBounds d start stop = .ok () := by
  rw [bbBounds, if_neg (Nat.not_lt_of_le hle), if_neg (Nat.not_lt_of_le hlo), if_neg (Nat.not_lt_of_le hhi)]

/-! ### Readers -/

/-- A reader in read mode, with clean operands, completes with its own work. -/
theorem finish_bbOp_reading {s t : State} {g : Guard} {rs more : List GReg} {xs : List (Word × Bool)} {k : Desk} {f : State → Taken → Except Stop State}
    (hs : s.Issues) (hg : s.d.guard g = true) (hl : s.d.limsG (rs ++ more) = .ok ()) (hp : s.d.popsG rs = .ok (xs, k))
    (hr : k.rooms more [] = .ok ()) (hc : xs.any (·.2) = false) (hb : holds s.c s.d.bb) (h : f s ⟨true, xs.map (·.1), false, k⟩ = .ok t) :
    finish (heldBack (bbOp g rs more [1] f)) s = .next t.retire := by
  obtain ⟨hm, hsound, -⟩ := hb
  exact finish_bbOp hs hg hl hp hr hc hsound (by rw [hm]; rfl) h

section
variable {s : State} {t : Taken} {b u : BitBuf} (hb : t.d.bb = b)
include hb

theorem bbget_ok {d : GReg} (h1 : 1 ≤ (t.x 0).toNat) (hn : (t.x 0).toNat ≤ 32) (hm : bbMove s b (b.pos.toNat + (t.x 0).toNat) false = .ok u) :
    bbget d s t = .ok (s.setD { t.d.pushG d (BitVec.ofNat 64 (b.peek (t.x 0).toNat)) false with bb := u }) := by
  simp only [bbget, bbN_ok h1 hn, hb, hm, ok_bind]
theorem bbskip_ok (hm : bbMove s b (b.pos.toNat + (t.x 0).toNat) false = .ok u) : bbskip s t = .ok (s.setD { t.d with bb := u }) := by
  simp only [bbskip, hb, hm, ok_bind]
theorem bbseek_ok (hm : bbMove s b (t.x 0).toNat true = .ok u) : bbseek s t = .ok (s.setD { t.d with bb := u }) := by
  simp only [bbseek, hb, hm, ok_bind]
theorem bbinit_ok (hbounds : bbBounds t.d (t.x 0) (t.x 1) = .ok ())
    (hm : bbMove s { b with stop := (t.x 1).setWidth 19, buf := 0 } (8 * (t.x 0).toNat) true = .ok u) :
    bbinit s t = .ok (s.setD { t.d with bb := u }) := by
  simp only [bbinit, hbounds, hb, hm, ok_bind]
theorem bbpeek_ok {d : GReg} (h1 : 1 ≤ (t.x 0).toNat) (hn : (t.x 0).toNat ≤ 32) :
    bbpeek d s t = .ok (s.setD (t.d.pushG d (BitVec.ofNat 64 (b.peek (t.x 0).toNat)) false)) := by
  simp only [bbpeek, bbN_ok h1 hn, hb, ok_bind]
/-- A look-up in an even table within the region. -/
theorem bblut_ok {d : GReg} {ea : Nat} (h1 : 1 ≤ (t.x 1).toNat) (hn : (t.x 1).toNat ≤ 16) (he : (t.x 0).toNat % 2 = 0)
    (hea : (t.x 0).toNat + 2 * b.peek (t.x 1).toNat = ea) (hfit : ea < 2 ^ 64) (hout : t.d.outside ea 2 = none) (hread : s.mayRead ea 2 = .ok ()) :
    bblut d s t = .ok (s.setD (t.d.pushG d (BitVec.ofNat 64 (leNat (s.c.padRead ea 2))) (s.c.padBad ea 2))) := by
  have haddr : (t.x 0 + BitVec.ofNat 64 (2 * b.peek (t.x 1).toNat)).toNat = ea := by
    rw [BitVec.toNat_add, BitVec.toNat_ofNat]; omega
  have heven : (t.x 0).getLsbD 0 = false := by
    rw [← BitVec.testBit_toNat, Nat.testBit_zero, he]; rfl
  simp only [bblut, bbN_ok h1 hn, hb, ok_bind, heven, Bool.false_eq_true, if_false, haddr, hout, hread]

end

/-! ### Writers -/

theorem creads_padWrite_natLe (c : Core) (a x n : Nat) (bad : Bool) : creads (c.padWrite a (natLe x n) bad).pad a n = natLe x n := by
  have h := creads_cwrites c.pad a (natLe x n)
  rwa [length_natLe] at h
theorem cget_padWrite_other (c : Core) (a x n : Nat) (bad : Bool) {i : Nat} (h : i < a ∨ a + n ≤ i) :
    cget (c.padWrite a (natLe x n) bad).pad i = cget c.pad i := by
  rw [Core.padWrite, cget_cwrites, length_natLe, if_neg (by omega)]
theorem cget_padWrite_byte (c : Core) (a : Nat) (x : BitVec 128) (bad : Bool) : cget (c.padWrite a (natLe x.toNat 1) bad).pad a = x.setWidth 8 := by
  rw [Core.padWrite, cget_cwrites, length_natLe, if_pos (by omega), Nat.sub_self, ← BitVec.ofNat_toNat]
  rfl

theorem bbinitw_ok {s : State} {t : Taken} (hbounds : bbBounds t.d (t.x 0) (t.x 1) = .ok ()) :
    bbinitw s t = .ok (s.setD { t.d with bb := ⟨0, 2, 0, (t.x 0).setWidth 19, (t.x 1).setWidth 19⟩ }) := by
  simp only [bbinitw, hbounds, ok_bind]
/-- Bytes that the low `n` bits of a value complete. -/
def BitBuf.completed (b : BitBuf) (n : Nat) : Nat := (b.count.toNat + n) / 8
/-- What the buffer and the low `n` bits of a value hold together. -/
def BitBuf.joined (b : BitBuf) (v : Word) (n : Nat) : Nat := b.buf.toNat + v.toNat % 2 ^ n * 2 ^ b.count.toNat
/-- The buffer after BBPUT: what no byte took. -/
def BitBuf.put (b : BitBuf) (v : Word) (n : Nat) : BitBuf :=
  { b with
    buf := BitVec.ofNat 128 (b.joined v n / 2 ^ (8 * b.completed n)), count := BitVec.ofNat 8 (b.count.toNat + n - 8 * b.completed n)
    ptr := b.ptr + BitVec.ofNat 19 (b.completed n) }

section
variable {b : BitBuf} (hm : b.mode = 2#2) (hs : b.sound = true) {n : Nat}
include hm hs

/-- BBPUT moves on by its bits, also where they complete a byte. -/
theorem put_pos (v : Word) (hstop : b.ptr.toNat + b.completed n ≤ b.stop.toNat) : (b.put v n).pos = b.pos + n := by
  obtain ⟨hc, -⟩ := b.sound_writing hm hs
  have hfull : b.completed n = (b.count.toNat + n) / 8 := rfl
  have hstopLt := b.stop.isLt
  have hptr : (b.put v n).ptr.toNat = b.ptr.toNat + b.completed n := by
    rw [BitBuf.put, BitVec.toNat_add, BitVec.toNat_ofNat]; omega
  have hcount : (b.put v n).count.toNat = b.count.toNat + n - 8 * b.completed n := by
    rw [BitBuf.put, BitVec.toNat_ofNat]; omega
  rw [BitBuf.pos_writing (b := b.put v n) hm, BitBuf.pos_writing hm, hptr, hcount]
  omega
/-- No bit is lost: the buffer keeps what no byte took. -/
theorem put_buf (v : Word) (hn : n ≤ 64) : (b.put v n).buf.toNat = b.joined v n / 2 ^ (8 * b.completed n) := by
  obtain ⟨hc, hbuf⟩ := b.sound_writing hm hs
  have hcount : 2 ^ b.count.toNat ≤ 2 ^ 7 := Nat.pow_le_pow_right (by decide) hc
  have hlow : v.toNat % 2 ^ n < 2 ^ 64 := Nat.lt_of_lt_of_le (Nat.mod_lt _ (Nat.two_pow_pos n)) (Nat.pow_le_pow_right (by decide) hn)
  have hmul : v.toNat % 2 ^ n * 2 ^ b.count.toNat ≤ 2 ^ 64 * 2 ^ 7 := Nat.mul_le_mul (Nat.le_of_lt hlow) hcount
  have hjoined : b.joined v n < 2 ^ 128 := by
    rw [BitBuf.joined]; omega
  exact (BitVec.toNat_ofNat ..).trans (Nat.mod_eq_of_lt (Nat.lt_of_le_of_lt (Nat.div_le_self ..) hjoined))

end

section
variable {s : State} {t : Taken} {b : BitBuf} (hb : t.d.bb = b)
include hb

/-- BBPUT stores the bytes that its bits complete. -/
theorem bbput_ok (h1 : 1 ≤ (t.x 1).toNat) (hn : (t.x 1).toNat ≤ 64) (hout : t.d.outside b.ptr.toNat (b.completed (t.x 1).toNat) = none)
    (hstop : b.ptr.toNat + b.completed (t.x 1).toNat ≤ b.stop.toNat)
    (hw : b.completed (t.x 1).toNat ≠ 0 → s.mayWrite b.ptr.toNat (b.completed (t.x 1).toNat) = .ok ()) :
    bbput s t = .ok (s.setCD (s.c.padWrite b.ptr.toNat (natLe (b.joined (t.x 0) (t.x 1).toNat) (b.completed (t.x 1).toNat)) false)
      { t.d with bb := b.put (t.x 0) (t.x 1).toNat }) := by
  unfold BitBuf.completed at hout hstop hw
  simp only [bbput, bbN_ok h1 hn, hb, ok_bind, hout, if_neg (Nat.not_lt_of_le hstop)]
  by_cases hfull : (b.count.toNat + (t.x 1).toNat) / 8 ≠ 0
  · simp only [if_pos hfull, hw hfull, ok_bind]
    rfl
  · simp only [if_neg hfull]
    rfl
theorem bbflush_empty (hc : b.count = 0) : bbflush s t = .ok (s.setD t.d) := if_pos (hb ▸ hc)
/-- BBFLUSH stores a partial byte. -/
theorem bbflush_partial (hc : b.count ≠ 0) (hout : t.d.outside b.ptr.toNat 1 = none) (hne : b.ptr ≠ b.stop)
    (hw : s.mayWrite b.ptr.toNat 1 = .ok ()) : bbflush s t = .ok (s.setCD (s.c.padWrite b.ptr.toNat (natLe b.buf.toNat 1) false)
      { t.d with bb := { b with buf := 0, count := 0, ptr := b.ptr + 1 } }) := by
  simp only [bbflush, hb, if_neg hc, hout, if_neg hne, hw, ok_bind]

end

end Sys2Proof.Machine

namespace Sys2Proof.Claims
open Sys2Proof.Machine

/-- Part of O23: each reader completes, and where it moves the buffer it goes on holding its stream. -/
theorem bitReading : BitReading := by
  refine ⟨fun i g rs f dst hi s xs k p hs hg hl hp hc hb hpos hn hend hlo hptr hhi htile hpoison hr => ?move,
    fun g b a s start stop k hs hg hl hp hsound hlo hle hhi hfit htile hpoison => ?init, fun g b d s n k hs hg hl hp hb h1 hn hr => ?peek,
    fun g d s hs hg hl hsound hm hr => ?pos, fun g b a d s t n k hs hg hl hp hb h1 hn hr he => ?lookup⟩
  case move =>
    obtain ⟨hkb, -, -⟩ := popsG_keeps hp
    subst hpos
    unfold moveRule at hi
    split at hi
    case h_1 g b d =>
      cases hi
      obtain ⟨h1, hn⟩ := hn (Option.some_ne_none d)
      obtain ⟨u, hmove, hu⟩ := bbMove_on hb (Nat.le_add_right ..) hend (hptr.resolve_left nofun) hhi htile hpoison
      rw [firstBits_eq_peek hb hn]
      exact ⟨u, finish_bbOp_reading hs hg hl hp ((rooms_one ..).mpr (hr d rfl)) hc hb (bbget_ok hkb h1 hn hmove), hu⟩
    case h_2 g b =>
      cases hi
      obtain ⟨u, hmove, hu⟩ := bbMove_on hb (Nat.le_add_right ..) hend (hptr.resolve_left nofun) hhi htile hpoison
      exact ⟨u, finish_bbOp_reading hs hg hl hp (rooms_nil k) hc hb (bbskip_ok hkb hmove), hu⟩
    case h_3 g a =>
      cases hi
      obtain ⟨u, hmove, hu⟩ := bbMove_fresh hend hlo hhi htile hpoison
      exact ⟨u, finish_bbOp_reading hs hg hl hp (rooms_nil k) hc hb (bbseek_ok hkb hmove), hu⟩
    case h_4 => cases hi
  case init =>
    obtain ⟨hkb, hbase, hkern⟩ := popsG_keeps hp
    have hstop : (stop.setWidth 19).toNat = stop.toNat := (BitVec.toNat_setWidth ..).trans (Nat.mod_eq_of_lt hfit)
    obtain ⟨u, hmove, hu, hup, hus⟩ := bbMove_fresh (s := s) (b := { s.d.bb with stop := stop.setWidth 19, buf := 0 }) (p := 8 * start.toNat)
      (by dsimp only; omega) (by omega) (by dsimp only; omega) htile hpoison
    have hbounds : bbBounds k start stop = .ok () := bbBounds_ok (hbase ▸ hlo) hle (hbase ▸ hkern ▸ hhi)
    exact ⟨u, finish_bbOp hs hg hl hp (rooms_nil k) rfl hsound rfl (bbinit_ok hkb hbounds hmove), hu, hup, hus ▸ hstop⟩
  case peek =>
    obtain ⟨hkb, -, -⟩ := popsG_keeps hp
    rw [firstBits_eq_peek hb hn]
    exact finish_bbOp_reading hs hg hl hp ((rooms_one ..).mpr hr) rfl hb (bbpeek_ok hkb h1 hn)
  case pos =>
    refine finish_bbOp hs hg (xs := []) ((limsG_cons ..).mpr ⟨hl, limsG_nil _⟩) ((popsG_nil ..).mpr ⟨rfl, rfl⟩) ((rooms_one ..).mpr hr) rfl hsound ?_ rfl
    obtain hm | hm := hm <;> rw [hm] <;> rfl
  case lookup =>
    intro ea hlo hfit hhi hread
    obtain ⟨hkb, hbase, hkern⟩ := popsG_keeps hp
    have hea : t.toNat + 2 * s.d.bb.peek n.toNat = ea := by rw [← firstBits_eq_peek hb (by omega)]
    have hout : k.outside ea 2 = none := outside_none (by rw [hbase]; omega) (by rw [hbase, hkern]; exact hhi)
    exact finish_bbOp_reading hs hg hl hp ((rooms_one ..).mpr hr) rfl hb (bblut_ok hkb h1 hn he hea (by omega) hout hread)

/-- Part of O23: each writer completes, storing the bytes that its bits complete and no other. -/
theorem bitWriting : BitWriting := by
  refine ⟨fun g b a s start stop k hs hg hl hp hsound hlo hle hhi => ?init, fun g b a s v n k hs hg hl hp hsound hm h1 hn => ?put,
    fun g s hs hg hsound hm => ⟨fun hc => ?empty, fun hc hlo hhi hne hw => ?flush⟩⟩
  case init =>
    obtain ⟨-, hbase, hkern⟩ := popsG_keeps hp
    have hbounds : bbBounds k start stop = .ok () := bbBounds_ok (hbase ▸ hlo) hle (hbase ▸ hkern ▸ hhi)
    exact finish_bbOp hs hg hl hp (rooms_nil k) rfl hsound rfl (bbinitw_ok hbounds)
  case put =>
    intro u full bits hlo hhi hstop hw
    obtain ⟨hkb, hbase, hkern⟩ := popsG_keeps hp
    have hout : k.outside u.ptr.toNat full = none := outside_none (hbase ▸ hlo) (by rw [hbase, hkern]; exact hhi)
    exact ⟨_, _, finish_bbOp hs hg hl hp (rooms_nil k) rfl hsound (by rw [hm]; rfl) (bbput_ok hkb h1 hn hout hstop hw), creads_padWrite_natLe ..,
      fun x hx => cget_padWrite_other _ _ _ _ _ hx, put_pos hm hsound v hstop, put_buf hm hsound v hn, hm⟩
  case empty =>
    exact finish_bbOp hs hg (xs := []) (limsG_nil _) ((popsG_nil ..).mpr ⟨rfl, rfl⟩) (rooms_nil _) rfl hsound (by rw [hm]; rfl) (bbflush_empty rfl hc)
  case flush =>
    exact ⟨_, _, finish_bbOp hs hg (xs := []) (limsG_nil _) ((popsG_nil ..).mpr ⟨rfl, rfl⟩) (rooms_nil _) rfl hsound (by rw [hm]; rfl)
      (bbflush_partial rfl hc (outside_none hlo hhi) hne hw), cget_padWrite_byte .., fun x hx => cget_padWrite_other _ _ _ _ _ (Nat.lt_or_gt_of_ne hx), rfl, rfl⟩

/-- Settles O23: the readers hold their stream through the refill, the writers store what the buffer and the value hold together. -/
theorem bitStream : Obligations.BitStream := ⟨bitReading, bitWriting⟩

end Sys2Proof.Claims

/-! SUPPORT and PROOF. Local loads and stores (O20): the address of an access with its bounds, its operands, and what each of the four
instructions does inside the region and outside it (R17, R146). -/

namespace Sys2Proof.Machine
open Sys2Proof.Claims (widthOf)

/-! ### Bytes and sizes -/

theorem length_creads (m : Cells) (a n : Nat) : (creads m a n).length = n := by
  induction n generalizing a with
  | zero => rfl
  | succ n ih => exact congrArg (· + 1) (ih _)
theorem sizeBytes_eq_widthOf (z : BitVec 3) : sizeBytes z = widthOf z := by revert z; decide
/-- A store has no code above 3. -/
theorem sizeBytes_setWidth (z : BitVec 2) : sizeBytes (z.setWidth 3) = 2 ^ z.toNat := by revert z; decide
/-- The value of a load of `n` bytes extends them from their own width. -/
theorem loadValue_creads (z : BitVec 3) (m : Cells) (a n : Nat) : loadValue z (creads m a n) =
    if z.toNat < 4 then (BitVec.ofNat (8 * n) (leNat (creads m a n))).signExtend 64 else BitVec.ofNat 64 (leNat (creads m a n)) := by
  rw [loadValue, length_creads]

/-! ### Operands and addresses -/

theorem inside_eq_true_iff {d : Desk} {ea n : Nat} : d.inside ea n = true ↔ d.base ≤ ea ∧ ea + n ≤ d.base + d.kern.scratch := decide_eq_true_iff
theorem inside_eq_false {d : Desk} {ea n : Nat} (h : ea < d.base ∨ d.base + d.kern.scratch < ea + n) : d.inside ea n = false :=
  decide_eq_false (by omega)
/-- An instruction whose ports are all served waits for none of them (R37). -/
theorem await_ok {d k k' : Desk} {srcG srcV dstG dstV : List GReg} {xs : List (Word × Bool)} {ys : List Nat} {bad : Bool}
    (hg : d.popsG srcG = .ok (xs, k)) (hv : k.popsV srcV = .ok (ys, bad, k')) (hr : k'.rooms dstG dstV = .ok ()) :
    d.await srcG srcV dstG dstV = .ok () := by
  simp only [Desk.await, hg, hv, hr]
theorem popsV_nil (d : Desk) : d.popsV [] = .ok ([], false, d) := rfl
theorem rooms_oneV (d : Desk) (r : GReg) : d.rooms [] [r] = .ok () ↔ d.roomV r = .ok () := by
  simp only [Desk.rooms, Desk.roomsG, Desk.roomsV]; cases d.roomV r <;> simp
theorem popsV_of_popV {d k : Desk} {r : GReg} {v : Vec} {bad : Bool} (h : d.popV r = .ok ⟨v, bad, k⟩) :
    d.popsV [r] = .ok ([v.toNat], bad, k) := by
  simp only [Desk.popsV, h, ok_bind, Bool.or_false]
/-- An operand that is not poisoned may be used. -/
theorem useG_ok {d k : Desk} {r : GReg} {x : Word} (h : d.popG r = .ok ⟨x, false, k⟩) : d.useG r = .ok ⟨x, false, k⟩ := by
  simp only [Desk.useG, h, Bool.false_eq_true, if_false]

section
variable {d k : Desk} {b : GReg} {o : BitVec 10} {n : Nat} {acc : BitVec 2} {x : Word} (hp : d.popG b = .ok ⟨x, false, k⟩)
include hp

theorem localEa_inside (hin : d.inside (x + scaled o n).toNat n = true) : localEa b o n acc d = .ok ((x + scaled o n).toNat, k) := by
  simp only [localEa, useG_ok hp, ok_bind, hin, if_true]
/-- Outside the region the address traps (R17). -/
theorem localEa_outside (hout : d.inside (x + scaled o n).toNat n = false) : localEa b o n acc d = .error (.trap 0x045 (x + scaled o n) acc) := by
  simp only [localEa, useG_ok hp, ok_bind, hout, Bool.false_eq_true, if_false]

end

theorem finish_trap {f : State → Except Stop State} {s : State} (hs : s.Issues) {c : Cause} {x : Word} {a : BitVec 2} (h : f s = .error (.trap c x a)) :
    finish f s = .next (s.traps c x a) :=
  (finish_error hs.2 h).trans (congrArg _ (stopWith_trap hs.1 ..))

/-! ### LDL, VLDL, STL and VSTL -/

section
variable {s : State} {k : Desk} {o : BitVec 10} {b d : GReg} {x : Word}

section
variable {z : BitVec 3} (hl : s.d.limsG [b, d] = .ok ()) (hp : s.d.popsG [b] = .ok ([(x, false)], k)) (hr : k.roomG d = .ok ())
include hl hp hr

theorem ldl_ok (hin : s.d.inside (x + scaled o (sizeBytes z)).toNat (sizeBytes z) = true)
    (hread : s.mayRead (x + scaled o (sizeBytes z)).toNat (sizeBytes z) = .ok ()) :
    let ea := (x + scaled o (sizeBytes z)).toNat
    ldl o z b d s = .ok (s.setD (k.pushG d (loadValue z (creads s.c.pad ea (sizeBytes z))) (s.c.padBad ea (sizeBytes z)))) := by
  simp only [ldl, hl, await_ok hp (popsV_nil k) ((rooms_one ..).mpr hr), localEa_inside (popsG_one hp) hin, hread, ok_bind, Core.padRead]
theorem ldl_outside (hout : s.d.inside (x + scaled o (sizeBytes z)).toNat (sizeBytes z) = false) :
    ldl o z b d s = .error (.trap 0x045 (x + scaled o (sizeBytes z)) 0) := by
  simp only [ldl, hl, await_ok hp (popsV_nil k) ((rooms_one ..).mpr hr), localEa_outside (popsG_one hp) hout, ok_bind, error_bind]
  rfl

end

section
variable (hl : s.d.limG b = .ok ()) (hv : s.d.limV d = .ok ()) (hp : s.d.popsG [b] = .ok ([(x, false)], k))
include hl hv hp

theorem vldl_ok (hr : k.roomV d = .ok ()) (hin : s.d.inside (x + scaled o 64).toNat 64 = true)
    (hread : s.mayRead (x + scaled o 64).toNat 64 = .ok ()) :
    let ea := (x + scaled o 64).toNat
    vldl o b d s = .ok (s.setD (k.pushV d (BitVec.ofNat 512 (leNat (creads s.c.pad ea 64))) (s.c.padBad ea 64))) := by
  simp only [vldl, hl, hv, await_ok hp (popsV_nil k) ((rooms_oneV ..).mpr hr), localEa_inside (popsG_one hp) hin, hread, ok_bind, Core.padRead]
theorem vldl_outside (hr : k.roomV d = .ok ()) (hout : s.d.inside (x + scaled o 64).toNat 64 = false) :
    vldl o b d s = .error (.trap 0x045 (x + scaled o 64) 0) := by
  simp only [vldl, hl, hv, await_ok hp (popsV_nil k) ((rooms_oneV ..).mpr hr), localEa_outside (popsG_one hp) hout, ok_bind, error_bind]
  rfl

variable {v : Vec} {bad : Bool} {k' : Desk} (hd : k.popV d = .ok ⟨v, bad, k'⟩)
include hd

theorem vstl_ok (hin : s.d.inside (x + scaled o 64).toNat 64 = true) (hwrite : s.mayWrite (x + scaled o 64).toNat 64 = .ok ()) :
    vstl o b d s = .ok (s.setCD (s.c.padWrite (x + scaled o 64).toNat (natLe v.toNat 64) bad) k') := by
  simp only [vstl, hl, hv, await_ok hp (popsV_of_popV hd) (rooms_nil k'), localEa_inside (popsG_one hp) hin, hd, hwrite, ok_bind]
theorem vstl_outside (hout : s.d.inside (x + scaled o 64).toNat 64 = false) : vstl o b d s = .error (.trap 0x045 (x + scaled o 64) 1) := by
  simp only [vstl, hl, hv, await_ok hp (popsV_of_popV hd) (rooms_nil k'), localEa_outside (popsG_one hp) hout, ok_bind, error_bind]
  rfl

end

section
variable {z : BitVec 3} {v : Word} {bad : Bool} (hl : s.d.limsG [b, d] = .ok ()) (hp : s.d.popsG [b, d] = .ok ([(x, false), (v, bad)], k))
include hl hp

theorem stl_ok (hin : s.d.inside (x + scaled o (sizeBytes z)).toNat (sizeBytes z) = true)
    (hwrite : s.mayWrite (x + scaled o (sizeBytes z)).toNat (sizeBytes z) = .ok ()) :
    stl o z b d s = .ok (s.setCD (s.c.padWrite (x + scaled o (sizeBytes z)).toNat (natLe v.toNat (sizeBytes z)) bad) k) := by
  obtain ⟨d', hb, hd⟩ := popsG_two hp
  simp only [stl, hl, await_ok hp (popsV_nil k) (rooms_nil k), localEa_inside hb hin, hd, hwrite, ok_bind]
theorem stl_outside (hout : s.d.inside (x + scaled o (sizeBytes z)).toNat (sizeBytes z) = false) :
    stl o z b d s = .error (.trap 0x045 (x + scaled o (sizeBytes z)) 1) := by
  obtain ⟨d', hb, hd⟩ := popsG_two hp
  simp only [stl, hl, await_ok hp (popsV_nil k) (rooms_nil k), localEa_outside hb hout, ok_bind, error_bind]
  rfl

end

end

end Sys2Proof.Machine

namespace Sys2Proof.Claims
open Sys2Proof.Machine

/-- Settles O20: each access is its bounds check and then a read or a write of the scratchpad's bytes. -/
theorem localResult : Obligations.LocalResult := by
  refine ⟨fun o z b d s x k hs hl hp hr => ?ldl, fun o b d s x k hs hl hv hp hr => ?vldl,
    fun o z b d s x v bad k hs hl hp => ?stl, fun o z b d s x v bad k hs hl hp => ?stlOut,
    fun o b d s x v bad k k' hs hl hv hp hd hout => ?vstlOut, fun o b d s x v bad k k' hs hl hv hp hd hlo hhi hwrite => ?vstl⟩
  case ldl =>
    rw [← sizeBytes_eq_widthOf]
    intro n ea
    split
    next hin =>
      intro hread
      rw [← loadValue_creads]
      exact finish_ok hs.2 (ldl_ok hl hp hr (inside_eq_true_iff.mpr hin) hread)
    next hout => exact finish_trap hs (ldl_outside hl hp hr (decide_eq_false hout))
  case vldl =>
    intro ea
    split
    next hin => exact fun hread => finish_ok hs.2 (vldl_ok hl hv hp hr (inside_eq_true_iff.mpr hin) hread)
    next hout => exact finish_trap hs (vldl_outside hl hv hp hr (decide_eq_false hout))
  case stl =>
    rw [← sizeBytes_setWidth]
    intro n ea hlo hhi hwrite
    exact ⟨_, finish_heldBack_ok hs (stl_ok hl hp (inside_eq_true_iff.mpr ⟨hlo, hhi⟩) hwrite), creads_padWrite_natLe ..,
      fun a ha => cget_padWrite_other _ _ _ _ _ ha, rfl⟩
  case stlOut =>
    rw [← sizeBytes_setWidth]
    exact fun hout => finish_heldBack_trap hs (stl_outside hl hp (inside_eq_false hout))
  case vstlOut => exact finish_heldBack_trap hs (vstl_outside hl hv hp hd (inside_eq_false hout))
  case vstl =>
    exact ⟨_, finish_heldBack_ok hs (vstl_ok hl hv hp hd (inside_eq_true_iff.mpr ⟨hlo, hhi⟩) hwrite), creads_padWrite_natLe ..,
      fun a ha => cget_padWrite_other _ _ _ _ _ ha, rfl⟩

end Sys2Proof.Claims

/-! SUPPORT and PROOF. The tile instructions (O21): the entry that each leaves where the tile's state permits it (R147 to R149). -/

namespace Sys2Proof.Machine

theorem tileNo_ok {d : Desk} {x : Word} {n : BitVec 6} (h : n = x.setWidth 6) (hn : n.toNat < d.kern.tiles) : tileNo d x = .ok n := by
  subst h
  exact if_pos hn

section
variable {s : State} {g : Guard} {xs : List (Word × Bool)} {k : Desk} {n : BitVec 6} (hg : s.d.guard g = true)
include hg

/-- A tile instruction that its guard selects, with clean operands, writes the entry that its own work gives. -/
theorem tileOp_ok {rs : List GReg} {f : State → BitVec 6 → Word → Tile → Except Stop Tile} {e : Tile}
    (hl : s.d.limsG rs = .ok ()) (hp : s.d.popsG rs = .ok (xs, k)) (hc : xs.any (·.2) = false)
    (hn : n = BitVec.setWidth 6 ((xs.map (·.1)).getD 0 0)) (ht : n.toNat < s.d.kern.tiles)
    (hf : f s n ((xs.map (·.1)).getD 1 0) (s.c.tile n.toNat) = .ok e) :
    tileOp g rs f s = .ok (s.setCD (s.c.setTile n e) k) := by
  obtain ⟨-, -, hkern⟩ := popsG_keeps hp
  have htake := take_ok (g := g) (more := []) (k := rs.length) (by rwa [List.append_nil]) hp (fun _ => rooms_nil k) (fun _ => cleanG_ok _ hc)
  simp only [tileOp, htake, ok_bind, hg, if_true, Taken.x, tileNo_ok hn (hkern ▸ ht), hf]
theorem tstat_ok {a d : GReg} {t : Word} (hl : s.d.limsG [a, d] = .ok ()) (hp : s.d.popsG [a] = .ok ([(t, false)], k))
    (hr : k.roomG d = .ok ()) (hn : n = t.setWidth 6) (ht : n.toNat < s.d.kern.tiles) :
    tstat g a d s = .ok (s.setD (k.pushG d (s.c.tile n.toNat).stat false)) := by
  obtain ⟨-, -, hkern⟩ := popsG_keeps hp
  have htake := take_ok (g := g) (rs := [a]) (k := 1) hl hp (fun _ => (rooms_one ..).mpr hr) (fun _ => cleanG_ok _ rfl)
  simp only [tstat, htake, ok_bind, hg, if_true, Taken.x, List.map_cons, List.getD_cons_zero, tileNo_ok hn (hkern ▸ ht)]

end

/-! ### The entry of each instruction (R148) -/

section
variable {s : State} {n : BitVec 6} {x : Word} {e : Tile}

theorem tfill_ok (hx : x.toNat ≤ 15) (he : e.st = .empty) (hsize : e.size ≠ 0) :
    tfill s n x e = .ok { e with st := .filling, prod := x.setWidth 4 } := by
  rw [tfill, if_neg (Nat.not_lt_of_le hx), if_neg (not_or.mpr ⟨not_not_intro he, hsize⟩)]
theorem tready_ok (he : e.st = .filling) (hself : e.prod = s.self) : tready s n x e = .ok { e with st := .ready } := if_pos ⟨he, hself⟩
theorem tdrain_ok (he : e.st = .ready) : tdrain s n x e = .ok { e with st := .draining } := by
  rw [tdrain, if_neg (by rw [he]; decide), if_pos he]
theorem tfree_ok (he : e.st ≠ .filling) : tfree s n x e = .ok { e with st := .empty } := if_neg he
theorem twait_ok (he : e.st.code = x.toNat) : twait s n x e = .ok e := by
  have hcode : e.st.code ≤ 3 := by cases e.st <;> decide
  rw [twait, if_neg (by omega), if_pos he]
/-- The states in the order of their numbers. -/
theorem code_of_getElem? {i : Nat} {st : TileSt} (h : [TileSt.empty, .filling, .ready, .draining][i]? = some st) : st.code = i := by
  match i with
  | 0 | 1 | 2 | 3 => cases h; rfl
  | i + 4 => cases h

/-- A run of bytes apart from a tile's, or a tile that is not defined. -/
theorem overlaps_eq_false {off len : Nat} (h : e.size ≠ 0 → off + len ≤ e.base ∨ e.base + e.size ≤ off) : e.overlaps off len = false := by
  by_cases hsize : e.size = 0
  · rw [Tile.overlaps, hsize]; rfl
  · obtain h | h := h hsize
    · rw [Tile.overlaps, decide_eq_false (Nat.not_lt_of_le h), Bool.and_false, Bool.false_and]
    · rw [Tile.overlaps, decide_eq_false (Nat.not_lt_of_le h), Bool.and_false]
theorem tdef_ok {base size : Nat} (hx : x.toNat < 2 ^ 39) (hbase : (x.extractLsb' 20 19).toNat = base) (hsize : (x.extractLsb' 0 20).toNat = size)
    (hb : base % 64 = 0) (hs : size % 64 = 0) (hmax : size ≤ 0x80000) (he : e.st = .empty)
    (hfit : size = 0 ∨ (s.d.inside base size = true ∧ ∀ m, m < 64 → m ≠ n.toNat → (s.c.tile m).overlaps base size = false)) :
    tdef s n x e = .ok { e with base := base, size := size } := by
  have hhigh : x.extractLsb' 39 25 = 0 := by
    refine BitVec.eq_of_toNat_eq ?_
    rw [BitVec.extractLsb'_toNat, Nat.shiftRight_eq_div_pow, Nat.div_eq_of_lt hx]
    rfl
  simp only [tdef, hbase, hsize]
  refine (if_neg ?_).trans (if_neg (not_not_intro he))
  rintro (h | h | h | h | ⟨hne, hbad⟩)
  · exact h hhigh
  · exact h hb
  · exact h hs
  · omega
  · obtain ⟨hin, hapart⟩ := hfit.resolve_left hne
    rw [hin, List.any_eq_true] at hbad
    obtain ⟨m, hm, hover⟩ := hbad.resolve_left nofun
    obtain ⟨hmn, hover⟩ := Bool.and_eq_true_iff.mp hover
    exact Bool.false_ne_true ((hapart m (List.mem_range.mp hm) (bne_iff_ne.mp hmn)).symm.trans hover)

end

end Sys2Proof.Machine

namespace Sys2Proof.Claims
open Sys2Proof.Machine

/-- Each tile instruction gives the entry of its rule wherever the rule gives one. -/
theorem exec_tileRule {i : Instr} {g : Guard} {rs : List GReg} {f : BitVec 4 → Word → Tile → Option Tile} (hi : tileRule i = some (g, rs, f)) :
    ∃ op, (∀ s, exec i s = finish (heldBack (tileOp g rs op)) s) ∧
      ∀ (s : State) n x e e', f s.self x e = some e' → op s n x e = .ok e' := by
  unfold tileRule at hi
  split at hi
  case h_1 g b a =>
    cases hi
    refine ⟨tfill, fun _ => rfl, fun s n x e e' hf => ?_⟩
    obtain ⟨⟨hx, he, hsize⟩, hf⟩ := Option.ite_none_right_eq_some.mp hf
    cases hf
    exact tfill_ok hx he hsize
  case h_2 g a =>
    cases hi
    refine ⟨tready, fun _ => rfl, fun s n x e e' hf => ?_⟩
    obtain ⟨⟨he, hself⟩, hf⟩ := Option.ite_none_right_eq_some.mp hf
    cases hf
    exact tready_ok he hself
  case h_3 g a =>
    cases hi
    refine ⟨tdrain, fun _ => rfl, fun s n x e e' hf => ?_⟩
    obtain ⟨he, hf⟩ := Option.ite_none_right_eq_some.mp hf
    cases hf
    exact tdrain_ok he
  case h_4 g a =>
    cases hi
    refine ⟨tfree, fun _ => rfl, fun s n x e e' hf => ?_⟩
    obtain ⟨he, hf⟩ := Option.ite_none_right_eq_some.mp hf
    cases hf
    exact tfree_ok he
  case h_5 g b a =>
    cases hi
    refine ⟨twait, fun _ => rfl, fun s n x e e' hf => ?_⟩
    obtain ⟨he, hf⟩ := Option.ite_none_right_eq_some.mp hf
    cases hf
    exact twait_ok (code_of_getElem? he)
  case h_6 => cases hi

/-- Settles O21: a tile instruction writes the entry of its rule, TDEF one that its operand's checks pass, and TSTAT reads the entry. -/
theorem tileResult : Obligations.TileResult := by
  refine ⟨fun i g rs f hi s xs k n e hs hg hl hp hc hn ht hf => ?rule,
    fun g b a s t x k hs hg hl hp ht hx hb hsize hmax he hfit => ?define, fun g a d s t k hs hg hl hp hr ht => ?stat⟩
  case rule =>
    obtain ⟨op, hexec, hop⟩ := exec_tileRule hi
    exact (hexec s).trans (finish_heldBack_ok hs (tileOp_ok hg hl hp hc hn ht (hop s n _ _ e hf)))
  case define =>
    refine finish_heldBack_ok hs (tileOp_ok hg hl hp rfl rfl ht (tdef_ok hx rfl rfl hb hsize hmax he (hfit.imp_right ?_)))
    rintro ⟨hlo, hhi, hapart⟩
    exact ⟨inside_eq_true_iff.mpr ⟨hlo, hhi⟩, fun m hm hmn => overlaps_eq_false (hapart m hm hmn)⟩
  case stat => exact finish_heldBack_ok hs (tstat_ok hg hl hp hr rfl ht)

end Sys2Proof.Claims

/-! SUPPORT and PROOF. The multicast (O22): bytes that are written and read in pieces, one change made to several cores, what a delivery leaves
of every core, and TCAST with its event and its watchdog (R150, R153). -/

namespace Sys2Proof.Machine

/-! ### Runs of bytes in pieces -/

theorem creads_append (m : Cells) (a n k : Nat) : creads m a (n + k) = creads m a n ++ creads m (a + n) k := by
  induction n generalizing a with
  | zero => rw [Nat.zero_add]; rfl
  | succ n ih => rw [Nat.succ_add, creads, creads, ih, Nat.succ_add_eq_add_succ a n]; rfl
theorem cwrites_append (m : Cells) (a : Nat) (xs ys : List Byte) : cwrites m a (xs ++ ys) = cwrites (cwrites m a xs) (a + xs.length) ys := by
  induction xs generalizing m a with
  | nil => rfl
  | cons x xs ih => rw [List.cons_append, cwrites, ih, List.length_cons, cwrites, Nat.succ_add_eq_add_succ a xs.length]
/-- The pieces of a run make up the run. -/
theorem flatMap_padPieces (c : Core) (off k : Nat) : (c.padPieces off k).flatMap (·.1) = creads c.pad off (64 * k) := by
  induction k generalizing off with
  | zero => rfl
  | succ k ih => rw [Core.padPieces, List.flatMap_cons, ih, Core.padRead, ← creads_append, Nat.mul_succ, Nat.add_comm]
theorem padCopy_pad (c : Core) (dst : Nat) (ps : List (List Byte × Bool)) : (c.padCopy dst ps).pad = cwrites c.pad dst (ps.flatMap (·.1)) := by
  induction ps generalizing c dst with
  | nil => rfl
  | cons p ps ih => rw [Core.padCopy, ih, List.flatMap_cons, cwrites_append]; rfl
@[simp] theorem padCopy_tiles (c : Core) (dst : Nat) (ps : List (List Byte × Bool)) : (c.padCopy dst ps).tiles = c.tiles := by
  induction ps generalizing c dst with
  | nil => rfl
  | cons p ps ih => exact ih ..

section
variable (c src : Core) (dst off : Nat) {n : Nat} (hn : n % 64 = 0)
include hn

theorem padCopy_padPieces_pad : (c.padCopy dst (src.padPieces off (n / 64))).pad = cwrites c.pad dst (creads src.pad off n) := by
  rw [padCopy_pad, flatMap_padPieces, Nat.mul_div_cancel' (Nat.dvd_of_mod_eq_zero hn)]
/-- A run of whole pieces arrives as it is at its source. -/
theorem creads_padCopy : creads (c.padCopy dst (src.padPieces off (n / 64))).pad dst n = creads src.pad off n := by
  have h := creads_cwrites c.pad dst (creads src.pad off n)
  rwa [length_creads, ← padCopy_padPieces_pad c src dst off hn] at h
/-- Every other byte stays. -/
theorem cget_padCopy_other {a : Nat} (ha : a < dst ∨ dst + n ≤ a) :
    cget (c.padCopy dst (src.padPieces off (n / 64))).pad a = cget c.pad a := by
  rw [padCopy_padPieces_pad c src dst off hn, cget_cwrites, length_creads, if_neg (by omega)]

end

/-! ### One change made to several cores -/

/-- Each of some cores is changed by `f`. -/
def State.updateCores (s : State) (f : Core → Core) (ks : List CoreId) : State := ks.foldl (fun s k => s.setCoreAt k (f (s.coreAt k))) s

theorem updateCores_mem (s : State) (f : Core → Core) (ks : List CoreId) : (s.updateCores f ks).mem = s.mem := by
  induction ks generalizing s with
  | nil => rfl
  | cons k ks ih => exact (ih (s.setCoreAt k _)).trans (State.setCoreAt_mem ..)
theorem coreAt_updateCores_of_notMem (s : State) (f : Core → Core) {ks : List CoreId} {c : CoreId} (h : c ∉ ks) :
    (s.updateCores f ks).coreAt c = s.coreAt c := by
  induction ks generalizing s with
  | nil => rfl
  | cons k ks ih =>
    obtain ⟨hk, hks⟩ := not_or.mp (mt List.mem_cons.mpr h)
    exact (ih (s.setCoreAt k _) hks).trans (State.coreAt_setCoreAt_other _ _ _ _ hk)
theorem coreAt_updateCores_of_mem (s : State) (f : Core → Core) {ks : List CoreId} (hks : ks.Nodup) {c : CoreId} (h : c ∈ ks) :
    (s.updateCores f ks).coreAt c = f (s.coreAt c) := by
  induction ks generalizing s with
  | nil => cases h
  | cons k ks ih =>
    obtain ⟨hk, hks⟩ := List.nodup_cons.mp hks
    obtain rfl | h := List.mem_cons.mp h
    · exact (coreAt_updateCores_of_notMem (s.setCoreAt c _) f hk).trans (State.coreAt_setCoreAt ..)
    · have hne : c ≠ k := fun e => hk (e ▸ h)
      exact (ih (s.setCoreAt k _) hks h).trans (congrArg f (State.coreAt_setCoreAt_other _ _ _ _ hne))

/-- A mask names each core of a cluster once. -/
theorem nodup_clusterCores (c : CoreId) (mask : BitVec 16) : (clusterCores c mask).Nodup := by
  have hks : ((List.range 16).filter (fun k => mask.getLsbD k)).Nodup := List.Pairwise.filter _ List.nodup_range
  refine List.pairwise_map.mpr (hks.imp_of_mem fun {k j} hk hj hne e => hne ?_)
  have hk16 : k < 16 := List.mem_range.mp (List.mem_filter.mp hk).1
  have hj16 : j < 16 := List.mem_range.mp (List.mem_filter.mp hj).1
  have hc := c.isLt
  have hnat := congrArg BitVec.toNat e
  simp only [BitVec.toNat_ofNat] at hnat
  omega

/-! ### The delivery (R150) -/

/-- What a delivery makes of one target: the pieces stand in its tile, which is READY. -/
def Core.receives (c : Core) (t : BitVec 6) (ps : List (List Byte × Bool)) : Core :=
  (c.padCopy (c.tile t.toNat).base ps).setTile t { c.tile t.toNat with st := .ready }
theorem receives_tiles (c : Core) (t : BitVec 6) (ps : List (List Byte × Bool)) :
    (c.receives t ps).tiles = c.tiles.set t.toNat { c.tile t.toNat with st := .ready } t.isLt := by
  rw [Core.receives, Core.setTile, padCopy_tiles]
/-- Where no target faults and the source may be read, every target receives. -/
theorem castDeliver_ok {s : State} {x : Cast} (hsize : ∀ c ∈ clusterCores s.core x.mask, x.len ≤ ((s.coreAt c).tile x.tile.toNat).size)
    (hprot : ∀ c ∈ clusterCores s.core x.mask, (s.coreAt c).protects ((s.coreAt c).tile x.tile.toNat).base x.len = none)
    (hread : s.mayRead x.src x.len = .ok ()) :
    s.castDeliver x = .ok (s.updateCores (·.receives x.tile (s.c.padPieces x.src (x.len / 64))) (clusterCores s.core x.mask)) := by
  have hfind : (clusterCores s.core x.mask).find? (fun k => decide (((s.coreAt k).tile x.tile.toNat).size < x.len)) = none :=
    List.find?_eq_none.mpr fun c hc h => Nat.not_lt_of_le (hsize c hc) (of_decide_eq_true h)
  have hnone : (clusterCores s.core x.mask).findSome?
      (fun k => (s.coreAt k).protects ((s.coreAt k).tile x.tile.toNat).base x.len) = none := List.findSome?_eq_none_iff.mpr hprot
  simp only [State.castDeliver, hfind, hnone, hread, ok_bind]
  rfl

/-! ### TCAST -/

section
variable {s t : State} {g : Guard} {a b d : GReg} {src w len : Word} {k : Desk} (hg : s.d.guard g = true) (hl : s.d.limsG [a, b, d] = .ok ())
  (hp : s.d.popsG [a, b, d] = .ok ([(src, false), (w, false), (len, false)], k)) (hw : w.toNat < 2 ^ 22) (hpos : 0 < len.toNat) (hlen : len.toNat % 64 = 0)
  {x : Cast} (hx : x = ⟨src.toNat, len.toNat, w.extractLsb' 6 16, w.setWidth 6, [a, b, d]⟩) (hmask : x.mask ≠ 0)
  (hself : x.mask.getLsbD (s.core.toNat % 16) = false) (hin : s.d.inside src.toNat len.toNat = true) (ht : x.tile.toNat < s.d.kern.tiles)
include hg hl hp hw hpos hlen hx hmask hself hin ht

/-- A TCAST whose operands have no fault delivers where its targets accept, and waits with its cast kept where one does not. -/
theorem tcast_ok : (s.notAccepting x = 0 → s.castDeliver x = .ok t → tcast g b a d s = .ok (t.setD k, none)) ∧
    (s.notAccepting x ≠ 0 → tcast g b a d s = .ok (s.setD { s.d with cast := some x }, some (.tile x.tile))) := by
  subst hx
  have htake := take_ok (g := g) (more := []) (k := 3) hl hp (fun _ => rooms_nil k) (fun _ => cleanG_ok _ rfl)
  have hhigh : w.extractLsb' 22 42 = 0 := by
    refine BitVec.eq_of_toNat_eq ?_
    rw [BitVec.extractLsb'_toNat, Nat.shiftRight_eq_div_pow, Nat.div_eq_of_lt hw]
    rfl
  have hcheck : ¬ (w.extractLsb' 22 42 ≠ 0 ∨ len = 0 ∨ len.toNat % 64 ≠ 0 ∨ w.extractLsb' 6 16 = 0 ∨ (w.extractLsb' 6 16).getLsbD s.self.toNat = true) := by
    rintro (h | rfl | h | h | h)
    · exact h hhigh
    · exact Nat.lt_irrefl 0 hpos
    · exact h hlen
    · exact hmask h
    · rw [State.self, BitVec.toNat_setWidth] at h
      exact Bool.false_ne_true (hself.symm.trans h)
  simp only [tcast, htake, ok_bind, hg, Taken.x, List.map_cons, List.getD_cons_zero, List.getD_cons_succ, if_neg hcheck, hin, if_neg (Nat.not_le_of_lt ht),
    Bool.not_true, Bool.false_eq_true, Bool.true_eq_false, if_false]
  refine ⟨fun hacc hdel => ?_, fun hacc => if_pos hacc⟩
  simp only [hacc, hdel, ne_eq, not_true, if_false]

end

/-- Off a run-ahead path TCAST is its own work. -/
theorem execTcast_free {g : Guard} {b a d : GReg} {s : State} (h : s.d.gen = none) : execTcast g b a d s = finishHold (tcast g b a d) s :=
  if_neg (by rw [h]; exact Bool.false_ne_true)
/-- A desk that waits on a tile without a cast reports the tile (R153). -/
theorem execTileWatchdog_tile {c : CoreId} {i : DeskId} {s : State} {n : BitVec 6} (hw : (s.deskAt c i).wait = some (.tile n))
    (hc : (s.deskAt c i).cast = none) : execTileWatchdog c i s = .next (s.trapAt c i 0x0C7 (n.setWidth 64)) :=
  event_some (by
    have hd : ({ s with core := c, desk := i } : State).d = s.deskAt c i := rfl
    simp only [hd, hw, hc]
    rfl)
/-- One whose TCAST waits reports the targets that do not accept. -/
theorem execTileWatchdog_cast {c : CoreId} {i : DeskId} {s : State} {n : BitVec 6} {x : Cast} (hw : (s.deskAt c i).wait = some (.tile n))
    (hc : (s.deskAt c i).cast = some x) :
    let s0 := { s with core := c, desk := i }
    execTileWatchdog c i s = .next (s0.trapAt c i 0x0C7 (s0.notAccepting x)) :=
  event_some (by
    have hd : ({ s with core := c, desk := i } : State).d = s.deskAt c i := rfl
    simp only [hd, hw, hc])
/-- A waiting TCAST whose targets all accept delivers and retires. -/
theorem execTcastDelivery_ok {c : CoreId} {i : DeskId} {s t : State} {x : Cast} {y : List (Word × Bool)} {k : Desk}
    (hc : ({ s with core := c, desk := i } : State).d.cast = some x) (hacc : ({ s with core := c, desk := i } : State).notAccepting x = 0)
    (hdel : ({ s with core := c, desk := i } : State).castDeliver x = .ok t) (hp : t.d.popsG x.regs = .ok (y, k)) :
    execTcastDelivery c i s = .next (t.setD k).retire :=
  event_some (by simp only [hc, hacc, hdel, hp, ne_eq, not_true, if_false])

end Sys2Proof.Machine

namespace Sys2Proof.Claims
open Sys2Proof.Machine

/-- Settles O22: the targets of a mask are distinct, so that each receives the source as it stood and every other core keeps its state. -/
theorem tcastResult : Obligations.TcastResult := by
  refine ⟨fun g b a d s src w len k t hs hg hl hp hw hpos hlen hmask hself hin ht => ?cast, fun s x hlen htargets hread => ?deliver,
    fun c i s x t k y hc hacc hdel hp => execTcastDelivery_ok hc hacc hdel hp, fun c i s n hw hc => execTileWatchdog_tile hw hc,
    fun c i s n x hw hc => execTileWatchdog_cast hw hc⟩
  case cast =>
    obtain ⟨hgen, hfull⟩ := hs
    obtain ⟨hnow, hwait⟩ := tcast_ok (t := t) hg hl hp hw hpos hlen rfl hmask hself hin ht
    exact ⟨fun hacc hdel => (execTcast_free hgen).trans (finishHold_ok hfull (hnow hacc hdel)),
      fun hacc => (execTcast_free hgen).trans (finishHold_wait hfull (hwait hacc))⟩
  case deliver =>
    refine ⟨_, castDeliver_ok (fun c hc => (htargets c hc).1) (fun c hc => (htargets c hc).2) hread, updateCores_mem .., fun c hc =>
      coreAt_updateCores_of_notMem _ _ hc, fun c hc => ?_⟩
    rw [coreAt_updateCores_of_mem _ _ (nodup_clusterCores ..) hc]
    exact ⟨creads_padCopy _ _ _ _ hlen, fun a ha => cget_padCopy_other _ _ _ _ hlen ha, receives_tiles ..⟩

end Sys2Proof.Claims

/-! SUPPORT and PROOF. Matrix commands at issue (O29): a state whose core or desk is written as it stood, the queue, and MOUT past reports
and stopped commands (R159, R163 to R167, R178). -/

namespace Sys2Proof.Machine
open Sys2Proof.Claims (mxRule MxRule wd boundBy)

/-! ### The core and the desk that move -/

@[simp] theorem State.setCD_setD (s : State) (d e : Desk) (c : Core) : (s.setD d).setCD c e = s.setCD c e := by
  simp only [State.setCD, State.setD, State.setC, State.setDeskAt, State.setCoreAt, tset_tset_same]
@[simp] theorem State.setCD_setC (s : State) (x c : Core) (d : Desk) : (s.setC x).setCD c d = s.setCD c d := by
  simp only [State.setCD, State.setC, State.setCoreAt, tset_tset_same]
@[simp] theorem Core.put_at (c : Core) (i : DeskId) : c.put i (c.at i) = c := by simp [Core.put, Core.at]
theorem State.coreAt_setC_self (s : State) (k : CoreId) : (s.setC s.c).coreAt k = s.coreAt k := by
  by_cases h : k = s.core
  · subst h; exact State.coreAt_setCoreAt ..
  · exact State.coreAt_setCoreAt_other _ _ _ _ h
theorem State.coreAt_setD_self (s : State) (k : CoreId) : (s.setD s.d).coreAt k = s.coreAt k := by
  by_cases h : k = s.core
  · subst h; exact (State.coreAt_setCoreAt ..).trans (Core.put_at ..)
  · exact State.coreAt_setD_other _ _ _ h

/-- `t` is `s`, but for a core or a desk written as it stood: it reads as `s` does, and what is written to both leaves one state. -/
structure State.Stands (s t : State) : Prop where
  coreAt (k : CoreId) : t.coreAt k = s.coreAt k
  core : t.core = s.core
  desk : t.desk = s.desk
  setCD (c : Core) (d : Desk) : t.setCD c d = s.setCD c d

namespace State.Stands
variable {s t u : State}

theorem refl (s : State) : Stands s s := ⟨fun _ => rfl, rfl, rfl, fun _ _ => rfl⟩
theorem trans (h : Stands s t) (k : Stands t u) : Stands s u :=
  ⟨fun i => (k.coreAt i).trans (h.coreAt i), k.core.trans h.core, k.desk.trans h.desk, fun c d => (k.setCD c d).trans (h.setCD c d)⟩
theorem setC_self (s : State) : Stands s (s.setC s.c) := ⟨s.coreAt_setC_self, rfl, rfl, fun _ _ => State.setCD_setC ..⟩
theorem setD_self (s : State) : Stands s (s.setD s.d) := ⟨s.coreAt_setD_self, rfl, rfl, fun _ _ => State.setCD_setD ..⟩
theorem c (h : Stands s t) : t.c = s.c := by rw [State.c, h.core, h.coreAt]; rfl
theorem d (h : Stands s t) : t.d = s.d := by rw [State.d, State.deskAt, h.core, h.desk, h.coreAt]; rfl
/-- Whether a leader waits for room is read from the cores alone. -/
theorem leaderFull (h : Stands s t) : t.leaderFull = s.leaderFull := by
  simp only [State.leaderFull, State.d, State.deskAt, State.forwardFull, h.coreAt, h.core, h.desk]
  rfl
theorem issues (h : Stands s t) (hs : s.Issues) : t.Issues := ⟨h.d ▸ hs.1, h.leaderFull ▸ hs.2⟩

end State.Stands

/-! ### The queue (R159) -/

/-- The state once a command stands at the end of the queue, the desk that moves being `d`. -/
def State.entered (s : State) (d : Desk) (c : MCmd) : State :=
  s.setCD { s.c with mx := { s.c.mx with queue := s.c.mx.queue ++ [{ c with seq := s.c.mx.next }], next := s.c.mx.next + 1 } } d
theorem mxPush_ok {s : State} (d : Desk) (c : MCmd) (h : s.c.mx.queue.length < 16) : s.mxPush d c = .ok (s.entered d c) :=
  if_neg (Nat.not_le_of_lt h)
theorem mxPush_setD (s : State) (d : Desk) (c : MCmd) : (s.setD d).mxPush d c = s.mxPush d c := by
  have hput (q : Mx) : (s.setD d).setCD { s.c.put s.desk d with mx := q } d = s.setCD { s.c with mx := q } d :=
    (State.setCD_setD ..).trans (congrArg s.setC (Core.put_put { s.c with mx := q } s.desk d d))
  simp only [State.mxPush, State.c_setD, Core.put_mx, hput]

/-- A rule's command as the desk that moves issues it (R107). -/
def issuedCmd (r : MxRule) (s : State) (xs : List Word) : MCmd :=
  { r.cmd xs with bind := boundBy s.d r.k, desk := s.desk, maker := s.d.maker (.matrix s.core) }
/-- What the commands of the queue do at issue: operands, check and entry. -/
def mxIssue (r : MxRule) (s : State) : Except Stop State := do
  let t ← mxTake s.d r.regs
  r.check s.d (s.mxAhead r.n) (r.cmd t.xs)
  s.mxPush t.d (issuedCmd r s t.xs)
theorem mxIssue_ok {r : MxRule} {s : State} {t : Taken} (ht : mxTake s.d r.regs = .ok t)
    (hc : r.check s.d (s.mxAhead r.n) (r.cmd t.xs) = .ok ()) (hq : s.c.mx.queue.length < 16) :
    mxIssue r s = .ok (s.entered t.d (issuedCmd r s t.xs)) := by
  simp only [mxIssue, ht, hc, ok_bind, mxPush_ok _ _ hq]
theorem mxIssue_stands {s u : State} (h : s.Stands u) (r : MxRule) : mxIssue r u = mxIssue r s := by
  simp only [mxIssue, issuedCmd, State.mxAhead, State.mxPush, h.d, h.c, h.desk, h.core, h.setCD]

/-- Every command of the queue is issued so, but for MOUT, whose slot may have reports, and MTHR, which traps for a word that is too wide. -/
theorem exec_of_mxRule {i : Instr} {r : MxRule} (hi : mxRule i = some r) (hout : ∀ k a n, i ≠ .mout k a n) (hthr : ∀ k a n, i ≠ .mthr k a n)
    (s : State) : exec i s = finish (heldBack (mxIssue r)) s := by
  unfold mxRule at hi
  split at hi
  case h_9 => exact absurd rfl (hout _ _ _)
  case h_12 => exact absurd rfl (hthr _ _ _)
  case h_13 => cases hi
  all_goals cases hi; rfl
/-- MTHR of a word below 2^48. -/
theorem mthr_ok {k : Guard} {a : GReg} {n : BitVec 2} {r : MxRule} (hi : mxRule (.mthr k a n) = some r) {s : State} {t : Taken}
    (ht : mxTake s.d r.regs = .ok t) (hq : s.c.mx.queue.length < 16) (hw : (t.x 0).toNat < 2 ^ 48) :
    mthr k a n s = .ok (s.entered t.d (issuedCmd r s t.xs)) := by
  cases hi
  have hz : (t.x 0).extractLsb' 48 16 = 0 := by
    refine BitVec.eq_of_toNat_eq ?_
    rw [BitVec.extractLsb'_toNat, Nat.shiftRight_eq_div_pow, Nat.div_eq_of_lt hw]
    rfl
  simp only [mthr, ht, ok_bind, hz, ne_eq, not_true, if_false]
  exact mxPush_ok _ _ hq

/-! ### MOUT, reports and resumption (R167, R178) -/

theorem mxReport_none {s : State} {n : BitVec 2} (hf : (s.c.mx.slot n).fault = none) (hd : (s.c.mx.slot n).dead = [])
    (hg : (s.c.mx.slot n).flags = 0) : s.mxReport n = none := by
  simp [State.mxReport, Slot.report, hf, hd, hg]
/-- Where no command has stopped, none is resumed. -/
theorem mxResume_stands {s : State} (n : BitVec 2) (h : ∀ c ∈ s.c.mx.queue, c.st ≠ .stopped) : s.Stands (s.mxResume n) := by
  have hst : ∀ c ∈ s.c.mx.queue, (c.st == .stopped) = false := fun c hc => beq_eq_false_iff_ne.mpr (h c hc)
  unfold State.mxResume
  split
  · exact .refl s
  · dsimp only
    rw [List.filter_eq_nil_iff.mpr fun c hc => by simp [hst c hc], List.map_congr_left (g := id) fun c hc => by simp [hst c hc], List.map_id]
    exact (State.Stands.setC_self s).trans (.setD_self _)

/-- The rule of MOUT. -/
def moutRule (k : Guard) (a : GReg) (n : BitVec 2) : MxRule :=
  ⟨k, n, [(a, 2)], fun x => { op := .mout, slot := n, a := wd x 0, la := wd x 1, desk := 0, maker := {}, seq := 0 }, moutCheck⟩
theorem mxRule_mout (k : Guard) (a : GReg) (n : BitVec 2) : mxRule (.mout k a n) = some (moutRule k a n) := rfl
/-- MOUT once no report is pending. -/
def moutEnter (k : Guard) (a : GReg) (n : BitVec 2) (s : State) : Except Stop State :=
  match mout k a n s with
  | .ok (t, c) => t.mxPush t.d c
  | .error e => .error e

section
variable {k : Guard} {a : GReg} {n : BitVec 2} {s v : State}

theorem execMout_free {r : State × MCmd} (hs : s.Issues) (hm : mout k a n s = .ok r) (hr : s.mxReport n = none) :
    execMout k a n s = finish (moutEnter k a n) (s.mxResume n) := by
  obtain ⟨hgen, hfull⟩ := hs
  simp only [execMout, hgen, hfull, hm, hr, Option.isSome_none, Bool.false_eq_true, if_false]
  rfl
/-- Its own checks are those of its rule. -/
theorem moutEnter_ok (hv : mxIssue (moutRule k a n) s = .ok v) : (∃ r, mout k a n s = .ok r) ∧ moutEnter k a n s = .ok v := by
  obtain ⟨t, ht, hv⟩ := (bind_eq_ok ..).mp hv
  obtain ⟨u, hc, hv⟩ := (bind_eq_ok ..).mp hv
  have hm : mout k a n s = .ok (s.setD t.d, issuedCmd (moutRule k a n) s t.xs) :=
    (bind_eq_ok ..).mpr ⟨t, ht, (bind_eq_ok ..).mpr ⟨u, hc, rfl⟩⟩
  refine ⟨⟨_, hm⟩, ?_⟩
  simp only [moutEnter, hm, State.d_setD, mxPush_setD, hv]
/-- MOUT enters its command where nothing is reported and nothing has stopped. -/
theorem execMout_ok (hs : s.Issues) (hv : mxIssue (moutRule k a n) s = .ok v) (hr : s.mxReport n = none)
    (hst : ∀ c ∈ s.c.mx.queue, c.st ≠ .stopped) : execMout k a n s = .next v.retire := by
  obtain ⟨⟨r, hm⟩, -⟩ := moutEnter_ok hv
  have hu := mxResume_stands n hst
  obtain ⟨-, henter⟩ := moutEnter_ok ((mxIssue_stands hu _).trans hv)
  exact (execMout_free hs hm hr).trans (finish_ok (hu.issues hs).2 henter)

end

end Sys2Proof.Machine

namespace Sys2Proof.Claims
open Sys2Proof.Machine

/-- Settles O29: a command whose check passes enters the queue, MTHR's with its word narrow enough, MOUT's with no report and nothing to
resume. -/
theorem matrixIssue : Obligations.MatrixIssue := by
  intro i r hi s t hs ht hc hq hout hthr
  have hissue := mxIssue_ok ht hc hq
  by_cases hm : ∃ k a n, i = .mout k a n
  · obtain ⟨k, a, n, rfl⟩ := hm
    obtain ⟨hf, hd, hg, hst⟩ := hout k a n rfl
    obtain rfl : moutRule k a n = r := Option.some.inj ((mxRule_mout ..).symm.trans hi)
    exact execMout_ok hs hissue (mxReport_none hf hd hg) hst
  by_cases hw : ∃ k a n, i = .mthr k a n
  · obtain ⟨k, a, n, rfl⟩ := hw
    exact finish_heldBack_ok hs (mthr_ok hi ht hq (hthr k a n rfl))
  · rw [exec_of_mxRule hi (fun k a n h => hm ⟨k, a, n, h⟩) (fun k a n h => hw ⟨k, a, n, h⟩)]
    exact finish_heldBack_ok hs hissue

end Sys2Proof.Claims

/-! PROOF. O30 fails: an MWAIT that completes may have raised a fault once more (R178), so that more changes than the statement says. -/

namespace Sys2Proof.Machine

/-- A remote command on slot 1 whose fault has stopped it, and of which desk 0, that minted its capability, has learned (R173). -/
def remoteStopped : MCmd :=
  { op := .mldc, slot := 1, desk := 0, maker := {}, seq := 0, st := .stopped, why := { cause := 0x080, xval := 0x2000 }, told := .desk 0, remote := some 0 }
/-- Desk 0 of core 0 in user mode, that command alone in its core's queue. -/
def faultLearned : State :=
  State.reset.setC { desks := Vector.replicate 4 { user := true }, mx := { queue := [remoteStopped] } }
/-- Who has learned of the faults of the commands in the queue of the core that moves. -/
def toldAfter (o : Host.Outcome State Fault Refusal) : List Told :=
  match o with
  | .next s => s.c.mx.queue.map (·.told)
  | _ => []

theorem faultLearned_issues : faultLearned.Issues := ⟨rfl, rfl⟩
/-- MWAIT names another slot than the stopped command's: its fault is raised to the desk once more (R178). -/
theorem toldAfter_mwait_faultLearned : toldAfter (exec (.mwait 0) faultLearned) = [.again 0 0x080 0x2000] := by decide +kernel
theorem toldAfter_retire_faultLearned : toldAfter (.next (faultLearned.setC faultLearned.c).retire) = [.desk 0] := by decide +kernel

end Sys2Proof.Machine

namespace Sys2Proof.Claims
open Sys2Proof.Machine

/-- Refutes O30: slot 0 has no report and no command, yet MWAIT of slot 0 does not only retire. The desk has learned of a remote command's
fault on slot 1, and MWAIT raises it to the desk once more, which the state that the statement gives leaves out. -/
theorem not_matrixControl : ¬ Obligations.MatrixControl := by
  unfold Obligations.MatrixControl
  rintro ⟨-, hwait, -⟩
  have hfree : ∀ c ∈ faultLearned.c.mx.queue, c.on 0 = false := by decide +kernel
  have hmwait := hwait 0 faultLearned faultLearned_issues (by decide +kernel) (by decide +kernel) (by decide +kernel) hfree
  have htold := congrArg toldAfter hmwait
  rw [toldAfter_mwait_faultLearned, toldAfter_retire_faultLearned] at htold
  exact absurd htold (by decide)

end Sys2Proof.Claims

/-! SUPPORT and PROOF. The matrix unit at work (O31): how a command of a slot's head starts, commits, completes and stops, remote commands,
and the integer sum of a cell (R159, R165, R169, R173, R176, R177). -/

namespace Sys2Proof.Machine

/-! ### The head of a slot's queue -/

section
variable {s : State} {c : CoreId} {n : BitVec 2} {i : Nat} {x : MCmd} {s0 : State} (h0 : { s with core := c } = s0)
  (hf : s0.c.mx.first n = some (i, x)) (hm : s0.c.mx.mayStart i x = true) (ho : s0.mxInOrder s0.c.mx i x = true)
include h0 hf hm ho

/-- One bound false is discarded. -/
theorem execMatrixCommandStart_no (hb : x.bind = .no) : execMatrixCommandStart c n s = .next (s0.mxPop n) := by
  subst h0
  exact event_some (by simp [hf, hm, ho, hb])

variable (hb : x.bind = .yes)
include hb

theorem execMatrixCommandStart_other (hx : x.isMm = false) (hop : x.op ≠ .mout) : execMatrixCommandStart c n s =
    .next (s0.setMx (s0.c.mx.upd n (fun y => some { y with st := .running, begun := true, onto := false }))) := by
  subst h0
  exact event_some (by simp [hf, hm, ho, hb, hx])
theorem execMatrixCommandStart_product (hx : x.isMm = true) (hbeg : x.begun = false) (ha : x.acc = false) : execMatrixCommandStart c n s =
    .next (s0.setMx (s0.c.mx.upd n (fun y => some {
      y with st := .running, begun := true, onto := false, whole := (s0.c.mx.slot n).mask.full && (s0.c.mx.slot n).prog == 0 }))) := by
  subst h0
  exact event_some (by simp [hf, hm, ho, hb, hx, hbeg, ha])
/-- One that accumulates onto elements of another kind is recorded (R165). -/
theorem execMatrixCommandStart_kind (hx : x.isMm = true) (hbeg : x.begun = false) (ha : x.acc = true) (hk : (s0.c.mx.slot n).kind.isSome = true)
    (hne : (s0.c.mx.slot n).kind ≠ some (fmtFam (layOf x.la).fmt)) : execMatrixCommandStart c n s = .next (s0.mxRecord x 0x082 (n.setWidth 64)) := by
  subst h0
  exact event_some (by simp [hf, hm, ho, hb, hx, hbeg, ha, hk, hne])
/-- MOUT of a slot with its layout's shape: to an SX layout the mask has to be full (log 132). -/
theorem execMatrixCommandStart_mout (hop : x.op = .mout) (hk : (s0.c.mx.slot n).kind ≠ none) (hr : (layOf x.la).vr = (s0.c.mx.slot n).m)
    (hc : (layOf x.la).vc = (s0.c.mx.slot n).n) : execMatrixCommandStart c n s = .next (
      if (layOf x.la).sx = true ∧ (s0.c.mx.slot n).mask.full = false then s0.mxRecord x 0x086 x.la
      else s0.setMx (s0.c.mx.upd n (fun y => some { y with st := .running, begun := true, onto := false }))) := by
  subst h0
  have hx : x.isMm = false := by rw [MCmd.isMm, hop]
  refine event_some ?_
  simp only [hf, hm, ho, hb, hx, hop, hk, hr, hc, Bool.not_true, Bool.or_self, Bool.false_eq_true, if_false, reduceCtorEq, ne_eq, not_true, or_self,
    Bool.and_eq_true, Bool.not_eq_true']
  split <;> rfl

end

/-! ### Commands that run -/

@[simp] theorem State.c_setMx (s : State) (q : Mx) : (s.setMx q).c = { s.c with mx := q } := State.c_setC ..
@[simp] theorem Mx.slot_setSlot (q : Mx) (n : BitVec 2) (sl : Slot) : (q.setSlot n sl).slot n = sl := by simp [Mx.slot, Mx.setSlot]
/-- The queue's changes leave the slots. -/
@[simp] theorem Mx.slot_upd (q : Mx) (n k : BitVec 2) (f : MCmd → Option MCmd) : (q.upd n f).slot k = q.slot k := by
  unfold Mx.upd
  split <;> rfl

section
variable {s : State} {c : CoreId} {n : BitVec 2} {x : MCmd} {s0 : State} (h0 : { s with core := c } = s0) (hr : s0.mxRunning n = some x)
include h0 hr

/-- A command that is no product completes with its work (R169). -/
theorem execMatrixCommandComplete_ok {t : State} (hx : x.isMm = false) (ha : s0.mxAct x = (t, none)) :
    execMatrixCommandComplete c n s = .next (t.mxDone n) := by
  subst h0
  exact event_some (by simp [hr, hx, ha])
/-- The next block of a product commits; the last ends it (R176). -/
theorem execMmaBlockCommit_ok {y : State} {r : BlockRes} (hx : x.isMm = true) (hb : 16 * (s0.c.mx.slot n).block < x.dims.1)
    (hy : s0.mmBlock x = .ok (y, r)) :
    let sl := (y.c.mx.slot n).commit r x.dims.1
    let x' := { x with bad := x.bad || r.bad }
    execMmaBlockCommit c n s = .next (if sl.prog = 0 then (y.setMx (y.c.mx.setSlot n (sl.finish x'))).mxDone n
      else y.setMx ((y.c.mx.setSlot n sl).upd n (fun _ => some x'))) := by
  subst h0
  refine event_some ?_
  simp only [hr, hx, hy, if_neg (Nat.not_le_of_lt hb), Bool.not_true, Bool.false_eq_true, if_false]
  split <;> rfl
/-- A product that cannot read its operands stops with its fault (R177). -/
theorem execMatrixOperandFault_trap {cause : Cause} {v : Word} {acc : BitVec 2} {tf : Option (BitVec 9)} (hx : x.isMm = true)
    (he : s0.mmBlock x = .error (.trap cause v acc tf)) : execMatrixOperandFault c n s = .next (s0.mxRecord x cause v tf acc) := by
  subst h0
  exact event_some (by simp [hr, hx, he])
/-- One that reads a line whose MAC fails poisons the line (R401). -/
theorem execMatrixOperandFault_mac {l : Nat} {v : Word} {acc : BitVec 2} (hx : x.isMm = true) (he : s0.mmBlock x = .error (.mac l v acc)) :
    execMatrixOperandFault c n s = .next ({ s0 with mem := s0.mem.spoil l }.mxRecord x 0x1E0 v none 0) := by
  subst h0
  exact event_some (by simp [hr, hx, he])

end

/-! ### What a block and a completion leave of the slot (R165, R176) -/

@[simp] theorem Slot.count_kind (sl : Slot) (k m : Nat) : (sl.count k m).kind = sl.kind := by
  unfold Slot.count
  split <;> rfl
@[simp] theorem Slot.commit_kind (sl : Slot) (r : BlockRes) (m : Nat) : (sl.commit r m).kind = sl.kind := by simp [Slot.commit]

/-- MZERO leaves a slot of the kind and shape of its word, without an element (R167). -/
def Slot.zeroed (sl : Slot) (w : Word) : Slot :=
  { sl with kind := (shapeOf w).1, m := (shapeOf w).2.1, n := (shapeOf w).2.2, cells := [], bad := false }
theorem mxAct_mzero {s : State} {x : MCmd} (h : x.op = .mzero) :
    s.mxAct x = (s.setMx (s.c.mx.setSlot x.slot ((s.c.mx.slot x.slot).zeroed x.a)), none) := by
  simp only [State.mxAct, h]
  rfl
@[simp] theorem mxDone_slot (s : State) (n k : BitVec 2) : (s.mxDone n).c.mx.slot k = s.c.mx.slot k := by simp [State.mxDone]

/-- MZERO completes, its slot zeroed and memory as it was. -/
theorem execMatrixCommandComplete_mzero {s : State} {c : CoreId} {n : BitVec 2} {x : MCmd} {s0 : State} (h0 : { s with core := c } = s0)
    (hr : s0.mxRunning n = some x) (hop : x.op = .mzero) (hn : x.slot = n) :
    ∃ t, execMatrixCommandComplete c n s = .next t ∧ t.mem = s.mem ∧ (t.coreAt c).mx.slot n = (s0.c.mx.slot n).zeroed x.a := by
  subst hn
  have hx : x.isMm = false := by rw [MCmd.isMm, hop]
  refine ⟨_, execMatrixCommandComplete_ok h0 hr hx (mxAct_mzero hop), by subst h0; rfl, ?_⟩
  have hslot (u : State) (sl : Slot) : ((u.setMx (u.c.mx.setSlot x.slot sl)).mxDone x.slot).c.mx.slot x.slot = sl := by simp
  subst h0
  exact hslot ..

/-! ### Remote commands (R172, R173) -/

section
variable {s : State} {c : CoreId} {i : DeskId} {x : MCmd} {rest : List MCmd} {bs : List Byte} {tok : Word} {s0 : State}
  (h0 : { s with core := c, desk := i } = s0) (hq : s0.c.mx.queue = x :: rest) (hop : x.op = .msend bs tok) (hd : x.desk = i)
include h0 hq hop hd

theorem execRemoteCommandAccept_no (hb : x.bind = .no) : let u := s0.setMx { s0.c.mx with queue := rest }
    execRemoteCommandAccept c i s = .next (u.counterAdd (u.whoOf x.maker x.held) (recWord bs 48) 1) := by
  subst h0
  exact event_some (by simp only [hq, hop, hb, if_pos hd]; rfl)
theorem execRemoteCommandAccept_yes {y : State} (hb : x.bind = .yes) (hdone : s0.storesDone c i = true)
    (hy : (s0.setMx { s0.c.mx with queue := rest }).deliver x.maker.launch bs tok = .ok (some y)) : execRemoteCommandAccept c i s = .next y := by
  subst h0
  exact event_some (by simp [hq, hop, hb, hd, hdone, hy])

end

/-- A remote command that has finished adds 1 at its counter. -/
theorem execRemoteCommandComplete_done {s : State} {c : CoreId} {n : BitVec 2} {i : Nat} {x : MCmd} {a : Word} {s0 : State}
    (h0 : { s with core := c } = s0) (hf : s0.c.mx.first n = some (i, x)) (hst : x.st = .done) (ha : x.remote = some a) :
    execRemoteCommandComplete c n s = .next ((s0.mxPop n).counterAdd (s0.whoOf x.maker x.held) a 1) := by
  subst h0
  exact event_some (by simp [hf, hst, ha])

/-! ### Integer cells (R69, R165) -/

theorem flatten_chunks {α : Type} {p : Nat} (hp : 0 < p) (k : Nat) (xs : List α) (h : xs.length < k) : (chunks p k xs).flatten = xs := by
  induction k generalizing xs with
  | zero => exact absurd h (Nat.not_lt_zero _)
  | succ k ih =>
    cases xs with
    | nil => rfl
    | cons x xs =>
      rw [chunks, List.flatten_cons, ih _ (by simp only [List.length_drop, List.length_cons] at h ⊢; omega), List.take_append_drop]
      exact List.cons_ne_nil _ _
/-- Wrapping to INT32 keeps the pattern. -/
theorem ofInt_fit32 (x : Int) : BitVec.ofInt 32 (fit32 false x).1 = BitVec.ofInt 32 x := by
  unfold fit32
  split
  · rfl
  · rw [if_neg Bool.false_ne_true, wrapW_eq_ofInt, slane_eq_signed (by decide) (BitVec.isLt _)]
    exact BitVec.eq_of_toNat_eq (ofInt_signed (BitVec.isLt _))
/-- One panel of an integer cell without saturation: its sum wraps, and so does what is accumulated. -/
def intPanel (c : Int × Nat) (q : List (El × El)) : Int × Nat :=
  let t := fit32 false ((q.map (fun x => x.1.iv * x.2.iv)).foldl (· + ·) 0)
  let u := fit32 false (c.1 + t.1)
  (u.1, c.2 + t.2 + u.2)
theorem ofInt_intPanel (c : Int × Nat) (q : List (El × El)) :
    BitVec.ofInt 32 (intPanel c q).1 = BitVec.ofInt 32 (c.1 + (q.map (fun x => x.1.iv * x.2.iv)).sum) := by
  simp only [intPanel, ofInt_fit32, BitVec.ofInt_add, List.sum_eq_foldl]
/-- Panels that wrap one after another leave the pattern of the exact sum. -/
theorem ofInt_foldl_intPanel (ps : List (List (El × El))) (c : Int × Nat) :
    BitVec.ofInt 32 (ps.foldl intPanel c).1 = BitVec.ofInt 32 (c.1 + (ps.flatten.map (fun x => x.1.iv * x.2.iv)).sum) := by
  induction ps generalizing c with
  | nil => simp
  | cons q ps ih =>
    rw [List.foldl_cons, ih, BitVec.ofInt_add, ofInt_intPanel, ← BitVec.ofInt_add, List.flatten_cons, List.map_append, List.sum_append, Int.add_assoc]
theorem cellOf_int {p : Nat} (hp : 0 < p) (xs : List (El × El)) (c : BitVec 32) :
    (cellOf 0 .i p false xs c).v = BitVec.ofInt 32 (c.toInt + (xs.map (fun x => x.1.iv * x.2.iv)).sum) := by
  have h := ofInt_foldl_intPanel (chunks p (xs.length + 1) xs) (c.toInt, 0)
  rwa [flatten_chunks hp _ _ (Nat.lt_succ_self _)] at h

end Sys2Proof.Machine

namespace Sys2Proof.Claims
open Sys2Proof.Machine

/-- Settles O31: each event is what the head of its slot's queue makes it, a block that commits keeps the slot's kind until the last, and an
integer cell is its exact sum, wrapped. -/
theorem matrixWork : Obligations.MatrixWork := by
  refine ⟨fun c n s i x hf hm ho => ⟨execMatrixCommandStart_no rfl hf hm ho, execMatrixCommandStart_other rfl hf hm ho,
      execMatrixCommandStart_product rfl hf hm ho, execMatrixCommandStart_kind rfl hf hm ho⟩,
    fun c n s x w hr hop hn _ hw => ?zero, fun c n s x y r hr hx hn hb hy => ?commit,
    fun c n s x cause v acc tf hr hx he => execMatrixOperandFault_trap rfl hr hx he,
    fun c n s x l v acc hr hx he => execMatrixOperandFault_mac rfl hr hx he,
    fun c n s i x hf hm ho hb hop hk hvr hvc => execMatrixCommandStart_mout rfl hf hm ho hb hop hk hvr hvc,
    fun c i s x rest bs tok hq hop hd hb => execRemoteCommandAccept_no rfl hq hop hd hb,
    fun c i s x rest bs tok y hq hop hd hb hdone hy => execRemoteCommandAccept_yes rfl hq hop hd hb hdone hy,
    fun c n s i x a hf hst ha => execRemoteCommandComplete_done rfl hf hst ha,
    fun p xs c hp => cellOf_int hp xs c⟩
  case zero =>
    subst hw
    obtain ⟨t, ht, hmem, hslot⟩ := execMatrixCommandComplete_mzero rfl hr hop hn
    exact ⟨t, ht, hmem, by rw [hslot]; exact ⟨rfl, rfl, rfl, fun i j => rfl, rfl⟩⟩
  case commit =>
    exact ⟨execMmaBlockCommit_ok rfl hr hx hb hy, Slot.commit_kind .., rfl, rfl, rfl⟩

end Sys2Proof.Claims
